-- ==== Sys2Proof/Word.lean ====
section
/-! DEFINITION. The word types of the Cervahar (R3, R41, R68): bytes, 32-bit payloads and
64-bit registers. Bits are numbered from 0, the least significant. -/

namespace Sys2Proof

/-- One byte. -/
abbrev Byte := BitVec 8

/-- A 32-bit value: a fabric payload, an FP32 code, an immediate field X. -/
abbrev W32 := BitVec 32

/-- A 64-bit value: a scalar register, a control register, an instruction word. -/
abbrev Word := BitVec 64

end Sys2Proof
end

