-- ==== Sys2Proof/Syntax.lean ====
section
/-! DEFINITION. The syntax of the machine: one constructor of `Instr` per row of
spec/opcode_table.json. The first 145 rows are sequencer instructions (03 R68 to R82, Table 3.6);
`unassignedOpcode` and the rows after it are the steps that other agents of the device take
(95_what_each_step_holds). Register numbers and codes are held as names, never as raw fields. -/

namespace Sys2Proof

/-- Guard of an instruction (R69): it executes when `p[p] XOR neg` is one. -/
structure Guard where
  neg : Bool
  p   : Fin 8
deriving DecidableEq, Repr

/-- A scalar register field (R71). -/
abbrev Reg := Fin 64

/-- A source field A or B with its empty-read policy EA or EB (R45, R70): `trap` is the bit. -/
structure Src where
  r    : Reg
  trap : Bool
deriving DecidableEq, Repr

/-- Width of an integer instruction (R135): TY 0 `.D`, TY 1 `.W`. -/
inductive Width | d | w
deriving DecidableEq, Repr

/-- Type of a floating-point instruction (R140): TY 0 `.D` FP64, TY 1 `.S` FP32. -/
inductive FWidth | d | s
deriving DecidableEq, Repr

/-- Rounding codes of R76. -/
inductive Rm | rne | rtz | rup | rdn | rna | dith
deriving DecidableEq, Repr

/-- Sub-operation of FSGN (R143). -/
inductive SgnOp | j | jn | jx
deriving DecidableEq, Repr

/-- Type codes of Table 3.3. -/
inductive NumTy | fp64 | fp32 | bf16 | fp16 | int8 | uint8 | int16 | int32 | int64
deriving DecidableEq, Repr

/-- Conditions of CMP and CMPI (Table 3.5). -/
inductive ICond | eq | ne | lt | ge | ltu | geu
deriving DecidableEq, Repr

/-- Conditions of FCMP (Table 3.5). -/
inductive FCond | eq | lt | le | un
deriving DecidableEq, Repr

/-- SZ codes of a load (Table 3.4). -/
inductive LdSize | b | bz | h | hz | w | wz | d
deriving DecidableEq, Repr

/-- SZ codes of a store (Table 3.4). -/
inductive StSize | b | h | w | d
deriving DecidableEq, Repr

/-- SZ codes of AMO and CAS (R80). -/
inductive AtSize | w | d
deriving DecidableEq, Repr

/-- Scope codes of R75, narrowest first. -/
inductive Scope | core | rect | lease | tenant | part | dev | sys
deriving DecidableEq, Repr

/-- OR codes of R75. -/
inductive Order | rlx | acq | rel | ar
deriving DecidableEq, Repr

/-- CP codes of R75. -/
inductive Policy | keep | stream | bypass
deriving DecidableEq, Repr

/-- AMO operations of R80. -/
inductive AmoOp | add | and | or | xor | min | max | minu | maxu | swap | fadd
deriving DecidableEq, Repr

/-- Element size of FEED and SINK (R301). -/
inductive EltSize | b | h | w
deriving DecidableEq, Repr

/-- Element size of CPY and CPYMX (R313). -/
inductive CpySize | b | h | w | d | e32 | e128
deriving DecidableEq, Repr

/-- Token kinds that TOK may write (R301). -/
inductive TokKind | eor | eok | eos | bound | steer | hdr | stat | seqn
deriving DecidableEq, Repr

/-- Fields of a pattern register that QSET writes (R311). -/
inductive QField | base | c0 | c1 | c2 | c3 | d0 | d1 | d2 | d3
deriving DecidableEq, Repr

/-- Operand source of a matrix product (R214): a bus or direct fetch. -/
inductive MxSrc | bus | direct (q : Fin 16)
deriving DecidableEq, Repr

/-- Source of an index stream (R247). -/
inductive IdxSrc | idx | direct (q : Fin 16)
deriving DecidableEq, Repr

/-- Destination of RKNET (R246). -/
inductive RankDst | drain | direct (q : Fin 16)
deriving DecidableEq, Repr

/-- Float format of MXLDT and MXST (R214). -/
inductive TileFmt | s | bf | hf
deriving DecidableEq, Repr

/-- Drain route of a tile (R213). -/
inductive Route | x | y | xy
deriving DecidableEq, Repr

/-- Block length code (R113): 8, 16, 32 or 64 elements. -/
inductive Blk | l8 | l16 | l32 | l64
deriving DecidableEq, Repr

/-! ## Operands of the steps that are not sequencer instructions -/

/-- A logical core of a rectangle: rectangle number and index `16·y′ + x′`. -/
structure CoreRef where
  rect : Nat
  core : Nat
deriving DecidableEq, Repr

/-- A task slot of a logical core. -/
structure TaskRef where
  rect : Nat
  core : Nat
  slot : Nat
deriving DecidableEq, Repr

def TaskRef.coreRef (t : TaskRef) : CoreRef := ⟨t.rect, t.core⟩

/-- An element site of a logical core; `site = 16·row + col` (R18, Table 22.3). -/
structure SiteRef where
  rect : Nat
  core : Nat
  site : Nat
deriving DecidableEq, Repr

def SiteRef.coreRef (e : SiteRef) : CoreRef := ⟨e.rect, e.core⟩

/-- The shared classes of Table 14.3. -/
inductive SharedClass | copy (die : Nat) | gemv (stack : Nat) | hbm (channel : Nat)
deriving DecidableEq, Repr

/-- Who issues a Gelesque command (Table 18.1). -/
inductive Issuer | owner | supervisor (part : Nat) | tenant (tag : Nat)
deriving DecidableEq, Repr

/-- Where a Gelesque command comes from: a submitted call (R449), or a block that the platform
owner, a partition supervisor or a peer hands to Gelesque of die `die` directly, with the seven
arguments of R427. -/
inductive CmdSrc | call (id : Nat) | direct (die : Nat) (by_ : Issuer) (args : List Word)
deriving DecidableEq, Repr

/-- Outputs of a router: the four edges and the local delivery. -/
inductive HopOut | north | east | south | west | here
deriving DecidableEq, Repr

/-- Units of Table 21.4 as Table 21.5 numbers them. -/
inductive FaultUnit | scratchpad | slice | edram | hbm | queue | link | tile | register
deriving DecidableEq, Repr

/-- What the partition supervisor does with a cause (R444); `resume` gives the registers it set. -/
inductive Decision | resume (regs : List (Nat × Word)) | endRect | pass
deriving DecidableEq, Repr

/-- How a remote write ends (R267, R284). -/
inductive AckOutcome | acked | refused | gaveUp
deriving DecidableEq, Repr

/-- An incoming access of a peer (R538): a read of `len` bytes, a write, or a link atomic
(Table 18.5: add, swap, compare-and-swap). -/
inductive PeerOp
  | read (len : Nat)
  | write (bytes : List (BitVec 8))
  | add (size : Nat) (v : Word)
  | swap (size : Nat) (v : Word)
  | cas (size : Nat) (expect new : Word)
deriving DecidableEq, Repr

/-- A link option that a peer asks for at connection (Table 18.5). -/
inductive LinkKind | ualink | ultraEthernet
deriving DecidableEq, Repr

/-- Options of the two link standards; `other` is any option Table 18.5 does not list. -/
inductive LinkOption
  | lanes200x4 | reads | writes | atomics | port800 | uet | unordered | orderedNotify | spraying | other
deriving DecidableEq, Repr

inductive Instr where
  -- Results II: sequencer arithmetic, predicates and control flow
  | nop (g : Guard)
  | add (g : Guard) (wd : Width) (d : Reg) (a b : Src)
  | sub (g : Guard) (wd : Width) (d : Reg) (a b : Src)
  | addi (g : Guard) (d : Reg) (a : Src) (imm : W32)
  | mul (g : Guard) (wd : Width) (d : Reg) (a b : Src)
  | mulh (g : Guard) (wd : Width) (d : Reg) (a b : Src)
  | mulhu (g : Guard) (wd : Width) (d : Reg) (a b : Src)
  | div (g : Guard) (wd : Width) (d : Reg) (a b : Src)
  | divu (g : Guard) (wd : Width) (d : Reg) (a b : Src)
  | rem (g : Guard) (wd : Width) (d : Reg) (a b : Src)
  | remu (g : Guard) (wd : Width) (d : Reg) (a b : Src)
  | and (g : Guard) (wd : Width) (d : Reg) (a b : Src)
  | or (g : Guard) (wd : Width) (d : Reg) (a b : Src)
  | xor (g : Guard) (wd : Width) (d : Reg) (a b : Src)
  | andn (g : Guard) (wd : Width) (d : Reg) (a b : Src)
  | andi (g : Guard) (d : Reg) (a : Src) (imm : W32)
  | ori (g : Guard) (d : Reg) (a : Src) (imm : W32)
  | xori (g : Guard) (d : Reg) (a : Src) (imm : W32)
  | shl (g : Guard) (wd : Width) (d : Reg) (a b : Src)
  | shr (g : Guard) (wd : Width) (d : Reg) (a b : Src)
  | sra (g : Guard) (wd : Width) (d : Reg) (a b : Src)
  | shli (g : Guard) (d : Reg) (a : Src) (n : Fin 64)
  | shri (g : Guard) (d : Reg) (a : Src) (n : Fin 64)
  | srai (g : Guard) (d : Reg) (a : Src) (n : Fin 64)
  | min (g : Guard) (wd : Width) (d : Reg) (a b : Src)
  | max (g : Guard) (wd : Width) (d : Reg) (a b : Src)
  | minu (g : Guard) (wd : Width) (d : Reg) (a b : Src)
  | maxu (g : Guard) (wd : Width) (d : Reg) (a b : Src)
  | clz (g : Guard) (wd : Width) (d : Reg) (a : Src)
  | ctz (g : Guard) (wd : Width) (d : Reg) (a : Src)
  | popc (g : Guard) (wd : Width) (d : Reg) (a : Src)
  | brev (g : Guard) (d : Reg) (a : Src) (n : Nat)
  | fadd (g : Guard) (ty : FWidth) (rm : Rm) (d : Reg) (a b : Src)
  | fsub (g : Guard) (ty : FWidth) (rm : Rm) (d : Reg) (a b : Src)
  | fmul (g : Guard) (ty : FWidth) (rm : Rm) (d : Reg) (a b : Src)
  | fdiv (g : Guard) (ty : FWidth) (rm : Rm) (d : Reg) (a b : Src)
  | fma (g : Guard) (ty : FWidth) (rm : Rm) (d : Reg) (a b : Src) (c : Reg)
  | fsqrt (g : Guard) (ty : FWidth) (rm : Rm) (d : Reg) (a : Src)
  | fmin (g : Guard) (ty : FWidth) (d : Reg) (a b : Src)
  | fmax (g : Guard) (ty : FWidth) (d : Reg) (a b : Src)
  | fsgn (g : Guard) (op : SgnOp) (ty : FWidth) (d : Reg) (a b : Src)
  | fcvt (g : Guard) (dst src : NumTy) (rm : Rm) (d : Reg) (a : Src)
  | fclass (g : Guard) (ty : FWidth) (d : Reg) (a : Src)
  | fcmp (g : Guard) (c : FCond) (ty : FWidth) (p : Fin 8) (a b : Src)
  | cmp (g : Guard) (c : ICond) (wd : Width) (p : Fin 8) (a b : Src)
  | cmpi (g : Guard) (c : ICond) (p : Fin 8) (a : Src) (imm : W32)
  | plog (g : Guard) (tt : Fin 16) (p pa pb : Fin 8)
  | sel (g : Guard) (d : Reg) (a b : Src) (c : Reg)
  | bfx (g : Guard) (d : Reg) (a : Src) (lsb : Fin 64) (width : Nat)
  | bfi (g : Guard) (d : Reg) (a : Src) (lsb : Fin 64) (width : Nat)
  | ext (g : Guard) (sx : Bool) (d : Reg) (a : Src) (width : Nat)
  | li (g : Guard) (d : Reg) (imm : W32)
  | lih (g : Guard) (d : Reg) (imm : W32)
  | br (g : Guard) (off : W32)
  | call (g : Guard) (d : Reg) (off : W32)
  | jr (g : Guard) (d : Reg) (a : Src) (off : W32)
  | loop (g : Guard) (level : Fin 2) (a : Src) (off : W32)
  | tend (g : Guard)
  | push (g : Guard) (a : Src)
  | pop (g : Guard) (d : Reg)
  -- Order III: memory, stream, copy and timeline instructions
  | ld (g : Guard) (sz : LdSize) (cp : Policy) (d : Reg) (a : Src) (off : BitVec 20)
  | ldx (g : Guard) (sz : LdSize) (cp : Policy) (d : Reg) (a b : Src) (k : Fin 4)
  | ldacq (g : Guard) (sz : LdSize) (sc : Scope) (d : Reg) (a : Src) (off : BitVec 20)
  | st (g : Guard) (sz : StSize) (cp : Policy) (b a : Src) (off : BitVec 20)
  | stx (g : Guard) (sz : StSize) (cp : Policy) (d : Reg) (a b : Src) (k : Fin 4)
  | strel (g : Guard) (sz : StSize) (sc : Scope) (b a : Src) (off : BitVec 20)
  | fence (g : Guard) (o : Order) (sc : Scope)
  | amo (g : Guard) (op : AmoOp) (sz : AtSize) (o : Order) (sc : Scope) (d : Reg) (b a : Src) (off : BitVec 16)
  | cas (g : Guard) (sz : AtSize) (o : Order) (sc : Scope) (d : Reg) (b a : Src) (off : BitVec 20)
  | pref (g : Guard) (cp : Policy) (a : Src) (off : BitVec 20)
  | cwb (g : Guard) (sc : Scope) (a b : Src)
  | cinv (g : Guard) (sc : Scope) (a b : Src)
  | cwbi (g : Guard) (sc : Scope) (a b : Src)
  | feed (g : Guard) (f q : Fin 16) (b : Src) (tag : Fin 16) (pkt eok eor eos sx : Bool) (esz : EltSize)
  | sink (g : Guard) (k q : Fin 16) (b : Src) (pkt : Bool) (esz : EltSize)
  | inj (g : Guard) (f : Fin 16) (b : Src) (tag : Fin 16)
  | tok (g : Guard) (kind : TokKind) (f : Fin 16) (b : Src) (tag : Fin 16)
  | take (g : Guard) (d : Reg) (k : Fin 16)
  | portq (g : Guard) (d : Reg) (port : Fin 16) (sink : Bool)
  | sbar (g : Guard) (b : Src)
  | accrst (g : Guard) (ac : Fin 8) (b : Src)
  | cfgld (g : Guard) (q : Fin 16) (b : Src)
  | qset (g : Guard) (f : QField) (q : Fin 16) (a : Src)
  | qld (g : Guard) (q : Fin 16) (a : Src)
  | qadv (g : Guard) (q : Fin 16) (a : Src)
  | cpy (g : Guard) (esz : CpySize) (d : Reg) (qa qb : Fin 16) (tl : Fin 8)
  | cpymx (g : Guard) (esz : CpySize) (d : Reg) (qa qb : Fin 16) (tl : Fin 8)
  | cpyq (g : Guard) (bf : Bool) (rm : Rm) (blk : Blk) (fd : BitVec 16) (d : Reg) (qa qb : Fin 16) (tl : Fin 8)
  | gemv (g : Guard) (acc : Bool) (fd : BitVec 16) (d : Reg) (qa qb : Fin 16) (tl : Fin 8) (qm : Fin 16)
  | tlwait (g : Guard) (sc : Option Scope) (tl : Fin 8) (a : Src)
  | tlread (g : Guard) (d : Reg) (tl : Fin 8)
  | tlnum (g : Guard) (d : Reg) (tl : Fin 8)
  | sleept (g : Guard) (a : Src)
  | sleeptP (g : Guard) (a : Src) (tl : Fin 8) (b : Src)
  | time (g : Guard) (d : Reg)
  | cyc (g : Guard) (d : Reg)
  -- Results IV: the matrix engine
  | mxcfg (g : Guard) (keep : Bool) (t : Fin 4) (a : Src) (slot : Fin 4)
  | mxrel (g : Guard) (t : Fin 4)
  | mxz (g : Guard) (t : Fin 4) (tl : Fin 8)
  | mxldt (g : Guard) (fmt : TileFmt) (t : Fin 4) (q : Fin 16) (tl : Fin 8)
  | mxmm (g : Guard) (acc : Bool) (t : Fin 4) (srcA srcB : MxSrc) (k : BitVec 16) (tl : Fin 8)
  | mxmms (g : Guard) (acc : Bool) (t : Fin 4) (srcA srcB : MxSrc) (k : BitVec 16) (tl : Fin 8)
  | mxfmt (g : Guard) (slot : Fin 4) (fd : BitVec 16) (rm : Rm) (ph step : Fin 16)
  | mxrt (g : Guard) (route : Route) (t : Fin 4)
  | mxdrn (g : Guard) (ws : Bool) (t : Fin 4) (tl : Fin 8)
  | mxchk (g : Guard) (t : Fin 4) (tl : Fin 8)
  | mxst (g : Guard) (fmt : TileFmt) (t : Fin 4) (q : Fin 16) (tl : Fin 8)
  -- Results V: butterfly mode and rank-coded mode
  | twset (g : Guard) (inv : Bool) (slot : Fin 4)
  | twsetGen (g : Guard) (inv : Bool) (t : Fin 4) (n : Nat) (tl : Fin 8)
  | bfplan (g : Guard) (slot : Fin 4) (a b : Src)
  | bfrev (g : Guard) (bf re : Bool) (t : Fin 4) (q : Fin 16) (tl : Fin 8)
  | bfstg (g : Guard) (t : Fin 4) (k : Nat) (tl : Fin 8)
  | bfrun (g : Guard) (t : Fin 4) (tl : Fin 8)
  | rktab (g : Guard) (recon : Bool) (slot : Fin 4) (q : Fin 16) (tl : Fin 8)
  | rkcut (g : Guard) (slot : Fin 4) (a : Src)
  | rknet (g : Guard) (ws : Bool) (t : Fin 4) (d : Reg) (dst : RankDst) (row0 nvm1 : Fin 128) (tl : Fin 8)
  | mxrank (g : Guard) (acc : Bool) (t : Fin 4) (src : IdxSrc) (q : Fin 16) (row0 nvm1 : Fin 128) (tl : Fin 8)
  | rkval (g : Guard) (t : Fin 4) (src : IdxSrc) (row0 nvm1 : Fin 128) (tl : Fin 8)
  | rktrc (g : Guard) (t : Fin 4) (d : Reg) (q : Fin 16) (row0 nvm1 : Fin 128) (tl : Fin 8)
  -- Progress II: task, barrier and launch instructions
  | tspawn (g : Guard) (d : Reg) (a : Src) (entry : BitVec 12)
  | tbind (g : Guard) (vc : Fin 16)
  | waitv (g : Guard) (d : Reg) (vc : Fin 16)
  | sendv (g : Guard) (a b : Src) (vc : Fin 16)
  | tyield (g : Guard)
  | twake (g : Guard) (mask : BitVec 8)
  | tprio (g : Guard) (prio : Fin 4)
  | rbar (g : Guard) (id : Fin 16)
  | gbar (g : Guard) (a b : Src)
  | launch (g : Guard) (d : Reg) (a : Src)
  | lqry (g : Guard) (d : Reg) (sel : Fin 8)
  | stageq (g : Guard) (d : Reg) (sel : Fin 7)
  -- Isolation III: control registers, supervisor calls, counters, capabilities
  | ctlr (g : Guard) (d : Reg) (idx : BitVec 12)
  | ctlw (g : Guard) (idx : BitVec 12) (a : Src)
  | ctls (g : Guard) (idx : BitVec 12) (a : Src)
  | ctlc (g : Guard) (idx : BitVec 12) (a : Src)
  | svc (g : Guard) (code : Fin 2)
  | cntr (g : Guard) (d : Reg) (n : Fin 8)
  | capr (g : Guard) (d : Reg) (a : Src)
  -- Recovery III: trap, return, snapshot and context instructions
  | trap (g : Guard) (code : BitVec 8)
  | rett (g : Guard)
  | snap (g : Guard) (mask : BitVec 16)
  | xsave (g : Guard) (a : Src) (slot : Fin 8)
  | xload (g : Guard) (a : Src) (slot : Fin 8)
  | halt (g : Guard)
  | ebrk (g : Guard) (code : BitVec 16)
  | cutreq (g : Guard)
  /-- R79: a word whose opcode is unassigned. -/
  | unassignedOpcode (word : Word)
  -- Deliveries and micro-traps
  | delegatedEntry (rect : Nat)
  | producerDeliver (t : TaskRef) (reg : Nat)
  | registerMissMicroTrap (t : TaskRef) (reg : Nat)
  | backgroundRegisterFetch (c : CoreRef)
  -- Elements of the fabric
  | ceIntegerFire (e : SiteRef)
  | ceFloatFire (e : SiteRef)
  | ceCnt (e : SiteRef)
  | ceRunningValue (e : SiteRef)
  | ceDly (e : SiteRef)
  | ceConst (e : SiteRef)
  | ceQnt (e : SiteRef)
  | ceDqnt (e : SiteRef)
  | ceSteer (e : SiteRef)
  | ceMerge (e : SiteRef)
  | ceGate (e : SiteRef)
  | ceDup (e : SiteRef)
  | ceTagchk (e : SiteRef)
  | cePrime (e : SiteRef)
  | ceLimit (e : SiteRef)
  | ceSeq (e : SiteRef)
  | ceReord (e : SiteRef)
  | ceBnd (e : SiteRef)
  | meRd (e : SiteRef)
  | meWr (e : SiteRef)
  | meRmw (e : SiteRef)
  | meFifo (e : SiteRef)
  | meDelay (e : SiteRef)
  | meHist (e : SiteRef)
  | meFeedmx (e : SiteRef)
  | meDoneEmit (e : SiteRef)
  | agEmit (e : SiteRef)
  -- Matrix engine
  | matrixBusBeat (e : SiteRef)
  | matrixCommandStart (c : CoreRef) (id : Nat)
  | matrixBlock (c : CoreRef) (id : Nat)
  | matrixCommandComplete (c : CoreRef) (id : Nat)
  | rankIndexEmit (c : CoreRef) (id : Nat)
  -- Ports, shared classes, network
  | portCommandStart (c : CoreRef) (sink : Bool) (n : Fin 16)
  | feedWordDeliver (c : CoreRef) (n : Fin 16)
  | sinkWordStore (c : CoreRef) (n : Fin 16)
  | sharedClassGrant (cls : SharedClass)
  | engineCommandComplete (id : Nat)
  | vcWordArrive (c : CoreRef) (vc : Fin 16) (pkt : Nat)
  | barrierComplete (c : CoreRef) (id : Fin 16)
  | dynamicPacketHop (router : Nat) (out : HopOut)
  | mcstallExpiry (e : SiteRef) (out : Fin 2)
  -- Translation and memory system
  | pageWalkComplete (id : Nat)
  | gelesqueFaultResolve (id : Nat) (refuse : Bool)
  | invalidationReceive (id : Nat) (die : Fin 4)
  | invalidationAck (id : Nat) (die : Fin 4)
  | migrationMonitorInterval (die : Fin 4)
  | migrationCopyComplete (id : Nat)
  | weightStoreRefresh (die : Fin 4)
  | sliceReplayReissue (id : Nat)
  -- Cuts and soft errors
  | snapintCountReached (c : CoreRef) (n : Fin 16)
  | cutStart (rect : Nat)
  | cutComplete (rect : Nat)
  | softErrorDetect (rect : Nat) (unit : FaultUnit) (core : Nat) (addr len : Nat)
  | rollback (rect : Nat)
  -- Admission and the Churn
  | admissionReceive (id : Nat)
  | launchSubmit (id : Nat)
  | admissionChoice (part : Nat)
  | launchAgeing (part tag proc prio : Nat)
  | tenantReserve (part tag proc prio : Nat)
  | launchPlace (part px py : Nat)
  | rectangleComplete (rect : Nat)
  | quantumEnd (part : Nat)
  | replicaEvaluate (pipe stage : Nat)
  | replicaRetireEnd (rect : Nat)
  | cutDrainMove (rect px py : Nat)
  | quiescenceEmpty (rect : Nat)
  | drainTimeout (rect : Nat)
  | coreCopyComplete (rect : Nat)
  | rebindRelease (rect : Nat)
  | preempt (rect : Nat)
  | preemptTimeout (rect : Nat)
  | contextSaveComplete (rect : Nat)
  | contextRestore (rect px py : Nat)
  | cfgldDrainTimeout (rect : Nat)
  | residueWordEnqueue (rect : Nat)
  -- Supervisor calls and Gelesque commands
  | svcSubmit (id : Nat)
  | svcResult (id : Nat)
  | partSet (c : CmdSrc)
  | tenantCreate (c : CmdSrc)
  | tenantDestroy (c : CmdSrc)
  | leaseSet (c : CmdSrc)
  | memGrant (c : CmdSrc)
  | memRevoke (c : CmdSrc)
  | memSetShare (c : CmdSrc)
  | memDefineShareSet (c : CmdSrc)
  | map (c : CmdSrc)
  | unmap (c : CmdSrc)
  | protect (c : CmdSrc)
  | migrate (c : CmdSrc)
  | queueCreate (c : CmdSrc)
  | queueKey (c : CmdSrc)
  | queueDestroy (c : CmdSrc)
  | sliceDomain (c : CmdSrc)
  | waymaskSet (c : CmdSrc)
  | attest (c : CmdSrc)
  | capRead (c : CmdSrc)
  | wearRead (c : CmdSrc)
  | fwStage (c : CmdSrc)
  | fwCommit (c : CmdSrc)
  | resetPartition (c : CmdSrc)
  -- Work queues and peers
  | notifyWrite (sender : Nat) (offset : Nat) (ordered : Bool) (bytes : List (BitVec 8))
  | queueOldKeyExpiry (queue : Nat)
  | doorbellProcess (die : Fin 4)
  | workQueueEntryRead (queue : Nat)
  | exportAccess (sender : Nat) (offset : Nat) (op : PeerOp)
  -- Boot, supervision and the module in its place
  | dieBoot (die : Fin 4) (imageVersion : Option Word)
  | election
  | timeBroadcastReceive (die : Fin 4)
  | lockstepMismatch (die : Fin 4)
  | heartbeatTimeout (die : Fin 4)
  | doubleFault (die : Fin 4)
  | dieAdoption (die : Fin 4)
  | wearRefresh
  | coreUnsafe (core : Nat) (hours : Nat)
  | pwrcapWrite (v : Word)
  | mresetWrite (v : Word)
  | housekeepingRegisterWrite (addr : Nat) (v : Word)
  | powerWindow (watts : Nat)
  | thermalThrottle (die : Fin 4) (temp : Nat)
  | thermalShutdown (die : Fin 4) (temp : Nat)
  | resetN
  | mainLoss
  | auxGood
  | mainGood
  | accessPerformedAtNode (id : Nat)
  | remoteWriteAcknowledgment (id : Nat) (o : AckOutcome)
  | linkConnectionRequest (device : Nat) (kind : LinkKind) (opts : List LinkOption)
  | partitionSupervisorDecision (rect : Nat) (d : Decision)
  | contextExport (rect : Nat)
  | contextImport (part : Nat) (tag : Nat) (bytes : List (BitVec 8)) (sig : List (BitVec 8))
  | sleepTimeReached (t : TaskRef)
  | thermalThrottleEnd (die : Fin 4) (temp : Nat)
  | auxLoss
  | failedPairTestComplete (die : Fin 4) (pass : Bool)
deriving DecidableEq, Repr

end Sys2Proof
end

