-- ==== Sys2Proof/Machine/Format.lean ====
section
/-! DEFINITION. Codes that several layers share: format descriptors (R110, R111), the listed
control-register indices (Table 2.5), the causes TRAP may name (R512) and the unassigned opcodes
(R79). -/

namespace Sys2Proof.Machine

/-- Bits [hi:lo] of a number, as R7 writes x[hi:lo]. -/
def bitsOf (x hi lo : Nat) : Nat := x / 2 ^ lo % 2 ^ (hi + 1 - lo)

/-- Bit n of a number. -/
def bitOf (x n : Nat) : Bool := x / 2 ^ n % 2 == 1

/-- A narrow format descriptor's fields (Table 4.2). -/
structure Narrow where
  w    : Nat
  e    : Nat
  s    : Bool
  spec : Nat
  bias : Nat
deriving DecidableEq, Repr

/-- The fields of an FD read as a narrow descriptor (R111). -/
def narrowOf (fd : BitVec 16) : Narrow :=
  let x := fd.toNat
  { w := bitsOf x 15 12, e := bitsOf x 11 9, s := bitOf x 8, spec := bitsOf x 7 6, bias := bitsOf x 5 0 }

/-- Stored significand width m = w − s − e, meaningful for a valid descriptor (R111). -/
def Narrow.m (n : Narrow) : Nat := n.w - (if n.s then 1 else 0) - n.e

/-- R111: the cases in which a narrow FD is invalid, negated; R110 limits w to 2 to 8. -/
def Narrow.valid (n : Narrow) : Bool :=
  let sb := if n.s then 1 else 0
  decide (2 ≤ n.w) && decide (n.w ≤ 8) && decide (sb + n.e ≤ n.w)
    && !(sb == 0 && n.e == 0 && n.m == 0)
    && n.spec != 3
    && !(n.spec != 0 && n.e == 0)
    && !(n.spec == 1 && n.e == 0)
    && !(n.spec == 2 && (decide (n.e < 2) || decide (n.m < 1)))

/-- FD names a narrow format: FD[15:12] is 2 to 8 and R111 admits it. -/
def fdNarrow (fd : BitVec 16) : Bool := (narrowOf fd).valid

/-- FD names a standard format: FD[15:12] and FD[11:4] zero, FD[3:0] a code of Table 3.3. -/
def fdStandard (fd : BitVec 16) : Bool := decide (fd.toNat ≤ 8)

/-- R110: the descriptor is valid. -/
def fdValid (fd : BitVec 16) : Bool := fdStandard fd || fdNarrow fd

/-- The indices below 0x800 that Table 2.5 lists (R61). -/
def ctlListed (idx : BitVec 12) : Bool :=
  let i := idx.toNat
  [0x000, 0x001, 0x002, 0x003, 0x008, 0x009, 0x00A, 0x00B, 0x010, 0x011, 0x012, 0x013,
   0x018, 0x019, 0x01A, 0x01B, 0x100, 0x101, 0x102, 0x103, 0x108, 0x110, 0x111, 0x118,
   0x120, 0x128, 0x129, 0x12A].contains i
  || (decide (0x130 ≤ i) && decide (i ≤ 0x137)) || (decide (0x140 ≤ i) && decide (i ≤ 0x147))

/-- R512: a cause code of Table 21.1 other than 0x0B, 0x11 and 0x14. -/
def trapCodeOk (c : BitVec 8) : Bool :=
  let x := c.toNat
  decide (1 ≤ x) && decide (x ≤ 0x16) && x != 0x0B && x != 0x11 && x != 0x14

/-- R79: the opcodes that no instruction has. -/
def opcodeUnassigned (op : Nat) : Bool :=
  (decide (0x2C ≤ op) && decide (op ≤ 0x2F)) || (decide (0x4D ≤ op) && decide (op ≤ 0x5F))
  || (decide (0x6C ≤ op) && decide (op ≤ 0x7F)) || (decide (0x8A ≤ op) && decide (op ≤ 0x9F))
  || (decide (0xAB ≤ op) && decide (op ≤ 0xAF)) || (decide (0xB5 ≤ op) && decide (op ≤ 0xB7))
  || (decide (0xBE ≤ op) && decide (op ≤ 0xBF)) || (decide (0xCC ≤ op) && decide (op ≤ 0xDF))
  || (decide (0xE7 ≤ op) && decide (op ≤ 0xEF)) || decide (0xF8 ≤ op)

/-- Divides out a factor at most `fuel` times. -/
def divideOut (p : Nat) : Nat → Nat → Nat
  | 0, n => n
  | fuel + 1, n => if n != 0 && n % p == 0 then divideOut p fuel (n / p) else n

/-- n has the form 2^a·3^b·5^c (R128, Table 8.6); `n ≤ 8192` bounds the exponents. -/
def smooth5 (n : Nat) : Bool := divideOut 5 14 (divideOut 3 14 (divideOut 2 14 n)) == 1

end Sys2Proof.Machine
end

