-- ==== Sys2Proof/WellFormed.lean ====
section
/-! DEFINITION. Which instructions have an encoding (03 R69 to R81 and the field tables of the
instruction chapters). Operands whose type already bounds them need no check here. -/

namespace Sys2Proof

open Sys2Proof.Machine

/-- R69: GN = 1 with GP = 0 is reserved. -/
def Guard.wf (g : Guard) : Bool := !(g.neg && g.p.val == 0)

/-- R76: DITH is accepted by FCVT only with these destinations. -/
def ditherTarget : NumTy → Bool
  | .bf16 | .fp16 | .int8 | .uint8 | .int16 => true
  | _ => false

/-- R140: RM of an arithmetic instruction takes codes 0 to 4. -/
def Rm.scalar (r : Rm) : Bool := r != .dith

/-- R150: width 1 to 64 and lsb + width at most 64. -/
def fieldOk (lsb : Fin 64) (width : Nat) : Bool :=
  decide (1 ≤ width) && decide (lsb.val + width ≤ 64)

/-- R151: width 1 to 64. -/
def widthOk (width : Nat) : Bool := decide (1 ≤ width) && decide (width ≤ 64)

/-- R445: an index Table 2.5 lists, or one of firmware's. -/
def ctlIndexOk (idx : BitVec 12) : Bool := ctlListed idx || decide (0x800 ≤ idx.toNat)

/-- Well-formedness of an instruction: the checks R73 makes at decode, on the operands. Rows that
are steps of other agents have no encoding and are well formed. -/
def Instr.wf : Instr → Bool
  | .nop g => g.wf
  | .add g .. => g.wf
  | .sub g .. => g.wf
  | .addi g .. => g.wf
  | .mul g .. => g.wf
  | .mulh g .. => g.wf
  | .mulhu g .. => g.wf
  | .div g .. => g.wf
  | .divu g .. => g.wf
  | .rem g .. => g.wf
  | .remu g .. => g.wf
  | .and g .. => g.wf
  | .or g .. => g.wf
  | .xor g .. => g.wf
  | .andn g .. => g.wf
  | .andi g .. => g.wf
  | .ori g .. => g.wf
  | .xori g .. => g.wf
  | .shl g .. => g.wf
  | .shr g .. => g.wf
  | .sra g .. => g.wf
  | .shli g .. => g.wf
  | .shri g .. => g.wf
  | .srai g .. => g.wf
  | .min g .. => g.wf
  | .max g .. => g.wf
  | .minu g .. => g.wf
  | .maxu g .. => g.wf
  | .clz g .. => g.wf
  | .ctz g .. => g.wf
  | .popc g .. => g.wf
  | .brev g _ _ n => g.wf && widthOk n
  | .fadd g _ rm .. => g.wf && rm.scalar
  | .fsub g _ rm .. => g.wf && rm.scalar
  | .fmul g _ rm .. => g.wf && rm.scalar
  | .fdiv g _ rm .. => g.wf && rm.scalar
  | .fma g _ rm .. => g.wf && rm.scalar
  | .fsqrt g _ rm .. => g.wf && rm.scalar
  | .fmin g .. => g.wf
  | .fmax g .. => g.wf
  | .fsgn g .. => g.wf
  | .fcvt g dst _ rm .. => g.wf && (rm != .dith || ditherTarget dst)
  | .fclass g .. => g.wf
  | .fcmp g .. => g.wf
  | .cmp g .. => g.wf
  | .cmpi g .. => g.wf
  | .plog g .. => g.wf
  | .sel g .. => g.wf
  | .bfx g _ _ lsb width => g.wf && fieldOk lsb width
  | .bfi g _ _ lsb width => g.wf && fieldOk lsb width
  | .ext g _ _ _ width => g.wf && widthOk width
  | .li g .. => g.wf
  | .lih g .. => g.wf
  | .br g .. => g.wf
  | .call g .. => g.wf
  | .jr g .. => g.wf
  | .loop g .. => g.wf
  | .tend g => g.wf
  | .push g .. => g.wf
  | .pop g .. => g.wf
  | .ld g .. => g.wf
  | .ldx g .. => g.wf
  | .ldacq g .. => g.wf
  | .st g .. => g.wf
  | .stx g .. => g.wf
  | .strel g .. => g.wf
  | .fence g o _ => g.wf && o != .rlx
  | .amo g .. => g.wf
  | .cas g .. => g.wf
  | .pref g .. => g.wf
  | .cwb g .. => g.wf
  | .cinv g .. => g.wf
  | .cwbi g .. => g.wf
  | .feed g _ _ _ _ pkt _ _ _ _ esz => g.wf && (!pkt || esz == .w)
  | .sink g _ _ _ pkt esz => g.wf && (!pkt || esz == .w)
  | .inj g .. => g.wf
  | .tok g .. => g.wf
  | .take g .. => g.wf
  | .portq g .. => g.wf
  | .sbar g .. => g.wf
  | .accrst g .. => g.wf
  | .cfgld g .. => g.wf
  | .qset g .. => g.wf
  | .qld g .. => g.wf
  | .qadv g .. => g.wf
  | .cpy g .. => g.wf
  | .cpymx g .. => g.wf
  | .cpyq g _ _ _ fd .. => g.wf && fdNarrow fd
  | .gemv g _ fd .. => g.wf && fdValid fd
  | .tlwait g .. => g.wf
  | .tlread g .. => g.wf
  | .tlnum g .. => g.wf
  | .sleept g .. => g.wf
  | .sleeptP g .. => g.wf
  | .time g .. => g.wf
  | .cyc g .. => g.wf
  | .mxcfg g keep _ a _ => g.wf && (!keep || (a.r.val == 0 && !a.trap))
  | .mxrel g .. => g.wf
  | .mxz g .. => g.wf
  | .mxldt g .. => g.wf
  | .mxmm g _ _ _ _ k _ => g.wf && k.toNat != 0
  | .mxmms g .. => g.wf
  | .mxfmt g _ fd rm .. =>
      g.wf && ((decide (1 ≤ fd.toNat) && decide (fd.toNat ≤ 3)) || fdNarrow fd)
        && !(rm == .dith && fd.toNat == 1)
  | .mxrt g .. => g.wf
  | .mxdrn g .. => g.wf
  | .mxchk g .. => g.wf
  | .mxst g .. => g.wf
  | .twset g .. => g.wf
  | .twsetGen g _ _ n _ => g.wf && decide (1 ≤ n) && decide (n ≤ 8192) && smooth5 n
  | .bfplan g .. => g.wf
  | .bfrev g .. => g.wf
  | .bfstg g _ k _ => g.wf && decide (k ≤ 12)
  | .bfrun g .. => g.wf
  | .rktab g .. => g.wf
  | .rkcut g .. => g.wf
  | .rknet g ws _ _ dst .. => g.wf && (!ws || dst == .drain)
  | .mxrank g _ _ _ _ row0 nvm1 _ => g.wf && decide (row0.val + nvm1.val + 1 ≤ 128)
  | .rkval g .. => g.wf
  | .rktrc g .. => g.wf
  | .tspawn g .. => g.wf
  | .tbind g .. => g.wf
  | .waitv g .. => g.wf
  | .sendv g .. => g.wf
  | .tyield g => g.wf
  | .twake g .. => g.wf
  | .tprio g .. => g.wf
  | .rbar g .. => g.wf
  | .gbar g .. => g.wf
  | .launch g .. => g.wf
  | .lqry g .. => g.wf
  | .stageq g .. => g.wf
  | .ctlr g _ idx => g.wf && ctlIndexOk idx
  | .ctlw g idx _ => g.wf && ctlIndexOk idx
  | .ctls g idx _ => g.wf && ctlIndexOk idx
  | .ctlc g idx _ => g.wf && ctlIndexOk idx
  | .svc g .. => g.wf
  | .cntr g .. => g.wf
  | .capr g .. => g.wf
  | .trap g code => g.wf && trapCodeOk code
  | .rett g => g.wf
  | .snap g .. => g.wf
  | .xsave g .. => g.wf
  | .xload g .. => g.wf
  | .halt g => g.wf
  | .ebrk g .. => g.wf
  | .cutreq g => g.wf
  | .unassignedOpcode w => opcodeUnassigned (w.toNat / 2 ^ 56)
  | .delegatedEntry .. => true
  | .producerDeliver .. => true
  | .registerMissMicroTrap .. => true
  | .backgroundRegisterFetch .. => true
  | .ceIntegerFire .. => true
  | .ceFloatFire .. => true
  | .ceCnt .. => true
  | .ceRunningValue .. => true
  | .ceDly .. => true
  | .ceConst .. => true
  | .ceQnt .. => true
  | .ceDqnt .. => true
  | .ceSteer .. => true
  | .ceMerge .. => true
  | .ceGate .. => true
  | .ceDup .. => true
  | .ceTagchk .. => true
  | .cePrime .. => true
  | .ceLimit .. => true
  | .ceSeq .. => true
  | .ceReord .. => true
  | .ceBnd .. => true
  | .meRd .. => true
  | .meWr .. => true
  | .meRmw .. => true
  | .meFifo .. => true
  | .meDelay .. => true
  | .meHist .. => true
  | .meFeedmx .. => true
  | .meDoneEmit .. => true
  | .agEmit .. => true
  | .matrixBusBeat .. => true
  | .matrixCommandStart .. => true
  | .matrixBlock .. => true
  | .matrixCommandComplete .. => true
  | .rankIndexEmit .. => true
  | .portCommandStart .. => true
  | .feedWordDeliver .. => true
  | .sinkWordStore .. => true
  | .sharedClassGrant .. => true
  | .engineCommandComplete .. => true
  | .vcWordArrive .. => true
  | .barrierComplete .. => true
  | .dynamicPacketHop .. => true
  | .mcstallExpiry .. => true
  | .pageWalkComplete .. => true
  | .gelesqueFaultResolve .. => true
  | .invalidationReceive .. => true
  | .invalidationAck .. => true
  | .migrationMonitorInterval .. => true
  | .migrationCopyComplete .. => true
  | .weightStoreRefresh .. => true
  | .sliceReplayReissue .. => true
  | .snapintCountReached .. => true
  | .cutStart .. => true
  | .cutComplete .. => true
  | .softErrorDetect .. => true
  | .rollback .. => true
  | .admissionReceive .. => true
  | .launchSubmit .. => true
  | .admissionChoice .. => true
  | .launchAgeing .. => true
  | .tenantReserve .. => true
  | .launchPlace .. => true
  | .rectangleComplete .. => true
  | .quantumEnd .. => true
  | .replicaEvaluate .. => true
  | .replicaRetireEnd .. => true
  | .cutDrainMove .. => true
  | .quiescenceEmpty .. => true
  | .drainTimeout .. => true
  | .coreCopyComplete .. => true
  | .rebindRelease .. => true
  | .preempt .. => true
  | .preemptTimeout .. => true
  | .contextSaveComplete .. => true
  | .contextRestore .. => true
  | .cfgldDrainTimeout .. => true
  | .residueWordEnqueue .. => true
  | .svcSubmit .. => true
  | .svcResult .. => true
  | .partSet .. => true
  | .tenantCreate .. => true
  | .tenantDestroy .. => true
  | .leaseSet .. => true
  | .memGrant .. => true
  | .memRevoke .. => true
  | .memSetShare .. => true
  | .memDefineShareSet .. => true
  | .map .. => true
  | .unmap .. => true
  | .protect .. => true
  | .migrate .. => true
  | .queueCreate .. => true
  | .queueKey .. => true
  | .queueDestroy .. => true
  | .sliceDomain .. => true
  | .waymaskSet .. => true
  | .attest .. => true
  | .capRead .. => true
  | .wearRead .. => true
  | .fwStage .. => true
  | .fwCommit .. => true
  | .resetPartition .. => true
  | .notifyWrite .. => true
  | .queueOldKeyExpiry .. => true
  | .doorbellProcess .. => true
  | .workQueueEntryRead .. => true
  | .exportAccess .. => true
  | .dieBoot .. => true
  | .election => true
  | .timeBroadcastReceive .. => true
  | .lockstepMismatch .. => true
  | .heartbeatTimeout .. => true
  | .doubleFault .. => true
  | .dieAdoption .. => true
  | .wearRefresh => true
  | .coreUnsafe .. => true
  | .pwrcapWrite .. => true
  | .mresetWrite .. => true
  | .housekeepingRegisterWrite .. => true
  | .powerWindow .. => true
  | .thermalThrottle .. => true
  | .thermalShutdown .. => true
  | .resetN => true
  | .mainLoss => true
  | .auxGood => true
  | .mainGood => true
  | .accessPerformedAtNode .. => true
  | .remoteWriteAcknowledgment .. => true
  | .linkConnectionRequest .. => true
  | .partitionSupervisorDecision .. => true
  | .contextExport .. => true
  | .contextImport .. => true
  | .sleepTimeReached .. => true
  | .thermalThrottleEnd .. => true
  | .auxLoss => true
  | .failedPairTestComplete .. => true

end Sys2Proof
end

