-- ==== Sys2Proof/Decode.lean ====
section
/-! DEFINITION. The decoder of the 64-bit sequencer word and the encoder beside it, both from
Tables 3.1 to 3.6 and the field tables 7.3, 8.6, 11.1, 11.5, 11.6, 15.1, 19.1 and 23.1. -/

namespace Sys2Proof

open Sys2Proof.Machine

/-- Why a word is not an instruction. Both are decode faults of R73 and trap ILLEGAL. -/
inductive DecodeError
  /-- A reserved guard, field or code: `TVAL` is the low 32 bits of the word (R73). -/
  | reserved
  /-- An unlisted control-register index below 0x800: `TVAL` is the index (R445). -/
  | index (i : BitVec 12)
  /-- Fewer than eight bytes were given. -/
  | short
deriving DecidableEq, Repr

/-- The fields of Table 3.1 as numbers. -/
structure Fields where
  op : Nat
  gn : Nat
  gp : Nat
  d  : Nat
  a  : Nat
  b  : Nat
  ea : Nat
  eb : Nat
  x  : Nat
deriving DecidableEq, Repr

/-- The fields of a word (Table 3.1). -/
def Fields.unpack (w : Nat) : Fields :=
  { op := w / 2 ^ 56 % 256, gn := w / 2 ^ 55 % 2, gp := w / 2 ^ 52 % 8, d := w / 2 ^ 46 % 64,
    a := w / 2 ^ 40 % 64, b := w / 2 ^ 34 % 64, ea := w / 2 ^ 33 % 2, eb := w / 2 ^ 32 % 2,
    x := w % 2 ^ 32 }

/-- The word of a set of fields (Table 3.1). -/
def Fields.pack (f : Fields) : Nat :=
  f.op * 2 ^ 56 + f.gn * 2 ^ 55 + f.gp * 2 ^ 52 + f.d * 2 ^ 46 + f.a * 2 ^ 40 + f.b * 2 ^ 34
    + f.ea * 2 ^ 33 + f.eb * 2 ^ 32 + f.x

/-! ## Codes and the names they stand for -/

def Width.code : Width → Nat | .d => 0 | .w => 1
def Width.ofCode : Nat → Option Width | 0 => some .d | 1 => some .w | _ => none
def FWidth.code : FWidth → Nat | .d => 0 | .s => 1
def FWidth.ofCode : Nat → Option FWidth | 0 => some .d | 1 => some .s | _ => none
def Rm.code : Rm → Nat | .rne => 0 | .rtz => 1 | .rup => 2 | .rdn => 3 | .rna => 4 | .dith => 5
def Rm.ofCode : Nat → Option Rm
  | 0 => some .rne | 1 => some .rtz | 2 => some .rup | 3 => some .rdn | 4 => some .rna
  | 5 => some .dith | _ => none
def SgnOp.code : SgnOp → Nat | .j => 0 | .jn => 1 | .jx => 2
def SgnOp.ofCode : Nat → Option SgnOp | 0 => some .j | 1 => some .jn | 2 => some .jx | _ => none
def NumTy.code : NumTy → Nat
  | .fp64 => 0 | .fp32 => 1 | .bf16 => 2 | .fp16 => 3 | .int8 => 4 | .uint8 => 5 | .int16 => 6
  | .int32 => 7 | .int64 => 8
def NumTy.ofCode : Nat → Option NumTy
  | 0 => some .fp64 | 1 => some .fp32 | 2 => some .bf16 | 3 => some .fp16 | 4 => some .int8
  | 5 => some .uint8 | 6 => some .int16 | 7 => some .int32 | 8 => some .int64 | _ => none
def ICond.code : ICond → Nat | .eq => 0 | .ne => 1 | .lt => 2 | .ge => 3 | .ltu => 4 | .geu => 5
def ICond.ofCode : Nat → Option ICond
  | 0 => some .eq | 1 => some .ne | 2 => some .lt | 3 => some .ge | 4 => some .ltu | 5 => some .geu
  | _ => none
def FCond.code : FCond → Nat | .eq => 0 | .lt => 1 | .le => 2 | .un => 3
def FCond.ofCode : Nat → Option FCond
  | 0 => some .eq | 1 => some .lt | 2 => some .le | 3 => some .un | _ => none
def LdSize.code : LdSize → Nat
  | .b => 0 | .bz => 1 | .h => 2 | .hz => 3 | .w => 4 | .wz => 5 | .d => 6
def LdSize.ofCode : Nat → Option LdSize
  | 0 => some .b | 1 => some .bz | 2 => some .h | 3 => some .hz | 4 => some .w | 5 => some .wz
  | 6 => some .d | _ => none
def StSize.code : StSize → Nat | .b => 0 | .h => 2 | .w => 4 | .d => 6
def StSize.ofCode : Nat → Option StSize
  | 0 => some .b | 2 => some .h | 4 => some .w | 6 => some .d | _ => none
def AtSize.code : AtSize → Nat | .w => 4 | .d => 6
def AtSize.ofCode : Nat → Option AtSize | 4 => some .w | 6 => some .d | _ => none
def Scope.code : Scope → Nat
  | .core => 0 | .rect => 1 | .lease => 2 | .tenant => 3 | .part => 4 | .dev => 5 | .sys => 6
def Scope.ofCode : Nat → Option Scope
  | 0 => some .core | 1 => some .rect | 2 => some .lease | 3 => some .tenant | 4 => some .part
  | 5 => some .dev | 6 => some .sys | _ => none
def Order.code : Order → Nat | .rlx => 0 | .acq => 1 | .rel => 2 | .ar => 3
def Order.ofCode : Nat → Option Order
  | 0 => some .rlx | 1 => some .acq | 2 => some .rel | 3 => some .ar | _ => none
def Policy.code : Policy → Nat | .keep => 0 | .stream => 1 | .bypass => 2
def Policy.ofCode : Nat → Option Policy
  | 0 => some .keep | 1 => some .stream | 2 => some .bypass | _ => none
def AmoOp.code : AmoOp → Nat
  | .add => 0 | .and => 1 | .or => 2 | .xor => 3 | .min => 4 | .max => 5 | .minu => 6 | .maxu => 7
  | .swap => 8 | .fadd => 9
def AmoOp.ofCode : Nat → Option AmoOp
  | 0 => some .add | 1 => some .and | 2 => some .or | 3 => some .xor | 4 => some .min
  | 5 => some .max | 6 => some .minu | 7 => some .maxu | 8 => some .swap | 9 => some .fadd
  | _ => none
def EltSize.code : EltSize → Nat | .b => 0 | .h => 1 | .w => 2
def EltSize.ofCode : Nat → Option EltSize | 0 => some .b | 1 => some .h | 2 => some .w | _ => none
def CpySize.code : CpySize → Nat | .b => 0 | .h => 1 | .w => 2 | .d => 3 | .e32 => 4 | .e128 => 5
def CpySize.ofCode : Nat → Option CpySize
  | 0 => some .b | 1 => some .h | 2 => some .w | 3 => some .d | 4 => some .e32 | 5 => some .e128
  | _ => none
def TokKind.code : TokKind → Nat
  | .eor => 1 | .eok => 2 | .eos => 3 | .bound => 4 | .steer => 5 | .hdr => 7 | .stat => 8
  | .seqn => 10
def TokKind.ofCode : Nat → Option TokKind
  | 1 => some .eor | 2 => some .eok | 3 => some .eos | 4 => some .bound | 5 => some .steer
  | 7 => some .hdr | 8 => some .stat | 10 => some .seqn | _ => none
def QField.code : QField → Nat
  | .base => 0 | .c0 => 1 | .c1 => 2 | .c2 => 3 | .c3 => 4 | .d0 => 5 | .d1 => 6 | .d2 => 7
  | .d3 => 8
def QField.ofCode : Nat → Option QField
  | 0 => some .base | 1 => some .c0 | 2 => some .c1 | 3 => some .c2 | 4 => some .c3
  | 5 => some .d0 | 6 => some .d1 | 7 => some .d2 | 8 => some .d3 | _ => none
def TileFmt.code : TileFmt → Nat | .s => 1 | .bf => 2 | .hf => 3
def TileFmt.ofCode : Nat → Option TileFmt | 1 => some .s | 2 => some .bf | 3 => some .hf | _ => none
def Route.code : Route → Nat | .x => 0 | .y => 1 | .xy => 2
def Route.ofCode : Nat → Option Route | 0 => some .x | 1 => some .y | 2 => some .xy | _ => none
def Blk.code : Blk → Nat | .l8 => 0 | .l16 => 1 | .l32 => 2 | .l64 => 3
def Blk.ofCode (n : Nat) : Blk := if n = 0 then .l8 else if n = 1 then .l16 else if n = 2 then .l32 else .l64

/-- An operand source of R214: 0 the bus, 0x10 + q direct fetch. -/
def MxSrc.code : MxSrc → Nat | .bus => 0 | .direct q => 16 + q.val
def MxSrc.ofCode (n : Nat) : Option MxSrc :=
  if n = 0 then some .bus else if n / 16 = 1 then some (.direct (Fin.ofNat 16 n)) else none
/-- An index source of R239: 1 the index input, 0x10 + q direct. -/
def IdxSrc.code : IdxSrc → Nat | .idx => 1 | .direct q => 16 + q.val
def IdxSrc.ofCode (n : Nat) : Option IdxSrc :=
  if n = 1 then some .idx else if n / 16 = 1 then some (.direct (Fin.ofNat 16 n)) else none
/-- A destination of RKNET (R239): 0 the drain, 0x10 + q memory. -/
def RankDst.code : RankDst → Nat | .drain => 0 | .direct q => 16 + q.val
def RankDst.ofCode (n : Nat) : Option RankDst :=
  if n = 0 then some .drain else if n / 16 = 1 then some (.direct (Fin.ofNat 16 n)) else none
/-- A direct source alone: 0x10 + q. -/
def directOf (n : Nat) : Option (Fin 16) := if n / 16 = 1 then some (Fin.ofNat 16 n) else none

/-! ## Fields of the formats -/

/-- The guard of a word. -/
def Fields.guard (f : Fields) : Guard := ⟨f.gn == 1, Fin.ofNat 8 f.gp⟩
def Fields.srcA (f : Fields) : Src := ⟨Fin.ofNat 64 f.a, f.ea == 1⟩
def Fields.srcB (f : Fields) : Src := ⟨Fin.ofNat 64 f.b, f.eb == 1⟩
def Fields.regD (f : Fields) : Reg := Fin.ofNat 64 f.d
def Fields.regA (f : Fields) : Reg := Fin.ofNat 64 f.a
/-- Format R (Table 3.2). -/
def Fields.ty (f : Fields) : Nat := f.x / 2 ^ 28 % 16
def Fields.rm (f : Fields) : Nat := f.x / 2 ^ 25 % 8
def Fields.c (f : Fields) : Nat := f.x / 2 ^ 19 % 64
def Fields.lo19 (f : Fields) : Nat := f.x % 2 ^ 19
/-- Format M (Table 3.2). -/
def Fields.sz (f : Fields) : Nat := f.x / 2 ^ 28 % 16
def Fields.sc (f : Fields) : Nat := f.x / 2 ^ 25 % 8
def Fields.ord (f : Fields) : Nat := f.x / 2 ^ 23 % 4
def Fields.cp (f : Fields) : Nat := f.x / 2 ^ 21 % 4
def Fields.b20 (f : Fields) : Nat := f.x / 2 ^ 20 % 2
def Fields.off (f : Fields) : Nat := f.x % 2 ^ 20
/-- Format S (Table 3.2). -/
def Fields.hi (f : Fields) : Nat := f.x / 2 ^ 16 % 2 ^ 16
def Fields.tk (f : Fields) : Nat := f.x / 2 ^ 12 % 16
def Fields.fl (f : Fields) : Nat := f.x % 2 ^ 12
/-- Format E (Table 3.2). -/
def Fields.tlE (f : Fields) : Nat := f.x / 2 ^ 29 % 8
def Fields.fdE (f : Fields) : Nat := f.x / 2 ^ 13 % 2 ^ 16
def Fields.flE (f : Fields) : Nat := f.x % 2 ^ 13
/-- Format X (Table 3.2). -/
def Fields.md (f : Fields) : Nat := f.x % 2 ^ 16
def Fields.tlX (f : Fields) : Fin 8 := Fin.ofNat 8 (f.x / 2 ^ 13 % 8)

/-- Accepts an instruction when its reserved and unused fields are zero and its codes assigned. -/
def need (ok : Bool) (i : Instr) : Option Instr := if ok then some i else none

/-- Every listed field is zero. -/
def zeros (l : List Nat) : Bool := l.all (· == 0)

/-- Integer instruction of format R with two sources (R136). -/
def decodeInt3 (f : Fields) (k : Width → Instr) : Option Instr := do
  let wd ← Width.ofCode f.ty
  need (zeros [f.rm, f.c, f.lo19]) (k wd)

/-- Integer instruction of format R with one source (R139). -/
def decodeInt2 (f : Fields) (k : Width → Instr) : Option Instr := do
  let wd ← Width.ofCode f.ty
  need (zeros [f.b, f.eb, f.rm, f.c, f.lo19]) (k wd)

/-- Instruction of format I with an immediate (R135). -/
def decodeImm (f : Fields) (i : Instr) : Option Instr := need (zeros [f.b, f.eb]) i

/-- Immediate shift (R138): IMM[31:6] zero. -/
def decodeShift (f : Fields) (i : Instr) : Option Instr :=
  need (zeros [f.b, f.eb] && decide (f.x < 64)) i

/-- Rounded floating-point instruction with two sources (R141). -/
def decodeFp3 (f : Fields) (k : FWidth → Rm → Instr) : Option Instr := do
  let ty ← FWidth.ofCode f.ty
  let rm ← Rm.ofCode f.rm
  need (zeros [f.c, f.lo19]) (k ty rm)

/-- Unrounded floating-point instruction with two sources (R142). -/
def decodeFpMin (f : Fields) (k : FWidth → Instr) : Option Instr := do
  let ty ← FWidth.ofCode f.ty
  need (zeros [f.rm, f.c, f.lo19]) (k ty)

/-- Bit-field instruction (R150). -/
def decodeField (f : Fields) (k : Fin 64 → Nat → Instr) : Option Instr :=
  need (zeros [f.b, f.eb] && decide (f.x < 2 ^ 13)) (k (Fin.ofNat 64 f.x) (f.x / 64 % 128))

/-- Opcodes 0x00 to 0x1F. -/
def decode0 (f : Fields) : Option Instr :=
  let g := f.guard
  let imm : W32 := BitVec.ofNat 32 f.x
  match f.op with
  | 0x00 => need (zeros [f.d, f.a, f.b, f.ea, f.eb, f.x]) (.nop g)
  | 0x01 => decodeInt3 f (.add g · f.regD f.srcA f.srcB)
  | 0x02 => decodeInt3 f (.sub g · f.regD f.srcA f.srcB)
  | 0x03 => decodeImm f (.addi g f.regD f.srcA imm)
  | 0x04 => decodeInt3 f (.mul g · f.regD f.srcA f.srcB)
  | 0x05 => decodeInt3 f (.mulh g · f.regD f.srcA f.srcB)
  | 0x06 => decodeInt3 f (.mulhu g · f.regD f.srcA f.srcB)
  | 0x07 => decodeInt3 f (.div g · f.regD f.srcA f.srcB)
  | 0x08 => decodeInt3 f (.divu g · f.regD f.srcA f.srcB)
  | 0x09 => decodeInt3 f (.rem g · f.regD f.srcA f.srcB)
  | 0x0A => decodeInt3 f (.remu g · f.regD f.srcA f.srcB)
  | 0x0B => decodeInt3 f (.and g · f.regD f.srcA f.srcB)
  | 0x0C => decodeInt3 f (.or g · f.regD f.srcA f.srcB)
  | 0x0D => decodeInt3 f (.xor g · f.regD f.srcA f.srcB)
  | 0x0E => decodeInt3 f (.andn g · f.regD f.srcA f.srcB)
  | 0x0F => decodeImm f (.andi g f.regD f.srcA imm)
  | 0x10 => decodeImm f (.ori g f.regD f.srcA imm)
  | 0x11 => decodeImm f (.xori g f.regD f.srcA imm)
  | 0x12 => decodeInt3 f (.shl g · f.regD f.srcA f.srcB)
  | 0x13 => decodeInt3 f (.shr g · f.regD f.srcA f.srcB)
  | 0x14 => decodeInt3 f (.sra g · f.regD f.srcA f.srcB)
  | 0x15 => decodeShift f (.shli g f.regD f.srcA (Fin.ofNat 64 f.x))
  | 0x16 => decodeShift f (.shri g f.regD f.srcA (Fin.ofNat 64 f.x))
  | 0x17 => decodeShift f (.srai g f.regD f.srcA (Fin.ofNat 64 f.x))
  | 0x18 => decodeInt3 f (.min g · f.regD f.srcA f.srcB)
  | 0x19 => decodeInt3 f (.max g · f.regD f.srcA f.srcB)
  | 0x1A => decodeInt3 f (.minu g · f.regD f.srcA f.srcB)
  | 0x1B => decodeInt3 f (.maxu g · f.regD f.srcA f.srcB)
  | 0x1C => decodeInt2 f (.clz g · f.regD f.srcA)
  | 0x1D => decodeInt2 f (.ctz g · f.regD f.srcA)
  | 0x1E => decodeInt2 f (.popc g · f.regD f.srcA)
  | 0x1F => decodeImm f (.brev g f.regD f.srcA f.x)
  | _ => none

/-- Opcodes 0x20 to 0x2B. -/
def decode2 (f : Fields) : Option Instr :=
  let g := f.guard
  match f.op with
  | 0x20 => decodeFp3 f (.fadd g · · f.regD f.srcA f.srcB)
  | 0x21 => decodeFp3 f (.fsub g · · f.regD f.srcA f.srcB)
  | 0x22 => decodeFp3 f (.fmul g · · f.regD f.srcA f.srcB)
  | 0x23 => do
      let ty ← FWidth.ofCode f.ty
      let rm ← Rm.ofCode f.rm
      need (zeros [f.lo19]) (.fma g ty rm f.regD f.srcA f.srcB (Fin.ofNat 64 f.c))
  | 0x24 => decodeFp3 f (.fdiv g · · f.regD f.srcA f.srcB)
  | 0x25 => do
      let ty ← FWidth.ofCode f.ty
      let rm ← Rm.ofCode f.rm
      need (zeros [f.b, f.eb, f.c, f.lo19]) (.fsqrt g ty rm f.regD f.srcA)
  | 0x26 => decodeFpMin f (.fmin g · f.regD f.srcA f.srcB)
  | 0x27 => decodeFpMin f (.fmax g · f.regD f.srcA f.srcB)
  | 0x28 => do
      let ty ← FWidth.ofCode f.ty
      let op ← SgnOp.ofCode f.rm
      need (zeros [f.c, f.lo19]) (.fsgn g op ty f.regD f.srcA f.srcB)
  | 0x29 => do
      let dst ← NumTy.ofCode f.ty
      let src ← NumTy.ofCode f.b
      let rm ← Rm.ofCode f.rm
      need (zeros [f.eb, f.c, f.lo19]) (.fcvt g dst src rm f.regD f.srcA)
  | 0x2A => do
      let ty ← FWidth.ofCode f.ty
      need (zeros [f.b, f.eb, f.rm, f.c, f.lo19]) (.fclass g ty f.regD f.srcA)
  | 0x2B => do
      let ty ← FWidth.ofCode f.ty
      let c ← FCond.ofCode (f.d / 8)
      need (zeros [f.rm, f.c, f.lo19]) (.fcmp g c ty (Fin.ofNat 8 f.d) f.srcA f.srcB)
  | _ => none

/-- Opcodes 0x30 to 0x3F. -/
def decode3 (f : Fields) : Option Instr :=
  let g := f.guard
  let x : W32 := BitVec.ofNat 32 f.x
  match f.op with
  | 0x30 => do
      let wd ← Width.ofCode f.ty
      let c ← ICond.ofCode (f.d / 8)
      need (zeros [f.rm, f.c, f.lo19]) (.cmp g c wd (Fin.ofNat 8 f.d) f.srcA f.srcB)
  | 0x31 => do
      let c ← ICond.ofCode (f.d / 8)
      need (zeros [f.b, f.eb]) (.cmpi g c (Fin.ofNat 8 f.d) f.srcA x)
  | 0x32 =>
      need (zeros [f.ea, f.eb, f.rm, f.c, f.lo19] && decide (f.d < 8) && decide (f.a < 8) && decide (f.b < 8))
        (.plog g (Fin.ofNat 16 f.ty) (Fin.ofNat 8 f.d) (Fin.ofNat 8 f.a) (Fin.ofNat 8 f.b))
  | 0x33 => need (zeros [f.ty, f.rm, f.lo19]) (.sel g f.regD f.srcA f.srcB (Fin.ofNat 64 f.c))
  | 0x34 => decodeField f (.bfx g f.regD f.srcA · ·)
  | 0x35 => decodeField f (.bfi g f.regD f.srcA · ·)
  | 0x36 =>
      need (zeros [f.b, f.eb, f.x % 64] && decide (f.x < 2 ^ 14))
        (.ext g (f.x / 2 ^ 13 % 2 == 1) f.regD f.srcA (f.x / 64 % 128))
  | 0x37 => need (zeros [f.a, f.b, f.ea, f.eb]) (.li g f.regD x)
  | 0x38 => need (zeros [f.a, f.b, f.ea, f.eb]) (.lih g f.regD x)
  | 0x39 => need (zeros [f.d, f.a, f.b, f.ea, f.eb]) (.br g x)
  | 0x3A => need (zeros [f.a, f.b, f.ea, f.eb]) (.call g f.regD x)
  | 0x3B => need (zeros [f.b, f.eb]) (.jr g f.regD f.srcA x)
  | 0x3C => need (zeros [f.b, f.eb] && decide (f.d < 2)) (.loop g (Fin.ofNat 2 f.d) f.srcA x)
  | 0x3D => need (zeros [f.d, f.a, f.b, f.ea, f.eb, f.x]) (.tend g)
  | 0x3E => need (zeros [f.d, f.b, f.eb, f.x]) (.push g f.srcA)
  | 0x3F => need (zeros [f.a, f.b, f.ea, f.eb, f.x]) (.pop g f.regD)
  | _ => none

/-- Opcodes 0x40 to 0x4C (Table 11.1). -/
def decode4 (f : Fields) : Option Instr :=
  let g := f.guard
  let off : BitVec 20 := BitVec.ofNat 20 f.off
  match f.op with
  | 0x40 => do
      let sz ← LdSize.ofCode f.sz
      let cp ← Policy.ofCode f.cp
      need (zeros [f.b, f.eb, f.sc, f.ord, f.b20]) (.ld g sz cp f.regD f.srcA off)
  | 0x41 => do
      let sz ← LdSize.ofCode f.sz
      let cp ← Policy.ofCode f.cp
      need (zeros [f.sc, f.ord, f.b20] && decide (f.off < 4)) (.ldx g sz cp f.regD f.srcA f.srcB (Fin.ofNat 4 f.off))
  | 0x42 => do
      let sz ← StSize.ofCode f.sz
      let cp ← Policy.ofCode f.cp
      need (zeros [f.d, f.sc, f.ord, f.b20]) (.st g sz cp f.srcB f.srcA off)
  | 0x43 => do
      let sz ← StSize.ofCode f.sz
      let cp ← Policy.ofCode f.cp
      need (zeros [f.sc, f.ord, f.b20] && decide (f.off < 4)) (.stx g sz cp f.regD f.srcA f.srcB (Fin.ofNat 4 f.off))
  | 0x44 => do
      let sz ← LdSize.ofCode f.sz
      let sc ← Scope.ofCode f.sc
      need (zeros [f.b, f.eb, f.ord, f.cp, f.b20]) (.ldacq g sz sc f.regD f.srcA off)
  | 0x45 => do
      let sz ← StSize.ofCode f.sz
      let sc ← Scope.ofCode f.sc
      need (zeros [f.d, f.ord, f.cp, f.b20]) (.strel g sz sc f.srcB f.srcA off)
  | 0x46 => do
      let sc ← Scope.ofCode f.sc
      let o ← Order.ofCode f.ord
      need (zeros [f.d, f.a, f.b, f.ea, f.eb, f.sz, f.cp, f.b20, f.off]) (.fence g o sc)
  | 0x47 => do
      let sz ← AtSize.ofCode f.sz
      let sc ← Scope.ofCode f.sc
      let o ← Order.ofCode f.ord
      let op ← AmoOp.ofCode (f.off / 2 ^ 16)
      need (zeros [f.cp, f.b20]) (.amo g op sz o sc f.regD f.srcB f.srcA (BitVec.ofNat 16 f.off))
  | 0x48 => do
      let sz ← AtSize.ofCode f.sz
      let sc ← Scope.ofCode f.sc
      let o ← Order.ofCode f.ord
      need (zeros [f.cp, f.b20]) (.cas g sz o sc f.regD f.srcB f.srcA off)
  | 0x49 => do
      let cp ← Policy.ofCode f.cp
      need (zeros [f.d, f.b, f.eb, f.sz, f.sc, f.ord, f.b20]) (.pref g cp f.srcA off)
  | 0x4A => do
      let sc ← Scope.ofCode f.sc
      need (zeros [f.d, f.sz, f.ord, f.cp, f.b20, f.off]) (.cwb g sc f.srcA f.srcB)
  | 0x4B => do
      let sc ← Scope.ofCode f.sc
      need (zeros [f.d, f.sz, f.ord, f.cp, f.b20, f.off]) (.cinv g sc f.srcA f.srcB)
  | 0x4C => do
      let sc ← Scope.ofCode f.sc
      need (zeros [f.d, f.sz, f.ord, f.cp, f.b20, f.off]) (.cwbi g sc f.srcA f.srcB)
  | _ => none

/-- Opcodes 0x60 to 0x6B (Table 11.5). -/
def decode6 (f : Fields) : Option Instr :=
  let g := f.guard
  let port : Fin 16 := Fin.ofNat 16 f.d
  let q : Fin 16 := Fin.ofNat 16 f.a
  let tag : Fin 16 := Fin.ofNat 16 (f.fl / 256)
  let fl := f.fl
  match f.op with
  | 0x60 => do
      let esz ← EltSize.ofCode (fl % 4)
      need (zeros [f.ea, f.hi, f.tk, fl / 128 % 2] && decide (f.d < 16) && decide (f.a < 16))
        (.feed g port q f.srcB tag (fl / 64 % 2 == 1) (fl / 32 % 2 == 1) (fl / 16 % 2 == 1)
          (fl / 8 % 2 == 1) (fl / 4 % 2 == 1) esz)
  | 0x61 => do
      let esz ← EltSize.ofCode (fl % 4)
      need (zeros [f.ea, f.hi, f.tk, fl / 128, fl / 4 % 16] && decide (f.d < 16) && decide (f.a < 16))
        (.sink g port q f.srcB (fl / 64 % 2 == 1) esz)
  | 0x62 => need (zeros [f.a, f.ea, f.hi, f.tk, fl % 256] && decide (f.d < 16)) (.inj g port f.srcB tag)
  | 0x63 => need (zeros [f.ea, f.b, f.eb, f.x] && decide (f.d < 16)) (.take g f.regA port)
  | 0x64 => do
      let k ← TokKind.ofCode f.tk
      need (zeros [f.a, f.ea, f.hi, fl % 256] && decide (f.d < 16)) (.tok g k port f.srcB tag)
  | 0x65 =>
      need (zeros [f.ea, f.b, f.eb, f.hi, f.tk] && decide (f.d < 16) && decide (fl < 2))
        (.portq g f.regA port (fl % 2 == 1))
  | 0x66 => need (zeros [f.d, f.a, f.ea, f.x]) (.sbar g f.srcB)
  | 0x67 => need (zeros [f.a, f.ea, f.x] && decide (f.d < 8)) (.accrst g (Fin.ofNat 8 f.d) f.srcB)
  | 0x68 => need (zeros [f.a, f.ea, f.x] && decide (f.d < 16)) (.cfgld g port f.srcB)
  | 0x69 => do
      let k ← QField.ofCode fl
      need (zeros [f.b, f.eb, f.hi, f.tk] && decide (f.d < 16)) (.qset g k port f.srcA)
  | 0x6A => need (zeros [f.b, f.eb, f.x] && decide (f.d < 16)) (.qld g port f.srcA)
  | 0x6B => need (zeros [f.b, f.eb, f.x] && decide (f.d < 16)) (.qadv g port f.srcA)
  | _ => none

/-- Opcodes 0x80 to 0x89 (Table 11.6). -/
def decode8 (f : Fields) : Option Instr :=
  let g := f.guard
  let qa : Fin 16 := Fin.ofNat 16 f.a
  let qb : Fin 16 := Fin.ofNat 16 f.b
  let tl : Fin 8 := Fin.ofNat 8 f.tlE
  let fl := f.flE
  let pats := zeros [f.ea, f.eb] && decide (f.a < 16) && decide (f.b < 16)
  match f.op with
  | 0x80 => do
      let esz ← CpySize.ofCode fl
      need (pats && f.fdE == 0) (.cpy g esz f.regD qa qb tl)
  | 0x81 => do
      let esz ← CpySize.ofCode fl
      need (pats && f.fdE == 0) (.cpymx g esz f.regD qa qb tl)
  | 0x82 => do
      let rm ← Rm.ofCode (fl / 8 % 8)
      need (pats && decide (fl < 64))
        (.cpyq g (fl % 2 == 1) rm (Blk.ofCode (fl / 2 % 4)) (BitVec.ofNat 16 f.fdE) f.regD qa qb tl)
  | 0x83 =>
      need (pats && decide (fl < 32))
        (.gemv g (fl / 16 % 2 == 1) (BitVec.ofNat 16 f.fdE) f.regD qa qb tl (Fin.ofNat 16 fl))
  | 0x84 =>
      if fl = 0 then need (zeros [f.d, f.b, f.eb, f.fdE]) (.tlwait g none tl f.srcA)
      else do
        let sc ← Scope.ofCode (fl % 8)
        need (zeros [f.d, f.b, f.eb, f.fdE] && fl / 8 == 1) (.tlwait g (some sc) tl f.srcA)
  | 0x85 => need (zeros [f.a, f.b, f.ea, f.eb, f.fdE, fl]) (.tlread g f.regD tl)
  | 0x86 => need (zeros [f.a, f.b, f.ea, f.eb, f.fdE, fl]) (.tlnum g f.regD tl)
  | 0x87 =>
      if fl = 0 then need (zeros [f.d, f.b, f.eb, f.tlE, f.fdE]) (.sleept g f.srcA)
      else need (zeros [f.d, f.fdE] && fl == 1) (.sleeptP g f.srcA tl f.srcB)
  | 0x88 => need (zeros [f.a, f.b, f.ea, f.eb, f.x]) (.time g f.regD)
  | 0x89 => need (zeros [f.a, f.b, f.ea, f.eb, f.x]) (.cyc g f.regD)
  | _ => none

/-- Opcodes 0xA0 to 0xAA (Table 7.3). -/
def decodeA (f : Fields) : Option Instr :=
  let g := f.guard
  let t : Fin 4 := Fin.ofNat 4 f.d
  let tl := f.tlX
  let md := f.md
  let tile := decide (f.d < 4)
  match f.op with
  | 0xA0 =>
      need (tile && zeros [f.b, f.eb, f.hi, md / 8] && (md / 4 % 2 == 0 || zeros [f.a, f.ea]))
        (.mxcfg g (md / 4 % 2 == 1) t f.srcA (Fin.ofNat 4 md))
  | 0xA1 => need (tile && zeros [f.a, f.b, f.ea, f.eb, f.x]) (.mxrel g t)
  | 0xA2 => need (tile && zeros [f.a, f.b, f.ea, f.eb, f.hi, md % 2 ^ 13]) (.mxz g t tl)
  | 0xA3 => do
      let q ← directOf f.a
      let fmt ← TileFmt.ofCode f.hi
      need (tile && zeros [f.ea, f.b, f.eb, md % 2 ^ 13]) (.mxldt g fmt t q tl)
  | 0xA4 => do
      let sa ← MxSrc.ofCode f.a
      let sb ← MxSrc.ofCode f.b
      need (tile && zeros [f.ea, f.eb, md % 2 ^ 12]) (.mxmm g (md / 2 ^ 12 % 2 == 1) t sa sb (BitVec.ofNat 16 f.hi) tl)
  | 0xA5 => do
      let sa ← MxSrc.ofCode f.a
      let sb ← MxSrc.ofCode f.b
      need (tile && zeros [f.ea, f.eb, md % 2 ^ 12]) (.mxmms g (md / 2 ^ 12 % 2 == 1) t sa sb (BitVec.ofNat 16 f.hi) tl)
  | 0xA6 => do
      let rm ← Rm.ofCode (md / 4 % 8)
      need (zeros [f.d, f.a, f.b, f.ea, f.eb, md / 2 ^ 13])
        (.mxfmt g (Fin.ofNat 4 md) (BitVec.ofNat 16 f.hi) rm (Fin.ofNat 16 (md / 32)) (Fin.ofNat 16 (md / 512)))
  | 0xA7 => do
      let r ← Route.ofCode md
      need (tile && zeros [f.a, f.b, f.ea, f.eb, f.hi]) (.mxrt g r t)
  | 0xA8 =>
      need (tile && zeros [f.a, f.b, f.ea, f.eb, f.hi, md % 2 ^ 12]) (.mxdrn g (md / 2 ^ 12 % 2 == 1) t tl)
  | 0xA9 => need (tile && zeros [f.a, f.b, f.ea, f.eb, f.hi, md % 2 ^ 13]) (.mxchk g t tl)
  | 0xAA => do
      let q ← directOf f.a
      let fmt ← TileFmt.ofCode f.hi
      need (tile && zeros [f.ea, f.b, f.eb, md % 2 ^ 13]) (.mxst g fmt t q tl)
  | _ => none

/-- Opcodes 0xB0 to 0xBD (Table 8.6). -/
def decodeB (f : Fields) : Option Instr :=
  let g := f.guard
  let t : Fin 4 := Fin.ofNat 4 f.d
  let tl := f.tlX
  let md := f.md
  let tile := decide (f.d < 4)
  let row0 : Fin 128 := Fin.ofNat 128 f.hi
  let nvm1 : Fin 128 := Fin.ofNat 128 (f.hi / 128)
  let vecs := decide (f.hi < 2 ^ 14)
  match f.op with
  | 0xB0 =>
      if md / 2 ^ 12 % 2 = 0 then
        need (zeros [f.d, f.a, f.b, f.ea, f.eb, f.hi, md / 32, md / 4 % 4]) (.twset g (md / 16 % 2 == 1) (Fin.ofNat 4 md))
      else
        need (tile && zeros [f.a, f.b, f.ea, f.eb, md / 32 % 128, md % 16]) (.twsetGen g (md / 16 % 2 == 1) t f.hi tl)
  | 0xB1 => need (zeros [f.d, f.hi, md / 4]) (.bfplan g (Fin.ofNat 4 md) f.srcA f.srcB)
  | 0xB2 => do
      let q ← directOf f.a
      need (tile && zeros [f.ea, f.b, f.eb, md % 2 ^ 12] && (f.hi == 1 || f.hi == 2))
        (.bfrev g (f.hi == 2) (md / 2 ^ 12 % 2 == 1) t q tl)
  | 0xB3 => need (tile && zeros [f.a, f.b, f.ea, f.eb, md % 2 ^ 13]) (.bfstg g t f.hi tl)
  | 0xB4 => need (tile && zeros [f.a, f.b, f.ea, f.eb, f.hi, md % 2 ^ 13]) (.bfrun g t tl)
  | 0xB8 => do
      let q ← directOf f.a
      need (zeros [f.d, f.ea, f.b, f.eb, f.hi, md / 32 % 256, md / 4 % 4]) (.rktab g (md / 16 % 2 == 1) (Fin.ofNat 4 md) q tl)
  | 0xB9 => need (zeros [f.d, f.b, f.eb, f.hi, md / 4]) (.rkcut g (Fin.ofNat 4 md) f.srcA)
  | 0xBA => do
      let dst ← RankDst.ofCode f.b
      need (tile && vecs && zeros [f.ea, f.eb, md % 2 ^ 12]) (.rknet g (md / 2 ^ 12 % 2 == 1) t f.regA dst row0 nvm1 tl)
  | 0xBB => do
      let src ← IdxSrc.ofCode f.a
      let q ← directOf f.b
      need (tile && vecs && zeros [f.ea, f.eb, md % 2 ^ 12]) (.mxrank g (md / 2 ^ 12 % 2 == 1) t src q row0 nvm1 tl)
  | 0xBC => do
      let src ← IdxSrc.ofCode f.a
      need (tile && vecs && zeros [f.ea, f.b, f.eb, md % 2 ^ 13]) (.rkval g t src row0 nvm1 tl)
  | 0xBD => do
      let q ← directOf f.b
      need (tile && vecs && zeros [f.ea, f.eb, md % 2 ^ 13]) (.rktrc g t f.regA q row0 nvm1 tl)
  | _ => none

/-- Opcodes 0xC0 to 0xCB (Table 15.1). -/
def decodeC (f : Fields) : Option Instr :=
  let g := f.guard
  let x := f.x
  let fours := decide (x < 16)
  match f.op with
  | 0xC0 => need (zeros [f.b, f.eb] && decide (x < 4096)) (.tspawn g f.regD f.srcA (BitVec.ofNat 12 x))
  | 0xC1 => need (zeros [f.d, f.a, f.b, f.ea, f.eb] && fours) (.tbind g (Fin.ofNat 16 x))
  | 0xC2 => need (zeros [f.a, f.b, f.ea, f.eb] && fours) (.waitv g f.regD (Fin.ofNat 16 x))
  | 0xC3 => need (zeros [f.d] && fours) (.sendv g f.srcA f.srcB (Fin.ofNat 16 x))
  | 0xC4 => need (zeros [f.d, f.a, f.b, f.ea, f.eb, x]) (.tyield g)
  | 0xC5 => need (zeros [f.d, f.a, f.b, f.ea, f.eb] && decide (x < 256)) (.twake g (BitVec.ofNat 8 x))
  | 0xC6 => need (zeros [f.d, f.a, f.b, f.ea, f.eb] && decide (x < 4)) (.tprio g (Fin.ofNat 4 x))
  | 0xC7 => need (zeros [f.d, f.a, f.b, f.ea, f.eb] && fours) (.rbar g (Fin.ofNat 16 x))
  | 0xC8 => need (zeros [f.d, x]) (.gbar g f.srcA f.srcB)
  | 0xC9 => need (zeros [f.b, f.eb, x]) (.launch g f.regD f.srcA)
  | 0xCA => need (zeros [f.a, f.b, f.ea, f.eb] && decide (x < 8)) (.lqry g f.regD (Fin.ofNat 8 x))
  | 0xCB => need (zeros [f.a, f.b, f.ea, f.eb] && decide (x < 7)) (.stageq g f.regD (Fin.ofNat 7 x))
  | _ => none

/-- Opcodes 0xE0 to 0xE6 (Table 19.1). -/
def decodeE (f : Fields) : Option Instr :=
  let g := f.guard
  let x := f.x
  let idx : BitVec 12 := BitVec.ofNat 12 x
  match f.op with
  | 0xE0 => need (zeros [f.a, f.b, f.ea, f.eb] && decide (x < 4096)) (.ctlr g f.regD idx)
  | 0xE1 => need (zeros [f.d, f.b, f.eb] && decide (x < 4096)) (.ctlw g idx f.srcA)
  | 0xE2 => need (zeros [f.d, f.b, f.eb] && decide (x < 4096)) (.ctls g idx f.srcA)
  | 0xE3 => need (zeros [f.d, f.b, f.eb] && decide (x < 4096)) (.ctlc g idx f.srcA)
  | 0xE4 =>
      need (zeros [f.d, f.a, f.b, f.ea, f.eb, x % 2 ^ 16] && decide (f.hi < 2)) (.svc g (Fin.ofNat 2 f.hi))
  | 0xE5 => need (zeros [f.a, f.b, f.ea, f.eb] && decide (x < 8)) (.cntr g f.regD (Fin.ofNat 8 x))
  | 0xE6 => need (zeros [f.b, f.eb, x]) (.capr g f.regD f.srcA)
  | _ => none

/-- Opcodes 0xF0 to 0xF7 (Table 23.1). -/
def decodeF (f : Fields) : Option Instr :=
  let g := f.guard
  let x := f.x
  let none3 := zeros [f.d, f.a, f.b, f.ea, f.eb]
  match f.op with
  | 0xF0 => need (none3 && zeros [x % 2 ^ 16, x / 2 ^ 24]) (.trap g (BitVec.ofNat 8 (x / 2 ^ 16)))
  | 0xF1 => need (none3 && x == 0) (.rett g)
  | 0xF2 => need (none3 && decide (x < 2 ^ 16)) (.snap g (BitVec.ofNat 16 x))
  | 0xF3 => need (zeros [f.d, f.b, f.eb] && decide (x < 8)) (.xsave g f.srcA (Fin.ofNat 8 x))
  | 0xF4 => need (zeros [f.d, f.b, f.eb] && decide (x < 8)) (.xload g f.srcA (Fin.ofNat 8 x))
  | 0xF5 => need (none3 && x == 0) (.halt g)
  | 0xF6 => need (none3 && x % 2 ^ 16 == 0) (.ebrk g (BitVec.ofNat 16 f.hi))
  | 0xF7 => need (none3 && x == 0) (.cutreq g)
  | _ => none

/-- The instruction that a set of fields stands for, before the range checks of `Instr.wf`. -/
def decodeFields (f : Fields) : Option Instr :=
  match f.op / 16 with
  | 0 | 1 => decode0 f
  | 2 => decode2 f
  | 3 => decode3 f
  | 4 => decode4 f
  | 6 => decode6 f
  | 8 => decode8 f
  | 10 => decodeA f
  | 11 => decodeB f
  | 12 => decodeC f
  | 14 => decodeE f
  | 15 => decodeF f
  | _ => none

/-- The control-register index of a CTLR, CTLW, CTLS or CTLC, if the instruction is one. -/
def Instr.ctlIndex : Instr → Option (BitVec 12)
  | .ctlr _ _ idx => some idx
  | .ctlw _ idx _ => some idx
  | .ctls _ idx _ => some idx
  | .ctlc _ idx _ => some idx
  | _ => none

/-- R73 steps 1 and 2: the decoder. An unassigned opcode is the row UNASSIGNED_OPCODE, whose effect
is the ILLEGAL trap; every other fault is a `DecodeError`. -/
def decode (w : Word) : Except DecodeError Instr :=
  let f := Fields.unpack w.toNat
  if opcodeUnassigned f.op then .ok (.unassignedOpcode w)
  else match decodeFields f with
    | none => .error .reserved
    | some i =>
        if i.wf then .ok i
        else match i.ctlIndex with
          | some idx => if f.guard.wf then .error (.index idx) else .error .reserved
          | none => .error .reserved

/-- The word of eight little-endian bytes (R68), and the bytes after them. -/
def wordOfBytes : List Byte → Option (Word × List Byte)
  | b0 :: b1 :: b2 :: b3 :: b4 :: b5 :: b6 :: b7 :: rest =>
      some (BitVec.ofNat 64 (b0.toNat + b1.toNat * 2 ^ 8 + b2.toNat * 2 ^ 16 + b3.toNat * 2 ^ 24
        + b4.toNat * 2 ^ 32 + b5.toNat * 2 ^ 40 + b6.toNat * 2 ^ 48 + b7.toNat * 2 ^ 56), rest)
  | _ => none

/-- The eight little-endian bytes of a word (R3, R68). -/
def bytesOfWord (w : Word) : List Byte :=
  (List.range 8).map fun k => BitVec.ofNat 8 (w.toNat / 2 ^ (8 * k))

/-- The decoder on bytes: the instruction and the bytes after it. -/
def decodeBytes (bs : List Byte) : Except DecodeError (Instr × List Byte) :=
  match wordOfBytes bs with
  | none => .error .short
  | some (w, rest) =>
      match decode w with
      | .ok i => .ok (i, rest)
      | .error e => .error e

/-- The instruction the decoder reads from a word of the opcode table's numbering: one 64-bit word,
bits above `nbits` zero, laid out little-endian. -/
def decodeTableWord (nbits w : Nat) : Option Instr :=
  if 64 < nbits then none
  else
    match decodeBytes (bytesOfWord (BitVec.ofNat 64 (w % 2 ^ nbits))) with
    | .ok (i, _) => some i
    | .error _ => none

/-! ## The encoder -/

/-- Fields with a guard and nothing else. -/
def Fields.base (op : Nat) (g : Guard) : Fields :=
  { op, gn := g.neg.toNat, gp := g.p.val, d := 0, a := 0, b := 0, ea := 0, eb := 0, x := 0 }
def Fields.withD (f : Fields) (d : Nat) : Fields := { f with d }
def Fields.withA (f : Fields) (s : Src) : Fields := { f with a := s.r.val, ea := s.trap.toNat }
def Fields.withB (f : Fields) (s : Src) : Fields := { f with b := s.r.val, eb := s.trap.toNat }
def Fields.withX (f : Fields) (x : Nat) : Fields := { f with x }
/-- A number in field A or B that is not a source register. -/
def Fields.rawA (f : Fields) (a : Nat) : Fields := { f with a }
def Fields.rawB (f : Fields) (b : Nat) : Fields := { f with b }

def encodeInt3 (op : Nat) (g : Guard) (wd : Width) (d : Reg) (a b : Src) : Fields :=
  ((((Fields.base op g).withD d.val).withA a).withB b).withX (wd.code * 2 ^ 28)
def encodeInt2 (op : Nat) (g : Guard) (wd : Width) (d : Reg) (a : Src) : Fields :=
  (((Fields.base op g).withD d.val).withA a).withX (wd.code * 2 ^ 28)
def encodeImm (op : Nat) (g : Guard) (d : Reg) (a : Src) (x : Nat) : Fields :=
  (((Fields.base op g).withD d.val).withA a).withX x
def encodeFp3 (op : Nat) (g : Guard) (ty : FWidth) (rm : Nat) (d : Reg) (a b : Src) : Fields :=
  ((((Fields.base op g).withD d.val).withA a).withB b).withX (ty.code * 2 ^ 28 + rm * 2 ^ 25)
def encodeFp2 (op : Nat) (g : Guard) (ty : FWidth) (rm : Nat) (d : Reg) (a : Src) : Fields :=
  (((Fields.base op g).withD d.val).withA a).withX (ty.code * 2 ^ 28 + rm * 2 ^ 25)
/-- X of format M. -/
def xM (sz sc o cp off : Nat) : Nat := sz * 2 ^ 28 + sc * 2 ^ 25 + o * 2 ^ 23 + cp * 2 ^ 21 + off
/-- X of format E. -/
def xE (tl fd fl : Nat) : Nat := tl * 2 ^ 29 + fd * 2 ^ 13 + fl
/-- X of format X with a timeline. -/
def xX (hi tl rest : Nat) : Nat := hi * 2 ^ 16 + tl * 2 ^ 13 + rest
/-- The vector fields of RKNET and its kin in [31:16]. -/
def vecHi (row0 nvm1 : Fin 128) : Nat := nvm1.val * 128 + row0.val

/-- The fields of a sequencer instruction; rows that are steps of other agents have none. -/
def encodeFields : Instr → Option Fields
  | .nop g => some (Fields.base 0x00 g)
  | .add g wd d a b => some (encodeInt3 0x01 g wd d a b)
  | .sub g wd d a b => some (encodeInt3 0x02 g wd d a b)
  | .addi g d a imm => some (encodeImm 0x03 g d a imm.toNat)
  | .mul g wd d a b => some (encodeInt3 0x04 g wd d a b)
  | .mulh g wd d a b => some (encodeInt3 0x05 g wd d a b)
  | .mulhu g wd d a b => some (encodeInt3 0x06 g wd d a b)
  | .div g wd d a b => some (encodeInt3 0x07 g wd d a b)
  | .divu g wd d a b => some (encodeInt3 0x08 g wd d a b)
  | .rem g wd d a b => some (encodeInt3 0x09 g wd d a b)
  | .remu g wd d a b => some (encodeInt3 0x0A g wd d a b)
  | .and g wd d a b => some (encodeInt3 0x0B g wd d a b)
  | .or g wd d a b => some (encodeInt3 0x0C g wd d a b)
  | .xor g wd d a b => some (encodeInt3 0x0D g wd d a b)
  | .andn g wd d a b => some (encodeInt3 0x0E g wd d a b)
  | .andi g d a imm => some (encodeImm 0x0F g d a imm.toNat)
  | .ori g d a imm => some (encodeImm 0x10 g d a imm.toNat)
  | .xori g d a imm => some (encodeImm 0x11 g d a imm.toNat)
  | .shl g wd d a b => some (encodeInt3 0x12 g wd d a b)
  | .shr g wd d a b => some (encodeInt3 0x13 g wd d a b)
  | .sra g wd d a b => some (encodeInt3 0x14 g wd d a b)
  | .shli g d a n => some (encodeImm 0x15 g d a n.val)
  | .shri g d a n => some (encodeImm 0x16 g d a n.val)
  | .srai g d a n => some (encodeImm 0x17 g d a n.val)
  | .min g wd d a b => some (encodeInt3 0x18 g wd d a b)
  | .max g wd d a b => some (encodeInt3 0x19 g wd d a b)
  | .minu g wd d a b => some (encodeInt3 0x1A g wd d a b)
  | .maxu g wd d a b => some (encodeInt3 0x1B g wd d a b)
  | .clz g wd d a => some (encodeInt2 0x1C g wd d a)
  | .ctz g wd d a => some (encodeInt2 0x1D g wd d a)
  | .popc g wd d a => some (encodeInt2 0x1E g wd d a)
  | .brev g d a n => some (encodeImm 0x1F g d a n)
  | .fadd g ty rm d a b => some (encodeFp3 0x20 g ty rm.code d a b)
  | .fsub g ty rm d a b => some (encodeFp3 0x21 g ty rm.code d a b)
  | .fmul g ty rm d a b => some (encodeFp3 0x22 g ty rm.code d a b)
  | .fdiv g ty rm d a b => some (encodeFp3 0x24 g ty rm.code d a b)
  | .fma g ty rm d a b c =>
      some (((((Fields.base 0x23 g).withD d.val).withA a).withB b).withX
        (ty.code * 2 ^ 28 + rm.code * 2 ^ 25 + c.val * 2 ^ 19))
  | .fsqrt g ty rm d a => some (encodeFp2 0x25 g ty rm.code d a)
  | .fmin g ty d a b => some (encodeFp3 0x26 g ty 0 d a b)
  | .fmax g ty d a b => some (encodeFp3 0x27 g ty 0 d a b)
  | .fsgn g op ty d a b => some (encodeFp3 0x28 g ty op.code d a b)
  | .fcvt g dst src rm d a =>
      some (((((Fields.base 0x29 g).withD d.val).withA a).rawB src.code).withX (dst.code * 2 ^ 28 + rm.code * 2 ^ 25))
  | .fclass g ty d a => some (encodeFp2 0x2A g ty 0 d a)
  | .fcmp g c ty p a b =>
      some (((((Fields.base 0x2B g).withD (c.code * 8 + p.val)).withA a).withB b).withX (ty.code * 2 ^ 28))
  | .cmp g c wd p a b =>
      some (((((Fields.base 0x30 g).withD (c.code * 8 + p.val)).withA a).withB b).withX (wd.code * 2 ^ 28))
  | .cmpi g c p a imm =>
      some ((((Fields.base 0x31 g).withD (c.code * 8 + p.val)).withA a).withX imm.toNat)
  | .plog g tt p pa pb =>
      some (((((Fields.base 0x32 g).withD p.val).rawA pa.val).rawB pb.val).withX (tt.val * 2 ^ 28))
  | .sel g d a b c => some (((((Fields.base 0x33 g).withD d.val).withA a).withB b).withX (c.val * 2 ^ 19))
  | .bfx g d a lsb width => some (encodeImm 0x34 g d a (width * 64 + lsb.val))
  | .bfi g d a lsb width => some (encodeImm 0x35 g d a (width * 64 + lsb.val))
  | .ext g sx d a width => some (encodeImm 0x36 g d a (sx.toNat * 2 ^ 13 + width * 64))
  | .li g d imm => some (((Fields.base 0x37 g).withD d.val).withX imm.toNat)
  | .lih g d imm => some (((Fields.base 0x38 g).withD d.val).withX imm.toNat)
  | .br g off => some ((Fields.base 0x39 g).withX off.toNat)
  | .call g d off => some (((Fields.base 0x3A g).withD d.val).withX off.toNat)
  | .jr g d a off => some (encodeImm 0x3B g d a off.toNat)
  | .loop g level a off => some ((((Fields.base 0x3C g).withD level.val).withA a).withX off.toNat)
  | .tend g => some (Fields.base 0x3D g)
  | .push g a => some ((Fields.base 0x3E g).withA a)
  | .pop g d => some ((Fields.base 0x3F g).withD d.val)
  | .ld g sz cp d a off => some (encodeImm 0x40 g d a (xM sz.code 0 0 cp.code off.toNat))
  | .ldx g sz cp d a b k =>
      some (((((Fields.base 0x41 g).withD d.val).withA a).withB b).withX (xM sz.code 0 0 cp.code k.val))
  | .ldacq g sz sc d a off => some (encodeImm 0x44 g d a (xM sz.code sc.code 0 0 off.toNat))
  | .st g sz cp b a off =>
      some ((((Fields.base 0x42 g).withA a).withB b).withX (xM sz.code 0 0 cp.code off.toNat))
  | .stx g sz cp d a b k =>
      some (((((Fields.base 0x43 g).withD d.val).withA a).withB b).withX (xM sz.code 0 0 cp.code k.val))
  | .strel g sz sc b a off =>
      some ((((Fields.base 0x45 g).withA a).withB b).withX (xM sz.code sc.code 0 0 off.toNat))
  | .fence g o sc => some ((Fields.base 0x46 g).withX (xM 0 sc.code o.code 0 0))
  | .amo g op sz o sc d b a off =>
      some (((((Fields.base 0x47 g).withD d.val).withA a).withB b).withX
        (xM sz.code sc.code o.code 0 (op.code * 2 ^ 16 + off.toNat)))
  | .cas g sz o sc d b a off =>
      some (((((Fields.base 0x48 g).withD d.val).withA a).withB b).withX
        (xM sz.code sc.code o.code 0 off.toNat))
  | .pref g cp a off => some (((Fields.base 0x49 g).withA a).withX (xM 0 0 0 cp.code off.toNat))
  | .cwb g sc a b => some ((((Fields.base 0x4A g).withA a).withB b).withX (xM 0 sc.code 0 0 0))
  | .cinv g sc a b => some ((((Fields.base 0x4B g).withA a).withB b).withX (xM 0 sc.code 0 0 0))
  | .cwbi g sc a b => some ((((Fields.base 0x4C g).withA a).withB b).withX (xM 0 sc.code 0 0 0))
  | .feed g f q b tag pkt eok eor eos sx esz =>
      some (((((Fields.base 0x60 g).withD f.val).rawA q.val).withB b).withX
        (tag.val * 256 + pkt.toNat * 64 + eok.toNat * 32 + eor.toNat * 16 + eos.toNat * 8
          + sx.toNat * 4 + esz.code))
  | .sink g k q b pkt esz =>
      some (((((Fields.base 0x61 g).withD k.val).rawA q.val).withB b).withX (pkt.toNat * 64 + esz.code))
  | .inj g f b tag => some ((((Fields.base 0x62 g).withD f.val).withB b).withX (tag.val * 256))
  | .take g d k => some (((Fields.base 0x63 g).withD k.val).rawA d.val)
  | .tok g kind f b tag =>
      some ((((Fields.base 0x64 g).withD f.val).withB b).withX (kind.code * 2 ^ 12 + tag.val * 256))
  | .portq g d port sink => some ((((Fields.base 0x65 g).withD port.val).rawA d.val).withX sink.toNat)
  | .sbar g b => some ((Fields.base 0x66 g).withB b)
  | .accrst g ac b => some (((Fields.base 0x67 g).withD ac.val).withB b)
  | .cfgld g q b => some (((Fields.base 0x68 g).withD q.val).withB b)
  | .qset g f q a => some ((((Fields.base 0x69 g).withD q.val).withA a).withX f.code)
  | .qld g q a => some (((Fields.base 0x6A g).withD q.val).withA a)
  | .qadv g q a => some (((Fields.base 0x6B g).withD q.val).withA a)
  | .cpy g esz d qa qb tl =>
      some (((((Fields.base 0x80 g).withD d.val).rawA qa.val).rawB qb.val).withX (xE tl.val 0 esz.code))
  | .cpymx g esz d qa qb tl =>
      some (((((Fields.base 0x81 g).withD d.val).rawA qa.val).rawB qb.val).withX (xE tl.val 0 esz.code))
  | .cpyq g bf rm blk fd d qa qb tl =>
      some (((((Fields.base 0x82 g).withD d.val).rawA qa.val).rawB qb.val).withX
        (xE tl.val fd.toNat (rm.code * 8 + blk.code * 2 + bf.toNat)))
  | .gemv g acc fd d qa qb tl qm =>
      some (((((Fields.base 0x83 g).withD d.val).rawA qa.val).rawB qb.val).withX
        (xE tl.val fd.toNat (acc.toNat * 16 + qm.val)))
  | .tlwait g none tl a => some (((Fields.base 0x84 g).withA a).withX (xE tl.val 0 0))
  | .tlwait g (some sc) tl a => some (((Fields.base 0x84 g).withA a).withX (xE tl.val 0 (8 + sc.code)))
  | .tlread g d tl => some (((Fields.base 0x85 g).withD d.val).withX (xE tl.val 0 0))
  | .tlnum g d tl => some (((Fields.base 0x86 g).withD d.val).withX (xE tl.val 0 0))
  | .sleept g a => some ((Fields.base 0x87 g).withA a)
  | .sleeptP g a tl b => some ((((Fields.base 0x87 g).withA a).withB b).withX (xE tl.val 0 1))
  | .time g d => some ((Fields.base 0x88 g).withD d.val)
  | .cyc g d => some ((Fields.base 0x89 g).withD d.val)
  | .mxcfg g keep t a slot =>
      some ((((Fields.base 0xA0 g).withD t.val).withA a).withX (keep.toNat * 4 + slot.val))
  | .mxrel g t => some ((Fields.base 0xA1 g).withD t.val)
  | .mxz g t tl => some (((Fields.base 0xA2 g).withD t.val).withX (xX 0 tl.val 0))
  | .mxldt g fmt t q tl =>
      some ((((Fields.base 0xA3 g).withD t.val).rawA (16 + q.val)).withX (xX fmt.code tl.val 0))
  | .mxmm g acc t sa sb k tl =>
      some (((((Fields.base 0xA4 g).withD t.val).rawA sa.code).rawB sb.code).withX
        (xX k.toNat tl.val (acc.toNat * 2 ^ 12)))
  | .mxmms g acc t sa sb k tl =>
      some (((((Fields.base 0xA5 g).withD t.val).rawA sa.code).rawB sb.code).withX
        (xX k.toNat tl.val (acc.toNat * 2 ^ 12)))
  | .mxfmt g slot fd rm ph step =>
      some ((Fields.base 0xA6 g).withX
        (fd.toNat * 2 ^ 16 + step.val * 512 + ph.val * 32 + rm.code * 4 + slot.val))
  | .mxrt g route t => some (((Fields.base 0xA7 g).withD t.val).withX route.code)
  | .mxdrn g ws t tl => some (((Fields.base 0xA8 g).withD t.val).withX (xX 0 tl.val (ws.toNat * 2 ^ 12)))
  | .mxchk g t tl => some (((Fields.base 0xA9 g).withD t.val).withX (xX 0 tl.val 0))
  | .mxst g fmt t q tl =>
      some ((((Fields.base 0xAA g).withD t.val).rawA (16 + q.val)).withX (xX fmt.code tl.val 0))
  | .twset g inv slot => some ((Fields.base 0xB0 g).withX (inv.toNat * 16 + slot.val))
  | .twsetGen g inv t n tl =>
      some (((Fields.base 0xB0 g).withD t.val).withX (xX n tl.val (2 ^ 12 + inv.toNat * 16)))
  | .bfplan g slot a b => some ((((Fields.base 0xB1 g).withA a).withB b).withX slot.val)
  | .bfrev g bf re t q tl =>
      some ((((Fields.base 0xB2 g).withD t.val).rawA (16 + q.val)).withX
        (xX (1 + bf.toNat) tl.val (re.toNat * 2 ^ 12)))
  | .bfstg g t k tl => some (((Fields.base 0xB3 g).withD t.val).withX (xX k tl.val 0))
  | .bfrun g t tl => some (((Fields.base 0xB4 g).withD t.val).withX (xX 0 tl.val 0))
  | .rktab g recon slot q tl =>
      some (((Fields.base 0xB8 g).rawA (16 + q.val)).withX (xX 0 tl.val (recon.toNat * 16 + slot.val)))
  | .rkcut g slot a => some (((Fields.base 0xB9 g).withA a).withX slot.val)
  | .rknet g ws t d dst row0 nvm1 tl =>
      some (((((Fields.base 0xBA g).withD t.val).rawA d.val).rawB dst.code).withX
        (xX (vecHi row0 nvm1) tl.val (ws.toNat * 2 ^ 12)))
  | .mxrank g acc t src q row0 nvm1 tl =>
      some (((((Fields.base 0xBB g).withD t.val).rawA src.code).rawB (16 + q.val)).withX
        (xX (vecHi row0 nvm1) tl.val (acc.toNat * 2 ^ 12)))
  | .rkval g t src row0 nvm1 tl =>
      some ((((Fields.base 0xBC g).withD t.val).rawA src.code).withX (xX (vecHi row0 nvm1) tl.val 0))
  | .rktrc g t d q row0 nvm1 tl =>
      some (((((Fields.base 0xBD g).withD t.val).rawA d.val).rawB (16 + q.val)).withX
        (xX (vecHi row0 nvm1) tl.val 0))
  | .tspawn g d a entry => some (encodeImm 0xC0 g d a entry.toNat)
  | .tbind g vc => some ((Fields.base 0xC1 g).withX vc.val)
  | .waitv g d vc => some (((Fields.base 0xC2 g).withD d.val).withX vc.val)
  | .sendv g a b vc => some ((((Fields.base 0xC3 g).withA a).withB b).withX vc.val)
  | .tyield g => some (Fields.base 0xC4 g)
  | .twake g mask => some ((Fields.base 0xC5 g).withX mask.toNat)
  | .tprio g prio => some ((Fields.base 0xC6 g).withX prio.val)
  | .rbar g id => some ((Fields.base 0xC7 g).withX id.val)
  | .gbar g a b => some (((Fields.base 0xC8 g).withA a).withB b)
  | .launch g d a => some (((Fields.base 0xC9 g).withD d.val).withA a)
  | .lqry g d sel => some (((Fields.base 0xCA g).withD d.val).withX sel.val)
  | .stageq g d sel => some (((Fields.base 0xCB g).withD d.val).withX sel.val)
  | .ctlr g d idx => some (((Fields.base 0xE0 g).withD d.val).withX idx.toNat)
  | .ctlw g idx a => some (((Fields.base 0xE1 g).withA a).withX idx.toNat)
  | .ctls g idx a => some (((Fields.base 0xE2 g).withA a).withX idx.toNat)
  | .ctlc g idx a => some (((Fields.base 0xE3 g).withA a).withX idx.toNat)
  | .svc g code => some ((Fields.base 0xE4 g).withX (code.val * 2 ^ 16))
  | .cntr g d n => some (((Fields.base 0xE5 g).withD d.val).withX n.val)
  | .capr g d a => some (((Fields.base 0xE6 g).withD d.val).withA a)
  | .trap g code => some ((Fields.base 0xF0 g).withX (code.toNat * 2 ^ 16))
  | .rett g => some (Fields.base 0xF1 g)
  | .snap g mask => some ((Fields.base 0xF2 g).withX mask.toNat)
  | .xsave g a slot => some (((Fields.base 0xF3 g).withA a).withX slot.val)
  | .xload g a slot => some (((Fields.base 0xF4 g).withA a).withX slot.val)
  | .halt g => some (Fields.base 0xF5 g)
  | .ebrk g code => some ((Fields.base 0xF6 g).withX (code.toNat * 2 ^ 16))
  | .cutreq g => some (Fields.base 0xF7 g)
  | .unassignedOpcode w => some (Fields.unpack w.toNat)
  | _ => none

/-- The word of an instruction that has an encoding. -/
def encode (i : Instr) : Option Word := (encodeFields i).map fun f => BitVec.ofNat 64 f.pack

/-- The instruction is a row of Table 3.6, or a word of an unassigned opcode: it has a word. -/
def Instr.encodable (i : Instr) : Bool := (encodeFields i).isSome

end Sys2Proof
end

