-- ==== Sys2Proof/Config.lean ====
section
/-! DEFINITION. What the manual leaves open: free values, each an uninterpreted constant that nothing
in Lean can evaluate (assumption log). -/

namespace Sys2Proof

/-- A fresh free word for each value of the step counter (log 2). -/
opaque Config.freeWord : Nat → Word

/-- Payload of a delimiter or token that an element or a port makes itself, where the manual states
none (log 21). -/
opaque Config.tokenPayload : Nat → W32

/-- Ticks by which the time base of a die advances after a step (log 2). -/
opaque Config.timeAdvance : Nat → Nat

/-- Cycles by which the counters of a die advance after a step (log 2). -/
opaque Config.cycleAdvance : Nat → Nat

/-- The set of a slice that a line maps to, below 1,024 (log 9). -/
opaque Config.cacheSet : Nat → Nat

/-- The dimension-order bit chosen at an injection (R361, log 10). -/
opaque Config.routeBit : Nat → Bool

/-- Version field of a capability entry, by id (R425, log 27). -/
opaque Config.capVersion : Nat → BitVec 8

/-- Number of this device (R31). -/
opaque Config.deviceNumber : BitVec 18

/-- The vendor's certificate of the device identity key (R423). -/
opaque Config.certificate : List Byte

/-- Private scalar of a die's device identity key (R423, log 5). -/
opaque Config.identityKey : Nat → Nat

/-- Draws of the entropy source, by serial number (R435, R424, log 5). -/
opaque Config.entropy : Nat → Nat

/-- The boot stage's measurement of itself and the measurement of an image (R420, log 5); the baseline
image in ROM is measured as the empty list. -/
opaque Config.romMeasure : BitVec 384
opaque Config.imageMeasure : List Byte → BitVec 384

/-- The version of a firmware image whose vendor signature verifies, none for one that fails (R420, R422,
log 5). -/
opaque Config.imageVersion : List Byte → Option Word

/-- Version of the baseline Gelesque in ROM (R420, log 5). -/
opaque Config.baselineVersion : Word

/-- A vendor-signed or owner-signed supervisor image serves a partition (R418, log 28). -/
opaque Config.supervisor : Nat → Bool

/-- What a partition supervisor answers to a block sent with CODE 1, by serial number: a status, or the
block passed on to Gelesque (R449, log 15). -/
opaque Config.supReply : Nat → Option (BitVec 16)

/-- Predicted end of life in hours that the monitor of a unit reads at a step (R485, log 17): cores by their
index, other units by 256 plus their selector. -/
opaque Config.wearHours : Nat → Nat → Word

/-- What HBM holds after a module reset, by the number of steps before it (R530, log 4). -/
opaque Config.hbmAfterReset : Nat → List (Nat × Byte)

end Sys2Proof
end

