-- ==== Sys2Proof/Machine/Num.lean ====
section
/-! DEFINITION. Number formats, rounding and conversions (04, R106 to R122). Exact values are
fractions of integers, so every operation computes exactly and rounds once. -/

namespace Sys2Proof.Machine

/-- Sticky flags in the bit order of `FPFLAGS` (Table 2.7): DZF NV OF UF NX from bit 4. -/
abbrev Flags := BitVec 5

def flagNX : Flags := 1#5
def flagUF : Flags := 2#5
def flagOF : Flags := 4#5
def flagNV : Flags := 8#5
def flagDZ : Flags := 16#5

/-- The flag when a condition holds. -/
def flagIf (c : Bool) (f : Flags) : Flags := if c then f else 0#5

/-- An exact rational value; `den` is positive. -/
structure Q where
  num : Int
  den : Nat
deriving DecidableEq, Repr

def Q.zero : Q := ⟨0, 1⟩
def Q.ofInt (n : Int) : Q := ⟨n, 1⟩
def Q.neg (a : Q) : Q := ⟨-a.num, a.den⟩
def Q.abs (a : Q) : Q := ⟨a.num.natAbs, a.den⟩

/-- Sum over the larger denominator when it is a multiple of the smaller. -/
def Q.add (a b : Q) : Q :=
  if a.den = b.den then ⟨a.num + b.num, a.den⟩
  else if a.den % b.den = 0 then ⟨a.num + b.num * (a.den / b.den : Nat), a.den⟩
  else if b.den % a.den = 0 then ⟨a.num * (b.den / a.den : Nat) + b.num, b.den⟩
  else ⟨a.num * (b.den : Nat) + b.num * (a.den : Nat), a.den * b.den⟩

def Q.sub (a b : Q) : Q := a.add b.neg
def Q.mul (a b : Q) : Q := ⟨a.num * b.num, a.den * b.den⟩

/-- Quotient of a by a nonzero b. -/
def Q.div (a b : Q) : Q :=
  if b.num < 0 then ⟨-(a.num * (b.den : Nat)), a.den * b.num.natAbs⟩
  else ⟨a.num * (b.den : Nat), a.den * b.num.natAbs⟩

def Q.lt (a b : Q) : Bool := decide (a.num * (b.den : Nat) < b.num * (a.den : Nat))
def Q.le (a b : Q) : Bool := decide (a.num * (b.den : Nat) ≤ b.num * (a.den : Nat))
def Q.eq (a b : Q) : Bool := decide (a.num * (b.den : Nat) = b.num * (a.den : Nat))
def Q.isZero (a : Q) : Bool := decide (a.num = 0)

/-- 2^e. -/
def Q.pow2 (e : Int) : Q := if 0 ≤ e then ⟨(2 ^ e.toNat : Nat), 1⟩ else ⟨1, 2 ^ (-e).toNat⟩

def Q.sum (l : List Q) : Q := l.foldl Q.add Q.zero

/-- A value of a number format: a NaN (signalling or quiet), an infinity, or a finite value; `neg`
is the sign, kept for zeros. -/
inductive Val
  | nan (sig : Bool)
  | inf (neg : Bool)
  | fin (neg : Bool) (q : Q)
deriving DecidableEq, Repr

def Val.ofQ (q : Q) : Val := .fin (decide (q.num < 0)) q
def Val.isNan : Val → Bool
  | .nan _ => true
  | _ => false
def Val.isSig : Val → Bool
  | .nan s => s
  | _ => false
def Val.isZero : Val → Bool
  | .fin _ q => q.isZero
  | _ => false
def Val.isInf : Val → Bool
  | .inf _ => true
  | _ => false
def Val.sign : Val → Bool
  | .nan _ => false
  | .inf n => n
  | .fin n _ => n

/-! ## Formats -/

def fp64 : Narrow := ⟨64, 11, true, 2, 1023⟩
def fp32 : Narrow := ⟨32, 8, true, 2, 127⟩
def bf16 : Narrow := ⟨16, 8, true, 2, 127⟩
def fp16 : Narrow := ⟨16, 5, true, 2, 15⟩
/-- An integer format of `w` bits (e = 0, R112). -/
def intFmt (w : Nat) (s : Bool) : Narrow := ⟨w, 0, s, 0, 0⟩

/-- The type codes of Table 3.3 (R106). -/
def fmtOfTy : NumTy → Narrow
  | .fp64 => fp64 | .fp32 => fp32 | .bf16 => bf16 | .fp16 => fp16
  | .int8 => intFmt 8 true | .uint8 => intFmt 8 false | .int16 => intFmt 16 true
  | .int32 => intFmt 32 true | .int64 => intFmt 64 true

/-- The format that a valid FD names (R110). -/
def fmtOf (fd : BitVec 16) : Narrow :=
  match fd.toNat with
  | 0 => fp64 | 1 => fp32 | 2 => bf16 | 3 => fp16 | 4 => intFmt 8 true | 5 => intFmt 8 false
  | 6 => intFmt 16 true | 7 => intFmt 32 true | 8 => intFmt 64 true
  | _ => narrowOf fd

def Narrow.isInt (f : Narrow) : Bool := f.e == 0

/-- Code of the largest finite magnitude (R112). -/
def Narrow.maxCode (f : Narrow) : Nat :=
  if f.spec == 2 then (2 ^ f.e - 1) * 2 ^ f.m - 1
  else if f.spec == 1 then 2 ^ (f.e + f.m) - 2
  else 2 ^ (f.e + f.m) - 1

/-- Magnitude code of the infinity of policy 2. -/
def Narrow.infCode (f : Narrow) : Nat := (2 ^ f.e - 1) * 2 ^ f.m

/-- The canonical NaN (Table 4.1, R112); code 0 under policy 0 (Table 4.5). -/
def Narrow.nanCode (f : Narrow) : Nat :=
  if f.spec == 2 then f.infCode + 2 ^ (f.m - 1)
  else if f.spec == 1 then 2 ^ (f.e + f.m) - 1 else 0

/-- The code with its sign bit (unsigned formats have none). -/
def Narrow.signed (f : Narrow) (neg : Bool) (mag : Nat) : Nat :=
  if neg && f.s then 2 ^ (f.w - 1) + mag else mag

/-- Value of a magnitude code (R112, R106). -/
def Narrow.magVal (f : Narrow) (c : Nat) : Q :=
  let m := f.m
  let ex := c / 2 ^ m
  let mant := c % 2 ^ m
  if ex = 0 then Q.mul (Q.ofInt mant) (Q.pow2 (1 - (f.bias : Int) - m))
  else Q.mul (Q.ofInt ((2 ^ m + mant : Nat) : Int)) (Q.pow2 ((ex : Int) - f.bias - m))

/-- maxfin(f) (R112). -/
def Narrow.maxfin (f : Narrow) : Q :=
  if f.isInt then Q.ofInt ((2 ^ (f.w - (if f.s then 1 else 0)) - 1 : Nat) : Int) else f.magVal f.maxCode

/-- Decoding of a code (R106, R112); bits above the width are ignored. -/
def decodeNum (f : Narrow) (code : Nat) : Val :=
  let c := code % 2 ^ f.w
  if f.isInt then
    if f.s && decide (2 ^ (f.w - 1) ≤ c) then Val.ofQ (Q.ofInt ((c : Int) - (2 ^ f.w : Nat)))
    else Val.ofQ (Q.ofInt c)
  else
    let neg := f.s && decide (2 ^ (f.w - 1) ≤ c)
    let mag := if neg then c - 2 ^ (f.w - 1) else c
    if f.spec == 1 && mag == 2 ^ (f.e + f.m) - 1 then .nan false
    else if f.spec == 2 && decide (f.infCode ≤ mag) then
      if mag == f.infCode then .inf neg
      else .nan (decide (mag % 2 ^ f.m < 2 ^ (f.m - 1)))
    else
      let q := f.magVal mag
      .fin neg (if neg then q.neg else q)

/-! ## Rounding -/

/-- A rounding: the mode of R76 and, for DITH, the position j + φ (R118). -/
structure Rnd where
  rm : Rm
  k  : Nat
deriving DecidableEq, Repr

def rne : Rnd := ⟨.rne, 0⟩

/-- The dither table D of R118. -/
def dithD (k : Nat) : Nat :=
  match k % 16 with
  | 0 => 0 | 1 => 8 | 2 => 4 | 3 => 12 | 4 => 2 | 5 => 10 | 6 => 6 | 7 => 14
  | 8 => 1 | 9 => 9 | 10 => 5 | 11 => 13 | 12 => 3 | 13 => 11 | 14 => 7 | _ => 15

/-- Rounds the magnitude n/d of a value of the given sign to an integer (R116, R118). -/
def roundMag (r : Rnd) (neg : Bool) (n d : Nat) : Nat :=
  let q := n / d
  let x := n % d
  if x = 0 then q else
  let up : Bool := match r.rm with
    | .rne => decide (d < 2 * x) || (decide (2 * x = d) && q % 2 == 1)
    | .rtz => false
    | .rup => !neg
    | .rdn => neg
    | .rna => decide (d ≤ 2 * x)
    | .dith =>
      let o := 2 * dithD r.k + 1
      if neg then decide (o * d < 32 * x) else decide (32 * d ≤ 32 * x + o * d)
  if up then q + 1 else q

/-- ⌊log₂(n/d)⌋ for n ≠ 0. -/
def ilog2 (n d : Nat) : Int :=
  let e : Int := (Nat.log2 n : Int) - Nat.log2 d
  let ge : Bool := if 0 ≤ e then decide (d * 2 ^ e.toNat ≤ n) else decide (d ≤ n * 2 ^ (-e).toNat)
  if ge then e else e - 1

/-- n/d divided by 2^u, as a fraction. -/
def scaleBy (n d : Nat) (u : Int) : Nat × Nat :=
  if 0 ≤ u then (n, d * 2 ^ u.toNat) else (n * 2 ^ (-u).toNat, d)

/-- The magnitude code of the value q·2^u, which the format can hold apart from its range. -/
def Narrow.codeOf (f : Narrow) (q : Nat) (u : Int) : Int :=
  if q = 0 then 0 else
  let m : Int := f.m
  let u2 := max ((Nat.log2 q : Int) + u - m) (1 - (f.bias : Int) - m)
  let qq : Int := ((if u2 ≤ u then q * 2 ^ (u - u2).toNat else q / 2 ^ (u2 - u).toNat : Nat) : Int)
  (u2 + f.bias + m) * (2 ^ f.m : Nat) + qq - (2 ^ f.m : Nat)

/-- The code delivered on overflow (R117). -/
def Narrow.overflow (f : Narrow) (rm : Rm) (neg : Bool) : Nat :=
  let toInf : Bool := f.spec == 2 && (match rm with
    | .rne => true | .rna => true | .dith => true | .rtz => false | .rup => !neg | .rdn => neg)
  f.signed neg (if toInf then f.infCode else f.maxCode)

/-- Rounds an exact value into a float format with `mp` stored significand bits (R109, R116 to
R118); `mp` is the format's own m but for the seeds of R129. `z` is the sign of a zero. -/
def roundFloat (f : Narrow) (mp : Nat) (r : Rnd) (z : Bool) (v : Q) : Nat × Flags :=
  if v.num = 0 then (f.signed z 0, 0#5) else
  let neg := decide (v.num < 0)
  let n := v.num.natAbs
  let ex := ilog2 n v.den
  let uu := ex - mp
  let u := max uu (1 - (f.bias : Int) - f.m)
  let s := scaleBy n v.den u
  let q := roundMag r neg s.1 s.2
  let inexact := decide (s.1 % s.2 ≠ 0)
  let s' := scaleBy n v.den uu
  let q' := roundMag r neg s'.1 s'.2
  let tiny := Q.lt (Q.mul (Q.ofInt q') (Q.pow2 uu)) (Q.pow2 (1 - (f.bias : Int)))
  let code := f.codeOf q u
  if neg && !f.s && q != 0 then (0, flagNV)
  else if decide ((f.maxCode : Int) < code) then (f.overflow r.rm neg, flagOF ||| flagNX)
  else (f.signed neg code.toNat, flagIf inexact flagNX ||| flagIf (inexact && tiny) flagUF)

/-- Range of an integer format. -/
def Narrow.intMin (f : Narrow) : Int := if f.s then -((2 ^ (f.w - 1) : Nat) : Int) else 0
def Narrow.intMax (f : Narrow) : Int := ((2 ^ (f.w - (if f.s then 1 else 0)) - 1 : Nat) : Int)

/-- Two's-complement code of an integer. -/
def Narrow.intCode (f : Narrow) (n : Int) : Nat := (n % ((2 ^ f.w : Nat) : Int)).toNat

/-- Rounds and saturates into an integer format (Table 4.5). -/
def roundInt (f : Narrow) (r : Rnd) (v : Q) : Nat × Flags :=
  let neg := decide (v.num < 0)
  let n := v.num.natAbs
  let q := roundMag r neg n v.den
  let i : Int := if neg then -(q : Int) else q
  if i < f.intMin then (f.intCode f.intMin, flagNV)
  else if f.intMax < i then (f.intCode f.intMax, flagNV)
  else (f.intCode i, flagIf (decide (n % v.den ≠ 0)) flagNX)

/-- Conversion into a format (R120, Table 4.5). `fromInt`: the source format is an integer one,
whose conversions report OF and NX only. -/
def convertNum (f : Narrow) (r : Rnd) (fromInt : Bool) (v : Val) : Nat × Flags :=
  match v with
  | .nan sig =>
    if f.isInt then (0, flagNV)
    else (f.nanCode, flagIf (sig || f.spec == 0) flagNV)
  | .inf neg =>
    if f.isInt then (f.intCode (if neg then f.intMin else f.intMax), flagNV)
    else if neg && !f.s then (0, flagNV)
    else if f.spec == 2 then (f.signed neg f.infCode, 0#5)
    else (f.signed neg f.maxCode, flagOF ||| flagNX)
  | .fin z q =>
    if f.isInt then roundInt f r q
    else
      let x := roundFloat f f.m r z q
      (x.1, if fromInt then x.2 &&& ~~~flagUF else x.2)

/-! ## Exact operations -/

/-- The invalid result: a quiet NaN with NV. -/
def invalidNum : Val × Flags := (.nan false, flagNV)

/-- NaN operands give a quiet NaN, NV for a signalling one (R108). -/
def nanNum (l : List Val) : Val × Flags := (.nan false, flagIf (l.any Val.isSig) flagNV)

/-- a + b; the sign of an exact zero sum follows R116. -/
def addNum (rm : Rm) (a b : Val) : Val × Flags :=
  match a, b with
  | .fin x p, .fin y q =>
    let s := p.add q
    if s.isZero then
      (.fin (if p.isZero && q.isZero && x == y then x else decide (rm = .rdn)) Q.zero, 0#5)
    else (Val.ofQ s, 0#5)
  | .inf x, .inf y => if x == y then (.inf x, 0#5) else invalidNum
  | .inf x, .fin _ _ => (.inf x, 0#5)
  | .fin _ _, .inf y => (.inf y, 0#5)
  | _, _ => nanNum [a, b]

def negNum : Val → Val
  | .nan s => .nan s
  | .inf n => .inf (!n)
  | .fin n q => .fin (!n) q.neg

def subNum (rm : Rm) (a b : Val) : Val × Flags := addNum rm a (negNum b)

/-- a · b. -/
def mulNum (a b : Val) : Val × Flags :=
  match a, b with
  | .fin x p, .fin y q => (.fin (xor x y) (p.mul q), 0#5)
  | .inf x, .inf y => (.inf (xor x y), 0#5)
  | .inf x, .fin y q => if q.isZero then invalidNum else (.inf (xor x y), 0#5)
  | .fin x p, .inf y => if p.isZero then invalidNum else (.inf (xor x y), 0#5)
  | _, _ => nanNum [a, b]

/-- a / b (R141). -/
def divNum (a b : Val) : Val × Flags :=
  match a, b with
  | .fin x p, .fin y q =>
    if q.isZero then (if p.isZero then invalidNum else (.inf (xor x y), flagDZ))
    else (.fin (xor x y) (p.div q), 0#5)
  | .inf _, .inf _ => invalidNum
  | .inf x, .fin y _ => (.inf (xor x y), 0#5)
  | .fin x _, .inf y => (.fin (xor x y) Q.zero, 0#5)
  | _, _ => nanNum [a, b]

/-- a · b + c with one rounding to come (R141): an invalid product sets NV even with a quiet c. -/
def fmaNum (rm : Rm) (a b c : Val) : Val × Flags :=
  let p := mulNum a b
  if a.isNan || b.isNan || c.isNan then (.nan false, p.2 ||| (nanNum [c]).2)
  else
    let s := addNum rm p.1 c
    (s.1, p.2 ||| s.2)

/-- Newton's iteration from above for the integer square root. -/
def isqrtAux (n : Nat) : Nat → Nat → Nat
  | 0, x => x
  | fuel + 1, x => let y := (x + n / x) / 2; if y < x then isqrtAux n fuel y else x

/-- ⌊√n⌋. -/
def isqrt (n : Nat) : Nat :=
  if n = 0 then 0 else isqrtAux n (Nat.log2 n + 2) (2 ^ (Nat.log2 n / 2 + 1))

/-- √(n/d) to `k` fractional bits; an irrational root is replaced by the midpoint of its last place,
which rounds as the root does at every coarser precision. -/
def sqrtQ (n d k : Nat) : Q :=
  let x := n * 4 ^ k
  let s := isqrt (x / d)
  if s * s * d = x then ⟨s, 2 ^ k⟩ else ⟨2 * s + 1, 2 ^ (k + 1)⟩

/-- Enough fractional bits that `sqrtQ` carries `extra` significant ones. -/
def sqrtBits (n d extra : Nat) : Nat := (extra : Int).toNat + (max 0 (-(ilog2 n d))).toNat

/-- √a (R141). -/
def sqrtNum (a : Val) : Val × Flags :=
  match a with
  | .nan s => nanNum [.nan s]
  | .inf true => invalidNum
  | .inf false => (.inf false, 0#5)
  | .fin z q =>
    if q.isZero then (.fin z Q.zero, 0#5)
    else if q.num < 0 then invalidNum
    else (Val.ofQ (sqrtQ q.num.natAbs q.den (sqrtBits q.num.natAbs q.den 64)), 0#5)

/-- Rounds an exact result into a float format; a NaN is the canonical one (R108). -/
def deliverNum (f : Narrow) (rm : Rm) (x : Val × Flags) : Nat × Flags :=
  let y := convertNum f ⟨rm, 0⟩ false (match x.1 with | .nan _ => .nan false | v => v)
  (y.1, x.2 ||| y.2)

/-! ## Comparison, minimum, maximum and class -/

/-- a < b for numbers; false with a NaN. -/
def ltNum (a b : Val) : Bool :=
  match a, b with
  | .fin _ p, .fin _ q => p.lt q
  | .inf x, .inf y => x && !y
  | .inf x, .fin _ _ => x
  | .fin _ _, .inf y => !y
  | _, _ => false

/-- a = b for numbers, −0 equal to +0; false with a NaN. -/
def eqNum (a b : Val) : Bool :=
  match a, b with
  | .fin _ p, .fin _ q => p.eq q
  | .inf x, .inf y => x == y
  | _, _ => false

/-- FMIN and FMAX on codes (R142): the operand is returned unrounded. -/
def minMaxNum (f : Narrow) (isMax : Bool) (a b : Nat) : Nat × Flags :=
  let x := decodeNum f a
  let y := decodeNum f b
  let fl := flagIf (x.isSig || y.isSig) flagNV
  if x.isNan && y.isNan then (f.nanCode, fl)
  else if x.isNan then (b % 2 ^ f.w, fl)
  else if y.isNan then (a % 2 ^ f.w, fl)
  else
    let less := ltNum x y || (eqNum x y && x.sign && !y.sign)
    (if (if isMax then !less else less) then a % 2 ^ f.w else b % 2 ^ f.w, fl)

/-- The class mask of R144, for FP32 and FP64. -/
def classNum (f : Narrow) (code : Nat) : Nat :=
  match decodeNum f code with
  | .nan true => 2 ^ 8
  | .nan false => 2 ^ 9
  | .inf true => 2 ^ 0
  | .inf false => 2 ^ 7
  | .fin z q =>
    if q.isZero then (if z then 2 ^ 3 else 2 ^ 4)
    else if Q.lt q.abs (Q.pow2 (1 - (f.bias : Int))) then (if z then 2 ^ 2 else 2 ^ 5)
    else (if z then 2 ^ 1 else 2 ^ 6)

/-- Sign operations of FSGN (R143). -/
def signNum (f : Narrow) (op : SgnOp) (a b : Nat) : Nat :=
  let top := 2 ^ (f.w - 1)
  let sa := a / top % 2
  let sb := b / top % 2
  let s := match op with | .j => sb | .jn => 1 - sb | .jx => (sa + sb) % 2
  a % top + s * top

/-! ## Block scales, quantiser, decoder -/

/-- The value of a block scale code (R113); `none` is the NaN scale. -/
def scaleVal (c : Nat) : Option Q :=
  if 0x1FE ≤ c then none
  else if c = 0 then some Q.zero
  else if c = 1 then some (Q.pow2 (-127))
  else
    let e := c / 2
    some (Q.mul ⟨if c % 2 = 1 then 3 else 2, 1⟩ (Q.pow2 ((e : Int) - 128)))

/-- The smallest scale code from `c` on, of `fuel` codes, whose quotient meets maxfin. -/
def scaleSearch (f : Narrow) (mx : Q) : Nat → Nat → Nat
  | 0, _ => 0x1FD
  | fuel + 1, c =>
    match scaleVal c with
    | some s => if Q.le mx (Q.mul s f.maxfin) then c else scaleSearch f mx fuel (c + 1)
    | none => 0x1FD

/-- Conversion of element j of a block with scale σ (R121). -/
def quantElem (f : Narrow) (rm : Rm) (phase j : Nat) (σ : Q) (v : Val) : Nat × Flags :=
  match v with
  | .inf neg =>
    if f.spec == 2 then (f.signed neg f.infCode, 0#5)
    else if neg && !f.s then (0, flagNV)
    else if f.isInt then (f.intCode (if neg then -f.intMax else f.intMax), flagOF ||| flagNX)
    else (f.signed neg f.maxCode, flagOF ||| flagNX)
  | .fin z q =>
    convertNum f ⟨rm, j + phase⟩ false (.fin z (q.div σ))
  | .nan _ => (0, 0#5)

/-- The block quantiser (R121): the scale code, the codes of the values given, and the flags. The
codes of missing elements are zero. -/
def quantBlock (f : Narrow) (rm : Rm) (phase : Nat) (xs : List Val) : Nat × List Nat × Flags :=
  if xs.any Val.isNan then
    (0x1FE, xs.map (fun _ => 0), flagIf (xs.any Val.isSig) flagNV)
  else
    let mx := xs.foldl (fun m v => match v with
      | .fin _ q => if m.lt q.abs then q.abs else m
      | _ => m) Q.zero
    let sc := if mx.isZero then 1 else scaleSearch f mx 0x1FD 1
    let σ := (scaleVal sc).getD Q.zero
    let cs := xs.zipIdx.map (fun p => quantElem f rm phase p.2 σ p.1)
    (sc, cs.map (·.1), cs.foldl (fun a p => a ||| p.2) 0#5)

/-- decode(c)·σ (R122); σ is `none` for the NaN scale. -/
def decodeScaled (f : Narrow) (σ : Option Q) (code : Nat) : Val :=
  match σ with
  | none => .nan false
  | some s =>
    match decodeNum f code with
    | .nan sig => .nan sig
    | .inf n => if s.isZero then .nan false else .inf n
    | .fin n q => .fin n (q.mul s)

/-! ## The block rule and the rank-weighted rule -/

/-- What the products of one block contribute (R124): NaN with or without NV, an infinity, or an
exact finite sum. -/
inductive Contrib
  | nan (nv : Bool)
  | inf (neg : Bool)
  | fin (q : Q)
deriving DecidableEq, Repr

/-- Combines the contributions of two products of one block (R124). -/
def Contrib.join (a b : Contrib) : Contrib :=
  match a, b with
  | .nan x, .nan y => .nan (x || y)
  | .nan x, _ => .nan x
  | _, .nan y => .nan y
  | .inf x, .inf y => if x == y then .inf x else .nan true
  | .inf x, .fin _ => .inf x
  | .fin _, .inf y => .inf y
  | .fin p, .fin q => .fin (p.add q)

/-- The contribution of one product. -/
def Contrib.ofMul (a b : Val) : Contrib :=
  match a, b with
  | .fin _ p, .fin _ q => .fin (p.mul q)
  | _, _ =>
    match (mulNum a b).1 with
    | .inf n => .inf n
    | .fin _ q => .fin q
    | .nan _ => .nan (a.isSig || b.isSig || !(a.isNan || b.isNan))

/-- A contribution times the product of the scales, which is positive or zero (R123, R122, R124). -/
def Contrib.scale (c : Contrib) (σ : Option Q) : Contrib :=
  match c, σ with
  | .nan x, _ => .nan x
  | _, none => .nan false
  | .inf n, some s => if s.isZero then .nan true else .inf n
  | .fin q, some s => .fin (q.mul s)

/-- Product of two scales; the NaN scale makes the product NaN. -/
def scaleMul (a b : Option Q) : Option Q :=
  match a, b with
  | some x, some y => some (x.mul y)
  | _, _ => none

/-- acc + contribution, rounded once by RNE into FP32 (R123, R124): the new code and the flags. -/
def accumulate (acc : W32) (c : Contrib) : W32 × Flags :=
  let a := decodeNum fp32 acc.toNat
  match c with
  | .nan nv => (BitVec.ofNat 32 fp32.nanCode, flagIf (nv || a.isSig) flagNV)
  | .inf n =>
    let x := deliverNum fp32 .rne (addNum .rne a (.inf n))
    (BitVec.ofNat 32 x.1, x.2)
  | .fin q =>
    let x := deliverNum fp32 .rne (addNum .rne a (.fin (decide (q.num < 0)) q))
    (BitVec.ofNat 32 x.1, x.2)

/-! ## High-precision constants (R128, R129) -/

/-- ⌊π·2^256⌋. -/
def piFix : Nat := 0x3243f6a8885a308d313198a2e03707344a4093822299f31d0082efa98ec4e6c89
/-- ⌊ln 2·2^256⌋. -/
def ln2Fix : Nat := 0xb17217f7d1cf79abc9e3b39803f2f6af40f343267298b62d8a0d175b8baafa2b

/-- Sum of the Taylor terms t, t·x/n, … at 256 fractional bits, each next term being
sign·t·(x or x²)/(the next factors). `step` 1 gives e^x, 2 gives cos or sin. -/
def taylor (sgn : Int) (step : Nat) (y : Int) : Nat → Nat → Int → Int
  | 0, _, _ => 0
  | fuel + 1, n, t =>
    let d : Nat := if step = 1 then n + 1 else (n + 1) * (n + 2)
    t + taylor sgn step y fuel (n + step) (sgn * (t * y / ((2 ^ 256 * d : Nat) : Int)))

/-- cos(2πk/n) at 256 fractional bits. -/
def cosFix (k n : Nat) : Int :=
  let x : Int := ((2 * piFix * (k % n) / n : Nat) : Int)
  taylor (-1) 2 (x * x / ((2 ^ 256 : Nat) : Int)) 60 0 ((2 ^ 256 : Nat) : Int)

/-- sin(2πk/n) at 256 fractional bits. -/
def sinFix (k n : Nat) : Int :=
  let x : Int := ((2 * piFix * (k % n) / n : Nat) : Int)
  taylor (-1) 2 (x * x / ((2 ^ 256 : Nat) : Int)) 60 1 x

/-- FP32 nearest to a fixed-point value. -/
def fp32OfFix (x : Int) : W32 := BitVec.ofNat 32 (roundFloat fp32 fp32.m rne false ⟨x, 2 ^ 256⟩).1

/-- The twiddle W_n^k (R128): cos and ∓sin of 2πk/n; exact zeros are +0. -/
def twiddle (inv : Bool) (n k : Nat) : W32 × W32 :=
  let j := k % n
  let c : W32 := if 4 * j = n ∨ 4 * j = 3 * n then 0#32 else fp32OfFix (cosFix j n)
  let s : W32 := if j = 0 ∨ 2 * j = n then 0#32 else
    let v := sinFix j n
    fp32OfFix (if inv then v else -v)
  (c, s)

/-- 2^(n/d) for 0 ≤ n/d < 1 at 256 fractional bits. -/
def exp2Frac (n d : Nat) : Nat :=
  (taylor 1 1 ((ln2Fix * n / d : Nat) : Int) 70 0 ((2 ^ 256 : Nat) : Int)).toNat

/-! ## Seeds (R129) -/

/-- FRCP on an FP32 code. -/
def frcp (c : W32) : W32 × Flags :=
  match decodeNum fp32 c.toNat with
  | .nan s => (BitVec.ofNat 32 fp32.nanCode, flagIf s flagNV)
  | .inf n => (BitVec.ofNat 32 (fp32.signed n 0), 0#5)
  | .fin n q =>
    if q.isZero then (BitVec.ofNat 32 (fp32.signed n fp32.infCode), flagDZ)
    else
      let x := roundFloat fp32 11 rne n ((Q.ofInt 1).div q)
      (BitVec.ofNat 32 x.1, x.2)

/-- FRSQ on an FP32 code. -/
def frsq (c : W32) : W32 × Flags :=
  match decodeNum fp32 c.toNat with
  | .nan s => (BitVec.ofNat 32 fp32.nanCode, flagIf s flagNV)
  | .inf true => (BitVec.ofNat 32 fp32.nanCode, flagNV)
  | .inf false => (0#32, 0#5)
  | .fin n q =>
    if q.isZero then (BitVec.ofNat 32 (fp32.signed n fp32.infCode), flagDZ)
    else if n then (BitVec.ofNat 32 fp32.nanCode, flagNV)
    else
      let x := roundFloat fp32 11 rne false (sqrtQ q.den q.num.natAbs (sqrtBits q.den q.num.natAbs 64))
      (BitVec.ofNat 32 x.1, x.2)

/-- FEXP2 on an FP32 code. -/
def fexp2 (c : W32) : W32 × Flags :=
  match decodeNum fp32 c.toNat with
  | .nan s => (BitVec.ofNat 32 fp32.nanCode, flagIf s flagNV)
  | .inf true => (0#32, 0#5)
  | .inf false => (BitVec.ofNat 32 fp32.infCode, 0#5)
  | .fin _ q =>
    let v : Q :=
      if Q.le (Q.ofInt 1024) q then Q.pow2 1024
      else if Q.le q (Q.ofInt (-1024)) then Q.pow2 (-1024)
      else
        let fl := q.num / (q.den : Int)
        let r := (q.num - fl * (q.den : Int)).toNat
        if r = 0 then Q.pow2 fl else Q.mul ⟨exp2Frac r q.den, 2 ^ 256⟩ (Q.pow2 fl)
    let x := roundFloat fp32 15 rne false v
    (BitVec.ofNat 32 x.1, x.2)

end Sys2Proof.Machine
end

