-- ==== Sys2Proof/Machine/Alu.lean ====
section
/-! DEFINITION. Results of the sequencer's own arithmetic (05, R135 to R152), as functions of the
operand values. -/

namespace Sys2Proof.Machine

/-- Width in bits of an integer instruction (R135). -/
def widthBits : Width → Nat
  | .d => 64 | .w => 32

/-- sext(v[w−1:0], w) as a register value. -/
def sextTo (wd : Width) (v : Word) : Word :=
  match wd with
  | .d => v
  | .w => (v.setWidth 32).signExtend 64

/-- The 32-bit immediate sign-extended (R135). -/
def sextImm (imm : W32) : Word := imm.signExtend 64

/-- Applies an operation of the width to the low bits of the sources, result extended (R135). -/
def atWidth (wd : Width) (f64 : Word → Word → Word) (f32 : W32 → W32 → W32) (a b : Word) : Word :=
  match wd with
  | .d => f64 a b
  | .w => (f32 (a.setWidth 32) (b.setWidth 32)).signExtend 64

/-! ## R136 -/

def aluAdd (wd : Width) (a b : Word) : Word := atWidth wd (· + ·) (· + ·) a b
def aluSub (wd : Width) (a b : Word) : Word := atWidth wd (· - ·) (· - ·) a b
def aluMul (wd : Width) (a b : Word) : Word := atWidth wd (· * ·) (· * ·) a b
def aluMulh (wd : Width) (a b : Word) : Word :=
  atWidth wd (fun x y => BitVec.ofInt 64 (x.toInt * y.toInt / ((2 ^ 64 : Nat) : Int)))
    (fun x y => BitVec.ofInt 32 (x.toInt * y.toInt / ((2 ^ 32 : Nat) : Int))) a b
def aluMulhu (wd : Width) (a b : Word) : Word :=
  atWidth wd (fun x y => BitVec.ofNat 64 (x.toNat * y.toNat / 2 ^ 64))
    (fun x y => BitVec.ofNat 32 (x.toNat * y.toNat / 2 ^ 32)) a b
def aluAnd (wd : Width) (a b : Word) : Word := atWidth wd (· &&& ·) (· &&& ·) a b
def aluOr (wd : Width) (a b : Word) : Word := atWidth wd (· ||| ·) (· ||| ·) a b
def aluXor (wd : Width) (a b : Word) : Word := atWidth wd (· ^^^ ·) (· ^^^ ·) a b
def aluAndn (wd : Width) (a b : Word) : Word := atWidth wd (fun x y => x &&& ~~~y) (fun x y => x &&& ~~~y) a b
def aluMin (wd : Width) (a b : Word) : Word :=
  atWidth wd (fun x y => if x.toInt ≤ y.toInt then x else y) (fun x y => if x.toInt ≤ y.toInt then x else y) a b
def aluMax (wd : Width) (a b : Word) : Word :=
  atWidth wd (fun x y => if x.toInt ≤ y.toInt then y else x) (fun x y => if x.toInt ≤ y.toInt then y else x) a b
def aluMinu (wd : Width) (a b : Word) : Word :=
  atWidth wd (fun x y => if x.toNat ≤ y.toNat then x else y) (fun x y => if x.toNat ≤ y.toNat then x else y) a b
def aluMaxu (wd : Width) (a b : Word) : Word :=
  atWidth wd (fun x y => if x.toNat ≤ y.toNat then y else x) (fun x y => if x.toNat ≤ y.toNat then y else x) a b

/-! ## R137 -/

/-- Low bits of the divisor are zero, which sets `STATUS`.DZ. -/
def divByZero (wd : Width) (b : Word) : Bool := sextTo wd b == 0#64

/-- Signed quotient toward zero; 0 for a zero divisor; the dividend for the most negative by −1. -/
def aluDiv (wd : Width) (a b : Word) : Word :=
  let f := fun (n : Nat) (x y : BitVec n) => if y = 0#n then 0#n else BitVec.ofInt n (x.toInt.tdiv y.toInt)
  atWidth wd (f 64) (f 32) a b
def aluDivu (wd : Width) (a b : Word) : Word :=
  let f := fun (n : Nat) (x y : BitVec n) => BitVec.ofNat n (x.toNat / y.toNat)
  atWidth wd (f 64) (f 32) a b
/-- Remainder with the sign of the dividend; the dividend for a zero divisor. -/
def aluRem (wd : Width) (a b : Word) : Word :=
  let f := fun (n : Nat) (x y : BitVec n) => if y = 0#n then x else BitVec.ofInt n (x.toInt.tmod y.toInt)
  atWidth wd (f 64) (f 32) a b
def aluRemu (wd : Width) (a b : Word) : Word :=
  let f := fun (n : Nat) (x y : BitVec n) => if y = 0#n then x else BitVec.ofNat n (x.toNat % y.toNat)
  atWidth wd (f 64) (f 32) a b

/-! ## R138, R139 -/

def aluShl (wd : Width) (a b : Word) : Word :=
  atWidth wd (fun x y => x <<< (y.toNat % 64)) (fun x y => x <<< (y.toNat % 32)) a b
def aluShr (wd : Width) (a b : Word) : Word :=
  atWidth wd (fun x y => x >>> (y.toNat % 64)) (fun x y => x >>> (y.toNat % 32)) a b
def aluSra (wd : Width) (a b : Word) : Word :=
  atWidth wd (fun x y => x.sshiftRight (y.toNat % 64)) (fun x y => x.sshiftRight (y.toNat % 32)) a b

/-- The low w bits as a number. -/
def lowBits (wd : Width) (a : Word) : Nat := a.toNat % 2 ^ widthBits wd

def aluClz (wd : Width) (a : Word) : Word :=
  let x := lowBits wd a
  BitVec.ofNat 64 (if x = 0 then widthBits wd else widthBits wd - 1 - Nat.log2 x)
/-- Number of trailing zeros below `fuel`. -/
def ctzNat : Nat → Nat → Nat
  | 0, _ => 0
  | fuel + 1, x => if x % 2 = 1 then 0 else 1 + ctzNat fuel (x / 2)
def aluCtz (wd : Width) (a : Word) : Word := BitVec.ofNat 64 (ctzNat (widthBits wd) (lowBits wd a))
def popNat : Nat → Nat → Nat
  | 0, _ => 0
  | fuel + 1, x => x % 2 + popNat fuel (x / 2)
def aluPopc (wd : Width) (a : Word) : Word := BitVec.ofNat 64 (popNat (widthBits wd) (lowBits wd a))
def revNat : Nat → Nat → Nat
  | 0, _ => 0
  | n + 1, x => x % 2 * 2 ^ n + revNat n (x / 2)
/-- BREV: the low n bits reversed, the rest clear. -/
def aluBrev (n : Nat) (a : Word) : Word := BitVec.ofNat 64 (revNat n a.toNat)

/-! ## R147, R148, R150, R151 -/

/-- The conditions of CMP and CMPI (Table 3.5). -/
def cmpCond (c : ICond) (wd : Width) (a b : Word) : Bool :=
  let x := sextTo wd a
  let y := sextTo wd b
  match c with
  | .eq => x == y
  | .ne => x != y
  | .lt => decide (x.toInt < y.toInt)
  | .ge => decide (y.toInt ≤ x.toInt)
  | .ltu => decide (lowBits wd a < lowBits wd b)
  | .geu => decide (lowBits wd b ≤ lowBits wd a)

/-- Bit TY[2·pa + pb] (R148). -/
def plogBit (tt : Fin 16) (pa pb : Bool) : Bool :=
  bitOf tt.val ((if pa then 2 else 0) + (if pb then 1 else 0))

def aluBfx (a : Word) (lsb width : Nat) : Word := BitVec.ofNat 64 (a.toNat / 2 ^ lsb % 2 ^ width)
def aluBfi (d a : Word) (lsb width : Nat) : Word :=
  let m : Word := BitVec.ofNat 64 ((2 ^ width - 1) * 2 ^ lsb)
  (d &&& ~~~m) ||| (BitVec.ofNat 64 (a.toNat % 2 ^ width * 2 ^ lsb) &&& m)
def aluExt (sx : Bool) (a : Word) (width : Nat) : Word :=
  let v := a.toNat % 2 ^ width
  if sx && decide (2 ^ (width - 1) ≤ v) then BitVec.ofNat 64 (v + 2 ^ 64 - 2 ^ width) else BitVec.ofNat 64 v
/-- LIH: IMM above the low half of s[d] (R152). -/
def aluLih (d : Word) (imm : W32) : Word := imm ++ d.setWidth 32

/-! ## Scalar floating point (R140 to R146) -/

def fwFmt : FWidth → Narrow
  | .d => fp64 | .s => fp32
/-- The operand bits of a floating-point instruction. -/
def fwCode (ty : FWidth) (a : Word) : Nat := a.toNat % 2 ^ (fwFmt ty).w
def fwVal (ty : FWidth) (a : Word) : Val := decodeNum (fwFmt ty) (fwCode ty a)
def fwOut (x : Nat × Flags) : Word × Flags := (BitVec.ofNat 64 x.1, x.2)

def fpuAdd (ty : FWidth) (rm : Rm) (a b : Word) : Word × Flags :=
  fwOut (deliverNum (fwFmt ty) rm (addNum rm (fwVal ty a) (fwVal ty b)))
def fpuSub (ty : FWidth) (rm : Rm) (a b : Word) : Word × Flags :=
  fwOut (deliverNum (fwFmt ty) rm (subNum rm (fwVal ty a) (fwVal ty b)))
def fpuMul (ty : FWidth) (rm : Rm) (a b : Word) : Word × Flags :=
  fwOut (deliverNum (fwFmt ty) rm (mulNum (fwVal ty a) (fwVal ty b)))
def fpuDiv (ty : FWidth) (rm : Rm) (a b : Word) : Word × Flags :=
  fwOut (deliverNum (fwFmt ty) rm (divNum (fwVal ty a) (fwVal ty b)))
def fpuFma (ty : FWidth) (rm : Rm) (a b c : Word) : Word × Flags :=
  fwOut (deliverNum (fwFmt ty) rm (fmaNum rm (fwVal ty a) (fwVal ty b) (fwVal ty c)))
def fpuSqrt (ty : FWidth) (rm : Rm) (a : Word) : Word × Flags :=
  fwOut (deliverNum (fwFmt ty) rm (sqrtNum (fwVal ty a)))
def fpuMin (ty : FWidth) (a b : Word) : Word × Flags := fwOut (minMaxNum (fwFmt ty) false (fwCode ty a) (fwCode ty b))
def fpuMax (ty : FWidth) (a b : Word) : Word × Flags := fwOut (minMaxNum (fwFmt ty) true (fwCode ty a) (fwCode ty b))
def fpuSgn (op : SgnOp) (ty : FWidth) (a b : Word) : Word :=
  BitVec.ofNat 64 (signNum (fwFmt ty) op (fwCode ty a) (fwCode ty b))
def fpuClass (ty : FWidth) (a : Word) : Word := BitVec.ofNat 64 (classNum (fwFmt ty) (fwCode ty a))

/-- FCMP (R145): the predicate and NV. -/
def fpuCmp (c : FCond) (ty : FWidth) (a b : Word) : Bool × Flags :=
  let x := fwVal ty a
  let y := fwVal ty b
  let quiet := flagIf (x.isSig || y.isSig) flagNV
  let signalling := flagIf (x.isNan || y.isNan) flagNV
  match c with
  | .eq => (eqNum x y, quiet)
  | .lt => (ltNum x y, signalling)
  | .le => (ltNum x y || eqNum x y, signalling)
  | .un => (x.isNan || y.isNan, quiet)

/-- The source of FCVT (R146). -/
def cvtSource (src : NumTy) (a : Word) : Val := decodeNum (fmtOfTy src) a.toNat

def numTyInt : NumTy → Bool
  | .fp64 => false | .fp32 => false | .bf16 => false | .fp16 => false | _ => true

/-- FCVT (R146, R120): the result register and the flags; `k` is the dither position. -/
def fpuCvt (dst src : NumTy) (rm : Rm) (k : Nat) (a : Word) : Word × Flags :=
  let f := fmtOfTy dst
  let r := convertNum f ⟨rm, k⟩ (numTyInt src) (cvtSource src a)
  (if f.isInt && f.s then BitVec.ofInt 64 (if 2 ^ (f.w - 1) ≤ r.1 then (r.1 : Int) - (2 ^ f.w : Nat) else r.1)
   else BitVec.ofNat 64 r.1, r.2)

end Sys2Proof.Machine
end

