-- ==== Sys2Proof/Machine/Sparse.lean ====
section
/-! DEFINITION. Sparse tables as plain data: a list of (key, value) pairs with rising keys and no
entry equal to the default, so that equal tables are equal lists. -/

namespace Sys2Proof.Machine

/-- A table of values by number; an unlisted key holds the default of the table. -/
abbrev Sparse (β : Type) := List (Nat × β)

/-- The value at a key. -/
def Sparse.get {β : Type} (d : β) : Sparse β → Nat → β
  | [], _ => d
  | (j, v) :: m, k => if k = j then v else if k < j then d else Sparse.get d m k

/-- The table with key `k` holding `v`; an entry equal to the default is not kept. -/
def Sparse.set {β : Type} [DecidableEq β] (d : β) (v : β) : Sparse β → Nat → Sparse β
  | [], k => if v = d then [] else [(k, v)]
  | (j, u) :: m, k =>
    if k = j then (if v = d then m else (k, v) :: m)
    else if k < j then (if v = d then (j, u) :: m else (k, v) :: (j, u) :: m)
    else (j, u) :: Sparse.set d v m k

/-- The entry at a key, if the table lists one. -/
def Sparse.look {β : Type} : Sparse β → Nat → Option β
  | [], _ => none
  | (j, v) :: m, k => if k = j then some v else Sparse.look m k

/-- The entry at a key, or a default. -/
def Sparse.at {β : Type} (d : β) (m : Sparse β) (k : Nat) : β := (Sparse.look m k).getD d

/-- The table listing `v` at key `k`, before the first greater key. -/
def Sparse.put {β : Type} (v : β) : Sparse β → Nat → Sparse β
  | [], k => [(k, v)]
  | (j, u) :: m, k =>
    if k = j then (k, v) :: m else if k < j then (k, v) :: (j, u) :: m else (j, u) :: Sparse.put v m k

/-- The table without an entry at key `k`. -/
def Sparse.del {β : Type} (m : Sparse β) (k : Nat) : Sparse β := m.filter (fun p => decide (p.1 ≠ k))

/-- Applies a function to every entry. -/
def Sparse.mapAll {β : Type} (f : Nat → β → β) (m : Sparse β) : Sparse β := m.map (fun p => (p.1, f p.1 p.2))

/-- The canonical form: rising keys from `lo` on, and no default entry. -/
def Sparse.wfFrom {β : Type} [DecidableEq β] (d : β) : Nat → Sparse β → Bool
  | _, [] => true
  | lo, (j, v) :: m => decide (lo ≤ j) && decide (v ≠ d) && Sparse.wfFrom d (j + 1) m

abbrev Sparse.wf {β : Type} [DecidableEq β] (d : β) (m : Sparse β) : Bool := Sparse.wfFrom d 0 m

/-- Applies a function to the value at a key. -/
def Sparse.upd {β : Type} [DecidableEq β] (d : β) (f : β → β) (m : Sparse β) (k : Nat) : Sparse β :=
  Sparse.set d (f (Sparse.get d m k)) m k

/-- Writes consecutive keys. -/
def Sparse.setList {β : Type} [DecidableEq β] (d : β) (m : Sparse β) : Nat → List β → Sparse β
  | _, [] => m
  | k, v :: vs => Sparse.setList d (Sparse.set d v m k) (k + 1) vs

/-- Reads `n` consecutive keys. -/
def Sparse.getList {β : Type} (d : β) (m : Sparse β) (k n : Nat) : List β :=
  (List.range n).map (fun i => Sparse.get d m (k + i))

/-- The table with the keys from `lo` up to, not including, `hi` at the default. -/
def Sparse.clear {β : Type} (m : Sparse β) (lo hi : Nat) : Sparse β :=
  m.filter (fun p => decide (p.1 < lo) || decide (hi ≤ p.1))

/-! ## Memory: addresses and bytes -/

/-- The canonical form of a memory: rising addresses, and no entry that reads as an unlisted byte. -/
abbrev Memory.wf (m : List Host.Cell) : Bool := Sparse.wf (0#8) m

/-- The byte that a memory holds at an address. -/
abbrev Memory.byte (m : List Host.Cell) (a : Nat) : Byte := Sparse.get 0#8 m a

end Sys2Proof.Machine
end

