-- ==== Sys2Proof/Machine/Types.lean ====
section
/-! DEFINITION. The records that the state is made of: fabric words, element, port and matrix
state, tasks (02, 03, 06, 07, 08, 14). All of them are plain data. -/

namespace Sys2Proof.Machine

/-! ## Fabric words and elements -/

/-- Token kinds (Table 3.7). -/
inductive Kind
  | data | eor | eok | eos | bound | steer | mark | hdr | stat | done | seqn | resv (n : Nat)
deriving DecidableEq, Repr

/-- A fabric word (R83). -/
structure FWord where
  kind : Kind
  tag  : BitVec 4
  data : W32
deriving DecidableEq, Repr

/-- Dynamic destination of an output (R90): logical core, site and input queue. -/
structure Dest where
  core : Nat
  site : Nat
  queue : Nat
deriving DecidableEq, Repr

/-- A CE frame body (Table 3.12) with OPX kept as its 80 bits (Table 6.5). -/
structure CeCfg where
  opc   : Nat
  lane  : Nat
  ien   : BitVec 4
  rm    : Nat
  fd    : BitVec 16
  cond  : Nat
  tag   : BitVec 4
  k0    : W32
  k1    : W32
  xdest : Option Dest
  ydest : Option Dest
  acn   : Option (Fin 8)
  opx   : BitVec 80
deriving DecidableEq, Repr

/-- An ME frame body (Table 3.13). `ien` marks the inputs that something drives (R188 to R191 read
queues a and b). -/
structure MeCfg where
  mode   : Nat
  rmwop  : Nat
  banks  : BitVec 4
  ew     : Nat
  fd     : BitVec 16
  doneEn : Bool
  doneSc : Nat
  base   : Nat
  lenm1  : Nat
  modex  : BitVec 160
deriving DecidableEq, Repr

/-- An AG frame body (Table 3.14). -/
structure AgCfg where
  mode  : Nat
  tgtsu : Bool
  tgt   : Nat
  esz   : Nat
  base  : Nat
  cnt   : BitVec 64
  str   : BitVec 96
  endt  : BitVec 4
deriving DecidableEq, Repr

/-- What a site holds (R87: a site that no frame configures holds no operation). -/
inductive ElemCfg
  | empty
  | ce (c : CeCfg)
  | me (c : MeCfg)
  | ag (c : AgCfg)
deriving DecidableEq, Repr

/-- The words one firing writes on x and on y (R161). -/
structure Emission where
  x : Option FWord
  y : Option FWord
deriving DecidableEq, Repr

/-- An item on a bus group: a beat with its destination identifier, or a token (R199). -/
inductive BusItem
  | beat (dest : Nat) (ws : List W32)
  | token (dest : Nat) (w : FWord)
deriving DecidableEq, Repr

/-- A word that waits on a release or on a cut before it may go (R187, R191, R475): the word, whether
it leaves on x (else on y), the number of the first access issued after it, and the cut that must
be complete. -/
structure HeldWord where
  word : FWord
  onX  : Bool
  upto : Nat
  cut  : Nat
deriving DecidableEq, Repr

/-- State carried by an element (Table 6.9), flat over all operations. -/
structure ElemState where
  /-- CNT: trip counts, indices; AG: i0 to i3 use i0, i1, i2, i3 -/
  n0 : Nat
  n1 : Nat
  i0 : Nat
  i1 : Nat
  i2 : Nat
  i3 : Nat
  /-- CNT: a BOUND not yet applied; DELAY: a row length not yet applied -/
  bound : Option W32
  /-- CNT, AG: stopped after EOS -/
  stopped : Bool
  /-- running value (ACC, FACC, FMAXR) -/
  v : W32
  /-- DLY line, QNT row buffer, DQNT codes; oldest first -/
  line : List W32
  /-- dither phase of FCVT and QNT -/
  phase : Nat
  /-- DQNT: header, scales read, stream words read, codes emitted -/
  hdr : Option W32
  scales : List Nat
  words : List W32
  codes : Nat
  /-- STEER sticky mode; GATE segment decision (0 none, 1 pass, 2 discard) -/
  mode : Nat
  /-- DUP copies left; TAGCHK and TAGSET position; PRIME words left; LIMIT outstanding -/
  count : Nat
  /-- SEQ next item; REORD expected item -/
  item : W32
  /-- SEQ: a SEQN was sent for the current item; REORD: the current item's number -/
  cur : Option W32
  /-- REORD: held items with their words; the flag says the item is complete -/
  window : List (Nat × Bool × List FWord)
  /-- BND and DONE words that wait on a release or a cut -/
  held : List HeldWord
  /-- ME: writes performed since the last EOS -/
  writes : Nat
  /-- FIFO contents; DELAY rows use the region -/
  fifo : List FWord
  /-- DELAY: position in the row, length -/
  pos : Nat
  len : Nat
  /-- no word consumed since the last EOS or launch (R56) -/
  atStart : Bool
  /-- FEEDMX: the beat or token on the ME's way to its bus group -/
  busOut : Option BusItem
  /-- words of the current firings not yet emitted -/
  pend : List Emission
deriving DecidableEq, Repr

/-- Switch box of a site (Table 3.15): selections of the outputs that are driven. -/
structure SwitchCfg where
  sel     : Sparse Nat
  dyn     : BitVec 4
  cut     : BitVec 28
  bnd     : BitVec 4
  bscope  : BitVec 12
  seamEn  : BitVec 4
  seamSlot : BitVec 24
deriving DecidableEq, Repr

/-! ## Patterns, timelines, ports, channels -/

/-- A pattern register (Table 2.4). -/
abbrev Pattern := BitVec 256

/-- A timeline (R53): issue number, completion mark, completed numbers above C with the cut whose
completion lets C pass each. -/
structure Timeline where
  i : Nat
  c : Nat
  done : List (Nat × Nat)
deriving DecidableEq, Repr

/-- Port commands (R302): FEED with its flags (TAG, PKT, EOK, EOR, EOS, SX, ESZ), one word of INJ or TOK,
SINK, TAKE with its register. -/
inductive PortOp
  | feed (tag : BitVec 4) (pkt eok eor eos sx : Bool) (esz : EltSize)
  | word (w : FWord)
  | sink (pkt : Bool) (esz : EltSize)
  | take (reg : Nat)
deriving DecidableEq, Repr

/-- A port command as captured at issue (R51, R302): the slot that issued it, its pattern with the base
raised. -/
structure StreamCmd where
  slot : Nat
  op : PortOp
  pat : Pattern
deriving DecidableEq, Repr

/-- A feed port (R54): the site input it is bound to (site, queue), commands not yet finished (the
first is executing once `active`), position in the executing command, words delivered since launch
and since the last MARK, words fetched and not yet delivered, MARK due. -/
structure FeedPort where
  bind : Option (Nat × Nat)
  cmds : List StreamCmd
  /-- commands issued to the port so far; those not in `cmds` have finished -/
  issued : Nat
  active : Bool
  at_ : Nat
  position : Nat
  sinceMark : Nat
  stage : List FWord
  markDue : Bool
  fault : Bool
deriving DecidableEq, Repr

/-- A sink port (R54): the output it is bound to (site, 0 for x and 1 for y), its 16-word queue,
commands (a TAKE among them is a claim of its slot and register). -/
structure SinkPort where
  bind : Option (Nat × Nat)
  queue : List FWord
  cmds : List StreamCmd
  issued : Nat
  active : Bool
  at_ : Nat
  position : Nat
  fault : Bool
deriving DecidableEq, Repr

/-- A word of a virtual channel with its token kind. -/
structure VcWord where
  kind : Kind
  word : Word
deriving DecidableEq, Repr

/-- A virtual channel (R55): holder, queue, pending claims (slot, register). -/
structure Vc where
  holder : Option Nat
  queue : List VcWord
  claims : List (Nat × Nat)
deriving DecidableEq, Repr

/-- A barrier id of a core (R374): generation and the arrivals of this core that have not
completed: (generation, slot, block x, y, w, h). -/
structure Arrival where
  gen : Nat
  slot : Nat
  x : Nat
  y : Nat
  w : Nat
  h : Nat
deriving DecidableEq, Repr

structure Barrier where
  gen : Nat
  arrivals : List Arrival
deriving DecidableEq, Repr

/-! ## Matrix engine -/

/-- A configuration slot (Table 7.1, R196, R228, R235). -/
structure MxSlot where
  rowid : Nat
  colid : Nat
  fda : BitVec 16
  fdb : BitVec 16
  blk : Nat
  mm1 : Nat
  nm1 : Nat
  fdo : BitVec 16
  rm  : Nat
  phase : Nat
  step : Nat
  /-- plan: radices and shifts of the stages, batch − 1 -/
  rads : List Nat
  shs : List Nat
  bm1 : Nat
  inv : Bool
  /-- rank configuration word (Table 8.4) -/
  theta : W32
  th : Bool
  vm1 : Nat
  k : Nat
  /-- tables T and C; default 1.0 -/
  tabT : Sparse W32
  tabC : Sparse W32
deriving DecidableEq, Repr

/-- A tile (R57): values at 128·i + j, checksums and bounds. -/
structure Tile where
  vals : Sparse W32
  c : Sparse W32
  beta : Sparse W32
  r : Sparse W32
  gamma : Sparse W32
  owner : Option (Fin 4)
  inUse : Bool
  route : Route
deriving DecidableEq, Repr

/-- The queued matrix commands (R207, R239). -/
inductive MxOp
  | z
  | ldt (fmt : TileFmt)
  | mm (scaled acc : Bool) (srcA srcB : MxSrc) (k : Nat)
  | drn (ws : Bool)
  | chk
  | st (fmt : TileFmt)
  | gen (inv : Bool) (n : Nat)
  | rev (bf re : Bool)
  | stg (k : Nat)
  | run
  | tab (recon : Bool) (slot : Fin 4)
  | net (ws : Bool) (dst : RankDst) (row0 nv : Nat) (slotTask reg : Nat)
  | rank (acc : Bool) (src : IdxSrc) (row0 nv : Nat)
  | val (src : IdxSrc) (row0 nv : Nat)
  | trc (row0 nv : Nat) (slotTask reg : Nat)
deriving DecidableEq, Repr

/-- Phase of a queued matrix command. -/
inductive MxPhase | queued | running | finished
deriving DecidableEq, Repr

/-- A queued matrix command with what it copied at issue (R207) and its progress (R225). -/
structure MxCmd where
  id   : Nat
  opc  : Nat
  op   : MxOp
  tile : Nat
  tl   : Nat
  num  : Nat
  slotTask : Nat
  cfg  : MxSlot
  patA : Pattern
  patB : Pattern
  route : Option Route
  phase : MxPhase
  block : Nat
  /-- operand words of row (or column) i, in order -/
  rowsA : Sparse (List W32)
  rowsB : Sparse (List W32)
  /-- groups whose closing EOR has been consumed -/
  endA : BitVec 16
  endB : BitVec 16
  /-- words staged for the fabric: (drain row, word) in order -/
  staged : List (Nat × FWord)
  /-- index stream read so far: finished vectors and the current one; indices emitted -/
  vecs : List (List Nat)
  emitted : Nat
deriving DecidableEq, Repr

/-- The matrix engine of a core. -/
structure Engine where
  slots : Sparse MxSlot
  tiles : Sparse Tile
  cmds : List MxCmd
  /-- input buffers of the groups: row bus 0 to 15, column bus 16 to 31 -/
  bus : Sparse (List BusItem)
  /-- control input (site (7, 0) queue a) and index input (site (7, 1) queue a) -/
  control : List FWord
  index : List FWord
  /-- CPYMX gates: engine command identifiers that array commands after them wait for (R317),
  with the identifier of the first command behind the gate -/
  gates : List (Nat × Nat)
  noStart : Bool
deriving DecidableEq, Repr

/-! ## Tasks -/

/-- The pending producer of an empty register (R43, R49); `value` is a result that stands ready to be
delivered. -/
inductive Producer
  | access (id : Nat)
  | value (v : Word) (flags : Option (BitVec 5))
  | take (port : Nat)
  | waitv (vc : Nat)
  | svc (n : Nat)
  | launch (n : Nat)
  | rank (cmd : Nat)
deriving DecidableEq, Repr

/-- Presence of a scalar register (R43). -/
inductive Presence
  | full
  | empty (p : Producer)
  | absent
deriving DecidableEq, Repr

/-- The waits of Table 14.1 that hold a task. -/
inductive Wait
  | reg (r : Nat)
  | portQueue (sink : Bool) (n : Nat)
  | mxQueue
  | engineQueue
  | access (id : Nat)
  | timeline (tl n : Nat) (sc : Option Scope)
  | sleep (t : Word)
  | sleepP (t : Word) (tl n : Nat)
  | ports (feeds sinks : List (Nat × Nat))
  | accesses (upto : Nat) (remote : Bool)
  | producers
  | credit (core vc : Nat)
  | barrier (id gen : Nat)
  | taking
  | entry
  | cut (n : Nat)
  | drain
  | saving (slot : Nat)
  | settled (slot : Nat)
deriving DecidableEq, Repr

/-- A task slot (Table 2.1). `since` is the set of tasks that have issued since this one's TYIELD. -/
structure Task where
  occupied : Bool
  handler : Bool
  held : Bool
  wake : Bool
  regs : Sparse Word
  pres : Sparse Presence
  /-- the values of absent registers in the context that the task was loaded from (R48, R508, R517) -/
  saved : Sparse Word
  preds : BitVec 8
  pc : BitVec 12
  cnt0 : W32
  cnt1 : W32
  start0 : BitVec 12
  end0 : BitVec 12
  start1 : BitVec 12
  end1 : BitVec 12
  fpmode : BitVec 8
  fpflags : BitVec 5
  tvec : BitVec 12
  tcause : Word
  tpc : BitVec 12
  tval : Word
  sp : Word
  ovfptr : Word
  ovflim : Word
  prio : BitVec 2
  intrap : Bool
  dz : Bool
  sc : Bool
  kmode : Bool
  age : Nat
  wait : Option Wait
  /-- the wait that a delegated entry interrupted, with the PC it stood at -/
  parked : Option (BitVec 12 × Wait)
  /-- the task yields until another task of the core has issued (R368) -/
  yielding : Bool
  /-- after a release fence: the scope, the access number and the cut that later writes of the task
  wait for (R279, R291) -/
  relScope : Nat
  relUpto : Nat
  relCut : Nat
  /-- the cut that an instruction in progress asked for and waits for before its effect (R300); 0: none -/
  asked : Nat
  /-- tasks whose accesses below a number every access of this task follows (R367) -/
  behind : List (TaskRef × Nat)
deriving DecidableEq, Repr

end Sys2Proof.Machine
end

