-- ==== Sys2Proof/Machine/Elements.lean ====
section
/-! DEFINITION. What one firing of an element does (06, R161 to R195), as a function of its
configuration, its state and its queues. Delivering the words it emits is in Fabric.lean. -/

namespace Sys2Proof.Machine

/-- Cause codes of Table 21.1. -/
inductive Cause
  | illegal | priv | empty | misalign | access | gate | firewall | promise | tilebusy | scalecount
  | tilecheck | lanetag | mcstuck | scope | spill | config | soft | brk | element | unrecoverable
  | drain | weightseal
deriving DecidableEq, Repr

/-- The code of a cause (Table 21.1). -/
def Cause.code : Cause → Nat
  | .illegal => 0x01 | .priv => 0x02 | .empty => 0x03 | .misalign => 0x04 | .access => 0x05
  | .gate => 0x06 | .firewall => 0x07 | .promise => 0x08 | .tilebusy => 0x09 | .scalecount => 0x0A
  | .tilecheck => 0x0B | .lanetag => 0x0C | .mcstuck => 0x0D | .scope => 0x0E | .spill => 0x0F
  | .config => 0x10 | .soft => 0x11 | .brk => 0x12 | .element => 0x13 | .unrecoverable => 0x14
  | .drain => 0x15 | .weightseal => 0x16

/-- The cause with a code. -/
def Cause.ofCode (n : Nat) : Option Cause :=
  [Cause.illegal, .priv, .empty, .misalign, .access, .gate, .firewall, .promise, .tilebusy,
   .scalecount, .tilecheck, .lanetag, .mcstuck, .scope, .spill, .config, .soft, .brk, .element,
   .unrecoverable, .drain, .weightseal].find? (fun c => c.code == n)

/-- Token kind codes (Table 3.7). -/
def Kind.code : Kind → Nat
  | .data => 0 | .eor => 1 | .eok => 2 | .eos => 3 | .bound => 4 | .steer => 5 | .mark => 6
  | .hdr => 7 | .stat => 8 | .done => 9 | .seqn => 10 | .resv n => n

def Kind.ofCode (n : Nat) : Kind :=
  match n with
  | 0 => .data | 1 => .eor | 2 => .eok | 3 => .eos | 4 => .bound | 5 => .steer | 6 => .mark
  | 7 => .hdr | 8 => .stat | 9 => .done | 10 => .seqn | n => .resv n

/-- The delimiter class of Table 6.2. -/
def Kind.isDelim : Kind → Bool
  | .eor => true | .eok => true | .eos => true | .bound => true | .steer => true | _ => false

/-- The individual class of Table 6.2. -/
def Kind.isIndiv : Kind → Bool
  | .hdr => true | .stat => true | .done => true | .seqn => true | _ => false

def Kind.isResv : Kind → Bool
  | .resv _ => true | _ => false

/-- Level of a delimiter (R172), 0 EOR, 1 EOK, 2 EOS. -/
def Kind.level : Kind → Option Nat
  | .eor => some 0 | .eok => some 1 | .eos => some 2 | _ => none

/-- A delimiter at a level or above (R172, R180). -/
def Kind.atLeast (k : Kind) (lvl : Nat) : Bool :=
  match k.level with
  | some l => decide (lvl ≤ l)
  | none => false

def FWord.isData (w : FWord) : Bool := decide (w.kind = .data)

/-- The 40-bit word (R83) in the low bits of a register. -/
def FWord.toWord (w : FWord) : Word :=
  BitVec.ofNat 64 (w.kind.code * 2 ^ 36 + w.tag.toNat * 2 ^ 32 + w.data.toNat)

/-- State of an element with nothing in it. -/
def ElemState.blank : ElemState :=
  { n0 := 0, n1 := 0, i0 := 0, i1 := 0, i2 := 0, i3 := 0, bound := none, stopped := false, v := 0#32,
    line := [], phase := 0, hdr := none, scales := [], words := [], codes := 0, mode := 0, count := 0,
    item := 0#32, cur := none, window := [], held := [], writes := 0, fifo := [], pos := 0, len := 0,
    atStart := true, busOut := none, pend := [] }

/-! ## Fields of OPX (Table 6.5) and CE opcodes (Table 3.17) -/

def CeCfg.bitsX (c : CeCfg) (hi lo : Nat) : Nat := bitsOf c.opx.toNat hi lo
def CeCfg.kb (c : CeCfg) : Bool := bitOf c.opx.toNat 79
def CeCfg.kc (c : CeCfg) : Bool := bitOf c.opx.toNat 78
def CeCfg.uns (c : CeCfg) : Bool := bitOf c.opx.toNat 77
def CeCfg.sat (c : CeCfg) : Bool := bitOf c.opx.toNat 76
def CeCfg.lvl (c : CeCfg) : Nat := c.bitsX 75 74
def CeCfg.fd2 (c : CeCfg) : BitVec 16 := BitVec.ofNat 16 (c.bitsX 73 58)
def CeCfg.n (c : CeCfg) : Nat := c.bitsX 57 52
def CeCfg.step (c : CeCfg) : Nat := c.bitsX 51 48
def CeCfg.ph (c : CeCfg) : Nat := c.bitsX 47 44
def CeCfg.blk (c : CeCfg) : Nat := c.bitsX 43 42
def CeCfg.md (c : CeCfg) : Nat := c.bitsX 41 40
def CeCfg.fb (c : CeCfg) : Bool := bitOf c.opx.toNat 39
def CeCfg.scope (c : CeCfg) : Nat := c.bitsX 38 36
/-- Input queue q (0 a to 3 d) is enabled (Table 3.12). -/
def CeCfg.enabled (c : CeCfg) (q : Nat) : Bool := bitOf c.ien.toNat (3 - q)
/-- The enabled inputs in order. -/
def CeCfg.ins (c : CeCfg) : List Nat := [0, 1, 2, 3].filter c.enabled
/-- Block length of a BLK code (R113). -/
def blkLen (b : Nat) : Nat := 8 * 2 ^ (b % 4)

/-- The rounding mode of an RM code (R76). -/
def rmOfCode : Nat → Rm
  | 0 => .rne | 1 => .rtz | 2 => .rup | 3 => .rdn | 4 => .rna | _ => .dith

/-- State of an element at launch (R171 to R187). -/
def initElem : ElemCfg → ElemState
  | .ce c =>
    { ElemState.blank with
      n0 := bitsOf c.k0.toNat 15 0, n1 := bitsOf c.k1.toNat 15 0, v := c.k0,
      line := if c.opc == 0x15 then List.replicate c.n c.k1 else [],
      phase := c.ph, count := if c.opc == 0x46 then c.n else 0, item := c.k0 }
  | .me c => { ElemState.blank with len := bitsOf c.modex.toNat 15 0 }
  | _ => ElemState.blank

/-! ## Results of a firing -/

/-- What a firing does: the new state, the inputs whose head it consumes, the words it writes, the
flags it posts (R175), a store into the core's scratchpad (offset, bytes, value), and whether it
records the element's snapshot state (R164). -/
structure Fire where
  st    : ElemState
  take  : List Nat
  out   : List Emission := []
  flags : Flags := 0#5
  store : Option (Nat × Nat × Nat) := none
  hold  : List (FWord × Bool) := []
  mark  : Bool := false
deriving DecidableEq, Repr

/-- A firing, nothing to do, or a fabric fault with the offending word (Table 6.3). -/
inductive FireRes
  | wait
  | fire (f : Fire)
  | fault (c : Cause) (k : Kind) (queue : Nat)
deriving DecidableEq, Repr

def onX (w : FWord) : Emission := ⟨some w, none⟩
def onY (w : FWord) : Emission := ⟨none, some w⟩
def onBoth (w : FWord) : Emission := ⟨some w, some w⟩

/-- Head of input queue q. -/
def qhead (qs : List (List FWord)) (q : Nat) : Option FWord := (qs.getD q []).head?

/-- Some enabled input whose head satisfies a test; the lowest. -/
def findHead (ins : List Nat) (qs : List (List FWord)) (p : FWord → Bool) : Option (Nat × FWord) :=
  ins.findSome? (fun q => match qhead qs q with
    | some w => if p w then some (q, w) else none
    | none => none)

/-- All inputs of a list have a head. -/
def allHeads (ins : List Nat) (qs : List (List FWord)) : Bool :=
  ins.all (fun q => (qhead qs q).isSome)

/-- The rules of Table 6.2 for individual and reserved kinds and for MARK (R164, R165); `me`: the
element is an ME, which consumes DONE (R191). `back` are the back edges. -/
def specialTokens (me : Bool) (ins back : List Nat) (qs : List (List FWord)) (st : ElemState) :
    Option FireRes :=
  match findHead ins qs (fun w => w.kind.isIndiv) with
  | some (q, w) =>
    some (.fire { st := st, take := [q], out := if me && decide (w.kind = .done) then [] else [onX w] })
  | none =>
  match findHead ins qs (fun w => w.kind.isResv) with
  | some (q, w) => some (.fault .element w.kind q)
  | none =>
  match findHead (ins.filter back.contains) qs (fun w => decide (w.kind = .mark)) with
  | some (q, _) => some (.fire { st := st, take := [q] })
  | none =>
    let fwd := ins.filter (fun q => !back.contains q)
    match findHead fwd qs (fun w => decide (w.kind = .mark)) with
    | none => none
    | some (_, w) =>
      if fwd.all (fun q => decide ((qhead qs q).map (·.kind) = some .mark)) then
        some (.fire { st := st, take := fwd, out := [onBoth w], mark := true })
      else some .wait

/-- All the rules of Table 6.2, delimiters included; `none` when every head present is DATA. -/
def tokenRule (me : Bool) (ins back : List Nat) (qs : List (List FWord)) (st : ElemState) :
    Option FireRes :=
  match specialTokens me ins back qs st with
  | some r => some r
  | none =>
    match findHead ins qs (fun w => w.kind.isDelim) with
    | none => none
    | some (q, w) =>
      if !allHeads ins qs then some .wait
      else if ins.all (fun i => decide ((qhead qs i).map (·.kind) = some w.kind)) then
        some (.fire { st := st, take := ins, out := [onBoth w] })
      else some (.fault .element w.kind q)

/-- Applies a state change when a default rule consumed a delimiter of the given kinds. -/
def onDelim (r : FireRes) (qs : List (List FWord)) (q : Nat) (f : Kind → ElemState → ElemState) : FireRes :=
  match r, qhead qs q with
  | .fire x, some w => if w.kind.isDelim && x.take.contains q then .fire { x with st := f w.kind x.st } else .fire x
  | r, _ => r

/-! ## Lanes (R169) -/

/-- Lane i of a word, lanes of n bits. -/
def laneOf (n : Nat) (x : W32) (i : Nat) : Nat := x.toNat / 2 ^ (n * i) % 2 ^ n

/-- Builds a word from a lane function; 32/n lanes. -/
def lanes (n : Nat) (f : Nat → Nat × Flags) : W32 × Flags :=
  (List.range (32 / n)).foldl (fun acc i =>
    let r := f i
    (acc.1 ||| BitVec.ofNat 32 (r.1 % 2 ^ n * 2 ^ (n * i)), acc.2 ||| r.2)) (0#32, 0#5)

/-- A number of n bits read as signed. -/
def sgn (n x : Nat) : Int := if 2 ^ (n - 1) ≤ x then (x : Int) - (2 ^ n : Nat) else x

/-- An integer as an n-bit number. -/
def unsgn (n : Nat) (x : Int) : Nat := (x % ((2 ^ n : Nat) : Int)).toNat

/-- Saturation to the signed range of n bits. -/
def satS (n : Nat) (x : Int) : Int := max (-((2 ^ (n - 1) : Nat) : Int)) (min (((2 ^ (n - 1) : Nat) : Int) - 1) x)

/-- The integer conditions of Table 6.4. -/
def condInt (cond n x y : Nat) : Bool :=
  let sx := sgn n x
  let sy := sgn n y
  match cond with
  | 0 => x == y | 1 => x != y | 2 => decide (sx < sy) | 3 => decide (sy ≤ sx) | 4 => decide (x < y)
  | 5 => decide (y ≤ x) | 6 => decide (sx ≤ sy) | 7 => decide (sy < sx) | 8 => decide (x ≤ y)
  | 9 => decide (y < x) | _ => false

/-- COND(a, K) on whole words (R178 to R180). -/
def condWord (c : CeCfg) (a : W32) : Bool := condInt c.cond 32 a.toNat c.k0.toNat

/-- The floating-point conditions of Table 6.4 with NV (R167). -/
def condFloat (f : Narrow) (cond x y : Nat) : Bool × Flags :=
  let a := decodeNum f x
  let b := decodeNum f y
  let un := a.isNan || b.isNan
  let quiet := flagIf (a.isSig || b.isSig) flagNV
  let signalling := flagIf un flagNV
  match cond with
  | 0 => (eqNum a b, quiet)
  | 1 => (un || !eqNum a b, quiet)
  | 2 => (ltNum a b, signalling)
  | 3 => (!un && !ltNum a b, signalling)
  | 6 => (ltNum a b || eqNum a b, signalling)
  | 7 => (!un && !(ltNum a b || eqNum a b), signalling)
  | 10 => (un, quiet)
  | _ => (false, 0#5)

/-- The integer operations of Table 6.6 on one lane of n bits. -/
def intLane (c : CeCfg) (n x y z : Nat) : Nat :=
  let sx := sgn n x
  let sy := sgn n y
  match c.opc with
  | 0x00 => x
  | 0x01 => (x + y) % 2 ^ n
  | 0x02 => (x + (2 ^ n - y)) % 2 ^ n
  | 0x03 => unsgn n (satS n (sx + sy))
  | 0x04 => unsgn n (satS n (sx - sy))
  | 0x05 => (x * y) % 2 ^ n
  | 0x06 => if c.uns then x * y / 2 ^ n % 2 ^ n else unsgn n (sx * sy / ((2 ^ n : Nat) : Int))
  | 0x07 => (x * y + z) % 2 ^ n
  | 0x08 => if c.uns then min x y else unsgn n (min sx sy)
  | 0x09 => if c.uns then max x y else unsgn n (max sx sy)
  | 0x0A => min sx.natAbs (2 ^ (n - 1) - 1)
  | 0x0B => x &&& y
  | 0x0C => x ||| y
  | 0x0D => x ^^^ y
  | 0x0E => x * 2 ^ (y % n) % 2 ^ n
  | 0x0F => x / 2 ^ (y % n)
  | 0x10 => unsgn n (sx / ((2 ^ (y % n) : Nat) : Int))
  | 0x11 => if condInt c.cond n x y then 1 else 0
  | _ => if z = 0 then y else x

/-- Lane width of a LANE code (R169). -/
def laneWidth (lane : Nat) : Nat := 32 / 2 ^ lane

/-- The inputs that an operation of Tables 6.6 and 6.7 reads, constants left out. -/
def CeCfg.reads (c : CeCfg) : List Nat :=
  let b := !c.kb && !([0x00, 0x0A, 0x26, 0x27, 0x28, 0x29].contains c.opc)
  let cc := !c.kc && ([0x07, 0x12, 0x23].contains c.opc)
  [0] ++ (if b then [1] else []) ++ (if cc then [2] else [])

/-- The floating-point operations of Table 6.7 on the operands: result word and flags. `ph` is the
phase of FCVT. -/
def floatOp (c : CeCfg) (ph : Nat) (a b z : W32) : W32 × Flags :=
  let rm := rmOfCode c.rm
  match c.opc with
  | 0x26 => frcp a
  | 0x27 => frsq a
  | 0x28 => fexp2 a
  | 0x29 =>
    let f := fmtOf c.fd
    let r := convertNum (fmtOf c.fd2) ⟨rm, ph⟩ f.isInt (decodeNum f a.toNat)
    (BitVec.ofNat 32 r.1, r.2)
  | _ =>
    let f := fmtOf c.fd
    lanes f.w (fun i =>
      let x := laneOf f.w a i
      let y := laneOf f.w b i
      let w := laneOf f.w z i
      let vx := decodeNum f x
      let vy := decodeNum f y
      match c.opc with
      | 0x20 => deliverNum f rm (addNum rm vx vy)
      | 0x21 => deliverNum f rm (subNum rm vx vy)
      | 0x22 => deliverNum f rm (mulNum vx vy)
      | 0x23 => deliverNum f rm (fmaNum rm vx vy (decodeNum f w))
      | 0x24 => minMaxNum f false x y
      | 0x25 => minMaxNum f true x y
      | _ => let t := condFloat f c.cond x y; (if t.1 then 1 else 0, t.2))

/-- A firing of Tables 6.6 and 6.7: one result for each aligned set of DATA operands (R170). -/
def fireCalc (op : CeCfg → ElemState → W32 → W32 → W32 → W32 × Flags) (post : CeCfg → ElemState → ElemState)
    (c : CeCfg) (back : List Nat) (st : ElemState) (qs : List (List FWord)) : FireRes :=
  match tokenRule false c.ins back qs st with
  | some r => r
  | none =>
    if allHeads c.reads qs then
      let a := (qhead qs 0).getD ⟨.data, 0#4, 0#32⟩
      let b := if c.kb then c.k0 else ((qhead qs 1).map (·.data)).getD 0#32
      let z := if c.kc then c.k1 else ((qhead qs 2).map (·.data)).getD 0#32
      let r := op c st a.data b z
      .fire { st := post c st, take := c.reads, flags := r.2,
              out := [onBoth ⟨.data, if c.opc == 0 then a.tag else c.tag, r.1⟩] }
    else .wait

/-- CE_INTEGER_FIRE (R170, Table 6.6). -/
def fireInteger (c : CeCfg) (back : List Nat) (st : ElemState) (qs : List (List FWord)) : FireRes :=
  fireCalc (fun c _ a b z => lanes (laneWidth c.lane) (fun i =>
      (intLane c (laneWidth c.lane) (laneOf (laneWidth c.lane) a i) (laneOf (laneWidth c.lane) b i)
        (laneOf (laneWidth c.lane) z i), 0#5)))
    (fun _ st => st) c back st qs

/-- CE_FLOAT_FIRE (R175, Table 6.7). -/
def fireFloat (c : CeCfg) (back : List Nat) (st : ElemState) (qs : List (List FWord)) : FireRes :=
  fireCalc (fun c st a b z => floatOp c st.phase a b z)
    (fun c st => if c.opc == 0x29 then { st with phase := (st.phase + c.step) % 16 } else st) c back st qs

/-! ## CNT (R171) -/

/-- A BOUND held takes effect when the row count is zero, a row boundary. -/
def applyBound (st : ElemState) : ElemState :=
  match st.bound with
  | some w =>
    if st.i0 = 0 then { st with n0 := bitsOf w.toNat 15 0, n1 := bitsOf w.toNat 31 16, bound := none } else st
  | none => st

/-- A BOUND at the head of a: consumed, also forwarded on x when FB = 1. -/
def takeBound (c : CeCfg) (st : ElemState) (w : FWord) : FireRes :=
  let s1 := { st with bound := some w.data }
  let s2 := if st.stopped then { s1 with stopped := false, i0 := 0, i1 := 0, mode := 0 } else s1
  .fire { st := applyBound s2, take := [0], out := if c.fb then [onX w] else [] }

/-- One generated word of GEN. `pl` is the payload of a generated delimiter. -/
def genWord (c : CeCfg) (st0 : ElemState) (pl : W32) : Fire :=
  let st := applyBound st0
  let tok (k : Kind) : Emission := onBoth ⟨k, c.tag, pl⟩
  if st.mode = 1 then { st := { st with mode := 0, stopped := true }, take := [], out := [tok .eos] }
  else if st.i1 < st.n1 then
    if st.i0 < st.n0 then
      { st := { st with i0 := st.i0 + 1 }, take := [],
        out := [onBoth ⟨.data, c.tag, BitVec.ofNat 32 (st.i1 % 65536 * 65536 + st.i0 % 65536)⟩] }
    else { st := { st with i0 := 0, i1 := st.i1 + 1 }, take := [], out := [tok .eor] }
  else { st := { st with i0 := 0, i1 := 0, mode := if c.n % 2 = 1 then 1 else 0 }, take := [], out := [tok .eok] }

/-- GEN mode. -/
def fireGen (c : CeCfg) (back : List Nat) (st : ElemState) (qs : List (List FWord)) (pl : W32) : FireRes :=
  let gen : FireRes := if st.stopped then .wait else .fire (genWord c st pl)
  if !c.enabled 0 then gen else
  match qhead qs 0 with
  | some w =>
    if w.kind = .bound then takeBound c st w
    else if w.kind = .data then .fault .element .data 0
    else (tokenRule false [0] back qs st).getD .wait
  | none => gen

/-- The delimiters that DELIM inserts when a row ends: EOR, and EOK after n1 of them. -/
def rowEnd (c : CeCfg) (st : ElemState) (pl : W32) : ElemState × List Emission :=
  let i1 := st.i1 + 1
  let eor := onBoth ⟨.eor, c.tag, pl⟩
  if st.n1 ≠ 0 ∧ st.n1 ≤ i1 then
    ({ st with i0 := 0, i1 := 0 }, [eor, onBoth ⟨.eok, c.tag, pl⟩])
  else ({ st with i0 := 0, i1 := i1 }, [eor])

/-- DELIM mode. -/
def fireDelim (c : CeCfg) (back : List Nat) (st : ElemState) (qs : List (List FWord)) (pl : W32) : FireRes :=
  match qhead qs 0 with
  | none => .wait
  | some w =>
    if w.kind = .bound then takeBound c st w
    else if w.kind = .data then
      let s1 := { st with i0 := st.i0 + 1 }
      let r := if s1.n0 ≠ 0 ∧ s1.n0 ≤ s1.i0 then rowEnd c s1 pl else (s1, [])
      .fire { st := applyBound r.1, take := [0], out := onBoth w :: r.2 }
    else if w.kind = .eos then
      let r1 := if st.n0 ≠ 0 ∧ st.i0 ≠ 0 then rowEnd c st pl else (st, [])
      let ek := if r1.1.n1 ≠ 0 ∧ r1.1.i1 ≠ 0 then [onBoth ⟨.eok, c.tag, pl⟩] else []
      .fire { st := applyBound { r1.1 with i0 := 0, i1 := 0 }, take := [0], out := r1.2 ++ ek ++ [onBoth w] }
    else if w.kind = .eor then
      .fire { st := applyBound { st with i0 := 0 }, take := [0], out := [onBoth w] }
    else if w.kind = .eok then
      .fire { st := applyBound { st with i0 := 0, i1 := 0 }, take := [0], out := [onBoth w] }
    else (tokenRule false [0] back qs st).getD .wait

/-- CE_CNT (R171). -/
def fireCnt (c : CeCfg) (back : List Nat) (st : ElemState) (qs : List (List FWord)) (pl : W32) : FireRes :=
  if c.md = 0 then fireGen c back st qs pl else fireDelim c back st qs pl

/-! ## Running values, delay, constant -/

/-- The update of a running value by a DATA word (R172). -/
def runUpdate (c : CeCfg) (v a : W32) : W32 × Flags :=
  if c.opc = 0x14 then
    let n := laneWidth c.lane
    lanes n (fun i =>
      let x := laneOf n v i
      let y := laneOf n a i
      (if c.sat then (if c.uns then min (x + y) (2 ^ n - 1) else unsgn n (satS n (sgn n x + sgn n y)))
       else (x + y) % 2 ^ n, 0#5))
  else if c.opc = 0x2B then
    let f := fmtOf c.fd
    let rm := rmOfCode c.rm
    lanes f.w (fun i => deliverNum f rm (addNum rm (decodeNum f (laneOf f.w v i)) (decodeNum f (laneOf f.w a i))))
  else
    let r := minMaxNum fp32 true v.toNat a.toNat
    (BitVec.ofNat 32 r.1, r.2)

/-- CE_RUNNING_VALUE (R172). -/
def fireRunning (c : CeCfg) (back : List Nat) (st : ElemState) (qs : List (List FWord)) : FireRes :=
  match tokenRule false c.ins back qs st with
  | some (.fire x) =>
    match qhead qs 0 with
    | some w =>
      if w.kind.isDelim && x.take.contains 0 then
        let flush := w.kind.atLeast c.lvl
        .fire { x with
          st := { x.st with v := if flush then c.k0 else x.st.v, atStart := decide (w.kind = .eos) }
          out := (if flush then [onBoth ⟨.data, c.tag, st.v⟩] else []) ++ x.out }
      else .fire x
    | none => .fire x
  | some r => r
  | none =>
    match qhead qs 0 with
    | none => .wait
    | some w =>
      let r := runUpdate c st.v w.data
      .fire { st := { st with v := r.1, atStart := false }, take := [0], flags := r.2 }

/-- CE_DLY (R173). -/
def fireDly (c : CeCfg) (back : List Nat) (st : ElemState) (qs : List (List FWord)) : FireRes :=
  match tokenRule false c.ins back qs st with
  | some r =>
    onDelim r qs 0 (fun k s =>
      if k = .eos ∨ (k = .eor ∧ c.md = 1) then { s with line := List.replicate c.n c.k1 } else s)
  | none =>
    match qhead qs 0 with
    | none => .wait
    | some w =>
      let l := st.line ++ [w.data]
      .fire { st := { st with line := l.tail }, take := [0], out := [onBoth ⟨.data, c.tag, l.headD 0#32⟩] }

/-- CE_CONST (R174). -/
def fireConst (c : CeCfg) (back : List Nat) (st : ElemState) (qs : List (List FWord)) : FireRes :=
  let k : Emission := onBoth ⟨.data, c.tag, c.k0⟩
  if c.enabled 0 then
    match tokenRule false c.ins back qs st with
    | some r => r
    | none => if (qhead qs 0).isSome then .fire { st := st, take := [0], out := [k] } else .wait
  else .fire { st := st, take := [], out := [k] }

/-! ## QNT and DQNT (R176, R177, R114) -/

/-- Cuts a list into pieces of n. -/
def chunks {α : Type} (n : Nat) : Nat → List α → List (List α)
  | 0, _ => []
  | fuel + 1, l => if l.isEmpty then [] else l.take n :: chunks n fuel (l.drop n)

/-- Scale words: three 9-bit scales each, the first lowest (R114). -/
def packScales (l : List Nat) : List W32 :=
  (chunks 3 l.length l).map (fun t => BitVec.ofNat 32 (t.getD 0 0 + t.getD 1 0 * 512 + t.getD 2 0 * 262144))

/-- The three scales of a scale word. -/
def unpackScales (w : W32) : List Nat := [bitsOf w.toNat 8 0, bitsOf w.toNat 17 9, bitsOf w.toNat 26 18]

/-- Codes of width w as one little-endian stream of 32-bit words (R114). -/
def packCodes (w : Nat) (l : List Nat) : List W32 :=
  let n := l.foldr (fun c acc => acc * 2 ^ w + c % 2 ^ w) 0
  (List.range ((l.length * w + 31) / 32)).map (fun i => BitVec.ofNat 32 (n / 2 ^ (32 * i)))

/-- Code i of width w in a stream of 32-bit words. -/
def codeAt (w : Nat) (ws : List W32) (i : Nat) : Nat :=
  let lo := w * i
  let j := lo / 32
  let two := (ws.getD j 0#32).toNat + (ws.getD (j + 1) 0#32).toNat * 2 ^ 32
  let three := two + (ws.getD (j + 2) 0#32).toNat * 2 ^ 64
  three / 2 ^ (lo % 32) % 2 ^ w

/-- A HDR payload (Table 4.4). -/
def hdrWord (fd : BitVec 16) (blk nsc phase : Nat) : W32 :=
  BitVec.ofNat 32 (fd.toNat * 65536 + blk % 4 * 16384 + nsc % 1024 * 16 + phase % 16)

def hdrFd (h : W32) : BitVec 16 := BitVec.ofNat 16 (bitsOf h.toNat 31 16)
def hdrBlk (h : W32) : Nat := bitsOf h.toNat 15 14
def hdrNsc (h : W32) : Nat := bitsOf h.toNat 13 4
def hdrPhase (h : W32) : Nat := bitsOf h.toNat 3 0

/-- A header's FD is carried by packets: valid, and neither FP64 nor INT64 (R114). -/
def hdrFdOk (fd : BitVec 16) : Bool := fdValid fd && fd.toNat != 0 && fd.toNat != 8

def ceilDiv (a b : Nat) : Nat := (a + b - 1) / b

/-- One tile packet of a row (R176, R121): header, scale words, code words, flags. -/
def quantRow (f : Narrow) (fd : BitVec 16) (rm : Rm) (blk phase : Nat) (xs : List Val) : List (Kind × W32) × Flags :=
  let L := blkLen blk
  let bs := (chunks L xs.length xs).map (fun b => (b.length, quantBlock f rm phase b))
  let codes := bs.foldl (fun acc b => acc ++ b.2.2.1) []
  let scales := bs.map (fun b => b.2.1)
  ((Kind.hdr, hdrWord fd blk (ceilDiv xs.length L) phase) :: ((packScales scales).map (fun w => (Kind.data, w)))
     ++ (packCodes f.w codes).map (fun w => (Kind.data, w)),
   bs.foldl (fun a b => a ||| b.2.2.2) 0#5)

/-- CE_QNT (R176). -/
def fireQnt (c : CeCfg) (back : List Nat) (st : ElemState) (qs : List (List FWord)) : FireRes :=
  match tokenRule false c.ins back qs st with
  | some (.fire x) =>
    match qhead qs 0 with
    | some w =>
      if (decide (w.kind = .eor) || decide (w.kind = .eos)) && x.take.contains 0 && !st.line.isEmpty then
        let f := fmtOf c.fd
        let r := quantRow (fmtOf c.fd2) c.fd2 (rmOfCode c.rm) c.blk st.phase (st.line.map (fun v => decodeNum f v.toNat))
        .fire { x with
          st := { x.st with line := [], phase := (st.phase + c.step) % 16 }
          flags := r.2
          out := r.1.map (fun p => onBoth ⟨p.1, c.tag, p.2⟩) ++ x.out }
      else .fire x
    | none => .fire x
  | some r => r
  | none =>
    match qhead qs 0 with
    | none => .wait
    | some w =>
      if 256 ≤ st.line.length then .fault .element .data 0
      else .fire { st := { st with line := st.line ++ [w.data] }, take := [0] }

/-- The packet length K of DQNT (R177). -/
def dqntK (c : CeCfg) (h : W32) : Nat := if c.k1.toNat ≠ 0 then c.k1.toNat else hdrNsc h * blkLen (hdrBlk h)

/-- The values that the code words read so far complete, from code `st.codes` on. -/
def dqntEmit (c : CeCfg) (st : ElemState) (h : W32) : ElemState × List Emission × Flags :=
  let f := fmtOf (hdrFd h)
  let K := dqntK c h
  let avail := min K (32 * st.words.length / f.w)
  let L := blkLen (hdrBlk h)
  let g := fmtOf c.fd2
  let vals := (List.range (avail - st.codes)).map (fun i =>
    let n := st.codes + i
    let σ := if fdStandard (hdrFd h) then some (Q.ofInt 1) else scaleVal (st.scales.getD (n / L) 0)
    convertNum g ⟨rmOfCode c.rm, 0⟩ f.isInt (decodeScaled f σ (codeAt f.w st.words n)))
  let st1 := if avail = K then { st with hdr := none, scales := [], words := [], codes := 0 }
    else { st with codes := avail }
  (st1, vals.map (fun v => onBoth ⟨.data, c.tag, BitVec.ofNat 32 v.1⟩), vals.foldl (fun a v => a ||| v.2) 0#5)

/-- CE_DQNT (R177). -/
def fireDqnt (c : CeCfg) (back : List Nat) (st : ElemState) (qs : List (List FWord)) : FireRes :=
  match qhead qs 0 with
  | none => .wait
  | some w =>
    match w.kind, st.hdr with
    | .hdr, none =>
      let K := dqntK c w.data
      if !hdrFdOk (hdrFd w.data) then .fault .element .hdr 0
      else
        let want := if fdStandard (hdrFd w.data) then 0 else ceilDiv K (blkLen (hdrBlk w.data))
        if hdrNsc w.data ≠ want then .fault .scalecount .hdr 0
        else .fire { st := if K = 0 then st else { st with hdr := some w.data, scales := [], words := [], codes := 0 },
                     take := [0] }
    | .hdr, some _ => .fault .element .hdr 0
    | .data, none => .fault .element .data 0
    | .data, some h =>
      if st.scales.length < hdrNsc h then
        if bitsOf w.data.toNat 31 27 ≠ 0 then .fault .element .data 0
        else .fire { st := { st with scales := (st.scales ++ unpackScales w.data).take (hdrNsc h) }, take := [0] }
      else
        let r := dqntEmit c { st with words := st.words ++ [w.data] } h
        .fire { st := r.1, take := [0], out := r.2.1, flags := r.2.2 }
    | k, some _ =>
      if k.isDelim then .fault .element k 0 else (tokenRule false c.ins back qs st).getD .wait
    | _, none => (tokenRule false c.ins back qs st).getD .wait

/-! ## Routing operations -/

/-- CE_STEER (R178). -/
def fireSteer (c : CeCfg) (back : List Nat) (st : ElemState) (qs : List (List FWord)) : FireRes :=
  match qhead qs 1 with
  | some ⟨.steer, _, p⟩ =>
    let m := bitsOf p.toNat 1 0
    if m = 3 then .fault .element .steer 1
    else .fire { st := { st with mode := m }, take := [1] }
  | hb =>
    match qhead qs 0, st.mode with
    | some ⟨.data, t, p⟩, 1 => .fire { st := st, take := [0], out := [onX ⟨.data, t, p⟩] }
    | some ⟨.data, t, p⟩, 2 => .fire { st := st, take := [0], out := [onY ⟨.data, t, p⟩] }
    | ha, m =>
      match tokenRule false c.ins back qs st with
      | some r => onDelim r qs 0 (fun k s => if k = .eos then { s with mode := 0 } else s)
      | none =>
        match ha, hb with
        | some a, some b =>
          if m ≠ 0 then .wait
          else .fire { st := st, take := [0, 1], out := [if condWord c b.data then onX a else onY a] }
        | _, _ => .wait

/-- CE_MERGE (R179). -/
def fireMerge (c : CeCfg) (back : List Nat) (st : ElemState) (qs : List (List FWord)) : FireRes :=
  match specialTokens false c.ins back qs st with
  | some r => r
  | none =>
    match qhead qs 2 with
    | none => .wait
    | some w =>
      if w.kind.isDelim then .fire { st := st, take := [2] }
      else
        let i := if condWord c w.data then 1 else 0
        match qhead qs i with
        | some v => .fire { st := st, take := [i, 2], out := [onX v] }
        | none => .wait

/-- One word of a GATE segment: sent on x, or discarded but for delimiters above LVL. -/
def gateWord (c : CeCfg) (st : ElemState) (pass : Bool) (w : FWord) (take : List Nat) : FireRes :=
  let ends := w.kind.atLeast c.lvl
  let send := pass || w.kind.atLeast (c.lvl + 1)
  .fire { st := { st with mode := if ends then 0 else if pass then 1 else 2 }, take := take,
          out := if send then [onX w] else [] }

/-- CE_GATE (R180). -/
def fireGate (c : CeCfg) (back : List Nat) (st : ElemState) (qs : List (List FWord)) : FireRes :=
  match specialTokens false c.ins back qs st with
  | some r => r
  | none =>
    match qhead qs 1, qhead qs 0 with
    | some b, ha =>
      if b.kind.isDelim then .fire { st := st, take := [1] }
      else
        match ha with
        | none => .wait
        | some w =>
          if st.mode = 1 then gateWord c st true w [0]
          else if st.mode = 2 then gateWord c st false w [0]
          else gateWord c st (condWord c b.data) w [0, 1]
    | none, some w =>
      if st.mode = 1 then gateWord c st true w [0]
      else if st.mode = 2 then gateWord c st false w [0]
      else .wait
    | none, none => .wait

/-- CE_DUP (R181). -/
def fireDup (c : CeCfg) (back : List Nat) (st : ElemState) (qs : List (List FWord)) : FireRes :=
  match tokenRule false c.ins back qs st with
  | some r => r
  | none =>
    match qhead qs 0 with
    | none => .wait
    | some w => .fire { st := st, take := [0], out := onBoth w :: List.replicate (bitsOf c.k0.toNat 15 0) (onX w) }

/-- The tag that TAGCHK expects at position p (R182). -/
def expectedTag (c : CeCfg) (p : Nat) : BitVec 4 :=
  BitVec.ofNat 4 (c.k0.toNat + p % (bitsOf c.k1.toNat 3 0 + 1))

/-- CE_TAGCHK, and TAGSET (R182). -/
def fireTag (c : CeCfg) (back : List Nat) (st : ElemState) (qs : List (List FWord)) : FireRes :=
  match tokenRule false c.ins back qs st with
  | some r => onDelim r qs 0 (fun k s => if k = .eos then { s with count := 0 } else s)
  | none =>
    match qhead qs 0 with
    | none => .wait
    | some w =>
      let e := expectedTag c st.count
      if c.opc = 0x44 ∧ w.tag ≠ e then .fault .lanetag .data 0
      else .fire { st := { st with count := (st.count + 1) % (bitsOf c.k1.toNat 3 0 + 1) }, take := [0],
                   out := [onX { w with tag := e }] }

/-- CE_PRIME (R183). -/
def firePrime (c : CeCfg) (back : List Nat) (st : ElemState) (qs : List (List FWord)) : FireRes :=
  if st.count ≠ 0 then
    .fire { st := { st with count := st.count - 1 }, take := [], out := [onX ⟨.data, 0#4, c.k0⟩] }
  else
    match tokenRule false c.ins back qs st with
    | some r => onDelim r qs 0 (fun k s => if k = .eos then { s with count := c.n } else s)
    | none =>
      match qhead qs 0 with
      | none => .wait
      | some w => .fire { st := st, take := [0], out := [onX w] }

/-- CE_LIMIT (R184). -/
def fireLimit (c : CeCfg) (back : List Nat) (st : ElemState) (qs : List (List FWord)) : FireRes :=
  match qhead qs 1 with
  | some w =>
    if w.kind = .mark ∧ !back.contains 1 then (specialTokens false [0, 1] back qs st).getD .wait
    else .fire { st := if w.kind = .data then { st with count := st.count - 1 } else st, take := [1] }
  | none =>
    match tokenRule false [0] back qs st with
    | some r => r
    | none =>
      match qhead qs 0 with
      | none => .wait
      | some w =>
        if st.count < c.k0.toNat then .fire { st := { st with count := st.count + 1 }, take := [0], out := [onX w] }
        else .wait

/-- CE_SEQ (R185): `mode` 1 while an item is open. -/
def fireSeq (c : CeCfg) (back : List Nat) (st : ElemState) (qs : List (List FWord)) : FireRes :=
  match qhead qs 0 with
  | none => .wait
  | some w =>
    if w.kind = .data ∨ w.kind.isDelim ∨ w.kind = .hdr ∨ w.kind = .stat then
      let first := st.mode = 0
      .fire { st := { st with mode := if w.kind.atLeast c.lvl then 0 else 1,
                              item := if first then st.item + 1#32 else st.item },
              take := [0], out := (if first then [onX ⟨.seqn, 0#4, st.item⟩] else []) ++ [onX w] }
    else (tokenRule false c.ins back qs st).getD .wait

/-- Releases the complete held items that are next in order (R186). -/
def releaseItems : Nat → ElemState → ElemState × List Emission
  | 0, st => (st, [])
  | fuel + 1, st =>
    match st.window.find? (fun e => e.1 == st.item.toNat && e.2.1) with
    | some e =>
      let st1 := { st with item := st.item + 1#32, window := st.window.filter (fun x => x.1 != e.1) }
      let r := releaseItems fuel st1
      (r.1, e.2.2.map onX ++ r.2)
    | none => (st, [])

/-- Adds a word to the held item n. -/
def holdWord (l : List (Nat × Bool × List FWord)) (n : Nat) (w : FWord) (ends : Bool) : List (Nat × Bool × List FWord) :=
  l.map (fun e => if e.1 == n then (e.1, ends, e.2.2 ++ [w]) else e)

/-- CE_REORD (R186). An item word before any SEQN, and an item of more than 256 words in the window,
raise ELEMENT (assumption log 20). -/
def fireReord (c : CeCfg) (back : List Nat) (st : ElemState) (qs : List (List FWord)) : FireRes :=
  match qhead qs 0 with
  | none => .wait
  | some w =>
    if w.kind = .seqn then
      let d := (w.data - st.item).toNat
      let n := w.data.toNat
      if st.cur.isSome then .fault .element .seqn 0
      else if d = 0 then .fire { st := { st with cur := some w.data }, take := [0], out := [onX w] }
      else if 2 ^ 31 ≤ d ∨ st.window.any (fun e => e.1 == n) then .fault .element .seqn 0
      else if d ≤ c.n then
        .fire { st := { st with cur := some w.data, window := st.window ++ [(n, false, [w])] }, take := [0] }
      else .wait
    else if w.kind = .data ∨ w.kind.isDelim ∨ w.kind = .hdr ∨ w.kind = .stat then
      match st.cur with
      | none => .fault .element w.kind 0
      | some n =>
        let ends := w.kind.atLeast c.lvl
        if n = st.item then
          if ends then
            let r := releaseItems (st.window.length + 1) { st with cur := none, item := st.item + 1#32 }
            .fire { st := r.1, take := [0], out := onX w :: r.2 }
          else .fire { st := st, take := [0], out := [onX w] }
        else
          let len : Nat := ((st.window.find? (fun e => e.1 == n.toNat)).map (·.2.2.length)).getD 0
          if 257 ≤ len then .fault .element w.kind 0
          else .fire { st := { st with window := holdWord st.window n.toNat w ends,
                                       cur := if ends then none else some n }, take := [0] }
    else (tokenRule false c.ins back qs st).getD .wait

/-- CE_BND (R187): one word at a time waits for its release; MARK is recorded and passes it, for the
word waits in the element's recorded state (Table 6.9). -/
def fireBnd (c : CeCfg) (back : List Nat) (st : ElemState) (qs : List (List FWord)) : FireRes :=
  match qhead qs 0 with
  | none => .wait
  | some w =>
    if w.kind = .mark then (tokenRule false c.ins back qs st).getD .wait
    else if w.kind.isResv then .fault .element w.kind 0
    else if st.held.isEmpty then .fire { st := st, take := [0], hold := [(w, true)] }
    else .wait

/-! ## Memory elements (R188 to R192) -/

/-- Bytes of an element of width EW. -/
def MeCfg.bytes (c : MeCfg) : Nat := 4 / 2 ^ c.ew

/-- The inputs an ME reads (Table 6.8). -/
def MeCfg.ins (c : MeCfg) : List Nat :=
  match c.mode with
  | 1 => [0, 1]
  | 2 => if c.rmwop = 4 then [0] else [0, 1]
  | 3 => [1]
  | 4 => [1]
  | _ => [0]

/-- Offset in the ME's 32 KiB of element index i, none beyond the region (R188). -/
def MeCfg.offset (c : MeCfg) (i : Nat) : Option Nat :=
  if i * c.bytes + c.bytes ≤ c.lenm1 + 1 then some (c.base + i * c.bytes) else none

/-- Number of whole elements in the region. -/
def MeCfg.count (c : MeCfg) : Nat := (c.lenm1 + 1) / c.bytes

/-- The delimiter rules of an ME (R192): `x`, `y` say where delimiters go. A consumed EOS is
followed by `after`. -/
def meTokens (c : MeCfg) (x y : Bool) (before after : List Emission) (hold : List (FWord × Bool))
    (back : List Nat) (st : ElemState) (qs : List (List FWord)) : Option FireRes :=
  match tokenRule true c.ins back qs st with
  | some (.fire f) =>
    match findHead c.ins qs (fun w => w.kind.isDelim) with
    | some (q, w) =>
      if f.take.contains q && w.kind.isDelim && !f.mark then
        let e : Emission := ⟨if x then some w else none, if y then some w else none⟩
        if w.kind = .eos then
          some (.fire { f with st := { f.st with writes := 0 }, out := before ++ [e] ++ after, hold := hold })
        else some (.fire { f with out := [e] })
      else some (.fire f)
    | none => some (.fire f)
  | r => r

/-- The DONE that follows an EOS (R191): emitted at once at CORE and RECT scope, held for a cut at
wider ones (R475). -/
def MeCfg.doneOut (c : MeCfg) (st : ElemState) : List Emission × List (FWord × Bool) :=
  if c.doneEn then
    let w : FWord := ⟨.done, 0#4, BitVec.ofNat 32 st.writes⟩
    if c.doneSc ≤ 1 then ([onY w], []) else ([], [(w, false)])
  else ([], [])

/-- ME_RD (Table 6.8). `rd` reads bytes of the ME's 32 KiB. -/
def fireRd (c : MeCfg) (rd : Nat → Nat → Nat) (back : List Nat) (st : ElemState) (qs : List (List FWord)) : FireRes :=
  match meTokens c true false [] [] [] back st qs with
  | some r => r
  | none =>
    match qhead qs 0 with
    | none => .wait
    | some w =>
      match c.offset w.data.toNat with
      | none => .fault .element .data 0
      | some o =>
        let v := rd o c.bytes
        let r : W32 := if bitOf c.modex.toNat 0 then BitVec.ofInt 32 (sgn (8 * c.bytes) v) else BitVec.ofNat 32 v
        .fire { st := st, take := [0], out := [onX ⟨.data, 0#4, r⟩] }

/-- ME_WR (Table 6.8). -/
def fireWr (c : MeCfg) (back : List Nat) (st : ElemState) (qs : List (List FWord)) : FireRes :=
  let d := c.doneOut st
  match meTokens c false true [] d.1 d.2 back st qs with
  | some r => r
  | none =>
    match qhead qs 0, qhead qs 1 with
    | some a, some b =>
      match c.offset a.data.toNat with
      | none => .fault .element .data 0
      | some o =>
        .fire { st := { st with writes := st.writes + 1 }, take := [0, 1],
                store := some (o, c.bytes, b.data.toNat % 2 ^ (8 * c.bytes)) }
    | _, _ => .wait

/-- RMWOP (R190) on the old value and the operand. -/
def rmwOp (op n old b : Nat) : Nat :=
  match op with
  | 0 => (old + b) % 2 ^ n
  | 1 => unsgn n (satS n (sgn n old + sgn n b))
  | 2 => unsgn n (min (sgn n old) (sgn n b))
  | 3 => unsgn n (max (sgn n old) (sgn n b))
  | _ => (old + 1) % 2 ^ n

/-- ME_RMW (Table 6.8, R190). Delimiters leave on y, and on x too. -/
def fireRmw (c : MeCfg) (rd : Nat → Nat → Nat) (back : List Nat) (st : ElemState) (qs : List (List FWord)) : FireRes :=
  let d := c.doneOut st
  match meTokens c true true [] d.1 d.2 back st qs with
  | some r => r
  | none =>
    if allHeads c.ins qs then
      match qhead qs 0 with
      | none => .wait
      | some a =>
        match c.offset a.data.toNat with
        | none => .fault .element .data 0
        | some o =>
          let n := 8 * c.bytes
          let b := ((qhead qs 1).map (·.data.toNat)).getD 0 % 2 ^ n
          let v := rmwOp c.rmwop n (rd o c.bytes) b
          let r : W32 := if c.rmwop = 1 ∨ c.rmwop = 2 ∨ c.rmwop = 3 then BitVec.ofInt 32 (sgn n v) else BitVec.ofNat 32 v
          .fire { st := { st with writes := st.writes + 1 }, take := c.ins, store := some (o, c.bytes, v),
                  out := if bitOf c.modex.toNat 0 then [onX ⟨.data, 0#4, r⟩] else [] }
    else .wait

/-- ME_FIFO (Table 6.8): takes a word in, else sends the oldest on. -/
def fireFifo (c : MeCfg) (st : ElemState) (qs : List (List FWord)) : FireRes :=
  let send : FireRes := match st.fifo with
    | w :: r => .fire { st := { st with fifo := r }, take := [], out := [onX w] }
    | [] => .wait
  match qhead qs 1 with
  | none => send
  | some w =>
    if w.kind = .done then .fire { st := st, take := [1] }
    else if w.kind.isResv then .fault .element w.kind 1
    else if st.fifo.length < (c.lenm1 + 1) / 4 then
      .fire { st := { st with fifo := st.fifo ++ [w] }, take := [1], mark := decide (w.kind = .mark) }
    else send

/-- ME_DELAY (Table 6.8): `line` is the row before, `words` the current row. -/
def fireDelay (c : MeCfg) (back : List Nat) (st : ElemState) (qs : List (List FWord)) : FireRes :=
  match meTokens c true false [] [] [] back st qs with
  | some r =>
    onDelim r qs 1 (fun k s =>
      let p := ((qhead qs 1).map (·.data)).getD 0#32
      let s1 := if k = .bound then { s with bound := some p } else s
      let s2 := if k = .eor then { s1 with line := s1.words, words := [] } else s1
      if s2.words.isEmpty then
        match s2.bound with
        | some b => { s2 with len := bitsOf b.toNat 15 0, bound := none }
        | none => s2
      else s2)
  | none =>
    match qhead qs 1 with
    | none => .wait
    | some w =>
      let p := st.words.length
      if st.len ≤ p then .fault .element .data 1
      else
        let fill : W32 := BitVec.ofNat 32 (bitsOf c.modex.toNat 47 16)
        .fire { st := { st with words := st.words ++ [w.data] }, take := [1],
                out := [onX ⟨.data, w.tag, st.line.getD p fill⟩] }

/-- ME_HIST (Table 6.8). -/
def fireHist (c : MeCfg) (rd : Nat → Nat → Nat) (back : List Nat) (st : ElemState) (qs : List (List FWord)) : FireRes :=
  let d := c.doneOut st
  let dump := if bitOf c.modex.toNat 0 then
      (List.range c.count).map (fun i => onX ⟨.data, 0#4, BitVec.ofNat 32 (rd (c.base + i * c.bytes) c.bytes)⟩)
    else []
  match meTokens c true true dump d.1 d.2 back st qs with
  | some r => r
  | none =>
    match qhead qs 0 with
    | none => .wait
    | some w =>
      let o := match c.offset w.data.toNat with
        | some o => some o
        | none => if bitOf c.modex.toNat 1 then some (c.base + (c.count - 1) * c.bytes) else none
      match o with
      | none => .fault .element .data 0
      | some o =>
        .fire { st := { st with writes := st.writes + 1 }, take := [0],
                store := some (o, c.bytes, min (rd o c.bytes + 1) (2 ^ (8 * c.bytes) - 1)) }

/-- ME_FEEDMX (R199): the beat at BASE + 32·i, or a token, goes to the ME's bus register; the header
beat of an operand is checked against FD. `pos` counts beats since the last EOR. -/
def fireFeedmx (c : MeCfg) (rd : Nat → Nat → Nat) (back : List Nat) (st : ElemState) (qs : List (List FWord)) : FireRes :=
  if st.busOut.isSome then .wait else
  match tokenRule true [0] back qs st with
  | some (.fire f) =>
    match f.out with
    | [e] =>
      match e.x with
      | some w => .fire { f with out := [], st := { f.st with busOut := some (.token (bitsOf c.modex.toNat 7 0) w),
                                                              pos := if w.kind = .eor then 0 else st.pos } }
      | none => .fire f
    | _ => .fire f
  | some r => r
  | none =>
    match qhead qs 0 with
    | none => .wait
    | some w =>
      let o := c.base + 32 * w.data.toNat
      if c.lenm1 + 1 < 32 * w.data.toNat + 32 then .fault .element .data 0
      else
        let ws := (List.range 8).map (fun k => BitVec.ofNat 32 (rd (o + 4 * k) 4))
        if st.pos = 0 ∧ c.fd ≠ 0#16 ∧ ws.any (fun h => decide (hdrFd h ≠ c.fd)) then .fault .element .data 0
        else .fire { st := { st with pos := st.pos + 1, busOut := some (.beat (bitsOf c.modex.toNat 7 0) ws) }, take := [0] }

/-! ## Address generators (R194) -/

def AgCfg.c (g : AgCfg) (n : Nat) : Nat := bitsOf g.cnt.toNat (16 * n + 15) (16 * n)
def AgCfg.d (g : AgCfg) (n : Nat) : Int := sgn 24 (bitsOf g.str.toNat (24 * n + 23) (24 * n))

/-- The address of a firing: an emission with its 48-bit address, or a token. -/
structure AgOut where
  word : FWord
  addr : Word
deriving DecidableEq, Repr

/-- Steps i0 to i3; the dimensions whose pass ends. -/
def agStep (g : AgCfg) (st : ElemState) : ElemState × List Nat :=
  if st.i0 + 1 < g.c 0 then ({ st with i0 := st.i0 + 1 }, [])
  else if st.i1 + 1 < g.c 1 then ({ st with i0 := 0, i1 := st.i1 + 1 }, [0])
  else if st.i2 + 1 < g.c 2 then ({ st with i0 := 0, i1 := 0, i2 := st.i2 + 1 }, [0, 1])
  else if st.i3 + 1 < g.c 3 then ({ st with i0 := 0, i1 := 0, i2 := 0, i3 := st.i3 + 1 }, [0, 1, 2])
  else ({ st with i0 := 0, i1 := 0, i2 := 0, i3 := 0, mode := 1 }, [0, 1, 2, 3])

/-- Address arithmetic: the low 64 bits. -/
def agAddr (g : AgCfg) (off : Int) : Word := BitVec.ofInt 64 ((g.base : Int) + off)

/-- One firing of LIN or NEST: `mode` 1 once the last address is out; `pl` is the payload of EOS. -/
def agNext (g : AgCfg) (st : ElemState) (pl : W32) : ElemState × List AgOut :=
  let eos : AgOut := ⟨⟨.eos, 0#4, pl⟩, 0#64⟩
  let total := if g.mode = 0 then g.c 0 else g.c 0 * g.c 1 * g.c 2 * g.c 3
  if st.mode = 1 ∨ total = 0 then ({ st with stopped := true }, [eos])
  else if g.mode = 0 then
    let a := agAddr g ((st.i0 : Int) * g.d 0)
    ({ st with i0 := st.i0 + 1, mode := if st.i0 + 1 = g.c 0 then 1 else 0 },
     [⟨⟨.data, 0#4, a.setWidth 32⟩, a⟩])
  else
    let a := agAddr g ((st.i0 : Int) * g.d 0 + (st.i1 : Int) * g.d 1 + (st.i2 : Int) * g.d 2 + (st.i3 : Int) * g.d 3)
    let r := agStep g st
    let ends := (r.2.filter (fun n => bitOf g.endt.toNat n)).map (fun n =>
      (⟨⟨if n = 0 then .eor else .eok, 0#4, BitVec.ofNat 32 n⟩, 0#64⟩ : AgOut))
    (r.1, ⟨⟨.data, 0#4, a.setWidth 32⟩, a⟩ :: ends)

end Sys2Proof.Machine
end

