-- ==== Sys2Proof/Machine/MatrixCalc.lean ====
section
/-! DEFINITION. The arithmetic of the matrix engine on one tile: checksums (R210, R211), the block
rule (R123, R219), loading and draining (R212, R218, R224), butterflies (R126, R127, R230, R231),
ranking (R236, R237) and rank-weighted accumulation (R125, R248, R249). -/

namespace Sys2Proof.Machine

/-- A tile as it stands at launch (R57). -/
def Tile.blank : Tile :=
  { vals := [], c := [], beta := [], r := [], gamma := [], owner := none, inUse := false, route := .x }

/-- Tile value (i, j). -/
def Tile.at (t : Tile) (i j : Nat) : W32 := Sparse.get 0#32 t.vals (128 * i + j)

/-- The tile with value (i, j) replaced. -/
def Tile.put (t : Tile) (i j : Nat) (v : W32) : Tile :=
  { t with vals := Sparse.set 0#32 v t.vals (128 * i + j) }

/-- Every value, checksum and bound +0 (R215, R217). -/
def Tile.zeroed (t : Tile) : Tile := { t with vals := [], c := [], beta := [], r := [], gamma := [] }

def val32 (x : W32) : Val := decodeNum fp32 x.toNat
def code32 (r : Rm) (v : Val) : W32 := BitVec.ofNat 32 (deliverNum fp32 r (v, 0#5)).1
def addV (a b : Val) : Val := (addNum .rne a b).1
def subV (a b : Val) : Val := (addNum .rne a (negNum b)).1
def absV : Val → Val
  | .fin _ q => .fin false q.abs
  | .inf _ => .inf false
  | .nan s => .nan s
def sumV (l : List Val) : Val := l.foldl addV (.fin false Q.zero)

def Contrib.toVal : Contrib → Val
  | .nan _ => .nan false
  | .inf n => .inf n
  | .fin q => Val.ofQ q

/-! ## Checksums -/

/-- Checksum and bound of a line of values, as MXLDT sets them (R210). -/
def freshSum (vs : List W32) : W32 × W32 :=
  let s := sumV (vs.map val32)
  let c := code32 .rne s
  (c, code32 .rup (absV (subV (val32 c) s)))

/-- Checksum and bound after contributions: old checksum and bound, the contributions and the
rounding errors of the line (R210). -/
def nextSum (c b : W32) (us errs : List Val) : W32 × W32 :=
  let t := addV (val32 c) (sumV us)
  let c' := code32 .rne t
  (c', code32 .rup (addV (val32 b) (addV (sumV errs) (absV (subV (val32 c') t)))))

def Tile.row (t : Tile) (i : Nat) : List W32 := (List.range 128).map (t.at i)
def Tile.col (t : Tile) (j : Nat) : List W32 := (List.range 128).map (fun i => t.at i j)

/-- All checksums and bounds recomputed as MXLDT does (R210). -/
def Tile.resum (t : Tile) : Tile :=
  let rows := (List.range 128).map (fun i => freshSum (t.row i))
  let cols := (List.range 128).map (fun j => freshSum (t.col j))
  { t with c := Sparse.setList 0#32 [] 0 (rows.map (·.1)), beta := Sparse.setList 0#32 [] 0 (rows.map (·.2)),
           r := Sparse.setList 0#32 [] 0 (cols.map (·.1)), gamma := Sparse.setList 0#32 [] 0 (cols.map (·.2)) }

def finite32 (x : W32) : Bool := match val32 x with | .fin _ _ => true | _ => false

/-- The comparison of one row or column (R211): true on a mismatch. -/
def lineMismatch (vs : List W32) (c b : W32) : Bool :=
  if vs.all finite32 && finite32 c && finite32 b then
    match absV (subV (sumV (vs.map val32)) (val32 c)), val32 b with
    | .fin _ d, .fin _ q => q.lt d
    | _, _ => false
  else false

/-- A check of the tile passes (R211). -/
def Tile.check (t : Tile) : Bool :=
  (List.range 128).all (fun i =>
    !lineMismatch (t.row i) (Sparse.get 0#32 t.c i) (Sparse.get 0#32 t.beta i)
    && !lineMismatch (t.col i) (Sparse.get 0#32 t.r i) (Sparse.get 0#32 t.gamma i))

/-- One rounding step: contribution u(i, j) added to the values i in `is`, j < n, with the checksums
(R123, R125, R210). -/
def Tile.addBlock (t : Tile) (is : List Nat) (n : Nat) (u : Nat → Nat → Contrib) : Tile × Flags :=
  let js := List.range n
  let cells := is.flatMap (fun i => js.map (fun j => (i, j, t.at i j, u i j)))
  let res := cells.map (fun x => (x, accumulate x.2.2.1 x.2.2.2))
  let vals := res.foldl (fun m x => Sparse.set 0#32 x.2.1 m (128 * x.1.1 + x.1.2.1)) t.vals
  let err := fun (x : (Nat × Nat × W32 × Contrib) × (W32 × Flags)) =>
    absV (subV (val32 x.2.1) (addV (val32 x.1.2.2.1) x.1.2.2.2.toVal))
  let rowSums := is.map (fun i =>
    let xs := res.filter (fun x => x.1.1 == i)
    (i, nextSum (Sparse.get 0#32 t.c i) (Sparse.get 0#32 t.beta i) (xs.map (fun x => x.1.2.2.2.toVal)) (xs.map err)))
  let colSums := js.map (fun j =>
    let xs := res.filter (fun x => x.1.2.1 == j)
    (j, nextSum (Sparse.get 0#32 t.r j) (Sparse.get 0#32 t.gamma j) (xs.map (fun x => x.1.2.2.2.toVal)) (xs.map err)))
  ({ t with
      vals := vals
      c := rowSums.foldl (fun m x => Sparse.set 0#32 x.2.1 m x.1) t.c
      beta := rowSums.foldl (fun m x => Sparse.set 0#32 x.2.2 m x.1) t.beta
      r := colSums.foldl (fun m x => Sparse.set 0#32 x.2.1 m x.1) t.r
      gamma := colSums.foldl (fun m x => Sparse.set 0#32 x.2.2 m x.1) t.gamma },
   res.foldl (fun a x => a ||| x.2.2) 0#5)

/-! ## Operands of products (R201, R204, R206) -/

/-- One operand row as the words of its packet. -/
def packetFd (ws : List W32) : BitVec 16 := hdrFd (ws.getD 0 0#32)
def packetNsc (ws : List W32) : Nat := hdrNsc (ws.getD 0 0#32)
def packetL (ws : List W32) : Nat :=
  let f := packetFd ws
  if f.toNat = 2 ∨ f.toNat = 3 then 8 else blkLen (hdrBlk (ws.getD 0 0#32))

/-- Scale of the block that holds element k; 1.0 for a standard format (R115). -/
def packetScale (ws : List W32) (k : Nat) : Option Q :=
  if fdStandard (packetFd ws) then some (Q.ofInt 1)
  else
    let b := k / packetL ws
    scaleVal ((unpackScales (ws.getD (1 + b / 3) 0#32)).getD (b % 3) 0)

/-- Element k of the packet, unscaled. -/
def packetCode (ws : List W32) (k : Nat) : Val :=
  let f := fmtOf (packetFd ws)
  decodeNum f (codeAt f.w (ws.drop (1 + ceilDiv (packetNsc ws) 3)) k)

/-- P, the beats of an operand image (R201). -/
def imageBeats (ws : List W32) (k : Nat) : Nat :=
  1 + ceilDiv (packetNsc ws) 3 + ceilDiv (k * (fmtOf (packetFd ws)).w) 32

/-- Words of a packet that blocks up to and including block b need. -/
def wordsForBlock (ws : List W32) (k L b : Nat) : Nat :=
  1 + ceilDiv (packetNsc ws) 3 + ceilDiv (min k ((b + 1) * L) * (fmtOf (packetFd ws)).w) 32

/-- Formats of MXMM and MXMMS (R204). -/
def mmFdOk (scaled : Bool) (fdA fdB : BitVec 16) : Bool :=
  if scaled then fdNarrow fdA && fdNarrow fdB
  else
    let a := fdA.toNat
    let b := fdB.toNat
    ([2, 3].contains a && [2, 3].contains b) || ([4, 5].contains a && [4, 5].contains b)

/-- The check of the headers of a product (R204, R206): `none` when they pass. The operand index is
0 for A, 1 for B. -/
def headerFault (cfg : MxSlot) (scaled : Bool) (kf : Nat) (as bs : List (List W32)) : Option (Cause × Nat) :=
  let h0 := as.headD []
  let g0 := bs.headD []
  let bad := fun (l : List (List W32)) => l.any (fun ws => !hdrFdOk (packetFd ws))
  let differ := fun (l : List (List W32)) (x : List W32) => l.any (fun ws =>
    decide (packetFd ws ≠ packetFd x) || hdrBlk (ws.getD 0 0#32) != hdrBlk (x.getD 0 0#32) || packetNsc ws != packetNsc x)
  if bad as || differ as h0 || decide (cfg.fda ≠ 0#16 ∧ cfg.fda ≠ packetFd h0) then some (.element, 0)
  else if bad bs || differ bs g0 || decide (cfg.fdb ≠ 0#16 ∧ cfg.fdb ≠ packetFd g0) then some (.element, 1)
  else if !mmFdOk scaled (packetFd h0) (packetFd g0) then
    some (.element, if (if scaled then fdNarrow (packetFd h0) else [2, 3, 4, 5].contains (packetFd h0).toNat) then 1 else 0)
  else
    let k := if scaled && kf == 0 then packetNsc h0 * packetL h0 else kf
    let want := fun (x : List W32) => if fdStandard (packetFd x) then 0 else ceilDiv k (packetL x)
    if packetNsc h0 ≠ want h0 then some (.scalecount, 0)
    else if packetNsc g0 ≠ want g0 then some (.scalecount, 1)
    else if packetL h0 != packetL g0 then
      some (.scalecount, 1)
    else none

/-- K of a product (R203, R219). -/
def mmK (scaled : Bool) (kf : Nat) (a0 : List W32) : Nat :=
  if scaled && kf == 0 then packetNsc a0 * packetL a0 else kf

/-- Contribution of block b to value (i, j) (R123, R124). -/
def blockContrib (a b : List W32) (k L blk : Nat) : Contrib :=
  let ks := (List.range (min k ((blk + 1) * L) - blk * L)).map (fun x => blk * L + x)
  let p := ks.foldl (fun (acc : Contrib) x => acc.join (Contrib.ofMul (packetCode a x) (packetCode b x))) (Contrib.fin Q.zero)
  p.scale (scaleMul (packetScale a (blk * L)) (packetScale b (blk * L)))

/-- Values within M×N set to +0.0, checksums made to match (R219 with ACC = 0). -/
def Tile.zeroShape (t : Tile) (m n : Nat) : Tile :=
  Tile.resum { t with vals := t.vals.filter (fun p => !(decide (p.1 / 128 < m) && decide (p.1 % 128 < n))) }

/-! ## Loading and draining -/

/-- MXLDT (R218): values in order i, then j, over M×N; the rest +0.0. -/
def Tile.load (t : Tile) (m n : Nat) (vs : List W32) : Tile :=
  let xs := (vs.take (m * n)).zipIdx
  Tile.resum { t with vals := xs.foldl (fun s x => Sparse.set 0#32 x.1 s (128 * (x.2 / n) + x.2 % n)) [] }

/-- Widening of a loaded value to FP32 (R120): exact; a signalling NaN gives the canonical NaN and NV. -/
def widen32 (fmt : TileFmt) (raw : Nat) : W32 × Flags :=
  let f := match fmt with | .s => fp32 | .bf => bf16 | .hf => fp16
  let r := convertNum fp32 rne false (decodeNum f raw)
  (BitVec.ofNat 32 r.1, r.2)

/-- Bytes of an element of a tile format. -/
def TileFmt.bytes : TileFmt → Nat
  | .s => 4 | .bf => 2 | .hf => 2

/-- A stored value of MXST (R224). -/
def narrowStore (fmt : TileFmt) (v : W32) : Nat × Flags :=
  match fmt with
  | .s => (v.toNat, 0#5)
  | .bf => convertNum bf16 rne false (val32 v)
  | .hf => convertNum fp16 rne false (val32 v)

/-- Words of one drained row (R212). -/
def drainRow (cfg : MxSlot) (t : Tile) (i phase : Nat) : List (Kind × W32) × Flags :=
  let vs := (List.range (cfg.nm1 + 1)).map (t.at i)
  let rm := rmOfCode cfg.rm
  if cfg.fdo = 1#16 then (vs.map (fun v => (Kind.data, v)), 0#5)
  else if cfg.fdo = 2#16 ∨ cfg.fdo = 3#16 then
    let cs := vs.map (fun v => convertNum (fmtOf cfg.fdo) ⟨rm, phase⟩ false (val32 v))
    ((packCodes 16 (cs.map (·.1))).map (fun w => (Kind.data, w)), cs.foldl (fun a c => a ||| c.2) 0#5)
  else quantRow (fmtOf cfg.fdo) cfg.fdo rm cfg.blk phase (vs.map val32)

/-- All the words of an MXDRN (R212) with their drain rows, and the flags; `pl` is the payload of the
delimiters. -/
def drainWords (cfg : MxSlot) (t : Tile) (pl : W32) : List (Nat × FWord) × Flags :=
  let rows := (List.range (cfg.mm1 + 1)).map (fun i => (i % 8, drainRow cfg t i ((cfg.phase + i * cfg.step) % 16)))
  (rows.flatMap (fun r => r.2.1.map (fun p => (r.1, (⟨p.1, 0#4, p.2⟩ : FWord))) ++ [(r.1, ⟨.eor, 0#4, pl⟩)])
     ++ (List.range 8).map (fun r => (r, ⟨.eok, 0#4, pl⟩)),
   rows.foldl (fun a r => a ||| r.2.2) 0#5)

/-! ## Butterfly mode -/

abbrev Cplx := W32 × W32

/-- Complex point n of a tile (R227). -/
def Tile.point (t : Tile) (n : Nat) : Cplx :=
  (Sparse.get 0#32 t.vals (2 * n), Sparse.get 0#32 t.vals (2 * n + 1))

/-- The sparse values with point n replaced. -/
def putPoint (m : Sparse W32) (n : Nat) (z : Cplx) : Sparse W32 :=
  Sparse.set 0#32 z.2 (Sparse.set 0#32 z.1 m (2 * n)) (2 * n + 1)

def negate32 (x : W32) : W32 := x ^^^ 0x80000000#32

/-- Rounds an exact value and flags into FP32. -/
def round32 (x : Val × Flags) : W32 × Flags :=
  let r := deliverNum fp32 .rne x
  (BitVec.ofNat 32 r.1, r.2)

/-- Exact sum of two products. -/
def twoProd (a b c d : W32) (minus : Bool) : W32 × Flags :=
  let p := mulNum (val32 a) (val32 b)
  let q := mulNum (val32 c) (val32 d)
  if (val32 a).isNan || (val32 b).isNan || (val32 c).isNan || (val32 d).isNan then
    (BitVec.ofNat 32 fp32.nanCode, p.2 ||| q.2)
  else
    let s := addNum .rne p.1 (if minus then negNum q.1 else q.1)
    round32 (s.1, p.2 ||| q.2 ||| s.2)

/-- Multiplication by a factor (R126). -/
def cmul (w a : Cplx) : Cplx × Flags :=
  if w = (0x3F800000#32, 0#32) then (a, 0#5)
  else if w = (0xBF800000#32, 0#32) then ((negate32 a.1, negate32 a.2), 0#5)
  else if w = (0#32, 0x3F800000#32) then ((negate32 a.2, a.1), 0#5)
  else if w = (0#32, 0xBF800000#32) then ((a.2, negate32 a.1), 0#5)
  else
    let re := twoProd w.1 a.1 w.2 a.2 true
    let im := twoProd w.1 a.2 w.2 a.1 false
    ((re.1, im.1), re.2 ||| im.2)

/-- Addition of complex values, each component rounded once (R126). -/
def cadd (a b : Cplx) : Cplx × Flags :=
  let re := round32 (addNum .rne (val32 a.1) (val32 b.1))
  let im := round32 (addNum .rne (val32 a.2) (val32 b.2))
  ((re.1, im.1), re.2 ||| im.2)

/-- x · 2^−s (R127); s = 0 leaves x. -/
def cshift (s : Nat) (a : Cplx) : Cplx × Flags :=
  if s = 0 then (a, 0#5) else
  let sc := fun (x : W32) => round32 (mulNum (val32 x) (.fin false (Q.pow2 (-(s : Int)))))
  let re := sc a.1
  let im := sc a.2
  ((re.1, im.1), re.2 ||| im.2)

/-- Output m of a radix-r butterfly (R127). -/
def butterflyOut (inv : Bool) (r m sh : Nat) (xw : List (Cplx × Cplx)) : Cplx × Flags :=
  let term := fun (j : Nat) (p : Cplx × Cplx) =>
    let a := cmul p.2 p.1
    let b := cmul (twiddle inv r (j * m)) a.1
    (b.1, a.2 ||| b.2)
  match xw.zipIdx.map (fun p => term p.2 p.1) with
  | [] => ((0#32, 0#32), 0#5)
  | y0 :: ys =>
    let y := ys.foldl (fun acc t => let s := cadd acc.1 t.1; (s.1, acc.2 ||| t.2 ||| s.2)) y0
    let z := cshift sh y.1
    (z.1, y.2 ||| z.2)

/-- Radix of a RAD code (Table 8.1). -/
def radixOf : Nat → Nat
  | 1 => 2 | 2 => 3 | 3 => 4 | 4 => 5 | 5 => 8 | _ => 1

def prodList (l : List Nat) : Nat := l.foldl (· * ·) 1

/-- Transform length of a plan (R228). -/
def MxSlot.planN (s : MxSlot) : Nat := prodList s.rads

/-- Stage k on every transform of the batch (R231): the new values and the flags. -/
def Tile.stage (t : Tile) (cfg : MxSlot) (k : Nat) : Tile × Flags :=
  let N := cfg.planN
  let Lk := prodList (cfg.rads.take k)
  let r := cfg.rads.getD k 1
  let Lk1 := Lk * r
  let sh := cfg.shs.getD k 0
  let outs := (List.range (cfg.bm1 + 1)).flatMap (fun b => (List.range (N / Lk1)).flatMap (fun g =>
    (List.range Lk).flatMap (fun q =>
      let base := b * N + g * Lk1 + q
      let xw := (List.range r).map (fun j => (t.point (base + j * Lk), twiddle cfg.inv Lk1 (j * q)))
      (List.range r).map (fun m => (base + m * Lk, butterflyOut cfg.inv r m sh xw)))))
  (Tile.resum { t with vals := outs.foldl (fun s o => putPoint s o.1 o.2.1) t.vals },
   outs.foldl (fun a o => a ||| o.2.2) 0#5)

/-- Stages 0 to S − 1 (R243). -/
def Tile.stages (t : Tile) (cfg : MxSlot) : Tile × Flags :=
  (List.range cfg.rads.length).foldl (fun acc k => let r := acc.1.stage cfg k; (r.1, acc.2 ||| r.2)) (t, 0#5)

/-- Digits of p in the mixed radix of the plan, and the digit reversal (R230). -/
def digitRev : List Nat → Nat → Nat
  | [], _ => 0
  | r :: rs, p => (p % r) * prodList rs + digitRev rs (p / r)

/-- BFREV (R242): elements in address order go to the position whose digit reversal is m. -/
def Tile.loadRev (t : Tile) (cfg : MxSlot) (zs : List Cplx) : Tile :=
  let N := cfg.planN
  let vals := (List.range ((cfg.bm1 + 1) * N)).foldl (fun s p =>
    let n := p / N * N + digitRev cfg.rads (p % N)
    match zs[n]? with
    | some z => putPoint s p z
    | none => s) []
  Tile.resum { t with vals := vals }

/-- TWSET.GEN (R240). -/
def Tile.twiddles (t : Tile) (inv : Bool) (n : Nat) : Tile :=
  Tile.resum { t with vals := (List.range n).foldl (fun s k => putPoint s k (twiddle inv n k)) [] }

/-! ## Rank-coded mode -/

/-- Value n of vector v (R236). -/
def Tile.vecVal (t : Tile) (row0 v V n : Nat) : W32 := t.at (row0 + v * ceilDiv V 128 + n / 128) (n % 128)

/-- x_i precedes x_j (R237), for values that are not NaN. -/
def precedes (a b : Nat × W32) : Bool :=
  ltNum (val32 b.2) (val32 a.2) || (eqNum (val32 b.2) (val32 a.2) && decide (a.1 < b.1))

def insertRank (x : Nat × W32) : List (Nat × W32) → List (Nat × W32)
  | [] => [x]
  | y :: l => if precedes x y then x :: y :: l else y :: insertRank x l

/-- The ranked values in rank order (R237). -/
def rankOrder (xs : List W32) : List (Nat × W32) :=
  (xs.zipIdx.map (fun p => (p.2, p.1))).foldr
    (fun p acc => if (val32 p.2).isNan then acc else insertRank p acc) []

/-- The emitted list (R237). -/
def emittedList (cfg : MxSlot) (ranked : List (Nat × W32)) : List (Nat × W32) :=
  let l := ranked.take cfg.k
  if cfg.th then l.takeWhile (fun p => !ltNum (val32 p.2) (val32 cfg.theta)) else l

/-- The vectors of a rank command: for each, its ranked values and how many are emitted. -/
def rankVectors (cfg : MxSlot) (t : Tile) (row0 nv : Nat) : List (List (Nat × W32) × List (Nat × W32)) :=
  (List.range nv).map (fun v =>
    let r := rankOrder ((List.range (cfg.vm1 + 1)).map (t.vecVal row0 v (cfg.vm1 + 1)))
    (r, emittedList cfg r))

/-- Words of RKNET to the drain (Table 8.7). -/
def rankDrain (vs : List (List (Nat × W32))) (pl : W32) : List (Nat × FWord) :=
  (vs.zipIdx.flatMap (fun p =>
      p.1.map (fun x => (p.2 % 8, (⟨.data, 0#4, BitVec.ofNat 32 x.1⟩ : FWord))) ++ [(p.2 % 8, ⟨.eor, 0#4, pl⟩)]))
    ++ (List.range 8).map (fun r => (r, ⟨.eok, 0#4, pl⟩))

/-- Words of RKNET to memory (Table 8.7): K per vector. -/
def rankWords (k : Nat) (vs : List (List (Nat × W32))) : List W32 :=
  vs.flatMap (fun l => l.map (fun x => BitVec.ofNat 32 x.1) ++ List.replicate (k - l.length) 0xFFFFFFFF#32)

/-- Records of RKTRC (Table 8.7): K + 1 pairs per vector. -/
def rankRecords (k : Nat) (vs : List (List (Nat × W32) × List (Nat × W32))) : List (W32 × W32) :=
  vs.flatMap (fun p =>
    p.2.map (fun x => (BitVec.ofNat 32 x.1, x.2)) ++ List.replicate (k - p.2.length) (0xFFFFFFFF#32, 0#32)
      ++ [(BitVec.ofNat 32 p.2.length, ((p.1[p.2.length]?).map (·.2)).getD 0x7FC00000#32)])

/-- One arrival of MXRANK on row i (R248): rank k, the packet of the weight row. -/
def Tile.arrival (t : Tile) (cfg : MxSlot) (tab : Sparse W32) (i k : Nat) (ws : List W32) : Tile × Flags :=
  let tk := val32 (Sparse.get 0x3F800000#32 tab k)
  t.addBlock [i] (cfg.nm1 + 1) (fun _ j =>
    match packetScale ws j with
    | none => .nan false
    | some σ =>
      match (Contrib.ofMul tk (packetCode ws j)) with
      | .inf n => if σ.isZero then .nan true else .inf n
      | .fin q => .fin (q.mul σ)
      | .nan b => .nan b)

/-- Check of a weight header of MXRANK (R248). -/
def weightFault (cfg : MxSlot) (ws : List W32) : Option Cause :=
  let fd := packetFd ws
  if !(fdNarrow fd || [2, 3, 4, 5].contains fd.toNat) || decide (cfg.fdb ≠ 0#16 ∧ cfg.fdb ≠ fd) then some .element
  else if packetNsc ws ≠ (if fdStandard fd then 0 else ceilDiv (cfg.nm1 + 1) (blkLen (hdrBlk (ws.getD 0 0#32)))) then
    some .scalecount
  else none

/-- RKVAL (R249): the vectors of an index stream expanded through table C. -/
def Tile.expand (t : Tile) (cfg : MxSlot) (tab : Sparse W32) (row0 : Nat) (vecs : List (List Nat)) : Tile :=
  let V := cfg.vm1 + 1
  let rw := ceilDiv V 128
  let cleared := Sparse.clear t.vals (128 * row0) (128 * (row0 + vecs.length * rw))
  let vals := vecs.zipIdx.foldl (fun s p =>
    p.1.zipIdx.foldl (fun s x =>
      Sparse.set 0#32 (Sparse.get 0x3F800000#32 tab x.2) s (128 * (row0 + p.2 * rw) + x.1)) s) cleared
  Tile.resum { t with vals := vals }

end Sys2Proof.Machine
end

