-- ==== Sys2Proof/Machine/State.lean ====
section
/-! DEFINITION. The state of the device as plain data, the reasons a step can stop, and the state
after reset. What each field is named by is listed in INVENTORY.md under State. -/

namespace Sys2Proof.Machine

/-- Why a step can stop with a fault. No meaning of this model does: every cause of Table 21.1 is
taken as the manual describes, so the type has one reason that nothing raises. Safe. -/
inductive Fault
  /-- Raised by no meaning; safe. -/
  | none
deriving DecidableEq, Repr

/-- Why an instruction is refused. -/
inductive Refusal
  /-- Raised by an arm of `exec` whose instruction has no meaning yet; safe. -/
  | notModelled (mnemonic : String)
deriving DecidableEq, Repr

/-! ## Accesses and translation -/

/-- Where a byte lives (Table 9.1, Table 9.2): the scratchpad of a logical core of the requester's
rectangle, local physical memory, or a peer's window. -/
inductive Loc
  | window (core off : Nat)
  | phys (pa : Nat)
  | peer (pa : Nat)
deriving DecidableEq, Repr

/-- What a sequencer access does at its node (R294 to R298). -/
inductive AccKind
  | load (n : Nat) (sx : Bool)
  | store (n : Nat) (v : Word)
  | amo (op : AmoOp) (n : Nat) (y : Word)
  | cas (n : Nat) (expect new : Word)
deriving DecidableEq, Repr

/-- A posted access of a task (R278, R291). `seg` is the number of cuts started when it was issued;
`cut` the number of the cut that must be complete before it is performed (0: none). -/
structure Access where
  id : Nat
  task : TaskRef
  reg : Option Nat
  va : Word
  loc : Loc
  kind : AccKind
  policy : Policy
  acq : Bool
  rel : Bool
  scope : Scope
  /-- not 0 for a release and a fence-ordered write, which do the node work of R284: remote writes
  before this number must be acknowledged first at SYS scope -/
  upto : Nat
  seg : Nat
  cut : Nat
  /-- domain epoch of the router that sent it (R458) -/
  epoch : Nat
deriving DecidableEq, Repr

/-- Who asks for a translation (R269, R270). -/
inductive Requester
  | task (t : TaskRef)
  | port (c : CoreRef) (sink : Bool) (n : Nat)
  | mx (c : CoreRef) (id : Nat)
  | engine (id : Nat)
  | admission (id : Nat)
  | config (rect : Nat)
deriving DecidableEq, Repr

/-- A page-table walk in progress or waiting (R269, R407). -/
structure Walk where
  id : Nat
  die : Nat
  part : Nat
  tag : Nat
  va : Nat
  write : Bool
  who : Requester
  /-- the walk is over and the fault waits for Gelesque -/
  faulted : Bool
deriving DecidableEq, Repr

/-- An entry of a translation cache (R269, R408): the requester's cache, tag, page, leaf. -/
structure TlbEntry where
  cache : Nat
  tag : Nat
  base : Nat
  ps : Nat
  leaf : Word
deriving DecidableEq, Repr

/-- A line of a cache slice (R24, R255, R260). -/
structure Line where
  slice : Nat
  tag : Nat
  line : Nat
  way : Nat
  dirty : Bool
  data : BitVec 1024
  stamp : Int
deriving DecidableEq, Repr

/-- One unit of the undo log (R474): segment, aligned 32-byte unit, old bytes, mask. -/
structure Undo where
  seg : Nat
  addr : Nat
  old : BitVec 256
  mask : BitVec 32
deriving DecidableEq, Repr

/-- A remote write (R474, R284): held in the buffer until its cut is complete, then sent, then
acknowledged. -/
structure RemoteWrite where
  id : Nat
  task : Option TaskRef
  pa : Nat
  va : Word
  bytes : List Byte
  seg : Nat
  cut : Nat
  sent : Bool
deriving DecidableEq, Repr

/-! ## Engine commands -/

/-- Engine command operations (R316 to R319). -/
inductive EngOp
  | cpy (esz : Nat)
  | cpyq (bf : Bool) (rm : Rm) (blk : Nat) (fd : BitVec 16) (phase step : Nat)
  | gemv (acc : Bool) (fd : BitVec 16)
deriving DecidableEq, Repr

/-- An engine command in flight (R314, R320, R341). `src` holds the source bytes once read (R316);
`at_` counts the units done. -/
structure EngCmd where
  id : Nat
  core : Nat
  slot : Nat
  op : EngOp
  patA : Pattern
  patB : Pattern
  patM : Pattern
  tl : Nat
  num : Nat
  /-- the die whose engines it joined (R314) -/
  die : Nat
  src : List Byte
  started : Bool
  at_ : Nat
  /-- bytes of the current row written (R318) -/
  off : Nat
  finished : Bool
  fault : Bool
deriving DecidableEq, Repr

/-! ## Packets -/

/-- What a packet carries (R361). -/
inductive Payload
  | fabric (d : Dest) (w : FWord) (source : Nat)
  | vcWord (core vc : Nat) (w : VcWord) (sender : Nat)
deriving DecidableEq, Repr

/-- A packet of the dynamic network: the router it stands at and the order bit (R361, R363). -/
structure Packet where
  id : Nat
  router : Nat
  yFirst : Bool
  payload : Payload
deriving DecidableEq, Repr

/-! ## Cores and rectangles -/

/-- A site of a core: configuration, input queues a to d, state (Table 6.9). -/
structure Site where
  cfg : ElemCfg
  queues : List (List FWord)
  st : ElemState
  /-- words in the cut buffers of the switch box, by output (R489) -/
  cutBuf : Sparse (List FWord)
  /-- inputs whose MARK, once it comes to the head, is spent: the element recorded before it could (R473) -/
  owed : List Nat
  /-- cycles of the current multicast stall of outputs x and y (R365) -/
  stallX : Nat
  stallY : Nat
deriving DecidableEq, Repr

/-- A logical core (02, Table 2.3). -/
structure Core where
  tasks : Sparse Task
  last : Sparse Nat
  q : Sparse Pattern
  tl : Sparse Timeline
  feeds : Sparse FeedPort
  sinks : Sparse SinkPort
  vcs : Sparse Vc
  acReset : List (Nat × W32)
  engine : Engine
  cntsel : Sparse (BitVec 18)
  counts : Sparse (BitVec 48)
  barriers : Sparse Barrier
  istore : Sparse Word
  scratch : List Host.Cell
  sites : Sparse Site
  switches : Sparse SwitchCfg
deriving DecidableEq, Repr

/-- Who raised a queued cause (R464, R466): TVAL, trap word fields and sequence number. -/
structure QCause where
  seq : Nat
  fabric : Bool
  core : Nat
  slot : Nat
  cause : Nat
  tval : Word
  tpc : Nat
  lx : Nat
  ly : Nat
deriving DecidableEq, Repr

/-- All logical state of a rectangle (02, 22): what a cut records and a context saves. -/
structure Body where
  cores : Sparse Core
  dq : List QCause
  nseq : Nat
  /-- the fabric is stopped by a fabric fault (R166), and its cause has been delivered -/
  fabricStop : Bool
  serving : Option QCause
  /-- causes at the partition supervisor or Gelesque (R443, R469) -/
  atSup : List QCause
  residue : List Word
  tdeleg : BitVec 64
  mcstall : W32
  snapint : W32
  rstat : Word
  eng : List EngCmd
  net : List Packet
  /-- SNAP requests that wait for port commands: core and (feed port, commands issued before) (R514) -/
  snaps : List (Nat × List (Nat × Nat))
deriving DecidableEq, Repr

/-- Phase of a rectangle (Table 22.1), with the states before and after it. -/
inductive Phase
  | run | drain | freeze | copy | rebind | boundary | save | swapped | restore
  /-- stopped by a fault of the device or by UNRECOVERABLE; the supervisor decides (R444, R482) -/
  | stopped
  | ended
deriving DecidableEq, Repr

/-- A cut in progress (R471, R473): its record so far, the elements and sink ports that have not recorded,
as (core, number), and the elements that no MARK reaches, as 128·core + site: they recorded at the start. -/
structure CutProgress where
  n : Nat
  body : Body
  elems : List (Nat × Nat)
  sinks : List (Nat × Nat)
  still : List Nat
deriving DecidableEq, Repr

/-- Where a launch comes from and where its completion goes (R377, R379, R434): a LAUNCH with its
task, register and timeline number; a remote LAUNCH; an entry of a work queue; a replica that the
admission unit adds (R354); a context from another device (R509). -/
inductive LaunchSrc
  | local (t : TaskRef) (reg tl num : Nat)
  | remote (t : TaskRef) (reg : Nat)
  | queue (q e : Nat)
  | replica (stage : Nat)
  | imported
deriving DecidableEq, Repr

/-- A CFGLD that drains the rectangle (R310): its task, the frames that it read, the time at which
the drain began. -/
structure Reload where
  task : TaskRef
  frames : List (BitVec 256)
  stores : Nat
  active : Bool
deriving DecidableEq, Repr

/-- Why the Churn stops a rectangle (R487). -/
inductive MoveKind | move (px py : Nat) | preempt
deriving DecidableEq, Repr

/-- A rectangle (R37, R98, 21, 22). -/
structure Rect where
  phase : Phase
  part : Nat
  tag : Nat
  w : Nat
  h : Nat
  px : Nat
  py : Nat
  image : Word
  /-- the image defines `.task 7`; SPILLSIZE in bytes -/
  handlerDef : Bool
  spill : Nat
  /-- the frames of the image, as cut 0 needs them (R480) -/
  frames : List (BitVec 256)
  lrec : List Byte
  /-- where the launch record stands (R480) -/
  laddr : Word
  src : LaunchSrc
  /-- the launch that it came from -/
  launch : Nat
  /-- its stage (R353); none: an unreplicated rectangle -/
  stage : Option Nat
  retiring : Bool
  /-- the request that the Churn serves (R487), the cycle at which its drain or boundary began (R495, R502),
  whether it froze and whether that was at a tile-task boundary -/
  moving : Option MoveKind
  clock : Nat
  frozen : Bool
  bound : Bool
  /-- the capability signature when the context was saved (R504) -/
  capsig : Word
  /-- task 0 has issued, so the launch has been answered (R377) -/
  announced : Bool
  reload : Option Reload
  body : Body
  /-- cuts started and complete, a request not yet served, the cut in progress, the record of the
  last complete cut (none: cut 0, the launch state), rollbacks since it, rollback totals by unit (R483) -/
  started : Nat
  complete : Nat
  requested : Bool
  prog : Option CutProgress
  record : Option Body
  repeats : Nat
  rollbacks : Sparse Nat
  /-- the rectangle met every other condition of R379 and waits for this cut -/
  ending : Option Nat
  /-- a HALT that waits for its cut: cut, core, slot (R519) -/
  halting : Option (Nat × Nat × Nat)
  undo : List Undo
  remote : List RemoteWrite
  /-- an uncorrectable error was detected and the rollback has not run (R478): unit, core, address,
  length -/
  soft : Option (FaultUnit × Nat × Nat × Nat)
  /-- status, reason and detail of the launch, if it ended other than by completion (R434, R444) -/
  verdict : Option (Nat × Nat × Nat)
deriving DecidableEq, Repr

/-! ## Dies and the supervisor complex -/

/-- A die (R8 to R15, R25, R29, 18). -/
structure Die where
  announced : Bool
  version : Word
  /-- its version differs from the primary's: held at step 3 of R420 (R421) -/
  held : Bool
  /-- the staged image failed its check at boot (R420) -/
  stagedFailed : Bool
  m0 : BitVec 384
  m1 : BitVec 384
  active : Fin 2
  failed : BitVec 2
  adopter : Option Nat
  timebase : Word
  cycles : Word
  /-- the counter holds until the broadcast reaches it (R14) -/
  hold : Bool
  temp : Nat
  throttled : Bool
  /-- accesses from other dies to pages of its HBM in the current interval, by 4·(PA / 4 KiB) + die, and the
  tick at which the interval began (R412) -/
  monitor : Sparse Nat
  monAt : Nat
  /-- bank groups of the weight store refreshed so far (R264) -/
  refreshes : Nat
deriving DecidableEq, Repr

/-- A journal record (R430, R439): command or admitted tail, arguments, done mark. -/
structure Journal where
  id : Nat
  die : Nat
  code : Nat
  args : List Word
  done : Bool
deriving DecidableEq, Repr

/-- A supervisor call (R449): the handler task's rectangle and slot, the block, the cut whose
completion lets it be submitted, the die that serves it, the status once the receiver answered. -/
structure Call where
  id : Nat
  task : TaskRef
  part : Nat
  tag : Nat
  sup : Bool
  addr : Word
  cut : Nat
  submitted : Bool
  /-- the block as it read when it was submitted -/
  block : Option (List Byte)
  status : Option Nat
  /-- bytes to write into the block with the status -/
  results : List (Nat × Word)
deriving DecidableEq, Repr

/-! ## Partitions, tenants and memory management -/

/-- A partition (R32 to R34, R259, R345, R350, R414, R443, R455). -/
structure Part where
  weight : Nat
  layout : Fin 3
  hm0 : BitVec 41
  hm1 : BitVec 41
  epoch : Nat
  /-- a partition supervisor serves it (R418) -/
  sup : Bool
  /-- the launch that the admission unit has chosen and the Churn has not placed, and the
  rectangles moved for it (R342, R348) -/
  chosen : Option Nat
  moved : List Nat
  /-- the tick at which the last quantum ended (R350) -/
  lastQ : Nat
  /-- totals of R414 and R458 -/
  grants : Nat
  refusals : Nat
  walks : Nat
  migrations : Nat
  replays : Nat
  drops : Nat
deriving DecidableEq, Repr

/-- A tenant (R345, R346, R350, R396). -/
structure Tenant where
  part : Nat
  lease : Nat
  leaseNo : Nat
  ways : BitVec 16
  scopeMax : Nat
  scopeStrict : Bool
  wt : Nat
  wps : Sparse Nat
  domain : Nat
  vt : Q
  vps : Sparse Q
  vs : Q
  resident : Bool
  /-- quanta that it has been resident, or has waited (R350) -/
  quanta : Nat
  /-- the launch that reserves the tenant (R347) -/
  reserved : Option Nat
deriving DecidableEq, Repr

/-- A granule-map entry (Table 17.2). -/
structure Granule where
  owner : Nat
  sset : Nat
  sro : Bool
deriving DecidableEq, Repr

/-- An export (R432, R538): offset in the device's window, tenant, first VA and PA, length, permitted device
numbers. -/
structure Exported where
  off : Nat
  tag : Nat
  va : Nat
  pa : Nat
  len : Nat
  devices : List Nat
deriving DecidableEq, Repr

/-- What follows an invalidation (R409, R410): the end of a command, handed in directly or by a call, with its
results, or a step of a migration. -/
inductive InvalDone
  | command (id : Nat) (direct : Bool) (results : List (Nat × Word))
  | copy (migration : Nat)
  | release (migration : Nat)
deriving DecidableEq, Repr

/-- An invalidation in progress (R410): ranges (tag, first byte, byte after the last), the dies that
have received it, those that have acknowledged, the accesses marked. -/
structure Inval where
  id : Nat
  die : Nat
  ranges : List (Nat × Nat × Nat)
  received : List Nat
  acked : List Nat
  marked : List Nat
  after : InvalDone
deriving DecidableEq, Repr

/-- A page migration (R412). -/
structure Migration where
  id : Nat
  tag : Nat
  va : Nat
  bytes : Nat
  src : Nat
  dst : Nat
  /-- the MIGRATE that waits for it: its number, and whether it was handed in directly -/
  command : Option (Nat × Bool)
  copying : Bool
deriving DecidableEq, Repr

/-! ## Admission and the Churn -/

/-- Stage of a launch in the admission unit (R342, R377). -/
inductive AdmPhase | reserved | submitted | pending | chosen
deriving DecidableEq, Repr

/-- An entry of an admission unit (R344, R377, R378). -/
structure Launch where
  id : Nat
  part : Nat
  tag : Nat
  src : LaunchSrc
  addr : Word
  cut : Nat
  phase : AdmPhase
  lrec : List Byte
  frames : List (BitVec 256)
  /-- arrival order; the tick at which it came to the head of its queue; levels gained by waiting (R347) -/
  arrival : Nat
  head : Option Nat
  boost : Nat
  /-- replicas still to be placed for this launch (R98, R354) and their stage -/
  copies : Nat
  stage : Option Nat
deriving DecidableEq, Repr

/-- A replicated stage (R38, R353 to R355). -/
structure Stage where
  part : Nat
  tag : Nat
  lrec : List Byte
  frames : List (BitVec 256)
  src : LaunchSrc
  rmin : Nat
  rmax : Nat
  rects : List Nat
  changed : Word
deriving DecidableEq, Repr

/-- Deficits of the arbiter of a shared class (R357). -/
structure Arbiter where
  lastP : Nat
  lastT : Sparse Nat
  dp : Sparse Int
  dt : Sparse Int
deriving DecidableEq, Repr

/-! ## Work queues and links -/

/-- A work queue (R433 to R439). -/
structure WorkQueue where
  tag : Nat
  ring : Word
  logn : Nat
  comp : Word
  key : List Byte
  old : Option (List Byte × Word)
  seq : Word
  vt : Nat
  head : Nat
  tail : Nat
  drops : Nat
  done : Nat
  fails : List Word
  quarantined : Bool
  stopped : Bool
deriving DecidableEq, Repr

/-- A link connection (R431). -/
structure Link where
  device : Nat
  kind : LinkKind
  opts : List LinkOption
deriving DecidableEq, Repr

/-- The housekeeping block and the supplies (25). -/
structure House where
  stage : Nat
  ready : Bool
  pfail : Bool
  main : Bool
  aux : Bool
  cap : Nat
  now : Nat
  /-- the device withholds advance cycles because of the cap (R529) -/
  capped : Bool
deriving DecidableEq, Repr

/-! ## The module -/

/-- The state of the module. -/
structure State where
  /-- the steps that come next, in any order the agents may take; when it is empty, whether the sequencers are
  to issue next, else another agent; the core and the agent that come next in turn (log 1) -/
  agenda : List Instr
  turn : Bool
  nextCore : Nat
  nextAgent : Nat
  /-- steps taken so far, for the free values (log 2) -/
  steps : Nat
  cur : TaskRef
  /-- identifiers given so far to rectangles, accesses, packets, walks, calls and commands -/
  nextId : Nat
  -- cores and rectangles
  rects : Sparse Rect
  /-- physical cores: found unsafe and not yet vacated, disabled (R17, R486), switch-box tag (R400), edge mask (R401), locked
  gates (R392); edges in the order N, E, S, W -/
  worn : List Nat
  disabled : List Nat
  boxTags : Sparse Nat
  edgeMasks : Sparse (BitVec 4)
  gates : Sparse (BitVec 4)
  -- accesses, translation and memories
  accesses : List Access
  walks : List Walk
  refused : List Walk
  tlb1 : List TlbEntry
  tlb2 : List TlbEntry
  lines : List Line
  mem : List Host.Cell
  peer : List Host.Cell
  pages : Sparse (Sparse Word)
  granules : Sparse Granule
  shareSets : Sparse (List Nat)
  exports : List Exported
  invals : List Inval
  migrations : List Migration
  -- partitions, tenants, admission
  mode : Nat
  quantum : Nat
  parts : Sparse Part
  tenants : Sparse Tenant
  nextLease : Nat
  launches : List Launch
  stages : Sparse Stage
  arbiters : Sparse Arbiter
  -- supervisor complex
  dies : Sparse Die
  primary : Option Nat
  timeDie : Option Nat
  store : List Host.Cell
  staged : Bool
  minVersion : Word
  calls : List Call
  journal : List Journal
  queues : Sparse WorkQueue
  doorbell : List (Nat × Nat)
  notifyDrops : Nat
  links : List Link
  wear : Sparse Nat
  wearEntry : Nat × Nat
  wearAt : Nat
  /-- status and result words of the last command that was handed in directly (R427) -/
  reply : Nat × List (Nat × Word)
  mailbox : Sparse (List Byte)
  house : House
deriving DecidableEq, Repr

/-- A partition as PART_SET and a reset leave it: weight 1, one domain, mask all ones (R395). -/
def freshPart (weight : Nat) (sup : Bool) : Part :=
  { weight := weight, layout := 0, hm0 := BitVec.allOnes 41, hm1 := 0, epoch := 0, sup := sup,
    chosen := none, moved := [], lastQ := 0, grants := 0, refusals := 0, walks := 0, migrations := 0, replays := 0,
    drops := 0 }

/-- A die that has not booted (R420). -/
def Die.off : Die :=
  { announced := false, version := 0, held := false, stagedFailed := false, m0 := 0, m1 := 0, active := 0,
    failed := 0, adopter := none, timebase := 0, cycles := 0, hold := false, temp := 0, throttled := false,
    monitor := [], monAt := 0, refreshes := 0 }

/-- The four dies as their clocks lock (R13, R531 step 3). -/
def freshDies : Sparse Die := [(0, Die.off), (1, Die.off), (2, Die.off), (3, Die.off)]

/-- The module right after a module reset (R530, R531 step 3): no die has booted, the time base is at
zero, no partition holds a tenant. The values that the manual does not give are named in the log
(3 to 6). -/
def State.reset : State :=
  { agenda := [], turn := true, nextCore := 0, nextAgent := 0, steps := 0, cur := ⟨0, 0, 0⟩, nextId := 1,
    rects := [], worn := [], disabled := [], boxTags := [], edgeMasks := [], gates := [],
    accesses := [], walks := [], refused := [], tlb1 := [], tlb2 := [], lines := [], mem := [], peer := [],
    pages := [], granules := [], shareSets := [], exports := [], invals := [], migrations := [],
    mode := 0, quantum := 10, parts := [(0, freshPart 1 false)], tenants := [], nextLease := 1,
    launches := [], stages := [], arbiters := [],
    dies := freshDies, primary := none, timeDie := none, store := [], staged := false, minVersion := 0,
    calls := [], journal := [], queues := [], doorbell := [], notifyDrops := 0, links := [],
    wear := [], wearEntry := (2 ^ 64 - 1, 0), wearAt := 0, reply := (0, []), mailbox := [],
    house := { stage := 3, ready := false, pfail := false, main := true, aux := true, cap := 0x960,
               now := 0, capped := false } }

end Sys2Proof.Machine
end

