-- ==== Sys2Proof/Machine/Blank.lean ====
section
/-! DEFINITION. The launch values of every record of the state (02, 03, 06, 07, 15): what an entry that
a table does not list holds. -/

namespace Sys2Proof.Machine

/-- A free task slot (Table 2.1, R66, R67). -/
def Task.free : Task :=
  { occupied := false, handler := false, held := false, wake := false, regs := [], pres := [], saved := [],
    preds := 1, pc := 0, cnt0 := 0, cnt1 := 0, start0 := 0, end0 := 0, start1 := 0, end1 := 0,
    fpmode := 5, fpflags := 0, tvec := 0, tcause := 0, tpc := 0, tval := 0, sp := 0, ovfptr := 0,
    ovflim := 0, prio := 0, intrap := false, dz := false, sc := false, kmode := false, age := 0,
    wait := none, parked := none, yielding := false, relScope := 0, relUpto := 0, relCut := 0, asked := 0, behind := [] }

/-- A feed port at launch (R54, Table 2.3). -/
def FeedPort.idle : FeedPort :=
  { bind := none, cmds := [], issued := 0, active := false, at_ := 0, position := 0, sinceMark := 0,
    stage := [], markDue := false, fault := false }

/-- A sink port at launch (R54, Table 2.3). -/
def SinkPort.idle : SinkPort :=
  { bind := none, queue := [], cmds := [], issued := 0, active := false, at_ := 0, position := 0,
    fault := false }

/-- A virtual channel at launch (R55). -/
def Vc.empty : Vc := { holder := none, queue := [], claims := [] }

/-- A timeline at launch (R53). -/
def Timeline.zero : Timeline := { i := 0, c := 0, done := [] }

/-- A barrier id at launch (R374). -/
def Barrier.idle : Barrier := { gen := 0, arrivals := [] }

/-- A configuration slot at launch (Table 7.1, R196, R228, R235). -/
def MxSlot.launch : MxSlot :=
  { rowid := 0xFF, colid := 0xFF, fda := 0, fdb := 0, blk := 2, mm1 := 127, nm1 := 127, fdo := 1, rm := 0,
    phase := 0, step := 5, rads := [], shs := [], bm1 := 0, inv := false, theta := 0, th := false, vm1 := 127,
    k := 256, tabT := [], tabC := [] }

/-- The matrix engine at launch. -/
def Engine.launch : Engine :=
  { slots := [], tiles := [], cmds := [], bus := [], control := [], index := [], gates := [],
    noStart := false }

/-- A site that no frame configures (R87). -/
def Site.empty : Site :=
  { cfg := .empty, queues := [[], [], [], []], st := ElemState.blank, cutBuf := [], owed := [], stallX := 0, stallY := 0 }

/-- A switch box that no frame configures (R87). -/
def SwitchCfg.none : SwitchCfg :=
  { sel := [], dyn := 0, cut := 0, bnd := 0, bscope := 0, seamEn := 0, seamSlot := 0 }

/-- A logical core that holds its launch state before an image is loaded (R50, R403). -/
def Core.launch : Core :=
  { tasks := [], last := [], q := [], tl := [], feeds := [], sinks := [], vcs := [], acReset := [],
    engine := Engine.launch, cntsel := [], counts := [], barriers := [], istore := [], scratch := [],
    sites := [], switches := [] }

/-- The logical state of a rectangle at launch (Table 2.5, R466, R510). -/
def Body.launch : Body :=
  { cores := [], dq := [], nseq := 0, fabricStop := false, serving := none, atSup := [], residue := [], tdeleg := 0,
    mcstall := 0x100000, snapint := 0x10000, rstat := 0, eng := [], net := [], snaps := [] }

/-- What a number that names no rectangle reads as. -/
def Rect.absent : Rect :=
  { phase := .ended, part := 0, tag := 0, w := 0, h := 0, px := 0, py := 0, image := 0, handlerDef := false,
    spill := 0, frames := [], lrec := [], laddr := 0, src := .queue 0 0, launch := 0, stage := none, retiring := false,
    moving := none, clock := 0, frozen := false, bound := false, capsig := 0, announced := true, reload := none, body := Body.launch, started := 0, complete := 0,
    requested := false, prog := none, record := none, repeats := 0, rollbacks := [], ending := none,
    halting := none, undo := [], remote := [], soft := none, verdict := none }

/-- An unowned granule (Table 17.2). -/
def Granule.free : Granule := { owner := 0, sset := 0, sro := false }

/-- An arbiter with nothing served (R357). -/
def Arbiter.idle : Arbiter := { lastP := 2 ^ 16, lastT := [], dp := [], dt := [] }

/-- What a tag that names no tenant reads as. -/
def Tenant.absent : Tenant :=
  { part := 0, lease := 0, leaseNo := 0, ways := 0, scopeMax := 0, scopeStrict := false, wt := 1, wps := [],
    domain := 0, vt := Q.zero, vps := [], vs := Q.zero, resident := false, quanta := 0, reserved := none }

end Sys2Proof.Machine
end

