-- ==== Sys2Proof/Machine/Flags.lean ====
section
/-! DEFINITION. Sticky flags and status bits: FPFLAGS and STATUS of a task, RSTAT of a rectangle
(Table 2.6, Table 2.7, Table 2.10), and the event counters (Table 2.11). -/

namespace Sys2Proof.Machine

/-- R63, R108: an instruction sets its flags in FPFLAGS; none clears there. -/
def Task.flags (t : Task) (f : Flags) : Task := { t with fpflags := t.fpflags ||| f }

/-- R137: STATUS.DZ is set by an integer division by zero. -/
def Task.setDz (t : Task) (b : Bool) : Task := { t with dz := t.dz || b }

/-- The STATUS word of a task (Table 2.6). -/
def Task.status (t : Task) : Word :=
  BitVec.ofNat 64 (t.prio.toNat * 64 + (if t.intrap then 8 else 0) + (if t.dz then 4 else 0)
    + (if t.sc then 2 else 0) + (if t.kmode then 1 else 0))

/-- Fabric flags go to RSTAT[4:0] (Table 2.10). -/
def Body.flags (b : Body) (f : Flags) : Body := { b with rstat := b.rstat ||| f.setWidth 64 }

/-- R57, Table 2.7: the phase of FPMODE advances by STEP, modulo 16. -/
def Task.advancePhase (t : Task) : Task :=
  { t with fpmode := (t.fpmode &&& 0x0F#8) ||| (((t.fpmode >>> 4) + (t.fpmode &&& 0x0F#8)) <<< 4) }

/-- A counter counts while CNTSEL has EN and names the event (R58, Table 2.11). -/
def counting (sel : BitVec 18) (ev : Nat) : Bool := sel.getLsbD 16 && decide ((sel.setWidth 16).toNat = ev)

/-- R58: every counter that counts event `ev` gains `n`, modulo 2^48; a wrap sets OVF. -/
def Core.count (c : Core) (ev n : Nat) : Core :=
  c.cntsel.foldl (fun c p =>
    if counting p.2 ev then
      let v := (Sparse.at 0#48 c.counts p.1).toNat + n
      { c with counts := Sparse.put (BitVec.ofNat 48 v) c.counts p.1,
               cntsel := Sparse.put (if 2 ^ 48 ≤ v then p.2 ||| (1#18 <<< 17) else p.2) c.cntsel p.1 }
    else c) c

end Sys2Proof.Machine
end

