-- ==== Sys2Proof/Machine/Ops.lean ====
section
/-! DEFINITION. The named operations over the state: cells of the nested records, registers and
presence (R42 to R46), requests for cuts (R471, R475), timelines (R53), taking an exception (R464 to
R469) and returning from one (R468, R513), releasing a slot (R157). -/

namespace Sys2Proof.Machine

open Host (Outcome)

/-! ## Cells -/

def State.rect (s : State) (r : Nat) : Rect := Sparse.at Rect.absent s.rects r
def State.setRect (s : State) (r : Nat) (x : Rect) : State := { s with rects := Sparse.put x s.rects r }
def State.modRect (s : State) (r : Nat) (f : Rect → Rect) : State := s.setRect r (f (s.rect r))
def State.modBody (s : State) (r : Nat) (f : Body → Body) : State :=
  s.modRect r (fun x => { x with body := f x.body })

def Body.core (b : Body) (k : Nat) : Core := Sparse.at Core.launch b.cores k
def Body.setCore (b : Body) (k : Nat) (c : Core) : Body := { b with cores := Sparse.put c b.cores k }
def Body.modCore (b : Body) (k : Nat) (f : Core → Core) : Body := b.setCore k (f (b.core k))

def Core.task (c : Core) (k : Nat) : Task := Sparse.at Task.free c.tasks k
def Core.setTask (c : Core) (k : Nat) (t : Task) : Core := { c with tasks := Sparse.put t c.tasks k }
def Core.modTask (c : Core) (k : Nat) (f : Task → Task) : Core := c.setTask k (f (c.task k))

def Core.feed (c : Core) (n : Nat) : FeedPort := Sparse.at FeedPort.idle c.feeds n
def Core.setFeed (c : Core) (n : Nat) (p : FeedPort) : Core := { c with feeds := Sparse.put p c.feeds n }
def Core.sink (c : Core) (n : Nat) : SinkPort := Sparse.at SinkPort.idle c.sinks n
def Core.setSink (c : Core) (n : Nat) (p : SinkPort) : Core := { c with sinks := Sparse.put p c.sinks n }
def Core.vc (c : Core) (n : Nat) : Vc := Sparse.at Vc.empty c.vcs n
def Core.setVc (c : Core) (n : Nat) (v : Vc) : Core := { c with vcs := Sparse.put v c.vcs n }
def Core.tline (c : Core) (n : Nat) : Timeline := Sparse.at Timeline.zero c.tl n
def Core.setTline (c : Core) (n : Nat) (t : Timeline) : Core := { c with tl := Sparse.put t c.tl n }
def Core.pattern (c : Core) (n : Nat) : Pattern := Sparse.at 0#256 c.q n
def Core.setPattern (c : Core) (n : Nat) (p : Pattern) : Core := { c with q := Sparse.put p c.q n }
def Core.barrier (c : Core) (n : Nat) : Barrier := Sparse.at Barrier.idle c.barriers n
def Core.setBarrier (c : Core) (n : Nat) (b : Barrier) : Core := { c with barriers := Sparse.put b c.barriers n }
def Core.site (c : Core) (n : Nat) : Site := Sparse.at Site.empty c.sites n
def Core.setSite (c : Core) (n : Nat) (x : Site) : Core := { c with sites := Sparse.put x c.sites n }
def Core.switch (c : Core) (n : Nat) : SwitchCfg := Sparse.at SwitchCfg.none c.switches n
def Core.sel (c : Core) (n : Nat) : BitVec 18 := Sparse.at 0#18 c.cntsel n
def Core.counter (c : Core) (n : Nat) : BitVec 48 := Sparse.at 0#48 c.counts n
def Engine.slot (e : Engine) (n : Nat) : MxSlot := Sparse.at MxSlot.launch e.slots n
def Engine.setSlot (e : Engine) (n : Nat) (m : MxSlot) : Engine := { e with slots := Sparse.put m e.slots n }
def Engine.tile (e : Engine) (n : Nat) : Tile := Sparse.at Tile.blank e.tiles n
def Engine.setTile (e : Engine) (n : Nat) (t : Tile) : Engine := { e with tiles := Sparse.put t e.tiles n }

/-- The word of the instruction store at an index: TEND where no text frame loads it (R82). -/
def Core.instrWord (c : Core) (i : Nat) : Word := Sparse.at 0x3D00000000000000#64 c.istore i

def State.core (s : State) (c : CoreRef) : Core := (s.rect c.rect).body.core c.core
def State.setCore (s : State) (c : CoreRef) (x : Core) : State := s.modBody c.rect (fun b => b.setCore c.core x)
def State.modCore (s : State) (c : CoreRef) (f : Core → Core) : State := s.setCore c (f (s.core c))
def State.task (s : State) (t : TaskRef) : Task := (s.core t.coreRef).task t.slot
def State.setTask (s : State) (t : TaskRef) (x : Task) : State :=
  s.modCore t.coreRef (fun c => c.setTask t.slot x)
def State.modTask (s : State) (t : TaskRef) (f : Task → Task) : State := s.setTask t (f (s.task t))
def State.site (s : State) (e : SiteRef) : Site := (s.core e.coreRef).site e.site
def State.setSite (s : State) (e : SiteRef) (x : Site) : State := s.modCore e.coreRef (fun c => c.setSite e.site x)
def State.part (s : State) (p : Nat) : Part := Sparse.at (freshPart 1 false) s.parts p
def State.modPart (s : State) (p : Nat) (f : Part → Part) : State :=
  { s with parts := Sparse.put (f (s.part p)) s.parts p }
def State.tenant (s : State) (tag : Nat) : Tenant := Sparse.at Tenant.absent s.tenants tag
def State.modTenant (s : State) (tag : Nat) (f : Tenant → Tenant) : State :=
  { s with tenants := Sparse.put (f (s.tenant tag)) s.tenants tag }
def State.die (s : State) (d : Nat) : Die := Sparse.at Die.off s.dies d
def State.modDie (s : State) (d : Nat) (f : Die → Die) : State :=
  { s with dies := Sparse.put (f (s.die d)) s.dies d }
def State.granule (s : State) (g : Nat) : Granule := Sparse.get Granule.free s.granules g

/-- The issuing task and its core. -/
def State.me (s : State) : Task := s.task s.cur
def State.myCore (s : State) : Core := s.core s.cur.coreRef
def State.myRect (s : State) : Rect := s.rect s.cur.rect

/-! ## Places (R16, R33, R37) -/

/-- Physical core index of a logical core of a rectangle. -/
def Rect.phys (x : Rect) (core : Nat) : Nat := 16 * (x.py + core / 16) + (x.px + core % 16)
/-- Die of a physical core (R16). -/
def dieOf (p : Nat) : Nat := p % 16 / 8 + 2 * (p / 16 / 8)
/-- Logical core indices of a rectangle, 16·y′ + x′ in increasing order. -/
def Rect.coreList (x : Rect) : List Nat :=
  (List.range x.h).flatMap (fun y => (List.range x.w).map (fun i => 16 * y + i))
/-- Number of cores of a rectangle. -/
def Rect.area (x : Rect) : Nat := x.w * x.h
def State.dieOfCore (s : State) (c : CoreRef) : Nat := dieOf ((s.rect c.rect).phys c.core)
def State.dieOfTask (s : State) (t : TaskRef) : Nat := s.dieOfCore t.coreRef
/-- Shape of a partition in mode m (Table 1.3). -/
def partW (m : Nat) : Nat := [16, 16, 8, 8, 4, 4, 2].getD m 16
def partH (m : Nat) : Nat := [16, 8, 8, 4, 4, 2, 2].getD m 16
/-- Partition of a physical core in mode m (R33). -/
def partOf (m p : Nat) : Nat :=
  let x := p % 16
  let y := p / 16
  if m ≤ 1 then y / partH m
  else dieOf p * 2 ^ (m - 2) + (x % 8) / partW m + (8 / partW m) * ((y % 8) / partH m)

/-- Words on their way to a virtual channel (R373). -/
def Body.vcFlying (b : Body) (core vc : Nat) : Nat :=
  (b.net.filter (fun p => match p.payload with
    | .vcWord c v _ _ => decide (c = core) && decide (v = vc)
    | _ => false)).length

/-- R362, R373: a credit for a free slot of a channel's eight. -/
def Body.vcRoom (b : Body) (core vc : Nat) : Bool := decide (((b.core core).vc vc).queue.length + b.vcFlying core vc < 8)

/-! ## Registers and predicates -/

/-- s0 reads as zero (R42). -/
def Task.reg (t : Task) (r : Reg) : Word := if r = 0 then 0 else Sparse.at 0#64 t.regs r.val
/-- s0 is always full (R42). -/
def Task.presence (t : Task) (r : Reg) : Presence := if r = 0 then .full else Sparse.at .full t.pres r.val
/-- A write to s0 is discarded; any other write leaves the register full (R42, R44). -/
def Task.write (t : Task) (r : Reg) (v : Word) : Task :=
  if r = 0 then t else { t with regs := Sparse.put v t.regs r.val, pres := Sparse.put .full t.pres r.val }
/-- A long-latency producer issues (Table 2.2); s0 stays full. -/
def Task.markEmpty (t : Task) (r : Reg) (p : Producer) : Task :=
  if r = 0 then t else { t with pres := Sparse.put (.empty p) t.pres r.val }
/-- p0 reads as one (R42). -/
def Task.pred (t : Task) (p : Fin 8) : Bool := if p = 0 then true else t.preds.getLsbD p.val
/-- A write to p0 is discarded (R42). -/
def Task.setPred (t : Task) (p : Fin 8) (b : Bool) : Task :=
  if p = 0 then t
  else { t with preds := (t.preds &&& ~~~(1#8 <<< p.val)) ||| (if b then 1#8 <<< p.val else 0#8) }

/-- Registers of a task that have a pending producer. -/
def Task.pending (t : Task) : List (Nat × Producer) :=
  t.pres.filterMap (fun p => match p.2 with | .empty q => some (p.1, q) | _ => none)

/-! ## The end of an instruction -/

/-- One level of the loop-end step (R156): decrement at END; the flag says that the level repeats. -/
def loopLevel (i : BitVec 12) (cnt : W32) (endp : BitVec 12) : W32 × Bool :=
  if cnt ≠ 0 ∧ i = endp then (cnt - 1, decide (cnt - 1 ≠ 0)) else (cnt, false)

/-- R156, R537: the loop-end step, level 1 before level 0; suppressed while INTRAP is set. -/
def Task.loopEnd (t : Task) : Task :=
  if t.intrap then { t with pc := t.pc + 1 }
  else
    let l1 := loopLevel t.pc t.cnt1 t.end1
    if l1.2 then { t with cnt1 := l1.1, pc := t.start1 }
    else
      let l0 := loopLevel t.pc t.cnt0 t.end0
      if l0.2 then { t with cnt1 := l1.1, cnt0 := l0.1, pc := t.start0 }
      else { t with cnt1 := l1.1, cnt0 := l0.1, pc := t.pc + 1 }

/-! ## Cuts and timelines -/

/-- R475: the first cut whose record of an agent is made after an event of now; `recorded` says that
the agent has its record in the cut in progress. -/
def Rect.cutAfter (x : Rect) (recorded : Bool) : Nat :=
  match x.prog with
  | none => x.started + 1
  | some _ => if recorded then x.started + 1 else x.started

/-- R471: asks for cut `n` if it has not started. -/
def Rect.wantCut (x : Rect) (n : Nat) : Rect := if x.started < n then { x with requested := true } else x

/-- The cut that an event of a sequencer task waits for: tasks record at the start of a cut (R472). -/
def Rect.taskCut (x : Rect) : Nat := x.cutAfter true

/-- R473, R53: C passes every completed command whose cut is complete. -/
def Timeline.commit (complete : Nat) : Nat → Timeline → Timeline
  | 0, t => t
  | fuel + 1, t =>
    match t.done.find? (fun p => p.1 = t.c + 1 ∧ p.2 ≤ complete) with
    | none => t
    | some p => Timeline.commit complete fuel { t with c := t.c + 1, done := t.done.filter (· ≠ p) }

/-- R53: a command takes the next number of a timeline. -/
def Core.takeNumber (c : Core) (tl : Nat) : Core × Nat :=
  let t := c.tline tl
  (c.setTline tl { t with i := t.i + 1 }, t.i + 1)

/-- A command numbered `n` completes; its completion waits for cut `cut` (R53, R475). -/
def Core.completeNumber (c : Core) (tl n cut : Nat) : Core :=
  let t := c.tline tl
  c.setTline tl { t with done := t.done ++ [(n, cut)] }

/-- A command completes on a timeline of a core; the completion asks for the cut (R53, R471). -/
def State.complete (s : State) (c : CoreRef) (tl n : Nat) (recorded : Bool) : State :=
  let cut := (s.rect c.rect).cutAfter recorded
  (s.modCore c (fun k => k.completeNumber tl n cut)).modRect c.rect (fun x => x.wantCut cut)

/-! ## Taking an exception -/

/-- TCAUSE (Table 2.8). -/
def causeWord (c slot lx ly : Nat) (dlg f : Bool) : Word :=
  BitVec.ofNat 64 (ly % 16 * 2 ^ 20 + lx % 16 * 2 ^ 16 + (if f then 4096 else 0) + (if dlg then 2048 else 0)
    + slot % 8 * 256 + c % 256)

/-- R59: the handler task of a rectangle, while it occupies its slot. -/
def Body.hasHandler (b : Body) : Bool :=
  let t := (b.core 0).task 7
  t.occupied && t.handler

def Body.handler (b : Body) : Task := (b.core 0).task 7

/-- The cause enters the delegation queue with its sequence number (R466, R504). -/
def Body.enqueue (b : Body) (q : QCause) : Body :=
  { b with dq := b.dq ++ [{ q with seq := b.nseq }], nseq := (b.nseq + 1) % 2 ^ 32 }

/-- R464: a task raises a precise cause. It writes its own TPC, TVAL and TCAUSE, then takes the first
branch that applies: delegation, local entry (R465), delegation for want of a handler of its own, the
partition supervisor (R443, R469). -/
def State.raise (s : State) (t : TaskRef) (c : Nat) (v : Word) (pc : BitVec 12) : State :=
  let lx := t.core % 16
  let ly := t.core / 16
  let x := { s.task t with tpc := pc, tval := v, tcause := causeWord c t.slot lx ly false false }
  let b := (s.rect t.rect).body
  let q : QCause := { seq := 0, fabric := false, core := t.core, slot := t.slot, cause := c, tval := v,
                      tpc := pc.toNat, lx := lx, ly := ly }
  if !x.kmode && b.tdeleg.getLsbD c && b.hasHandler then
    (s.setTask t { x with held := true }).modBody t.rect (fun b => b.enqueue q)
  else if x.tvec ≠ 0 && !x.intrap then s.setTask t { x with intrap := true, pc := x.tvec }
  else if !x.handler && b.hasHandler then
    (s.setTask t { x with held := true }).modBody t.rect (fun b => b.enqueue q)
  else (s.setTask t { x with held := true }).modBody t.rect (fun b => { b with atSup := b.atSup ++ [q] })

/-- R466: a fabric cause is queued, being served by the handler task, or at the supervisor; another
is not queued meanwhile. -/
def Rect.fabricBusy (x : Rect) : Bool :=
  x.body.dq.any (·.fabric) || (x.body.serving.map (·.fabric)).getD false || x.body.atSup.any (·.fabric)

/-- R464, R466: a fabric cause is queued for the handler task if there is one, else it passes to the
partition supervisor. One fabric cause stands at a time; another is dropped here and raised again
when its agent retries. -/
def State.raiseFabric (s : State) (r : Nat) (c : Nat) (v : Word) (core : Nat) : State :=
  let x := s.rect r
  let q : QCause := { seq := 0, fabric := true, core := core, slot := 0, cause := c, tval := v, tpc := 0,
                      lx := core % 16, ly := core / 16 }
  if x.fabricBusy then s
  else if x.body.hasHandler && decide (x.phase ≠ .stopped) then s.modBody r (fun b => b.enqueue q)
  else s.modBody r (fun b => { b with atSup := b.atSup ++ [q] })

/-- R166: an element fault stops every element of the rectangle. -/
def State.elementFault (s : State) (r : Nat) (c : Nat) (v : Word) (core : Nat) : State :=
  (s.modBody r (fun b => { b with fabricStop := true })).raiseFabric r c v core

/-- The trap word of a delegated entry (Table 21.2). -/
def QCause.trapWord (q : QCause) : Word :=
  BitVec.ofNat 64 (q.tpc % 4096 * 2 ^ 24 + q.ly % 16 * 2 ^ 20 + q.lx % 16 * 2 ^ 16
    + (if q.fabric then 4096 else 0) + q.slot % 8 * 256 + q.cause % 256)

/-- R467: the handler task takes a delegated entry for `q`: its trap registers, INTRAP and PC, and the
trap word on vc15, placed even when the channel holds eight words. -/
def Body.delegatedEntry (b : Body) (q : QCause) : Body :=
  let h := b.handler
  let h' := { h with tpc := h.pc, tval := q.tval, intrap := true, pc := h.tvec, wait := none, parked := h.wait.map (fun w => (h.pc, w)),
                     tcause := causeWord q.cause q.slot q.lx q.ly true q.fabric }
  b.modCore 0 (fun c =>
    let v := c.vc 15
    (c.setTask 7 h').setVc 15 { v with queue := v.queue ++ [⟨.stat, q.trapWord⟩] })

/-! ## Return -/

/-- R468: the held origin of a delegated cause is released: INTRAP clears and it resumes at its own
TPC. A task that is not held is left alone (R513). -/
def State.release (s : State) (t : TaskRef) : State :=
  s.modTask t (fun x =>
    if x.held then { x with held := false, intrap := false, pc := x.tpc, wait := none } else x)

/-- R513: every element, port command and engine command that a fault stopped resumes. -/
def Body.resumeFabric (b : Body) : Body :=
  { b with
    fabricStop := false, serving := none,
    eng := b.eng.map (fun e => { e with fault := false }),
    cores := Sparse.mapAll (fun _ c =>
      { c with feeds := Sparse.mapAll (fun _ p => { p with fault := false }) c.feeds,
               sinks := Sparse.mapAll (fun _ p => { p with fault := false }) c.sinks,
               engine := { c.engine with noStart := false } }) b.cores }

/-- R513: RETT of a task whose INTRAP is set. -/
def State.rett (s : State) (t : TaskRef) : State :=
  let x := s.task t
  let dlg := x.tcause.getLsbD 11
  let f := x.tcause.getLsbD 12
  let cause := (x.tcause.setWidth 8).toNat
  let again := if dlg then (x.parked.filter (fun p => decide (p.1 = x.tpc))).map (·.2) else none
  let back := s.setTask t { x with pc := x.tpc, intrap := false, wait := again, parked := if dlg then none else x.parked }
  if dlg && !f then
    let c := (x.tcause.extractLsb' 16 4).toNat + 16 * (x.tcause.extractLsb' 20 4).toNat
    (back.release ⟨t.rect, c, (x.tcause.extractLsb' 8 3).toNat⟩).modBody t.rect
      (fun b => { b with serving := none })
  else if dlg && f then
    if cause = 6 ∨ cause = 7 then
      match (s.rect t.rect).body.serving with
      | some q => back.modBody t.rect (fun b => { b with serving := none, atSup := b.atSup ++ [q] })
      | none => back
    else back.modBody t.rect Body.resumeFabric
  else back

/-! ## Slots -/

/-- R157, R67: a slot is freed; channels that it holds are unbound and keep their words. -/
def Core.freeSlot (c : Core) (k : Nat) : Core :=
  { (c.setTask k Task.free) with
    vcs := Sparse.mapAll (fun _ v => if v.holder = some k then { v with holder := none } else v) c.vcs }

/-- R66: a task starts in a slot at an instruction index; `s1` is its first argument. -/
def Task.start (spill slot : Nat) (entry : BitVec 12) (s1 : Word) : Task :=
  Task.write { Task.free with
    occupied := true, pc := entry,
    sp := BitVec.ofNat 64 (2 ^ 20 - spill + (slot + 1) * (spill / 8)) } 1 s1

/-- SPILLBASE of a slot (R65). -/
def spillBase (spill slot : Nat) : Word := BitVec.ofNat 64 (2 ^ 20 - spill + slot * (spill / 8))

/-! ## Fresh identifiers and free values -/

def State.fresh (s : State) : State × Nat := ({ s with nextId := s.nextId + 1 }, s.nextId)

/-- The `k`-th free word of the current step (log 2). -/
def State.freeWord (s : State) (k : Nat) : Word := Config.freeWord (16 * s.steps + k)

/-- Payload of a delimiter that the manual gives no payload (log 21). -/
def State.freePayload (s : State) : W32 := Config.tokenPayload s.steps

end Sys2Proof.Machine
end

