-- ==== Sys2Proof/Machine/Graph.lean ====
section
/-! DEFINITION. The graph of a configuration: the connections that switches, dynamic destinations and address
generators make between elements (03 R90 to R92), and what a node reaches. -/

namespace Sys2Proof.Machine

/-- Source that an output of a switch selects (Table 3.15). -/
def SwitchCfg.selOf (c : SwitchCfg) (j : Nat) : Nat := Sparse.at 0 c.sel j

/-- Inputs that an element reads or aligns. -/
def ElemCfg.ins : ElemCfg → List Nat
  | .empty => []
  | .ce c => c.ins
  | .me c => c.ins
  | .ag c => if c.mode = 2 then [0] else []

def ElemCfg.isEmpty : ElemCfg → Bool
  | .empty => true
  | _ => false

/-- A switch output that a route passes: core, site, output. -/
structure HopAt where
  core : Nat
  site : Nat
  out  : Nat
deriving DecidableEq, Repr

/-- Length of a track in sites by its slot (R92). -/
def trackLen (slot : Nat) : Nat := [1, 1, 4, 4, 16, 16].getD slot 1

/-- The site `len` sites away over an edge, inside the rectangle: x east, y south (log 22). -/
def neighbour (w h core site e len : Nat) : Option (Nat × Nat) :=
  let gx := 16 * (core % 16) + site % 16
  let gy := 8 * (core / 16) + site / 16
  let at_ := fun x y => if x < 16 * w ∧ y < 8 * h then some (16 * (y / 8) + x / 16, 16 * (y % 8) + x % 16) else none
  match e with
  | 0 => if len ≤ gy then at_ gx (gy - len) else none
  | 1 => at_ (gx + len) gy
  | 2 => at_ gx (gy + len)
  | _ => if len ≤ gx then at_ (gx - len) gy else none

/-- Follows a switch output back to the element output that drives it: core, site, 0 for x or 1 for y, with
the outputs passed, the element's side first. -/
def traceBack (cores : Sparse Core) (w h : Nat) : Nat → HopAt → List HopAt → Option (Nat × Nat × Nat × List HopAt)
  | 0, _, _ => none
  | fuel + 1, p, acc =>
    let sel := ((Sparse.at Core.launch cores p.core).switch p.site).selOf p.out
    if sel = 25 then some (p.core, p.site, 0, p :: acc)
    else if sel = 26 then some (p.core, p.site, 1, p :: acc)
    else if 1 ≤ sel ∧ sel ≤ 24 then
      let e := (sel - 1) / 6
      let slot := (sel - 1) % 6
      match neighbour w h p.core p.site e (trackLen slot) with
      | none => none
      | some (c, t) => traceBack cores w h fuel ⟨c, t, 6 * ((e + 2) % 4) + slot⟩ (p :: acc)
    else none

/-- A connection of the graph: from an element output to an element input, with its route; a dynamic
connection passes no switch output. -/
structure Channel where
  score : Nat
  ssite : Nat
  out   : Nat
  dcore : Nat
  dsite : Nat
  queue : Nat
  hops  : List HopAt
  dyn   : Bool
deriving DecidableEq, Repr

def Channel.src (e : Channel) : Nat := 128 * e.score + e.ssite
def Channel.dst (e : Channel) : Nat := 128 * e.dcore + e.dsite

/-- ME that an AG with TGTSU clear names: its half-core, element index TGT (R91, R188). -/
def agMe (g : AgCfg) (site : Nat) : Nat := 16 * (g.tgt % 8) + (site % 16 / 8 * 8 + 4 + g.tgt / 8)

/-- Static channels. -/
def staticChannels (cores : Sparse Core) (w h : Nat) : List Channel :=
  cores.flatMap (fun p => p.2.switches.flatMap (fun sw => (List.range 4).filterMap (fun q =>
    if sw.2.selOf (24 + q) = 0 then none
    else (traceBack cores w h 4096 ⟨p.1, sw.1, 24 + q⟩ []).map (fun t =>
      { score := t.1, ssite := t.2.1, out := t.2.2.1, dcore := p.1, dsite := sw.1, queue := q,
        hops := t.2.2.2, dyn := false }))))

/-- Dynamic channels (R90). -/
def dynChannels (cores : Sparse Core) : List Channel :=
  cores.flatMap (fun p => p.2.sites.flatMap (fun x =>
    match x.2.cfg with
    | .ce c =>
      (c.xdest.toList.map (fun d => (⟨p.1, x.1, 0, d.core, d.site, d.queue, [], true⟩ : Channel)))
        ++ c.ydest.toList.map (fun d => ⟨p.1, x.1, 1, d.core, d.site, d.queue, [], true⟩)
    | _ => []))

/-- The ME that an AG feeds: TGT names it, it reads queue a, and neither a route nor a port drives that queue (log 23). -/
def agTarget (c : Core) (site : Nat) : Option Nat :=
  match (c.site site).cfg with
  | .ag g =>
    if g.tgtsu then none
    else
      let m := agMe g site
      match (c.site m).cfg with
      | .me k => if k.ins.contains 0 && (c.switch m).selOf 24 == 0 && !c.feeds.any (fun f => f.2.bind == some (m, 0)) then some m else none
      | _ => none
  | _ => none

/-- Connections from AGs to MEs; of several AGs that name one ME, the lowest site feeds it (log 23). -/
def agChannels (cores : Sparse Core) : List Channel :=
  cores.flatMap (fun p => p.2.sites.filterMap (fun x =>
    match agTarget p.2 x.1 with
    | none => none
    | some m =>
      if p.2.sites.any (fun y => decide (y.1 < x.1) && agTarget p.2 y.1 == some m) then none
      else some ⟨p.1, x.1, 0, p.1, m, 0, [], false⟩))

/-- Every connection between an element output and an input of the rectangle. -/
def channels (cores : Sparse Core) (w h : Nat) : List Channel :=
  staticChannels cores w h ++ dynChannels cores ++ agChannels cores

/-- The configured elements, as 128·core + site. -/
def graphNodes (cores : Sparse Core) : List Nat :=
  cores.flatMap (fun p => p.2.sites.filterMap (fun x => if x.2.cfg.isEmpty then none else some (128 * p.1 + x.1)))

def nodeCfg (cores : Sparse Core) (n : Nat) : ElemCfg := ((Sparse.at Core.launch cores (n / 128)).site (n % 128)).cfg

/-- Connections between configured elements. -/
def graphEdges (cores : Sparse Core) (w h : Nat) : List Channel :=
  let ns := graphNodes cores
  (channels cores w h).filter (fun e => ns.contains e.src && ns.contains e.dst)

/-- The nodes that a set reaches, itself included. -/
def reachSet (es : List Channel) : Nat → List Nat → List Nat
  | 0, l => l
  | fuel + 1, l =>
    let new := (es.filter (fun e => l.contains e.src && !l.contains e.dst)).map Channel.dst
    if new.isEmpty then l else reachSet es fuel (l ++ new.eraseDups)

/-- The nodes that one step or more from a node reaches. -/
def reachAfter (es : List Channel) (n v : Nat) : List Nat :=
  reachSet es n ((es.filter (fun e => e.src = v)).map Channel.dst).eraseDups

end Sys2Proof.Machine
end

