-- ==== Sys2Proof/Machine/Operands.lean ====
section
/-! DEFINITION. How an instruction meets its operands and how it ends: guard (R69), privilege, presence
of sources and destinations (R44 to R46, R73), then its effect, its trap, its wait or its branch. -/

namespace Sys2Proof.Machine

open Host (Outcome)

/-- A register that an instruction reads or writes: a source field with its empty-read policy, or a
destination. A source without a policy of its own has `trap := false` (R45). -/
inductive Need
  | src (r : Reg) (trap : Bool)
  | dst (r : Reg)
deriving DecidableEq, Repr

def srcNeed (a : Src) : Need := .src a.r a.trap

/-- What R73 step 4 and R46 find. -/
inductive Ready
  | ok
  | trapEmpty (r : Reg)
  | waitFor (r : Reg)
deriving DecidableEq, Repr

def Task.isEmpty (t : Task) (r : Reg) : Bool := match t.presence r with | .empty _ => true | _ => false
def Task.isFull (t : Task) (r : Reg) : Bool := match t.presence r with | .full => true | _ => false

/-- A source with its trap bit set that reads an empty register. -/
def Need.traps (t : Task) : Need → Bool | .src r true => t.isEmpty r | _ => false
/-- A source that is not full, or a destination that is empty. -/
def Need.waits (t : Task) : Need → Bool | .src r _ => !t.isFull r | .dst r => t.isEmpty r
def Need.reg : Need → Reg | .src r _ => r | .dst r => r

/-- R73: EMPTY before any wait, in the order of the fields; then the first register to wait for. -/
def Task.check (t : Task) (needs : List Need) : Ready :=
  match needs.find? (Need.traps t) with
  | some n => .trapEmpty n.reg
  | none => match needs.find? (Need.waits t) with | some n => .waitFor n.reg | none => .ok

/-- How an instruction of the issuing task ends. -/
inductive Flow
  /-- completes; the loop-end step follows (R156) -/
  | go (s : State)
  /-- completes by branching to an index -/
  | jump (s : State) (pc : BitVec 12)
  /-- waits before its effect and is issued again (Table 14.1) -/
  | wait (s : State) (w : Wait)
  /-- takes effect, then the task waits -/
  | goWait (s : State) (w : Wait)
  /-- raises a precise cause; TPC names the instruction -/
  | trap (c : Nat) (v : Word)
  /-- the same, where the attempt changed something outside the task (a refused walk is consumed) -/
  | trapIn (s : State) (c : Nat) (v : Word)
  /-- raises a precise cause after the loop-end step; TPC names the next instruction (R512) -/
  | trapNext (c : Nat) (v : Word)
  /-- completes with the PC, or the slot, already as the instruction leaves it -/
  | done (s : State)

/-- R69: the guard value. -/
def Task.guard (t : Task) (g : Guard) : Bool := t.pred g.p != g.neg

/-- The task's wait is over. -/
def Task.unwait (t : Task) : Task := { t with wait := none }
/-- The task waits (Table 14.1). -/
def Task.waitFor (t : Task) (w : Wait) : Task := { t with wait := some w }
/-- The task stands at an instruction index. -/
def Task.goTo (t : Task) (pc : BitVec 12) : Task := { t with pc := pc }

/-- The state as an instruction of the issuing task meets it. -/
def State.begin (s : State) : State := s.modTask s.cur Task.unwait

/-- What a flow makes of the state. -/
def State.finish (s : State) (f : Flow) : State :=
  match f with
  | .go s' => s'.modTask s.cur Task.loopEnd
  | .jump s' pc => s'.modTask s.cur (fun t => t.goTo pc)
  | .wait s' w => s'.modTask s.cur (fun t => t.waitFor w)
  | .goWait s' w => s'.modTask s.cur (fun t => t.loopEnd.waitFor w)
  | .trap c v => s.raise s.cur c v s.me.pc
  | .trapIn s' c v => s'.raise s.cur c v s'.me.pc
  | .trapNext c v =>
    let s' := s.modTask s.cur Task.loopEnd
    s'.raise s.cur c v s'.me.pc
  | .done s' => s'

/-- Issues an instruction of the issuing task: guard, privilege (the TVAL of a PRIV trap, if it
fails), presence, effect. -/
def issueP (g : Guard) (priv : Task → Option Word) (needs : List Need) (body : State → Flow) (s : State) :
    Outcome State Fault Refusal :=
  let s0 := s.begin
  let t := s0.me
  if t.guard g then
    match priv t with
    | some v => .next (s0.finish (.trap 0x02 v))
    | none =>
      match t.check needs with
      | .trapEmpty r => .next (s0.finish (.trap 0x03 (BitVec.ofNat 64 r.val)))
      | .waitFor r => .next (s0.finish (.wait s0 (.reg r.val)))
      | .ok => .next (s0.finish (body s0))
  else .next (s0.finish (.go s0))

/-- An instruction that no mode forbids. -/
def issue (g : Guard) (needs : List Need) (body : State → Flow) (s : State) : Outcome State Fault Refusal :=
  issueP g (fun _ => none) needs body s

/-- An instruction that acts on its own task only (R134). -/
def issueT (g : Guard) (needs : List Need) (f : Task → Task) (s : State) : Outcome State Fault Refusal :=
  issue g needs (fun s => .go (s.modTask s.cur f)) s

/-- The shapes of R135 to R152: two sources, one source, one source and an immediate. -/
def alu2 (g : Guard) (d : Reg) (a b : Src) (f : Word → Word → Word) (s : State) : Outcome State Fault Refusal :=
  issueT g [srcNeed a, srcNeed b, .dst d] (fun t => t.write d (f (t.reg a.r) (t.reg b.r))) s

def alu1 (g : Guard) (d : Reg) (a : Src) (f : Word → Word) (s : State) : Outcome State Fault Refusal :=
  issueT g [srcNeed a, .dst d] (fun t => t.write d (f (t.reg a.r))) s

/-- Floating-point instructions: result and flags (R140, R108). -/
def fpu2 (g : Guard) (d : Reg) (a b : Src) (f : Word → Word → Word × Flags) (s : State) :
    Outcome State Fault Refusal :=
  issueT g [srcNeed a, srcNeed b, .dst d] (fun t =>
    let r := f (t.reg a.r) (t.reg b.r)
    (t.flags r.2).write d r.1) s

def fpu1 (g : Guard) (d : Reg) (a : Src) (f : Word → Word × Flags) (s : State) : Outcome State Fault Refusal :=
  issueT g [srcNeed a, .dst d] (fun t =>
    let r := f (t.reg a.r)
    (t.flags r.2).write d r.1) s

end Sys2Proof.Machine
end

