-- ==== Sys2Proof/Machine/Issue.lean ====
section
/-! DEFINITION. Which task issues: the waits of Table 14.1 and their ends, readiness (R337, R338) and
the choice with ageing (R339); the passing of time (R13, R15) and the counting of events (R58). -/

namespace Sys2Proof.Machine

/-- Time base that a core reads (R13, R323). -/
def State.timeOf (s : State) (c : CoreRef) : Word := (s.die (s.dieOfCore c)).timebase

/-- Commands of the first `n` issued to a feed (or sink) port that have finished. -/
def FeedPort.finished (p : FeedPort) : Nat := p.issued - p.cmds.length
def SinkPort.finished (p : SinkPort) : Nat := p.issued - p.cmds.length

/-- Commands queued, not counting the executing one (R302). -/
def FeedPort.waiting (p : FeedPort) : Nat := p.cmds.length - p.active.toNat
def SinkPort.waiting (p : SinkPort) : Nat := p.cmds.length - p.active.toNat

/-- Pending accesses of a task numbered below `upto`; remote writes not yet acknowledged count where
`remote` is set (R278, R284). -/
def State.ownPending (s : State) (t : TaskRef) (upto : Nat) (remote : Bool) : Bool :=
  s.accesses.any (fun a => decide (a.task = t) && decide (a.id < upto))
  || (remote && (s.rect t.rect).remote.any (fun w => decide (w.task = some t) && decide (w.id < upto)))

/-- Engine commands of a core that have not completed (R341). -/
def State.outstanding (s : State) (c : CoreRef) : Nat :=
  ((s.rect c.rect).body.eng.filter (fun e => e.core = c.core)).length

/-- Free entries of the admission unit of a partition (R344). -/
def State.freeEntry (s : State) (p : Nat) : Bool :=
  decide ((s.launches.filter (fun l => l.part = p ∧ l.phase ≠ .chosen)).length < 256)

/-- A claim that waits for a word: its kind and port or channel (R505). -/
def Producer.claim : Producer → Option (Nat × Nat)
  | .take k => some (1, k)
  | .waitv v => some (2, v)
  | _ => none

/-- A wait of an XSAVE for the producers of a slot. -/
def Wait.isSaving : Wait → Bool
  | .saving _ => true
  | _ => false

/-- R516: the slot is stopped for an XSAVE of another task of its core. -/
def Core.stopped (c : Core) (slot : Nat) : Bool :=
  (List.range 8).any (fun k => decide (k ≠ slot) && decide ((c.task k).wait = some (.saving slot)))

/-- Sink ports for which a task has a TAKE that has not delivered. -/
def Core.takesOf (c : Core) (slot : Nat) : List Nat :=
  c.sinks.filterMap (fun p =>
    if p.2.cmds.any (fun m => decide (m.slot = slot) && (match m.op with | .take _ => true | _ => false)) then some p.1 else none)

/-- Elements whose words carry knowledge: an ME that emits DONE and a BND (R285, R286). -/
def ElemCfg.informs : ElemCfg → Bool
  | .me c => c.doneEn
  | .ce c => decide (c.opc = 0x4A)
  | _ => false

/-- A word that carries knowledge may come to a sink port. -/
def Rect.informed (x : Rect) (core port : Nat) : Bool :=
  match ((x.body.core core).sink port).bind with
  | none => false
  | some (site, _) =>
    let ns := (graphNodes x.body.cores).filter (fun v => (nodeCfg x.body.cores v).informs)
    let es := graphEdges x.body.cores x.w x.h
    ns.any (fun v => decide (v = 128 * core + site) || (reachAfter es (graphNodes x.body.cores).length v).contains (128 * core + site))

/-- A task whose pending TAKE may bring knowledge makes no later access before it delivers (R281, R285). -/
def State.uninformed (s : State) (t : TaskRef) : Bool :=
  ((s.core t.coreRef).takesOf t.slot).any (fun k => (s.rect t.rect).informed t.core k)

/-- The ends of the waits (Table 14.1). A sleep whose time is reached ends by its own step (R322). -/
def State.waitOver (s : State) (t : TaskRef) : Wait → Bool
  | .reg r => (s.task t).isFull (Fin.ofNat 64 r)
  | .portQueue sink n =>
    let c := s.core t.coreRef
    if sink then decide ((c.sink n).waiting < 4) else decide ((c.feed n).waiting < 4)
  | .mxQueue => decide ((s.core t.coreRef).engine.cmds.length < 16)
  | .engineQueue => decide (s.outstanding t.coreRef < 32)
  | .access id => !s.walks.any (fun w => w.id = id)
  | .timeline tl n _ => decide (n ≤ ((s.core t.coreRef).tline tl).c)
  | .sleep _ => (s.task t).wake
  | .sleepP _ tl n => (s.task t).wake || decide (n ≤ ((s.core t.coreRef).tline tl).c)
  | .ports feeds sinks =>
    let c := s.core t.coreRef
    feeds.all (fun p => decide (p.2 ≤ (c.feed p.1).finished)) && sinks.all (fun p => decide (p.2 ≤ (c.sink p.1).finished))
  | .accesses upto remote => !s.ownPending t upto remote
  | .producers => (s.task t).pending.isEmpty
  | .credit core vc => (s.rect t.rect).body.vcRoom core vc
  | .barrier id gen => !((s.core t.coreRef).barrier id).arrivals.any (fun a => a.gen = gen ∧ a.slot = t.slot)
  | .taking => !s.uninformed t
  | .entry => s.freeEntry (s.rect t.rect).part
  | .cut n => decide (n ≤ (s.rect t.rect).complete)
  | .drain => (s.rect t.rect).reload.isNone
  | .saving slot => ((s.core t.coreRef).task slot).pending.all (fun p => p.2.claim.isSome)
  | .settled slot => ((s.core t.coreRef).task slot).pending.isEmpty

/-- Phases in which tasks issue (Table 22.1). -/
def Phase.issues : Phase → Bool
  | .run | .boundary => true
  | _ => false

/-- R337 apart from the yield state of R368: the slot is occupied, not held, its rectangle lets tasks
issue, and its wait is over. -/
def State.couldIssue (s : State) (t : TaskRef) : Bool :=
  let x := s.task t
  let r := s.rect t.rect
  x.occupied && !x.held && r.phase.issues && r.soft.isNone
    && (match x.wait with | none => true | some w => s.waitOver t w)
    && (!(s.core t.coreRef).stopped t.slot || (x.wait.map Wait.isSaving).getD false)

/-- R368: a task that has yielded is not ready while another task of its core is and none has issued
since; a wake ends this. -/
def State.ready (s : State) (t : TaskRef) : Bool :=
  s.couldIssue t &&
    (let x := s.task t
     !x.yielding || x.wake || !(List.range 8).any (fun k => decide (k ≠ t.slot) && s.couldIssue { t with slot := k }))

/-- The largest of a list by a measure, the first of equals. -/
def maxBy (f : Nat → Nat) : List Nat → Option Nat
  | [] => none
  | k :: ks =>
    match maxBy f ks with
    | none => some k
    | some j => if f k < f j then some j else some k

/-- R339: the slot that issues among the ready slots `rs` of a core, and whether it was promoted. -/
def Core.choose (c : Core) (rs : List Nat) : Option (Nat × Option Nat) :=
  match maxBy (fun k => (c.task k).age) (rs.filter (fun k => 1024 ≤ (c.task k).age)) with
  | some k => some (k, none)
  | none =>
    match maxBy (fun k => (c.task k).prio.toNat) rs with
    | none => none
    | some m =>
      let pr := (c.task m).prio.toNat
      let l := Sparse.at 7 c.last pr
      let order := (List.range 8).map (fun i => (l + 1 + i) % 8)
      (order.find? (fun k => rs.contains k && decide ((c.task k).prio.toNat = pr))).map (fun k => (k, some pr))

/-- R339, R368: ages and last-served slots after slot `k` is chosen among `rs`; the other tasks of
the core have seen one issue. -/
def Core.chosen (c : Core) (rs : List Nat) (k : Nat) (pr : Option Nat) : Core :=
  let aged := rs.foldl (fun c j =>
    c.modTask j (fun t => if j = k then { t with age := 0 } else { t with age := t.age + 1 })) c
  let woken := (List.range 8).foldl (fun c j =>
    if j ≠ k ∧ (c.task j).yielding then c.modTask j (fun t => { t with yielding := false, wait := none }) else c) aged
  let woken := if (woken.task k).yielding then
      woken.modTask k (fun t => { t with yielding := false, wake := false, wait := none }) else woken
  match pr with
  | none => woken
  | some p => { woken with last := Sparse.put k woken.last p }

/-- The cores of all rectangles, in a fixed order. -/
def State.coreRefs (s : State) : List CoreRef :=
  s.rects.flatMap (fun p => p.2.coreList.map (fun k => ⟨p.1, k⟩))

def State.readySlots (s : State) (c : CoreRef) : List Nat :=
  (List.range 8).filter (fun k => s.ready ⟨c.rect, c.core, k⟩)

/-- The next core in turn that has a ready task, with its place in the order (log 1). -/
def State.nextIssuer (s : State) : Option (CoreRef × Nat) :=
  let cs := s.coreRefs
  let n := cs.length
  let order := (List.range n).map (fun i => (s.nextCore + i) % n)
  order.findSome? (fun i =>
    match cs[i]? with
    | none => none
    | some c => if (s.readySlots c).isEmpty then none else some (c, i))

/-- The word that a task issues next. -/
def State.fetchWord (s : State) (t : TaskRef) : Word := (s.core t.coreRef).instrWord (s.task t).pc.toNat

/-! ## Time -/

/-- R365: a fan-out that stalls counts cycles; 0 stands for no stall. -/
def Site.countStall (x : Site) (n : Nat) : Site :=
  { x with stallX := if x.stallX = 0 then 0 else x.stallX + n, stallY := if x.stallY = 0 then 0 else x.stallY + n }

/-- R13 to R15: a step passes; each die that runs counts free amounts of ticks and cycles (log 2). A
counter that holds for the broadcast does not count ticks (R14). -/
def State.passTime (s : State) : State :=
  { s with
    steps := s.steps + 1
    dies := Sparse.mapAll (fun d x =>
      { x with timebase := if x.hold then x.timebase
                           else x.timebase + BitVec.ofNat 64 (Config.timeAdvance s.steps),
               cycles := x.cycles + BitVec.ofNat 64 (Config.cycleAdvance (4 * s.steps + d)) }) s.dies
    rects := Sparse.mapAll (fun _ r =>
      if r.phase.issues then
        { r with body := { r.body with cores := Sparse.mapAll (fun _ c =>
            let c' := { c with sites := Sparse.mapAll (fun _ x => x.countStall (Config.cycleAdvance (4 * s.steps))) c.sites }
            if c.cntsel.isEmpty then c'
            else [1, 5, 6, 7, 8].foldl (fun c ev =>
              c.count ev (Config.cycleAdvance (8 * s.steps + ev))) c') r.body.cores } }
      else r) s.rects }

/-- R58, R451: the instruction that `t` issued is counted, under the selections in force before it. -/
def State.countIssue (before : Core) (t : TaskRef) (s : State) : State :=
  if before.cntsel.isEmpty then s
  else s.modCore t.coreRef (fun c =>
    let live := before.cntsel.filter (fun p =>
      counting p.2 2 && counting (c.sel p.1) 2)
    { (({ c with cntsel := live } : Core).count 2 1) with
      cntsel := live.foldl (fun m p =>
        Sparse.put (if (c.counter p.1).toNat + 1 = 2 ^ 48 then c.sel p.1 ||| (1#18 <<< 17) else c.sel p.1) m p.1)
        c.cntsel })

/-! ## The choice and what follows an issue -/

/-- TVAL of a decode fault: the index of a control register that Table 2.5 does not list, else the low
32 bits of the word (R73, R445). -/
def decodeTval (w : Word) : DecodeError → Word
  | .index i => i.setWidth 64
  | .reserved | .short => (w.setWidth 32).setWidth 64

/-- The task that issues by R339, on the state with the choice made. -/
def State.pick (s : State) : Option (TaskRef × State) :=
  match s.nextIssuer with
  | none => none
  | some (c, i) =>
    let rs := s.readySlots c
    match (s.core c).choose rs with
    | none => none
    | some (k, pr) =>
      some (⟨c.rect, c.core, k⟩, { s.modCore c (fun x => x.chosen rs k pr) with nextCore := i + 1 })

/-- After the issue of `t`: a task that came to wait at the same instruction was not ready, so the
choice is undone (R337); else the issue is counted. -/
def settle (before : State) (t : TaskRef) (after : State) : State :=
  let x := after.task t
  if x.wait.isSome && decide (x.pc = (before.task t).pc) then
    { (after.modCore t.coreRef (fun c =>
        let old := before.core t.coreRef
        let aged := (List.range 8).foldl (fun c j => c.modTask j (fun y => { y with age := (old.task j).age })) c
        { aged with last := old.last })).modCore t.coreRef (fun c =>
          match x.wait with | some (.reg _) => c.count 3 1 | _ => c) with nextCore := after.nextCore }
  else State.countIssue (before.core t.coreRef) t after

/-! ## A program in place -/

/-- A rectangle of one core whose task 0 stands at instruction 0, with `w` there: what a load of a
program and its start leave (R342, R66). -/
def oneCore (w : Word) : Rect :=
  { Rect.absent with
    phase := .run, tag := 1, w := 1, h := 1,
    body := { Body.launch with
      cores := [(0, { Core.launch with
        istore := [(0, w)], tasks := [(0, (Task.start 0 0 0 0))] })] } }

end Sys2Proof.Machine
end

