-- ==== Sys2Proof/Machine/Memory.lean ====
section
/-! DEFINITION. The memories as accesses meet them (09, 10, 17, 21): bytes, slices and their lines,
translation caches, granule checks, the undo log, and the checks made at issue (R292). -/

namespace Sys2Proof.Machine

/-! ## Bytes (R3) -/

/-- Little-endian value of bytes. -/
def joinBytes : List Byte → Nat
  | [] => 0
  | b :: bs => b.toNat + 256 * joinBytes bs

/-- The `n` little-endian bytes of a value. -/
def splitBytes : Nat → Nat → List Byte
  | 0, _ => []
  | n + 1, v => BitVec.ofNat 8 v :: splitBytes n (v / 256)

/-- Bytes of cells from an address on; a byte that nothing has written reads as 0 (log 4). -/
def cellBytes (m : List Host.Cell) (a n : Nat) : List Byte := Sparse.getList 0#8 m a n
def setCells (m : List Host.Cell) (a : Nat) (bs : List Byte) : List Host.Cell := Sparse.setList 0#8 m a bs

/-! ## Spaces (Table 9.1, Table 9.2) -/

def isHbm (pa : Nat) : Bool := decide (pa < 2 ^ 39)
def isWeightStore (pa : Nat) : Bool := decide (2 ^ 40 ≤ pa) && decide (pa < 2 ^ 40 + 2 ^ 31)
def isCrock (pa : Nat) : Bool := decide (2 ^ 41 ≤ pa) && decide (pa < 2 ^ 41 + 2 ^ 29)
def isPeerWindow (pa : Nat) : Bool := decide (2 ^ 51 ≤ pa) && decide (pa < 2 ^ 52)
/-- First address of the local window, and the end of paged memory. -/
def windowBase : Nat := 0xF00000000000
/-- Granule number of a physical address (R397). -/
def granuleOf (pa : Nat) : Nat := if isHbm pa then pa / 2 ^ 21 else 0x40000 + (pa - 2 ^ 40) / 2 ^ 21
/-- First physical address of a granule (R397). -/
def granuleBase (g : Nat) : Nat := if g < 0x40000 then g * 2 ^ 21 else 2 ^ 40 + (g - 0x40000) * 2 ^ 21

/-- R398: an access of a tag passes at the channel. -/
def State.granulePass (s : State) (tag pa : Nat) (write : Bool) : Bool :=
  let g := s.granule (granuleOf pa)
  tag == 0 || decide (g.owner = tag)
    || (decide (g.sset ≠ 0) && (Sparse.at [] s.shareSets g.sset).contains tag && (!write || !g.sro))

/-! ## Interleave domains and slices (R255, R259, R260) -/

/-- A core is enabled when its die runs and is not held, and nothing has disabled it (R11, R17, R421). -/
def State.coreEnabled (s : State) (p : Nat) : Bool :=
  (s.die (dieOf p)).announced && !(s.die (dieOf p)).held && !s.disabled.contains p

/-- A core lies in a domain of its partition (Table 20.1). -/
def inDomain (mode : Nat) (layout : Fin 3) (dom p : Nat) : Bool :=
  if layout = 1 then decide (p / 16 % partH mode / (partH mode / 2) = dom)
  else if layout = 2 then decide (p % 16 % partW mode / (partW mode / 2) = dom)
  else decide (dom = 0)

/-- The slices of a domain in increasing core index (R259). -/
def State.domainSlices (s : State) (part dom : Nat) : List Nat :=
  (List.range 256).filter (fun p =>
    s.coreEnabled p && decide (partOf s.mode p = part) && inDomain s.mode (s.part part).layout dom p)

/-- The fold of R259 over PA[47:7] under a mask. -/
def homeFold (hm : BitVec 41) (pa : Nat) : Nat :=
  let v := (BitVec.ofNat 41 (pa / 128) &&& hm).toNat
  (List.range 6).foldl (fun f i => f ^^^ (v / 256 ^ i % 256)) 0

/-- The home slice of a line for a tenant, if its domain has a slice (R259, R455). -/
def State.home (s : State) (tag pa : Nat) : Option Nat :=
  let t := s.tenant tag
  let p := s.part t.part
  let ss := s.domainSlices t.part t.domain
  ss[homeFold (if t.domain = 0 then p.hm0 else p.hm1) pa % ss.length]?

/-- The home slice that serves an access, if one does (Table 9.3). -/
def State.sliceFor (s : State) (tag pa : Nat) (pol : Policy) : Option Nat :=
  if isHbm pa && decide (pol ≠ .bypass) && decide ((s.tenant tag).ways ≠ 0) && decide (tag ≠ 0) then s.home tag pa
  else none

def lineBytes (d : BitVec 1024) (off n : Nat) : List Byte :=
  (List.range n).map (fun i => d.extractLsb' (8 * (off + i)) 8)

def lineOfBytes (bs : List Byte) : BitVec 1024 := BitVec.ofNat 1024 (joinBytes bs)

/-- The line with bytes replaced from an offset on. -/
def lineSet (d : BitVec 1024) (off : Nat) (bs : List Byte) : BitVec 1024 :=
  lineOfBytes ((lineBytes d 0 off) ++ bs ++ lineBytes d (off + bs.length) (128 - off - bs.length))

def Line.is (l : Line) (tag line : Nat) : Bool := decide (l.tag = tag) && decide (l.line = line)

/-- A tenant's line, wherever it stands. -/
def State.findLine (s : State) (tag line : Nat) : Option Line := s.lines.find? (fun l => l.is tag line)

/-- The memory controller takes a line's bytes. -/
def State.writeBack (s : State) (l : Line) : State := { s with mem := setCells s.mem (128 * l.line) (lineBytes l.data 0 128) }

/-- Writes back the dirty lines that a test names; they stay valid and clean. -/
def State.cleanLines (s : State) (p : Line → Bool) : State :=
  let s' := (s.lines.filter (fun l => l.dirty && p l)).foldl State.writeBack s
  { s' with lines := s'.lines.map (fun l => if p l then { l with dirty := false } else l) }

/-- Invalidates the clean lines that a test names. -/
def State.dropClean (s : State) (p : Line → Bool) : State :=
  { s with lines := s.lines.filter (fun l => l.dirty || !p l) }

/-- Writes back and invalidates the lines that a test names. -/
def State.flushLines (s : State) (p : Line → Bool) : State := (s.cleanLines p).dropClean p

/-- Invalidates lines without writing back (R399). -/
def State.discardLines (s : State) (p : Line → Bool) : State := { s with lines := s.lines.filter (fun l => !p l) }

def State.newestStamp (s : State) : Int := s.lines.foldl (fun m l => max m l.stamp) 0
def State.oldestStamp (s : State) : Int := s.lines.foldl (fun m l => min m l.stamp) 0

/-- R255: the way that a new line takes among the tenant's ways of its set, and the line it replaces. -/
def State.chooseWay (s : State) (slice line : Nat) (ways : BitVec 16) : Nat × Option Line :=
  let here := s.lines.filter (fun l => l.slice = slice ∧ Config.cacheSet l.line = Config.cacheSet line)
  let mine := (List.range 16).filter (fun w => ways.getLsbD w)
  match mine.find? (fun w => here.all (fun l => l.way ≠ w)) with
  | some w => (w, none)
  | none =>
    match (here.filter (fun l => mine.contains l.way)).foldl (fun (m : Option Line) l =>
        match m with | none => some l | some k => if l.stamp < k.stamp then some l else some k) none with
    | some l => (l.way, some l)
    | none => (0, none)

/-- The state with the line of an access valid in its home slice (R255). -/
def State.fetchLine (s : State) (slice tag line : Nat) (pol : Policy) : State :=
  match s.findLine tag line with
  | some _ =>
    { s with lines := s.lines.map (fun l => if l.is tag line then { l with stamp := s.newestStamp + 1 } else l) }
  | none =>
    let (w, victim) := s.chooseWay slice line (s.tenant tag).ways
    let s1 := match victim with
      | none => s
      | some v =>
        let s' := if v.dirty then s.writeBack v else s
        { s' with lines := s'.lines.filter (fun l => decide (l ≠ v)) }
    let l : Line := { slice := slice, tag := tag, line := line, way := w, dirty := false,
                      data := lineOfBytes (cellBytes s1.mem (128 * line) 128),
                      stamp := if pol = .stream then s.oldestStamp - 1 else s.newestStamp + 1 }
    { s1 with lines := l :: s1.lines }

/-- The bytes that a tenant's access would find now, without any effect on the slices. -/
def State.viewPiece (s : State) (tag pa n : Nat) : List Byte :=
  match s.findLine tag (pa / 128) with
  | some l => lineBytes l.data (pa % 128) n
  | none => cellBytes s.mem pa n

/-- Reads bytes of one 128-byte line of local physical memory (R254, R255). -/
def State.readPiece (s : State) (tag pa n : Nat) (pol : Policy) : State × List Byte :=
  match s.sliceFor tag pa pol with
  | some sl => let s' := s.fetchLine sl tag (pa / 128) pol; (s', s'.viewPiece tag pa n)
  | none => let s' := s.cleanLines (fun l => l.is tag (pa / 128)); (s', cellBytes s'.mem pa n)

/-- Writes bytes of one 128-byte line of local physical memory (R254, R255). -/
def State.writePiece (s : State) (tag pa : Nat) (bs : List Byte) (pol : Policy) : State :=
  match s.sliceFor tag pa pol with
  | some sl =>
    let s' := s.fetchLine sl tag (pa / 128) pol
    { s' with lines := s'.lines.map (fun l =>
        if l.is tag (pa / 128) then { l with data := lineSet l.data (pa % 128) bs, dirty := true } else l) }
  | none =>
    let s' := s.flushLines (fun l => l.is tag (pa / 128))
    { s' with mem := setCells s'.mem pa bs }

/-- Reads bytes that may cross lines. -/
def State.readPhys (tag : Nat) (pol : Policy) : Nat → State → Nat → Nat → State × List Byte
  | 0, s, _, _ => (s, [])
  | fuel + 1, s, pa, n =>
    if n = 0 then (s, []) else
    let k := min n (128 - pa % 128)
    let (s1, b1) := s.readPiece tag pa k pol
    let (s2, b2) := State.readPhys tag pol fuel s1 (pa + k) (n - k)
    (s2, b1 ++ b2)

/-- Writes bytes that may cross lines. -/
def State.writePhys (tag : Nat) (pol : Policy) : Nat → State → Nat → List Byte → State
  | 0, s, _, _ => s
  | fuel + 1, s, pa, bs =>
    if bs.isEmpty then s else
    let k := 128 - pa % 128
    State.writePhys tag pol fuel (s.writePiece tag pa (bs.take k) pol) (pa + k) (bs.drop k)

/-- Pieces of `n` bytes from `pa` on. -/
def pieces (pa n : Nat) : Nat := (pa % 128 + n) / 128 + 1

/-! ## The undo log (R474, R476) -/

/-- The mask of the bytes of [pa, pa + n) in the unit at `u`. -/
def unitMask (u pa n : Nat) : BitVec 32 :=
  (List.range 32).foldl (fun m i => if pa ≤ u + i ∧ u + i < pa + n then m ||| (1#32 <<< i) else m) 0#32

/-- Logs the units that a write of segment `seg` touches, each with its old bytes at its first write. -/
def State.logUndo (s : State) (r seg tag pa n : Nat) : State :=
  let us := (List.range ((pa % 32 + n + 31) / 32)).map (fun i => pa / 32 * 32 + 32 * i)
  us.foldl (fun s u =>
    let x := s.rect r
    let m := unitMask u pa n
    if x.undo.any (fun e => e.seg = seg ∧ e.addr = u) then
      s.setRect r { x with undo := x.undo.map (fun e =>
        if e.seg = seg ∧ e.addr = u then { e with mask := e.mask ||| m } else e) }
    else
      let e : Undo := { seg := seg, addr := u, old := BitVec.ofNat 256 (joinBytes (s.viewPiece tag u 32)), mask := m }
      let x' := { x with undo := x.undo ++ [e] }
      s.setRect r (if 3 * 1024 * x.area ≤ 4 * x'.undo.length then x'.wantCut (x.started + 1) else x')) s

/-- The log has room for one more access of an agent (R474). -/
def Rect.undoRoom (x : Rect) : Bool := decide (x.undo.length + 2 ≤ 1024 * x.area)

/-- A write to a location needs a place in the log only where it is paged memory (R474). -/
def Rect.roomAt (x : Rect) : Loc → Bool
  | .phys _ => x.undoRoom
  | _ => true

/-- R479 step 2: restores the masked bytes of one unit. -/
def State.undoOne (tag : Nat) (s : State) (e : Undo) : State :=
  (List.range 32).foldl (fun s i =>
    if e.mask.getLsbD i then s.writePiece tag (e.addr + i) [e.old.extractLsb' (8 * i) 8] .keep else s) s

/-! ## Locations -/

/-- Reads a location of a rectangle. -/
def State.readLoc (s : State) (r : Nat) (l : Loc) (n : Nat) (pol : Policy) : State × List Byte :=
  match l with
  | .window c o => (s, cellBytes (s.core ⟨r, c⟩).scratch o n)
  | .phys pa => State.readPhys (s.rect r).tag pol (pieces pa n) s pa n
  | .peer pa => (s, cellBytes s.peer pa n)

/-- Writes a local location for a rectangle; a paged write is logged in segment `seg`, unless a complete
cut already holds the write (R474). -/
def State.writeLoc (s : State) (r seg : Nat) (l : Loc) (bs : List Byte) (pol : Policy) : State :=
  match l with
  | .window c o => s.modCore ⟨r, c⟩ (fun k => { k with scratch := setCells k.scratch o bs })
  | .phys pa =>
    let tag := (s.rect r).tag
    let s1 := if (s.rect r).complete ≤ seg then s.logUndo r seg tag pa bs.length else s
    State.writePhys tag pol (pieces pa bs.length) s1 pa bs
  | .peer pa => { s with peer := setCells s.peer pa bs }

/-- A store to a peer waits in the remote-write buffer for the next cut (R474). -/
def State.bufferRemote (s : State) (r : Nat) (t : Option TaskRef) (pa : Nat) (va : Word) (bs : List Byte) (seg cut : Nat) :
    State :=
  let (s1, id) := s.fresh
  s1.modRect r (fun x =>
    let w : RemoteWrite := { id := id, task := t, pa := pa, va := va, bytes := bs, seg := seg, cut := cut, sent := false }
    let x' := { x with remote := x.remote ++ [w] }
    if x.remote.isEmpty || decide (4 * x'.remote.length ≥ 3 * 4096) then x'.wantCut cut else x')

/-! ## Translation (R269, R270, R405, R408) -/

def pageBytes (ps : Nat) : Nat := 2 ^ (12 + 2 * ps)
def leafR (e : Word) : Bool := e.getLsbD 2
def leafW (e : Word) : Bool := e.getLsbD 3
def leafBp (e : Word) : Bool := e.getLsbD 4
def leafMig (e : Word) : Bool := e.getLsbD 5
def leafPs (e : Word) : Nat := (e.extractLsb' 8 4).toNat
def leafPa (e : Word) : Nat := (e.extractLsb' 12 40).toNat * 4096

/-- Physical address of a virtual address under a cached leaf. -/
def TlbEntry.pa (e : TlbEntry) (va : Nat) : Nat := leafPa e.leaf + va % pageBytes e.ps

def TlbEntry.covers (e : TlbEntry) (cache tag va : Nat) : Bool :=
  decide (e.cache = cache) && decide (e.tag = tag) && decide (e.base = va / pageBytes e.ps * pageBytes e.ps)

/-- A leaf lets an access pass: R or W, and no write to a page under migration (R406, R412). -/
def leafAllows (leaf : Word) (write : Bool) : Bool := if write then leafW leaf && !leafMig leaf else leafR leaf

/-- Cache number of a core's first-level cache and of the engines of a die (R269). -/
def coreCache (p : Nat) : Nat := p
def engineCache (d : Nat) : Nat := 256 + d

/-- First-level entry, then second-level entry (R269). -/
def State.tlbFind (s : State) (cache die tag va : Nat) : Option TlbEntry :=
  match s.tlb1.find? (fun e => e.covers cache tag va) with
  | some e => some e
  | none => s.tlb2.find? (fun e => e.covers die tag va)

/-- An entry enters a cache of `cap` entries; the oldest of that cache leaves when it is full. -/
def tlbInsert (cap : Nat) (l : List TlbEntry) (e : TlbEntry) : List TlbEntry :=
  let same := l.filter (fun x => decide (x.cache = e.cache))
  let l' := l.filter (fun x => decide (x ≠ e))
  if same.length < cap then l' ++ [e]
  else match same.head? with
    | none => l' ++ [e]
    | some o => (l'.filter (fun x => decide (x ≠ o))) ++ [e]

/-- What a translation finds. -/
inductive Trans
  | hit (pa : Nat) (bp : Bool)
  | miss
  | refused
deriving DecidableEq, Repr

/-- R269, R270: translation for a requester, without starting a walk. -/
def State.translate (s : State) (who : Requester) (cache die tag va : Nat) (write : Bool) : Trans :=
  if s.refused.any (fun w => decide (w.who = who) && decide (w.va / 4096 = va / 4096) && decide (w.write = write)) then .refused
  else match s.tlbFind cache die tag va with
    | some e => if leafAllows e.leaf write then .hit (e.pa va) (leafBp e.leaf) else .miss
    | none => .miss

/-- A hit in the second level fills the first (R269). -/
def State.touchTlb (s : State) (cache die tag va : Nat) : State :=
  match s.tlb1.find? (fun e => e.covers cache tag va) with
  | some _ => s
  | none =>
    match s.tlb2.find? (fun e => e.covers die tag va) with
    | some e => { s with tlb1 := tlbInsert 64 s.tlb1 { e with cache := cache } }
    | none => s

/-- The walk that a requester waits for at a page, started if there is none (R269). -/
def State.startWalk (s : State) (who : Requester) (die part tag va : Nat) (write : Bool) : State × Nat :=
  match s.walks.find? (fun w => decide (w.who = who) && decide (w.va / 4096 = va / 4096) && decide (w.write = write)) with
  | some w => (s, w.id)
  | none =>
    let (s1, id) := s.fresh
    let w : Walk := { id := id, die := die, part := part, tag := tag, va := va, write := write, who := who, faulted := false }
    (({ s1 with walks := s1.walks ++ [w] } : State).modPart part (fun p => { p with walks := p.walks + 1 }), id)

/-- The refusal that a requester has met is consumed. -/
def State.forgetRefusal (s : State) (who : Requester) : State :=
  { s with refused := s.refused.filter (fun w => decide (w.who ≠ who)) }

/-- R412: an access from another die to a die's HBM is counted by the monitor of that die. -/
def State.monitored (s : State) (die : Nat) (l : Loc) : State :=
  match l with
  | .phys pa =>
    if isHbm pa && decide (pa / 2 ^ 37 ≠ die) then
      s.modDie (pa / 2 ^ 37) (fun d => { d with monitor := Sparse.set 0 (Sparse.get 0 d.monitor (4 * (pa / 4096) + die) + 1) d.monitor (4 * (pa / 4096) + die) })
    else s
  | _ => s

/-- Location of a translated physical address. -/
def locOf (pa : Nat) : Loc := if isPeerWindow pa then .peer pa else .phys pa

/-! ## Checks made at issue (R292) -/

/-- R256, R258: a window address of a rectangle, outside every carve-out. -/
def Rect.windowLoc (x : Rect) (ea n : Nat) : Option Loc :=
  let off := ea - windowBase
  let c := off / 2 ^ 20
  if c < 256 ∧ c % 16 < x.w ∧ c / 16 < x.h ∧ off % 2 ^ 20 + n ≤ 2 ^ 20 - x.spill then some (.window c (off % 2 ^ 20))
  else none

/-- What the checks of R292 step 2 and 3 find for an address. -/
inductive Reach
  | at_ (l : Loc) (bp : Bool)
  | miss
  | access
deriving DecidableEq, Repr

/-- The range and translation checks for a requester of a rectangle; `write` covers AMO and CAS, and
`copy` lets the weight store be written (R262). -/
def State.reach (s : State) (r : Nat) (who : Requester) (cache die : Nat) (ea n : Nat) (write copy : Bool) : Reach :=
  let x := s.rect r
  if windowBase ≤ ea then
    (match x.windowLoc ea n with | some l => .at_ l false | none => .access)
  else
    match s.translate who cache die x.tag ea write with
    | .refused => .access
    | .miss => .miss
    | .hit pa bp => if write && !copy && isWeightStore pa then .access else .at_ (locOf pa) bp

/-- R292: a sequencer access of `n` bytes; on success the continuation runs at the location with the
policy that holds there (a leaf with BP makes every access BYPASS). -/
def taskAccess (s : State) (ea : Word) (n : Nat) (align : Nat) (write : Bool) (pol : Policy)
    (k : State → Loc → Policy → Flow) : Flow :=
  let t := s.cur
  let die := s.dieOfTask t
  let cache := coreCache ((s.rect t.rect).phys t.core)
  if s.uninformed t then .wait s .taking
  else if ea.toNat % align ≠ 0 then .trap 0x04 ea
  else if 2 ^ 48 ≤ ea.toNat then .trap 0x05 ea
  else match s.reach t.rect (.task t) cache die ea.toNat n write false with
    | .access => .trapIn (s.forgetRefusal (.task t)) 0x05 ea
    | .miss =>
      let (s', id) := s.startWalk (.task t) die (s.rect t.rect).part (s.rect t.rect).tag ea.toNat write
      .wait s' (.access id)
    | .at_ l bp => k (s.touchTlb cache die (s.rect t.rect).tag ea.toNat) l (if bp then .bypass else pol)

/-! ## Scopes (R75, R279, R290) -/

/-- The scope that an instruction acts at and whether it was clipped; none: it traps SCOPE (R290). -/
def State.clip (s : State) (sc : Scope) : Option (Scope × Bool) :=
  let t := s.tenant s.myRect.tag
  if sc.code ≤ t.scopeMax then some (sc, false)
  else if t.scopeStrict then none
  else some ((Scope.ofCode t.scopeMax).getD .core, true)

/-- R290: runs the body at the clipped scope; clipping sets STATUS.SC. -/
def clipped (s : State) (sc : Scope) (k : State → Scope → Flow) : Flow :=
  match s.clip sc with
  | none => .trap 0x0E (BitVec.ofNat 64 sc.code)
  | some (sc', c) => k (if c then s.modTask s.cur (fun t => { t with sc := true }) else s) sc'

/-- Wider than RECT (R291). -/
def Scope.wide (sc : Scope) : Bool := decide (2 ≤ sc.code)

/-! ## Posting an access -/

/-- Everything that an access carries beyond its place (R278, R279, R291). -/
structure OrderBits where
  acq : Bool
  rel : Bool
  scope : Scope
  cut : Nat
deriving DecidableEq, Repr

/-- Posts an access of the issuing task: a register that it fills becomes empty (R44). Writes after a
release fence carry its scope, its cut and the remote writes that it waits for (R279). -/
def State.post (s : State) (reg : Option Reg) (va : Word) (l : Loc) (kind : AccKind) (pol : Policy) (o : OrderBits) : State :=
  let (s1, id) := s.fresh
  let t := s.me
  let isWrite := match kind with | .load _ _ => false | _ => true
  let fenced := isWrite && decide (t.relScope ≠ 0)
  let scope := if fenced ∧ o.scope.code < t.relScope - 1 then (Scope.ofCode (t.relScope - 1)).getD .core else o.scope
  let cut := if fenced then max o.cut t.relCut else o.cut
  let a : Access :=
    { id := id, task := s.cur, reg := reg.bind (fun r => if r = 0 then none else some r.val), va := va, loc := l,
      kind := kind, policy := pol, acq := o.acq, rel := o.rel, scope := scope,
      upto := if o.rel then id else if fenced then t.relUpto else 0,
      seg := s.myRect.started, cut := cut, epoch := (s.part s.myRect.part).epoch }
  let s2 := { s1 with accesses := s1.accesses ++ [a] }
  let s3 := s2.modTask s.cur (fun t => match reg with | some r => t.markEmpty r (.access id) | none => t)
  s3.modRect s.cur.rect (fun x => x.wantCut cut)

end Sys2Proof.Machine
end

