-- ==== Sys2Proof/Machine/MemInstr.lean ====
section
/-! DEFINITION. Loads, stores, atomics, fences, cache maintenance and the spill stack (R158, R159, R292 to
R300). -/

namespace Sys2Proof.Machine

open Host (Outcome)

/-! ## Sizes and addresses -/

/-- Bytes and sign extension of a load (Table 3.4). -/
def ldBytes : LdSize → Nat
  | .b | .bz => 1
  | .h | .hz => 2
  | .w | .wz => 4
  | .d => 8
def ldSigned : LdSize → Bool
  | .b | .h | .w => true
  | _ => false
def stBytes : StSize → Nat
  | .b => 1
  | .h => 2
  | .w => 4
  | .d => 8
def atBytes : AtSize → Nat
  | .w => 4
  | .d => 8

/-- R292: base and signed offset. -/
def eaOff (a : Word) (off : BitVec 20) : Word := a + off.signExtend 64
/-- R292: base and scaled index. -/
def eaIndex (a b : Word) (k : Fin 4) : Word := a + (b <<< k.val)

def relaxed : OrderBits := { acq := false, rel := false, scope := .core, cut := 0 }

/-- R291: the cut that a release of a scope waits for. -/
def State.relCutFor (s : State) (sc : Scope) : Nat := if Scope.wide sc then s.myRect.taskCut else 0

/-! ## Loads and stores -/

/-- A load (R294): posted, its register empty until the value is delivered. -/
def loadFlow (s : State) (ea : Word) (n : Nat) (sx : Bool) (d : Reg) (pol : Policy) (o : OrderBits) : Flow :=
  taskAccess s ea n n false pol (fun s l p => .go (s.post (some d) ea l (.load n sx) p o))

/-- A store (R295): posted. -/
def storeFlow (s : State) (ea : Word) (n : Nat) (v : Word) (pol : Policy) (o : OrderBits) : Flow :=
  taskAccess s ea n n true pol (fun s l p => .go (s.post none ea l (.store n v) p o))

/-- LD (R294). -/
def execLd (g : Guard) (sz : LdSize) (cp : Policy) (d : Reg) (a : Src) (off : BitVec 20) (s : State) :
    Outcome State Fault Refusal :=
  issue g [srcNeed a, .dst d] (fun s =>
    loadFlow s (eaOff (s.me.reg a.r) off) (ldBytes sz) (ldSigned sz) d cp relaxed) s

/-- LDX (R294). -/
def execLdx (g : Guard) (sz : LdSize) (cp : Policy) (d : Reg) (a b : Src) (k : Fin 4) (s : State) :
    Outcome State Fault Refusal :=
  issue g [srcNeed a, srcNeed b, .dst d] (fun s =>
    loadFlow s (eaIndex (s.me.reg a.r) (s.me.reg b.r) k) (ldBytes sz) (ldSigned sz) d cp relaxed) s

/-- LDACQ (R294): an acquire at its scope. -/
def execLdacq (g : Guard) (sz : LdSize) (sc : Scope) (d : Reg) (a : Src) (off : BitVec 20) (s : State) :
    Outcome State Fault Refusal :=
  issue g [srcNeed a, .dst d] (fun s =>
    clipped s sc (fun s sc => loadFlow s (eaOff (s.me.reg a.r) off) (ldBytes sz) (ldSigned sz) d .keep
      { relaxed with acq := true, scope := sc })) s

/-- ST (R295). -/
def execSt (g : Guard) (sz : StSize) (cp : Policy) (b a : Src) (off : BitVec 20) (s : State) :
    Outcome State Fault Refusal :=
  issue g [srcNeed a, srcNeed b] (fun s =>
    storeFlow s (eaOff (s.me.reg a.r) off) (stBytes sz) (s.me.reg b.r) cp relaxed) s

/-- STX (R295): the data register stands in D and always blocks when empty (R293). -/
def execStx (g : Guard) (sz : StSize) (cp : Policy) (d : Reg) (a b : Src) (k : Fin 4) (s : State) :
    Outcome State Fault Refusal :=
  issue g [srcNeed a, srcNeed b, .src d false] (fun s =>
    storeFlow s (eaIndex (s.me.reg a.r) (s.me.reg b.r) k) (stBytes sz) (s.me.reg d) cp relaxed) s

/-- STREL (R295): a release at its scope; wider than RECT it waits for a cut (R291). -/
def execStrel (g : Guard) (sz : StSize) (sc : Scope) (b a : Src) (off : BitVec 20) (s : State) :
    Outcome State Fault Refusal :=
  issue g [srcNeed a, srcNeed b] (fun s =>
    clipped s sc (fun s sc => storeFlow s (eaOff (s.me.reg a.r) off) (stBytes sz) (s.me.reg b.r) .keep
      { relaxed with rel := true, scope := sc, cut := s.relCutFor sc })) s

/-! ## Atomics -/

/-- Whether an order releases or acquires (R75). -/
def orderRel : Order → Bool | .rel | .ar => true | _ => false
def orderAcq : Order → Bool | .acq | .ar => true | _ => false

/-- R291, R297: an AMO or CAS at CORE or RECT scope to scratchpad is performed at once; every other
waits for a complete cut. -/
def State.atomicCut (s : State) (l : Loc) (sc : Scope) : Nat :=
  match l with
  | .window _ _ => s.relCutFor sc
  | _ => s.myRect.taskCut

/-- AMO (R297). -/
def execAmo (g : Guard) (op : AmoOp) (sz : AtSize) (o : Order) (sc : Scope) (d : Reg) (b a : Src)
    (off : BitVec 16) (s : State) : Outcome State Fault Refusal :=
  issue g [srcNeed a, srcNeed b, .dst d] (fun s =>
    clipped s sc (fun s sc =>
      let ea := s.me.reg a.r + off.signExtend 64
      let y := s.me.reg b.r
      taskAccess s ea (atBytes sz) (atBytes sz) true .keep (fun s l p =>
        .go (s.post (some d) ea l (.amo op (atBytes sz) y) p
          { acq := orderAcq o, rel := orderRel o, scope := sc, cut := s.atomicCut l sc })))) s

/-- CAS (R298): D gives the value expected and receives the old value. -/
def execCas (g : Guard) (sz : AtSize) (o : Order) (sc : Scope) (d : Reg) (b a : Src) (off : BitVec 20)
    (s : State) : Outcome State Fault Refusal :=
  issue g [srcNeed a, srcNeed b, .src d false] (fun s =>
    clipped s sc (fun s sc =>
      let ea := eaOff (s.me.reg a.r) off
      let new := s.me.reg b.r
      let old := s.me.reg d
      taskAccess s ea (atBytes sz) (atBytes sz) true .keep (fun s l p =>
        .go (s.post (some d) ea l (.cas (atBytes sz) old new) p
          { acq := orderAcq o, rel := orderRel o, scope := sc, cut := s.atomicCut l sc })))) s

/-! ## Fences and maintenance -/

/-- R284: a release at PART scope or wider writes back the tenant's dirty lines in its domain. -/
def State.releaseWork (s : State) (tag : Nat) (sc : Scope) : State :=
  if 4 ≤ sc.code then s.cleanLines (fun l => decide (l.tag = tag)) else s

/-- R284: an acquire at DEV scope or wider invalidates the tenant's clean lines. -/
def State.acquireWork (s : State) (tag : Nat) (sc : Scope) : State :=
  if 5 ≤ sc.code then s.dropClean (fun l => decide (l.tag = tag)) else s

/-- Writes that follow a release fence carry its scope, its cut and what it waits for (R279, R291). -/
def Task.fenceRel (t : Task) (sc : Scope) (upto cut : Nat) : Task :=
  { t with relScope := sc.code + 1, relUpto := upto, relCut := cut }

/-- FENCE (R296): it waits for the task's own accesses; a release fence orders later writes and, wider
than RECT, asks for the cut that they wait for; an acquire fence does the work of an acquire. -/
def execFence (g : Guard) (o : Order) (sc : Scope) (s : State) : Outcome State Fault Refusal :=
  issue g [] (fun s =>
    clipped s sc (fun s sc =>
      if s.ownPending s.cur s.nextId false then .wait s (.accesses s.nextId false)
      else
        let cut := s.relCutFor sc
        let s1 := if orderRel o then
            ((s.releaseWork s.myRect.tag sc).modTask s.cur (fun t => t.fenceRel sc s.nextId cut)).modRect s.cur.rect
              (fun x => x.wantCut cut)
          else s
        .go (if orderAcq o then s1.acquireWork s.myRect.tag sc else s1))) s

/-- PREF (R299): brings the line into its home slice; anything that would stall or trap is dropped. -/
def execPref (g : Guard) (cp : Policy) (a : Src) (off : BitVec 20) (s : State) : Outcome State Fault Refusal :=
  issue g [srcNeed a] (fun s =>
    let ea := (eaOff (s.me.reg a.r) off).toNat
    let tag := s.myRect.tag
    let die := s.dieOfTask s.cur
    if windowBase ≤ ea then .go s
    else match s.tlbFind (coreCache (s.myRect.phys s.cur.core)) die tag ea with
      | none => .go s
      | some e =>
        if !leafAllows e.leaf false || leafBp e.leaf || !s.granulePass tag (e.pa ea) false then .go s
        else match s.sliceFor tag (e.pa ea) cp with
          | none => .go s
          | some sl => .go (s.fetchLine sl tag (e.pa ea / 128) cp)) s

/-- The leaf of a tenant's page table that maps a virtual address, if one is valid (R405, R406): its
entry and its page size code. -/
def State.leafOf (s : State) (tag va : Nat) : Option (Word × Nat) :=
  let t := Sparse.at [] s.pages tag
  [3, 2, 1, 0].findSome? (fun lv =>
    let e := Sparse.at 0#64 t (lv * 2 ^ 36 + va / 2 ^ (12 + 9 * lv))
    if e.getLsbD 0 && e.getLsbD 1 then some (e, if lv = 3 then 11 else leafPs e) else none)

/-- Physical address of a mapped virtual address (a level-3 leaf stands for 32 pages of 16 GiB). -/
def leafAddr (e : Word) (lv3 : Bool) (ps va : Nat) : Nat :=
  leafPa e + (if lv3 then va % 2 ^ 39 else va % pageBytes ps)

def State.vaToPa (s : State) (tag va : Nat) : Option Nat :=
  match s.leafOf tag va with
  | none => none
  | some (e, ps) =>
    let lv3 := (Sparse.at 0#64 (Sparse.at [] s.pages tag) (3 * 2 ^ 36 + va / 2 ^ 39)).getLsbD 1
    some (leafAddr e lv3 ps va)

/-- A line of a tenant holds a byte of a virtual range: some page of the range maps it (R300). -/
def State.lineInRange (s : State) (tag lo len : Nat) (l : Line) : Bool :=
  decide (l.tag = tag) && (List.range ((lo % 4096 + len + 4095) / 4096)).any (fun i =>
    let page := (lo / 4096 + i) * 4096
    match s.vaToPa tag page with
    | none => false
    | some pa =>
      let first := pa + (if page < lo then lo - page else 0)
      let last := pa + (if lo + len < page + 4096 then lo + len - page else 4096)
      decide (page < windowBase) && decide (128 * l.line < last) && decide (first < 128 * l.line + 128))

/-- What the three maintenance instructions do once their waits are over (R300). -/
inductive Maint | wb | inv | wbi
deriving DecidableEq, Repr

def Maint.apply (m : Maint) (p : Line → Bool) (s : State) : State :=
  match m with
  | .wb => s.cleanLines p
  | .inv => s.dropClean p
  | .wbi => s.flushLines p

/-- CWB, CINV and CWBI (R300): a range check; a cut first where the scope is wider than RECT; a fence
at the scope; then the lines. The wait for the cut is entered once: the cut asked for stands in the
task's `asked`. -/
def maintFlow (m : Maint) (sc : Scope) (lo len : Word) (s : State) : Flow :=
  if 2 ^ 48 < lo.toNat + len.toNat then .trap 0x05 lo
  else
    clipped s sc (fun s sc =>
      if s.ownPending s.cur s.nextId false then .wait s (.accesses s.nextId false)
      else
        let tag := s.myRect.tag
        let p := fun l => s.lineInRange tag lo.toNat len.toNat l
        let fence := fun (s : State) =>
          let s1 := if m = .inv then s
            else (s.releaseWork tag sc).modTask s.cur (fun t => t.fenceRel sc s.nextId t.relCut)
          if m = .wb then s1 else s1.acquireWork tag sc
        if Scope.wide sc then
          if s.me.asked = 0 then
            let c := s.myRect.taskCut
            .wait ((s.modTask s.cur (fun t => { t with asked := c })).modRect s.cur.rect (fun x => x.wantCut c)) (.cut c)
          else if s.myRect.complete < s.me.asked then .wait s (.cut s.me.asked)
          else .go ((m.apply p (fence s)).modTask s.cur (fun t => { t with asked := 0 }))
        else .go (m.apply p (fence s)))

/-- CWB (R300). -/
def execCwb (g : Guard) (sc : Scope) (a b : Src) (s : State) : Outcome State Fault Refusal :=
  issue g [srcNeed a, srcNeed b] (fun s => maintFlow .wb sc (s.me.reg a.r) (s.me.reg b.r) s) s

/-- CINV (R300). -/
def execCinv (g : Guard) (sc : Scope) (a b : Src) (s : State) : Outcome State Fault Refusal :=
  issue g [srcNeed a, srcNeed b] (fun s => maintFlow .inv sc (s.me.reg a.r) (s.me.reg b.r) s) s

/-- CWBI (R300). -/
def execCwbi (g : Guard) (sc : Scope) (a b : Src) (s : State) : Outcome State Fault Refusal :=
  issue g [srcNeed a, srcNeed b] (fun s => maintFlow .wbi sc (s.me.reg a.r) (s.me.reg b.r) s) s

/-! ## Own stores not yet performed -/

/-- Space and address of a location. -/
def Loc.key : Loc → Nat × Nat
  | .window c o => (1, c * 2 ^ 20 + o)
  | .phys pa => (0, pa)
  | .peer pa => (2, pa)

def AccKind.bytes : AccKind → Nat
  | .load n _ => n
  | .store n _ => n
  | .amo _ n _ => n
  | .cas n _ _ => n

def AccKind.isLoad : AccKind → Bool
  | .load _ _ => true
  | _ => false

/-- Two locations share a byte. -/
def overlaps (l : Loc) (n : Nat) (l' : Loc) (n' : Nat) : Bool :=
  decide (l.key.1 = l'.key.1) && decide (l.key.2 < l'.key.2 + n') && decide (l'.key.2 < l.key.2 + n)

/-- R278: bytes read, overlaid with the task's own stores numbered below `upto` that have not been
performed, remote ones included. -/
def State.overlay (s : State) (t : TaskRef) (upto : Nat) (l : Loc) (bs : List Byte) : List Byte :=
  let put := fun (bs : List Byte) (l' : Loc) (vs : List Byte) =>
    if overlaps l bs.length l' vs.length then
      (List.range bs.length).map (fun i =>
        let p := l.key.2 + i
        if l'.key.2 ≤ p ∧ p < l'.key.2 + vs.length then vs.getD (p - l'.key.2) 0 else bs.getD i 0)
    else bs
  let bs1 := (s.rect t.rect).remote.foldl (fun bs w =>
    if decide (w.task = some t) && decide (w.id < upto) then put bs (.peer w.pa) w.bytes else bs) bs
  s.accesses.foldl (fun bs a =>
    if decide (a.task = t) && decide (a.id < upto) then
      match a.kind with
      | .store n v => put bs a.loc (splitBytes n v.toNat)
      | _ => bs
    else bs) bs1

/-- R278: an own access numbered below `upto` that a read of a location must wait for: an acquire that
has not returned, or an atomic on the location. -/
def State.readBlocked (s : State) (t : TaskRef) (upto : Nat) (l : Loc) (n : Nat) : Bool :=
  s.accesses.any (fun a => decide (a.task = t) && decide (a.id < upto) &&
    (a.acq || (match a.kind with
      | .amo _ k _ => overlaps l n a.loc k
      | .cas k _ _ => overlaps l n a.loc k
      | _ => false)))
  || (s.task t).behind.any (fun p => s.accesses.any (fun b => decide (b.task = p.1) && decide (b.id < p.2)
        && !b.kind.isLoad && overlaps l n b.loc b.kind.bytes))

/-- A read that the task waits for and that is performed at issue (R159, R311, R515). -/
def directRead (s : State) (va : Word) (l : Loc) (n : Nat) (pol : Policy) (k : State → List Byte → Flow) : Flow :=
  if s.readBlocked s.cur s.nextId l n then .wait s (.accesses s.nextId false)
  else
    let (s', bs) := s.readLoc s.cur.rect l n pol
    match l with
    | .phys pa =>
      if s.granulePass s.myRect.tag pa false then k s' (s'.overlay s.cur s.nextId l bs)
      else .wait (s.raiseFabric s.cur.rect 0x05 va s.cur.core) .producers
    | _ => k s' (s'.overlay s.cur s.nextId l bs)

/-! ## The spill stack -/

/-- PUSH (R158, R159): into the task's part of the carve-out, or to OVFPTR below SPILLBASE. -/
def execPush (g : Guard) (a : Src) (s : State) : Outcome State Fault Refusal :=
  issue g [srcNeed a] (fun s =>
    let t := s.me
    let x := s.myRect
    let base := spillBase x.spill s.cur.slot
    let top := base + BitVec.ofNat 64 (x.spill / 8)
    let v := t.reg a.r
    if t.sp.toNat % 8 ≠ 0 then .trap 0x04 t.sp
    else if top < t.sp then .trap 0x0F t.sp
    else if base.toNat + 8 ≤ t.sp.toNat then
      .go ((s.modCore s.cur.coreRef (fun c =>
        { c with scratch := setCells c.scratch (t.sp.toNat - 8) (splitBytes 8 v.toNat) })).modTask s.cur
          (fun t => { t with sp := t.sp - 8 }))
    else if t.ovfptr.toNat % 8 ≠ 0 then .trap 0x04 t.ovfptr
    else if t.ovflim.toNat < t.ovfptr.toNat + 8 then .trap 0x0F t.ovfptr
    else
      taskAccess s t.ovfptr 8 8 true .keep (fun s l p =>
        .go ((s.post none t.ovfptr l (.store 8 v) p relaxed).modTask s.cur
          (fun t => { t with ovfptr := t.ovfptr + 8, sp := t.sp - 8 })))) s

/-- POP (R158, R159): the task stalls until the word arrives. -/
def execPop (g : Guard) (d : Reg) (s : State) : Outcome State Fault Refusal :=
  issue g [.dst d] (fun s =>
    let t := s.me
    let x := s.myRect
    let base := spillBase x.spill s.cur.slot
    let top := base + BitVec.ofNat 64 (x.spill / 8)
    if t.sp.toNat % 8 ≠ 0 then .trap 0x04 t.sp
    else if top ≤ t.sp then .trap 0x0F t.sp
    else if t.sp < base then
      if t.ovfptr.toNat % 8 ≠ 0 then .trap 0x04 t.ovfptr
      else
        let p := t.ovfptr - 8
        taskAccess s p 8 8 false .keep (fun s l pol =>
          directRead s p l 8 pol (fun s bs =>
            .go (s.modTask s.cur (fun t =>
              { t.write d (BitVec.ofNat 64 (joinBytes bs)) with ovfptr := p, sp := t.sp + 8 }))))
    else
      .go (s.modTask s.cur (fun t =>
        { t.write d (BitVec.ofNat 64 (joinBytes (cellBytes s.myCore.scratch t.sp.toNat 8))) with sp := t.sp + 8 }))) s

end Sys2Proof.Machine
end

