-- ==== Sys2Proof/Machine/MemEvents.lean ====
section
/-! DEFINITION. What happens to accesses after issue: their performance at a node (R278, R282, R284, R288,
R291), delivery of values (R44, R48), walks (R269, R270, R406), remote acknowledgments (R284), refresh
windows (R264), and the steps of a task that no instruction of its own makes. An event that is not
enabled leaves the state as it is. -/

namespace Sys2Proof.Machine

open Host (Outcome)

/-! ## Performance at a node -/

/-- R278: an earlier access of the same task that this one is performed after, or a write that its spawner
knew (R367). -/
def State.orderBlocked (s : State) (a : Access) : Bool :=
  s.accesses.any (fun b => decide (b.task = a.task) && decide (b.id < a.id) &&
    (b.acq || a.rel ||
      (overlaps a.loc a.kind.bytes b.loc b.kind.bytes &&
        !(a.kind.isLoad && (match b.kind with | .store _ _ => true | _ => false)))))
  || (s.task a.task).behind.any (fun p => s.accesses.any (fun b => decide (b.task = p.1) && decide (b.id < p.2)
        && (b.acq || (!b.kind.isLoad && (a.rel || overlaps a.loc a.kind.bytes b.loc b.kind.bytes)))))
  || (!a.kind.isLoad && (s.rect a.task.rect).remote.any (fun w =>
        decide (w.task = some a.task) && decide (w.id < a.id) && overlaps a.loc a.kind.bytes (.peer w.pa) w.bytes.length))

/-- An access that no memory has been asked for yet: its cut, that of an access it follows, or room in the undo
log, which a cut frees, is awaited (R291, R474). -/
def State.awaitsCut (s : State) (a : Access) : Bool :=
  let x := s.rect a.task.rect
  let held := fun (t : TaskRef) (upto : Nat) => s.accesses.any (fun b => decide (b.task = t) && decide (b.id < upto) && decide (x.complete < b.cut))
  decide (x.complete < a.cut) || held a.task a.id || (s.task a.task).behind.any (fun p => held p.1 p.2)
    || (!a.kind.isLoad && (match a.loc with
        | .phys _ => !x.undoRoom && decide (x.complete ≤ a.seg)
        | .peer _ => decide (4096 ≤ x.remote.length)
            || x.remote.any (fun w => !w.sent && decide (w.task = some a.task) && overlaps a.loc a.kind.bytes (.peer w.pa) w.bytes.length)
        | .window _ _ => false))

/-- R284: a release at SYS scope waits for the acknowledgments of the task's earlier remote writes. -/
def State.ackBlocked (s : State) (a : Access) : Bool :=
  decide (a.upto ≠ 0) && decide (a.scope = .sys) &&
    (s.rect a.task.rect).remote.any (fun w => decide (w.task = some a.task) && decide (w.id < a.upto))

/-- R264: the bank group of a weight-store address refreshes at a tick. -/
def refreshing (pa t : Nat) : Bool :=
  isWeightStore pa &&
    (let g := pa / 2 ^ 25 % 16
     decide (500 * g ≤ t % 8000) && decide (t % 8000 < 500 * g + 125))

/-- The undo log, the remote-write buffer and the refresh let the access be performed (R264, R474). -/
def State.roomFor (s : State) (a : Access) : Bool :=
  let x := s.rect a.task.rect
  match a.loc with
  | .window _ _ => true
  | .phys pa => (a.kind.isLoad || x.undoRoom || decide (a.seg < x.complete)) &&
      !refreshing pa (s.die (pa / 2 ^ 29 % 4)).timebase.toNat
  | .peer _ => a.kind.isLoad || decide (x.remote.length < 4096)

/-- AMO (R297): the new value and the flags, at 8·n bits. -/
def amoNew (op : AmoOp) (n : Nat) (old y : Nat) : Nat × Flags :=
  let w := 8 * n
  let m := 2 ^ w
  match op with
  | .add => ((old + y) % m, 0)
  | .and => (old &&& y, 0)
  | .or => (old ||| y, 0)
  | .xor => (old ^^^ y, 0)
  | .swap => (y, 0)
  | .min => (if sgn w old ≤ sgn w y then old else y, 0)
  | .max => (if sgn w old ≤ sgn w y then y else old, 0)
  | .minu => (min old y, 0)
  | .maxu => (max old y, 0)
  | .fadd =>
    let f := if n = 4 then fp32 else fp64
    deliverNum f .rne (addNum .rne (decodeNum f old) (decodeNum f y))

/-- The 64-bit value of `n` bytes, sign-extended or not. -/
def extendTo (n : Nat) (sx : Bool) (v : Nat) : Word :=
  if sx then BitVec.ofInt 64 (sgn (8 * n) v) else BitVec.ofNat 64 v

/-- The records that already hold the register as empty take the value (R291, R472). -/
def Body.patch (b : Body) (t : TaskRef) (reg id : Nat) (v : Word) (fl : Option (BitVec 5)) : Body :=
  b.modCore t.core (fun c => c.modTask t.slot (fun x =>
    if Sparse.at .full x.pres reg = .empty (.access id) then
      (x.flags (fl.getD 0)).write (Fin.ofNat 64 reg) v
    else x))

/-- The value of a performed access stands ready for its register (R44). -/
def State.returnValue (s : State) (a : Access) (v : Word) (fl : Option (BitVec 5)) : State :=
  match a.reg with
  | none => match fl with
    | some f => s.modTask a.task (fun t => t.flags f)
    | none => s
  | some r =>
    (s.modTask a.task (fun t =>
      if Sparse.at .full t.pres r = .empty (.access a.id) then { t with pres := Sparse.put (.empty (.value v fl)) t.pres r }
      else t)).modRect a.task.rect (fun x =>
        { x with record := x.record.map (fun b => b.patch a.task r a.id v fl),
                 prog := x.prog.map (fun p => { p with body := p.body.patch a.task r a.id v fl }) })

def State.dropAccess (s : State) (id : Nat) : State :=
  { s with accesses := s.accesses.filter (fun a => decide (a.id ≠ id)) }

/-- R284: the line that a wide release wrote reaches the controller and stays valid and clean. -/
def State.pushLine (s : State) (a : Access) : State :=
  match a.loc with
  | .phys pa => if a.upto ≠ 0 ∧ 4 ≤ a.scope.code then
      s.cleanLines (fun l => l.is (s.rect a.task.rect).tag (pa / 128)) else s
  | _ => s

/-- Where an atomic is performed: at DEV or SYS scope the controller, after the tenant's line has left
its slice (R288). -/
def State.atomicPlace (s : State) (a : Access) : State × Policy :=
  match a.loc with
  | .phys pa => if 5 ≤ a.scope.code then
      (s.flushLines (fun l => l.is (s.rect a.task.rect).tag (pa / 128)), .bypass) else (s, a.policy)
  | _ => (s, a.policy)

/-- The effect of an access at its node. -/
def State.perform (s : State) (a : Access) : State :=
  let x := s.rect a.task.rect
  let n := a.kind.bytes
  let s0 := if a.upto ≠ 0 then s.releaseWork x.tag a.scope else s
  let after := fun (s : State) => if a.acq then s.acquireWork x.tag a.scope else s
  match a.kind with
  | .load n sx =>
    let (s1, bs) := s0.readLoc a.task.rect a.loc n a.policy
    let v := joinBytes (s1.overlay a.task a.id a.loc bs)
    after ((s1.dropAccess a.id).returnValue a (extendTo n sx v) none)
  | .store n v =>
    (match a.loc with
     | .peer pa => (s0.dropAccess a.id).bufferRemote a.task.rect (some a.task) pa a.va (splitBytes n v.toNat) a.seg
         (max a.cut x.taskCut)
     | _ => ((s0.writeLoc a.task.rect a.seg a.loc (splitBytes n v.toNat) a.policy).pushLine a).dropAccess a.id)
  | .amo op _ y =>
    let (s1, pol) := s0.atomicPlace a
    let (s2, bs) := s1.readLoc a.task.rect a.loc n pol
    let old := joinBytes bs
    let r := amoNew op n old (y.toNat % 2 ^ (8 * n))
    after ((((s2.writeLoc a.task.rect a.seg a.loc (splitBytes n r.1) pol).pushLine a).dropAccess a.id).returnValue a
      (extendTo n true old) (if op = .fadd then some r.2 else none))
  | .cas _ e y =>
    let (s1, pol) := s0.atomicPlace a
    let (s2, bs) := s1.readLoc a.task.rect a.loc n pol
    let old := joinBytes bs
    let s3 := if old = e.toNat % 2 ^ (8 * n) then
        (s2.writeLoc a.task.rect a.seg a.loc (splitBytes n y.toNat) pol).pushLine a else s2
    after ((s3.dropAccess a.id).returnValue a (extendTo n true old) none)

/-- R266, R398: the channel or the die of the weight store checks the tag. -/
def State.tagPass (s : State) (tag : Nat) (l : Loc) (write : Bool) : Bool :=
  match l with
  | .phys pa => s.granulePass tag pa write
  | _ => true

/-- R458: the home slice refuses a request of an older domain epoch. -/
def State.needsReplay (s : State) (a : Access) : Bool :=
  match a.loc with
  | .phys pa => (s.sliceFor (s.rect a.task.rect).tag pa a.policy).isSome &&
      decide (a.epoch < (s.part (s.rect a.task.rect).part).epoch)
  | _ => false

/-- ACCESS_PERFORMED_AT_NODE (R282): a posted access is performed once its order, its cut and its
room allow it; a tag mismatch drops it and raises ACCESS as a fabric fault (R398). -/
def execAccessPerformedAtNode (id : Nat) (s : State) : Outcome State Fault Refusal :=
  match s.accesses.find? (fun a => decide (a.id = id)) with
  | none => .next s
  | some a =>
    let x := s.rect a.task.rect
    if s.orderBlocked a || decide (x.complete < a.cut) || s.ackBlocked a || !s.roomFor a || s.needsReplay a then .next s
    else if !s.tagPass x.tag a.loc (!a.kind.isLoad) then
      (if x.fabricBusy then .next s
       else .next ((s.dropAccess id).raiseFabric a.task.rect 0x05 a.va a.task.core))
    else .next ((s.perform a).monitored (s.dieOfTask a.task) a.loc)

/-! ## Delivery -/

/-- The rectangle takes messages and replies of tasks (Table 22.1, R497). -/
def Phase.hears : Phase → Bool
  | .run | .boundary => true
  | _ => false

/-- A register that is absent is fetched from the context that the task was loaded from (R48, R508). -/
def Task.fetchReg (t : Task) (reg : Nat) : Task :=
  if Sparse.at .full t.pres reg = .absent then
    { t with regs := Sparse.put (Sparse.at 0#64 t.saved reg) t.regs reg, pres := Sparse.put .full t.pres reg }
  else t

/-- REGISTER_MISS_MICRO_TRAP (R48, R470): a source field of the task waits for an absent register. It
changes no architectural register; REGMISS counts it. -/
def execRegisterMissMicroTrap (t : TaskRef) (reg : Nat) (s : State) : Outcome State Fault Refusal :=
  let x := s.task t
  if Sparse.at .full x.pres reg = .absent ∧ x.wait = some (.reg reg) then
    .next (s.modCore t.coreRef (fun c => (c.setTask t.slot (x.fetchReg reg)).count 4 1))
  else .next s

/-- BACKGROUND_REGISTER_FETCH (R508): the first absent register of the core's tasks. -/
def execBackgroundRegisterFetch (c : CoreRef) (s : State) : Outcome State Fault Refusal :=
  let k := s.core c
  match (List.range 8).findSome? (fun i =>
      ((k.task i).pres.find? (fun p => decide (p.2 = .absent))).map (fun p => (i, p.1))) with
  | none => .next s
  | some (i, r) => .next (s.setCore c (k.setTask i ((k.task i).fetchReg r)))

/-- REMOTE_WRITE_ACKNOWLEDGMENT (R267, R284): a sent write is performed at the peer and acknowledged,
or refused or given up, which raises ACCESS with its address. -/
def execRemoteWriteAcknowledgment (id : Nat) (o : AckOutcome) (s : State) : Outcome State Fault Refusal :=
  match s.rects.find? (fun p => p.2.remote.any (fun w => decide (w.id = id) && w.sent)) with
  | none => .next s
  | some (r, x) =>
    match x.remote.find? (fun w => decide (w.id = id)) with
    | none => .next s
    | some w =>
      if x.remote.any (fun v => decide (v.id < id) && overlaps (.peer w.pa) w.bytes.length (.peer v.pa) v.bytes.length) then
        .next s
      else
        let s1 := s.modRect r (fun x => { x with remote := x.remote.filter (fun v => decide (v.id ≠ id)) })
        match o with
        | .acked => .next { s1 with peer := setCells s1.peer w.pa w.bytes }
        | .refused | .gaveUp => if x.fabricBusy then .next s else .next (s1.raiseFabric r 0x05 w.va ((w.task.map (·.core)).getD 0))

/-! ## Walks (R269, R270, R405 to R407) -/

/-- R407: a die reserves 4 of its 256 walks for every partition with an enabled core on it; the rest
serve misses in arrival order. A walk runs when its place in that order is within the walks that its
partition can use. -/
def State.walkRuns (s : State) (w : Walk) : Bool :=
  let earlier := s.walks.filter (fun v => decide (v.die = w.die) && decide (v.id < w.id) && !v.faulted)
  let mine := earlier.filter (fun v => decide (v.part = w.part))
  let parts := ((List.range 256).filter (fun p => decide (dieOf p = w.die) && s.coreEnabled p)).map (partOf s.mode)
  let others := (parts.eraseDups.filter (fun p => decide (p ≠ w.part))).length
  decide (mine.length < 4) || decide (earlier.length + 4 * others < 256)

/-- R405, R406: what a walk of a tenant's tables finds for an access: a leaf that is well formed and
allows it, with its page. -/
def State.walkLeaf (s : State) (tag va : Nat) (write : Bool) : Option TlbEntry :=
  let t := Sparse.at [] s.pages tag
  [3, 2, 1, 0].findSome? (fun lv =>
    let e := Sparse.at 0#64 t (lv * 2 ^ 36 + va / 2 ^ (12 + 9 * lv))
    if e.getLsbD 0 && e.getLsbD 1 then
      let ps := leafPs e
      let okPs := if lv = 0 then decide (ps ≤ 4) else if lv = 1 then decide (5 ≤ ps ∧ ps ≤ 8)
        else if lv = 2 then decide (9 ≤ ps ∧ ps ≤ 11) else decide (ps = 11)
      let size := if lv = 3 then 2 ^ 39 else pageBytes ps
      if okPs && decide (leafPa e % (if lv = 3 then 2 ^ 34 else size) = 0) && decide (e.extractLsb' 52 12 = 0)
          && decide (e.extractLsb' 6 2 = 0) && leafAllows e write then
        let base := va / pageBytes ps * pageBytes ps
        let pa := leafPa e + (if lv = 3 then base % 2 ^ 39 else 0)
        some { cache := 0, tag := tag, base := base, ps := ps,
               leaf := (e &&& 0xFFF0000000000FFF#64) ||| BitVec.ofNat 64 pa }
      else none
    else none)

/-- PAGE_WALK_COMPLETE (R269, R406): the walk fills the caches of its requester, or stalls as a miss
that Gelesque decides (R270). -/
def execPageWalkComplete (id : Nat) (s : State) : Outcome State Fault Refusal :=
  match s.walks.find? (fun w => decide (w.id = id)) with
  | none => .next s
  | some w =>
    if w.faulted || !s.walkRuns w then .next s
    else match s.walkLeaf w.tag w.va w.write with
      | none => .next { s with walks := s.walks.map (fun v => if v.id = id then { v with faulted := true } else v) }
      | some e =>
        let cache := match w.who with
          | .task t => coreCache ((s.rect t.rect).phys t.core)
          | .port c _ _ | .mx c _ => coreCache ((s.rect c.rect).phys c.core)
          | .engine _ | .admission _ | .config _ => engineCache w.die
        .next { s with
          walks := s.walks.filter (fun v => decide (v.id ≠ id))
          tlb1 := tlbInsert 64 s.tlb1 { e with cache := cache }
          tlb2 := tlbInsert 4096 s.tlb2 { e with cache := w.die } }

/-- GELESQUE_FAULT_RESOLVE (R270): Gelesque refuses the access, or lets the requester walk again (the
mapping has been given or changed meanwhile); what it decides is the operand (log 14). A page under
migration is never refused (R412). -/
def execGelesqueFaultResolve (id : Nat) (refuse : Bool) (s : State) : Outcome State Fault Refusal :=
  match s.walks.find? (fun w => decide (w.id = id)) with
  | none => .next s
  | some w =>
    if !w.faulted then .next s
    else
      let rest := { s with walks := s.walks.filter (fun v => decide (v.id ≠ id)) }
      if refuse && (s.walkLeaf w.tag w.va w.write).isNone &&
          !(w.write && ((s.leafOf w.tag w.va).map (fun e => leafMig e.1)).getD false) then
        .next { rest with refused := rest.refused ++ [w] }
      else .next rest

/-- WEIGHT_STORE_REFRESH (R264): the windows that have started are counted; no value changes. -/
def execWeightStoreRefresh (d : Fin 4) (s : State) : Outcome State Fault Refusal :=
  let n := (s.die d.val).timebase.toNat / 500
  if (s.die d.val).announced ∧ (s.die d.val).refreshes < n then
    .next (s.modDie d.val (fun x => { x with refreshes := n }))
  else .next s

/-- SLICE_REPLAY_REISSUE (R458): a request that a slice refused during SLICE_DOMAIN is issued again at
its new home, and counted in the total of the partition. The request itself stays in order among its
task's accesses, which are performed at the home that holds when they are performed. -/
def execSliceReplayReissue (id : Nat) (s : State) : Outcome State Fault Refusal :=
  match s.accesses.find? (fun a => decide (a.id = id)) with
  | none => .next s
  | some a =>
    let x := s.rect a.task.rect
    if a.epoch < (s.part x.part).epoch then
      .next (({ s with accesses := s.accesses.map (fun b =>
          if b.id = id then { b with epoch := (s.part x.part).epoch } else b) } : State).modPart x.part
            (fun p => { p with replays := p.replays + 1 }))
    else .next s

/-! ## Steps of a task -/

/-- UNASSIGNED_OPCODE (R79, R73 step 1): ILLEGAL, before any guard, with the low 32 bits of the word. -/
def execUnassignedOpcode (word : Word) (s : State) : Outcome State Fault Refusal :=
  let s0 := s.modTask s.cur (fun t => { t with wait := none })
  .next (s0.finish (.trap 0x01 ((word.setWidth 32).setWidth 64)))

/-- DELEGATED_ENTRY (R466, R467): the handler task takes the head of the delegation queue; with TVEC 0
the cause goes to the partition supervisor. -/
def execDelegatedEntry (rect : Nat) (s : State) : Outcome State Fault Refusal :=
  let x := s.rect rect
  let b := x.body
  match b.dq with
  | [] => .next s
  | q :: rest =>
    let h := b.handler
    if !b.hasHandler || h.intrap || h.held || !x.phase.hears then .next s
    else if h.tvec = 0 then
      .next (s.setRect rect { x with body := { b with dq := rest, atSup := b.atSup ++ [q] } })
    else if ((b.core 0).vc 15).queue.any (fun w => decide (w.kind = .stat) && !w.word.getLsbD 63) then .next s
    else .next (s.setRect rect { x with body := { ({ b with dq := rest }).delegatedEntry q with serving := some q } })

/-- SLEEP_TIME_REACHED (R322): the time base has reached the time of a sleeping task. -/
def execSleepTimeReached (t : TaskRef) (s : State) : Outcome State Fault Refusal :=
  let x := s.task t
  let reached := fun (v : Word) => decide (v.toNat ≤ (s.timeOf t.coreRef).toNat)
  match x.wait with
  | some (.sleep v) => if reached v then .next (s.setTask t { x with wait := none }) else .next s
  | some (.sleepP v _ _) => if reached v then .next (s.setTask t { x with wait := none }) else .next s
  | _ => .next s

end Sys2Proof.Machine
end

