-- ==== Sys2Proof/Machine/Streams.lean ====
section
/-! DEFINITION. Pattern registers, ports and their commands (R52, R54, R56, R301 to R312), and the delivery of
claims (R306, R372). -/

namespace Sys2Proof.Machine

open Host (Outcome)

/-! ## Patterns (R52, Table 2.4) -/

def patBase (p : Pattern) : Nat := (p.setWidth 64).toNat
def patCount (p : Pattern) (k : Nat) : Nat := (p.extractLsb' (64 + 16 * k) 16).toNat
def patStride (p : Pattern) (k : Nat) : Int := (p.extractLsb' (128 + 32 * k) 32).toInt

/-- Number of addresses of a pattern. -/
def patTotal (p : Pattern) : Nat := patCount p 0 * patCount p 1 * patCount p 2 * patCount p 3

/-- Address `i` of a pattern, counted from 0 in the order of R52, modulo 2^64. -/
def patAddr (p : Pattern) (i : Nat) : Word :=
  let c0 := patCount p 0
  let c1 := patCount p 1
  let c2 := patCount p 2
  BitVec.ofInt 64 ((patBase p : Int) + ((i % c0 : Nat) : Int) * patStride p 0
    + ((i / c0 % c1 : Nat) : Int) * patStride p 1 + ((i / (c0 * c1) % c2 : Nat) : Int) * patStride p 2
    + ((i / (c0 * c1 * c2) : Nat) : Int) * patStride p 3)

/-- Replaces `w` bits from `lo` on. -/
def patSet (p : Pattern) (lo w : Nat) (v : Nat) : Pattern :=
  BitVec.ofNat 256 (p.toNat - p.toNat / 2 ^ lo % 2 ^ w * 2 ^ lo + v % 2 ^ w * 2 ^ lo)

def patRaise (p : Pattern) (b : Word) : Pattern := patSet p 0 64 ((p.setWidth 64) + b).toNat

/-- R311: the field that QSET names. -/
def patField (f : QField) (p : Pattern) (v : Word) : Pattern :=
  match f with
  | .base => patSet p 0 64 v.toNat
  | .c0 => patSet p 64 16 v.toNat
  | .c1 => patSet p 80 16 v.toNat
  | .c2 => patSet p 96 16 v.toNat
  | .c3 => patSet p 112 16 v.toNat
  | .d0 => patSet p 128 32 v.toNat
  | .d1 => patSet p 160 32 v.toNat
  | .d2 => patSet p 192 32 v.toNat
  | .d3 => patSet p 224 32 v.toNat

def modMyCore (s : State) (f : Core → Core) : State := s.modCore s.cur.coreRef f

/-- QSET (R311). -/
def execQset (g : Guard) (f : QField) (q : Fin 16) (a : Src) (s : State) : Outcome State Fault Refusal :=
  issue g [srcNeed a] (fun s =>
    .go (modMyCore s (fun c => c.setPattern q.val (patField f (c.pattern q.val) (s.me.reg a.r))))) s

/-- QADV (R311). -/
def execQadv (g : Guard) (q : Fin 16) (a : Src) (s : State) : Outcome State Fault Refusal :=
  issue g [srcNeed a] (fun s =>
    .go (modMyCore s (fun c => c.setPattern q.val (patRaise (c.pattern q.val) (s.me.reg a.r))))) s

/-- QLD (R311): 32 aligned bytes, laid out as Table 2.4. -/
def execQld (g : Guard) (q : Fin 16) (a : Src) (s : State) : Outcome State Fault Refusal :=
  issue g [srcNeed a] (fun s =>
    let ea := s.me.reg a.r
    taskAccess s ea 32 32 false .keep (fun s l p =>
      directRead s ea l 32 p (fun s bs =>
        .go (modMyCore s (fun c => c.setPattern q.val (BitVec.ofNat 256 (joinBytes bs))))))) s

/-! ## Issuing port commands (R302) -/

/-- A command joins a feed port: CONFIG if the port is unbound, a wait if the queue is full. -/
def feedFlow (s : State) (f : Fin 16) (cmd : StreamCmd) : Flow :=
  let p := s.myCore.feed f.val
  if p.bind.isNone then .trap 0x10 (BitVec.ofNat 64 f.val)
  else if 4 ≤ p.waiting then .wait s (.portQueue false f.val)
  else .go (modMyCore s (fun c => c.setFeed f.val { p with cmds := p.cmds ++ [cmd], issued := p.issued + 1 }))

/-- A command joins a sink port. -/
def sinkFlow (s : State) (k : Fin 16) (cmd : StreamCmd) (f : Task → Task) : Flow :=
  let p := s.myCore.sink k.val
  if p.bind.isNone then .trap 0x10 (BitVec.ofNat 64 k.val)
  else if 4 ≤ p.waiting then .wait s (.portQueue true k.val)
  else .go ((modMyCore s (fun c => c.setSink k.val { p with cmds := p.cmds ++ [cmd], issued := p.issued + 1 })).modTask
    s.cur f)

/-- FEED (R303): the pattern, its base raised by s[b], is captured at issue. -/
def execFeed (g : Guard) (f q : Fin 16) (b : Src) (tag : Fin 16) (pkt eok eor eos sx : Bool) (esz : EltSize)
    (s : State) : Outcome State Fault Refusal :=
  issue g [srcNeed b] (fun s => feedFlow s f
    { slot := s.cur.slot, op := .feed (BitVec.ofNat 4 tag.val) pkt eok eor eos sx esz,
      pat := patRaise (s.myCore.pattern q.val) (s.me.reg b.r) }) s

/-- SINK (R304). -/
def execSink (g : Guard) (k q : Fin 16) (b : Src) (pkt : Bool) (esz : EltSize) (s : State) :
    Outcome State Fault Refusal :=
  issue g [srcNeed b] (fun s => sinkFlow s k
    { slot := s.cur.slot, op := .sink pkt esz, pat := patRaise (s.myCore.pattern q.val) (s.me.reg b.r) } id) s

/-- INJ (R305). -/
def execInj (g : Guard) (f : Fin 16) (b : Src) (tag : Fin 16) (s : State) : Outcome State Fault Refusal :=
  issue g [srcNeed b] (fun s => feedFlow s f
    { slot := s.cur.slot, op := .word ⟨.data, BitVec.ofNat 4 tag.val, (s.me.reg b.r).setWidth 32⟩, pat := 0 }) s

/-- TOK (R305). -/
def execTok (g : Guard) (kind : TokKind) (f : Fin 16) (b : Src) (tag : Fin 16) (s : State) :
    Outcome State Fault Refusal :=
  issue g [srcNeed b] (fun s => feedFlow s f
    { slot := s.cur.slot, op := .word ⟨Kind.ofCode kind.code, BitVec.ofNat 4 tag.val, (s.me.reg b.r).setWidth 32⟩,
      pat := 0 }) s

/-- TAKE (R306): the claim joins the port's commands and the register becomes empty. A TAKE into s0
takes its word too and discards it (R42). -/
def execTake (g : Guard) (d : Reg) (k : Fin 16) (s : State) : Outcome State Fault Refusal :=
  issue g [.dst d] (fun s => sinkFlow s k { slot := s.cur.slot, op := .take d.val, pat := 0 }
    (fun t => t.markEmpty d (.take k.val))) s

/-- The word of PORTQ (R307). -/
def portWord (active : Bool) (queued held position : Nat) : Word :=
  BitVec.ofNat 64 ((if active then 2 ^ 56 else 0) + queued % 8 * 2 ^ 53 + held % 32 * 2 ^ 48 + position % 2 ^ 48)

/-- PORTQ (R307). -/
def execPortq (g : Guard) (d : Reg) (port : Fin 16) (sink : Bool) (s : State) : Outcome State Fault Refusal :=
  issue g [.dst d] (fun s =>
    let c := s.myCore
    let unbound := if sink then (c.sink port.val).bind.isNone else (c.feed port.val).bind.isNone
    if unbound then .trap 0x10 (BitVec.ofNat 64 port.val)
    else
      let v := if sink then
          let p := c.sink port.val
          portWord p.active p.waiting p.queue.length p.position
        else
          let p := c.feed port.val
          portWord p.active p.waiting 0 p.position
      .go (s.modTask s.cur (fun t => t.write d v))) s

/-- How many commands of a port must finish before those of a slot have: the place of the slot's last
command. -/
def lastOwn (finished slot : Nat) (cmds : List StreamCmd) : Nat :=
  let idx := (List.range cmds.length).filter (fun i => decide ((cmds[i]?.map (·.slot)) = some slot))
  match idx.getLast? with
  | none => 0
  | some i => finished + i + 1

/-- SBAR (R308). -/
def execSbar (g : Guard) (b : Src) (s : State) : Outcome State Fault Refusal :=
  issue g [srcNeed b] (fun s =>
    let m := s.me.reg b.r
    let c := s.myCore
    match (List.range 32).find? (fun i => m.getLsbD i &&
        (if i < 16 then (c.feed i).bind.isNone else (c.sink (i - 16)).bind.isNone)) with
    | some i => .trap 0x10 (BitVec.ofNat 64 i)
    | none =>
      let feeds := ((List.range 16).filter (fun i => m.getLsbD i)).map (fun i =>
        (i, lastOwn (c.feed i).finished s.cur.slot (c.feed i).cmds))
      let sinks := ((List.range 16).filter (fun i => m.getLsbD (16 + i))).map (fun i =>
        (i, lastOwn (c.sink i).finished s.cur.slot (c.sink i).cmds))
      let w := Wait.ports feeds sinks
      if s.waitOver s.cur w then .go s else .wait s w) s

/-! ## Accumulators (R56, R309) -/

/-- The site that an accumulator is bound to. -/
def Core.acSite (c : Core) (ac : Nat) : Option Nat :=
  (c.sites.find? (fun p => match p.2.cfg with
    | .ce k => decide (k.acn.map (·.val) = some ac)
    | _ => false)).map (·.1)

/-- The running value that ACVn reads; an unbound accumulator reads as zero (R56). -/
def Core.acValue (c : Core) (ac : Nat) : W32 :=
  match c.acSite ac with
  | none => 0
  | some n => (c.site n).st.v

/-- R56: the resets that wait for an accumulator take effect in issue order. -/
def Core.applyResets (c : Core) (ac : Nat) : Core :=
  match c.acSite ac with
  | none => { c with acReset := c.acReset.filter (fun p => decide (p.1 ≠ ac)) }
  | some n =>
    match (c.acReset.filter (fun p => decide (p.1 = ac))).getLast? with
    | none => c
    | some p =>
      let x := c.site n
      { (c.setSite n { x with st := { x.st with v := p.2 } }) with
        acReset := c.acReset.filter (fun p => decide (p.1 ≠ ac)) }

/-- ACCRST (R309): at once between streams, else after the next EOS of the bound element (R56). -/
def execAccrst (g : Guard) (ac : Fin 8) (b : Src) (s : State) : Outcome State Fault Refusal :=
  issue g [srcNeed b] (fun s =>
    let v := (s.me.reg b.r).setWidth 32
    .go (modMyCore s (fun c =>
      let c' := { c with acReset := c.acReset ++ [(ac.val, v)] }
      match c.acSite ac.val with
      | none => c
      | some n =>
        let x := c.site n
        if x.st.atStart && x.queues.all (·.isEmpty) then c'.applyResets ac.val else c'))) s

/-! ## Ports at work -/

/-- An agent that has recorded for the cut in progress, or any agent when none is: the segment that its
writes belong to (R474). -/
def Rect.segOf (x : Rect) (recorded : Bool) : Nat :=
  match x.prog with
  | none => x.started
  | some _ => if recorded then x.started else x.started - 1

def Rect.sinkRecorded (x : Rect) (core n : Nat) : Bool :=
  match x.prog with | none => true | some p => !p.sinks.contains (core, n)
def Rect.siteRecorded (x : Rect) (core n : Nat) : Bool :=
  match x.prog with | none => true | some p => !p.elems.contains (core, n)

/-- What an agent of a core finds when it reaches an address after issue (R302). -/
inductive AgentReach
  | ok (s : State) (l : Loc) (pol : Policy)
  | wait (s : State)
  | fault (s : State) (c : Nat)

/-- The checks of R292 for an agent of a core, made at its own time: a fault is fabric. -/
def State.agentReach (s : State) (who : Requester) (c : CoreRef) (va : Word) (n align : Nat) (write : Bool) : AgentReach :=
  let x := s.rect c.rect
  let p := x.phys c.core
  let die := dieOf p
  if va.toNat % align ≠ 0 then .fault s 0x04
  else if 2 ^ 48 ≤ va.toNat then .fault s 0x05
  else match s.reach c.rect who (coreCache p) die va.toNat n write false with
    | .access => .fault (s.forgetRefusal who) 0x05
    | .miss => .wait (s.startWalk who die x.part x.tag va.toNat write).1
    | .at_ l bp =>
      if s.tagPass x.tag l write then
        .ok ((s.touchTlb (coreCache p) die x.tag va.toNat).monitored die l) l (if bp then .bypass else .keep)
      else .fault s 0x05

def eltBytes : EltSize → Nat
  | .b => 1
  | .h => 2
  | .w => 4

/-- PORT_COMMAND_START (R302): the first queued command of an idle port starts; an empty pattern ends at
once, after the EOS of a FEED that asks for one (R303). -/
def execPortCommandStart (c : CoreRef) (sink : Bool) (n : Fin 16) (s : State) : Outcome State Fault Refusal :=
  if !(s.rect c.rect).phase.issues then .next s
  else if sink then
    let p := (s.core c).sink n.val
    match p.cmds with
    | [] => .next s
    | cmd :: rest =>
      if p.active then .next s
      else
        let empty := match cmd.op with | .sink _ _ => decide (patTotal cmd.pat = 0) | _ => false
        .next (s.modCore c (fun k => k.setSink n.val
          (if empty then { p with cmds := rest } else { p with active := true, at_ := 0 })))
  else
    let p := (s.core c).feed n.val
    match p.cmds with
    | [] => .next s
    | cmd :: rest =>
      if p.active then .next s
      else
        let p' := match cmd.op with
          | .feed _ _ _ _ eos _ _ =>
            if patTotal cmd.pat = 0 then
              (if eos then { p with active := true, at_ := 0, stage := [⟨.eos, 0, 0⟩] } else { p with cmds := rest })
            else { p with active := true, at_ := 0 }
          | .word w => { p with active := true, at_ := 0, stage := [w] }
          | _ => { p with cmds := rest }
        .next (s.modCore c (fun k => k.setFeed n.val p'))

/-- Words that element `i` of a FEED delivers, with its value (R303). -/
def feedWords (tag : BitVec 4) (pkt eok eor eos : Bool) (pat : Pattern) (i : Nat) (v : W32) : List FWord :=
  let c0 := patCount pat 0
  let c01 := c0 * patCount pat 1
  [⟨if pkt && decide (i % c0 = 0) then .hdr else .data, tag, v⟩]
    ++ (if eor && decide ((i + 1) % c0 = 0) then [⟨.eor, tag, 0⟩] else [])
    ++ (if eok && decide ((i + 1) % c01 = 0) then [⟨.eok, tag, 0⟩] else [])
    ++ (if eos && decide (i + 1 = patTotal pat) then [⟨.eos, tag, 0⟩] else [])

/-- The word enters the input queue of a site if it has a free slot (R161: four words). -/
def Core.enqueueAt (c : Core) (site q : Nat) (w : FWord) : Option Core :=
  let x := c.site site
  let l := x.queues.getD q []
  if l.length < 4 then some (c.setSite site { x with queues := x.queues.set q (l ++ [w]) }) else none

/-- A feed port delivers the head of its stage (R303): the position counts it, MARK apart. -/
def FeedPort.delivered (p : FeedPort) : FeedPort :=
  let rest := p.stage.drop 1
  let p1 := { p with stage := rest, position := p.position + 1, sinceMark := p.sinceMark + 1 }
  let total := match p.cmds.head? with
    | some cmd => (match cmd.op with | .feed _ _ _ _ _ _ _ => patTotal cmd.pat | _ => 0)
    | none => 0
  if rest.isEmpty && decide (total ≤ p.at_) then { p1 with active := false, cmds := p.cmds.drop 1, at_ := 0 } else p1

/-- SNAPINT (R471): the port has delivered the interval and no cut is in progress that it could mark. -/
def State.markWanted (s : State) (r : Nat) (p : FeedPort) : Bool :=
  let x := s.rect r
  decide (x.body.snapint ≠ 0) && decide (x.body.snapint.toNat ≤ p.sinceMark) && x.prog.isNone

/-- FEED_WORD_DELIVER (R303): a MARK that is due first (R472); else the next word, fetched at its address
when it is due. Words fetched and not delivered are not part of the port's position (R498). -/
def execFeedWordDeliver (c : CoreRef) (n : Fin 16) (s : State) : Outcome State Fault Refusal :=
  let x := s.rect c.rect
  let k := s.core c
  let p := k.feed n.val
  if !x.phase.issues then .next s else
  match p.bind with
  | none => .next s
  | some (site, q) =>
    if p.markDue then
      match k.enqueueAt site q ⟨.mark, 0, 0⟩ with
      | none => .next s
      | some k' => .next (s.setCore c (k'.setFeed n.val { p with markDue := false, sinceMark := 0 }))
    else if x.reload.isSome || !p.active || p.fault || s.markWanted c.rect p then .next s
    else match p.stage with
      | w :: _ =>
        (match k.enqueueAt site q w with
         | none => .next s
         | some k' => .next (s.setCore c (k'.setFeed n.val p.delivered)))
      | [] =>
        match p.cmds with
        | [] => .next s
        | cmd :: _ =>
          match cmd.op with
          | .feed tag pkt eok eor eos sx esz =>
            let va := patAddr cmd.pat p.at_
            let b := eltBytes esz
            (match s.agentReach (.port c false n.val) c va b b false with
             | .wait s' => .next s'
             | .fault s' cause =>
               if x.fabricBusy then .next s
               else .next ((s'.modCore c (fun k => k.setFeed n.val { p with fault := true })).elementFault c.rect cause va c.core)
             | .ok s' l pol =>
               let (s2, bs) := s'.readLoc c.rect l b pol
               let v := (extendTo b sx (joinBytes bs)).setWidth 32
               let p' := { p with stage := feedWords tag pkt eok eor eos cmd.pat p.at_ v, at_ := p.at_ + 1 }
               let k2 := s2.core c
               match k2.enqueueAt site q (p'.stage.headD ⟨.data, 0, 0⟩) with
               | none => .next s
               | some k' => .next (s2.setCore c (k'.setFeed n.val p'.delivered)))
          | _ => .next s

/-- A sink port ends its executing command. -/
def SinkPort.finish (p : SinkPort) : SinkPort := { p with active := false, cmds := p.cmds.drop 1, at_ := 0 }

/-- R472, R49: a sink port that MARK has not reached keeps, for its record, the words that commands issued
after the start of the cut take, since the replay issues those commands again. The record made at the
start holds the number of commands issued by then. -/
def Rect.tookWord (x : Rect) (core n : Nat) (p : SinkPort) (w : FWord) : Rect :=
  match x.prog with
  | none => x
  | some g =>
    let r := (g.body.core core).sink n
    if g.sinks.contains (core, n) ∧ r.issued ≤ p.finished then
      { x with prog := some { g with body := g.body.modCore core (fun c => c.setSink n { r with queue := r.queue ++ [w] }) } }
    else x

/-- SINK_WORD_STORE (R304): the word at the head of the port's queue meets the executing SINK. -/
def execSinkWordStore (c : CoreRef) (n : Fin 16) (s : State) : Outcome State Fault Refusal :=
  let x := s.rect c.rect
  let p := (s.core c).sink n.val
  let note := fun (s : State) (w : FWord) => s.modRect c.rect (fun x => x.tookWord c.core n.val p w)
  if !(x.phase.issues || decide (x.phase = .drain)) || p.fault || !p.active then .next s else
  match p.cmds, p.queue with
  | cmd :: _, w :: rest =>
    (match cmd.op with
     | .sink pkt esz =>
       let pass := s.modCore c (fun k => k.setSink n.val { p with queue := rest })
       if w.kind = .eos then .next ((note s w).modCore c (fun k => k.setSink n.val ({ p with queue := rest } : SinkPort).finish))
       else if w.kind = .data || (w.kind = .hdr && pkt) then
         let va := patAddr cmd.pat p.at_
         let b := eltBytes esz
         match s.agentReach (.port c true n.val) c va b b true with
         | .wait s' => .next s'
         | .fault s' cause =>
           if x.fabricBusy then .next s
           else .next ((s'.modCore c (fun k => k.setSink n.val { p with fault := true })).elementFault c.rect cause va c.core)
         | .ok s' l pol =>
           let seg := x.segOf (x.sinkRecorded c.core n.val)
           let bs := splitBytes b w.data.toNat
           let p1 := { p with queue := rest, at_ := p.at_ + 1 }
           let p2 := if p1.at_ = patTotal cmd.pat then p1.finish else p1
           match l with
           | .peer pa =>
             if 4096 ≤ x.remote.length then .next s
             else .next (((note s' w).modCore c (fun k => k.setSink n.val p2)).bufferRemote c.rect none pa va bs seg (seg + 1))
           | _ =>
             if !x.roomAt l then .next s
             else .next (((note s' w).writeLoc c.rect seg l bs pol).modCore c (fun k => k.setSink n.val p2))
       else .next (note pass w)
     | _ => .next s)
  | _, _ => .next s

/-- SNAPINT_COUNT_REACHED (R471): a feed port has delivered the interval since its last MARK. -/
def execSnapintCountReached (c : CoreRef) (n : Fin 16) (s : State) : Outcome State Fault Refusal :=
  if s.markWanted c.rect ((s.core c).feed n.val) then
    .next (s.modRect c.rect (fun x => x.wantCut (x.started + 1)))
  else .next s

/-! ## Claims -/

/-- R472, R49: a TAKE that was pending at the start of a cut whose MARK has not reached the port has its word
in the record of its task too; a later one gives its word back to the record of the port. -/
def Rect.tookTake (x : Rect) (t : TaskRef) (reg port : Nat) (p : SinkPort) (w : FWord) : Rect :=
  match x.prog with
  | none => x
  | some g =>
    if g.sinks.contains (t.core, port) ∧ p.finished < ((g.body.core t.core).sink port).issued then
      { x with prog := some { g with body := g.body.modCore t.core (fun c => c.modTask t.slot
          (fun y => y.write (Fin.ofNat 64 reg) w.toWord)) } }
    else x.tookWord t.core port p w

/-- R306: the executing TAKE of a sink port takes the word at the head of the queue. -/
def State.deliverTake (s : State) (t : TaskRef) (reg port : Nat) : State :=
  let p := (s.core t.coreRef).sink port
  match p.cmds, p.queue with
  | cmd :: _, w :: rest =>
    if p.active ∧ cmd.slot = t.slot ∧ cmd.op = .take reg then
      (s.modRect t.rect (fun x => x.tookTake t reg port p w)).modCore t.coreRef (fun c =>
        (c.setSink port ({ p with queue := rest } : SinkPort).finish).modTask t.slot
          (fun x => x.write (Fin.ofNat 64 reg) w.toWord))
    else s
  | _, _ => s

/-- R372: the first claim on a channel takes the word at its head. -/
def State.deliverWaitv (s : State) (t : TaskRef) (reg vc : Nat) : State :=
  let v := (s.core t.coreRef).vc vc
  match v.claims, v.queue with
  | cl :: cls, w :: rest =>
    if cl = (t.slot, reg) then
      s.modCore t.coreRef (fun c =>
        (c.setVc vc { v with claims := cls, queue := rest }).modTask t.slot (fun x => x.write (Fin.ofNat 64 reg) w.word))
    else s
  | _, _ => s

/-- PRODUCER_DELIVER (R44): the pending producer of a register delivers: a value that stands ready (the
flags of an AMO.FADD are set with it, R297), the word of a TAKE, the word of a WAITV. A claim into s0
takes its word and discards it (R42). -/
def execProducerDeliver (t : TaskRef) (reg : Nat) (s : State) : Outcome State Fault Refusal :=
  if !(s.rect t.rect).phase.hears then .next s
  else match Sparse.at .full (s.task t).pres reg with
    | .empty (.value v fl) => .next (s.modTask t (fun x => (x.flags (fl.getD 0)).write (Fin.ofNat 64 reg) v))
    | .empty (.take port) => .next (s.deliverTake t reg port)
    | .empty (.waitv vc) => .next (s.deliverWaitv t reg vc)
    | _ =>
      if reg = 0 then
        match (List.range 16).find? (fun n => match ((s.core t.coreRef).sink n).cmds.head? with
            | some cmd => decide (cmd.slot = t.slot) && decide (cmd.op = .take 0) | none => false) with
        | some n => .next (s.deliverTake t 0 n)
        | none =>
          match (List.range 16).find? (fun n => decide (((s.core t.coreRef).vc n).claims.head? = some (t.slot, 0))) with
          | some n => .next (s.deliverWaitv t 0 n)
          | none => .next s
      else .next s

end Sys2Proof.Machine
end

