-- ==== Sys2Proof/Machine/Loader.lean ====
section
/-! DEFINITION. Configuration images (03 R84 to R97): the fields of frames, the configuration that
frames give a core, the graph of the configured elements (R92, R184), and the checks of the loader
(Table 3.9). -/

namespace Sys2Proof.Machine

/-- A configuration frame (R84). -/
abbrev Frame := BitVec 256

/-- Bits [hi:lo] of a frame. -/
def fBits (f : Frame) (hi lo : Nat) : Nat := bitsOf f.toNat hi lo

/-! ## Header fields (Table 3.8, Table 3.11) -/

def frameKind (f : Frame) : Nat := fBits f 255 252
def frameCx (f : Frame) : Nat := fBits f 247 240
def frameCy (f : Frame) : Nat := fBits f 239 232
def frameCol (f : Frame) : Nat := fBits f 231 228
def frameRow (f : Frame) : Nat := fBits f 227 224
def frameSite (f : Frame) : Nat := 16 * frameRow f + frameCol f
/-- R85: the frame addresses every core. -/
def frameAll (f : Frame) : Bool := frameCx f == 255 && frameCy f == 255
/-- Logical index of the core that a frame addresses alone. -/
def frameCore (f : Frame) : Nat := 16 * frameCy f + frameCx f
/-- R85: what duplicates are judged by: the site, or the direction and number of a port. -/
def frameKey (f : Frame) : Nat := if frameKind f = 6 then fBits f 223 219 else frameSite f

def imageW (f : Frame) : Nat := fBits f 223 216
def imageH (f : Frame) : Nat := fBits f 215 208
def imageCount (f : Frame) : Nat := fBits f 207 176
def imageTask (f : Frame) (k : Nat) : Bool := bitOf f.toNat (160 + k)
def imageEntry (f : Frame) (k : Nat) : Nat := fBits f (64 + 12 * k + 11) (64 + 12 * k)
def imageNeeds (f : Frame) (k : Nat) : Bool := bitOf f.toNat (48 + k)

/-! ## Bodies (Tables 3.12 to 3.16, R90, R95) -/

/-- R90: a dynamic destination. -/
def destOf (v : Nat) : Dest :=
  { core := 16 * bitsOf v 12 9 + bitsOf v 16 13, site := 16 * bitsOf v 4 2 + bitsOf v 8 5, queue := bitsOf v 1 0 }

def parseCe (f : Frame) : CeCfg :=
  { opc := fBits f 223 217, lane := fBits f 216 215, ien := BitVec.ofNat 4 (fBits f 214 211),
    rm := fBits f 210 208, fd := BitVec.ofNat 16 (fBits f 207 192), cond := fBits f 191 188,
    tag := BitVec.ofNat 4 (fBits f 187 184), k0 := BitVec.ofNat 32 (fBits f 183 152),
    k1 := BitVec.ofNat 32 (fBits f 151 120),
    xdest := if bitOf f.toNat 119 then some (destOf (fBits f 117 101)) else none,
    ydest := if bitOf f.toNat 118 then some (destOf (fBits f 100 84)) else none,
    acn := if bitOf f.toNat 83 then some (Fin.ofNat 8 (fBits f 82 80)) else none,
    opx := BitVec.ofNat 80 (fBits f 79 0) }

def parseMe (f : Frame) : MeCfg :=
  { mode := fBits f 223 221, rmwop := fBits f 220 218, banks := BitVec.ofNat 4 (fBits f 217 214),
    ew := fBits f 213 212, fd := BitVec.ofNat 16 (fBits f 211 196), doneEn := bitOf f.toNat 195,
    doneSc := fBits f 194 192, base := fBits f 190 176, lenm1 := fBits f 174 160,
    modex := BitVec.ofNat 160 (fBits f 159 0) }

def parseAg (f : Frame) : AgCfg :=
  { mode := fBits f 223 222, tgtsu := bitOf f.toNat 221, tgt := fBits f 220 217, esz := fBits f 216 215,
    base := fBits f 214 167, cnt := BitVec.ofNat 64 (fBits f 166 103), str := BitVec.ofNat 96 (fBits f 102 7),
    endt := BitVec.ofNat 4 (fBits f 6 3) }

/-- Selection of switch output `j`. -/
def frameSel (f : Frame) (j : Nat) : Nat := fBits f (84 + 5 * j + 4) (84 + 5 * j)

/-- Edges are numbered 0 N, 1 E, 2 S, 3 W; the per-edge fields of Table 3.15 stand W to N from the top. -/
def parseSwitch (f : Frame) : SwitchCfg :=
  { sel := (List.range 28).filterMap (fun j => if frameSel f j = 0 then none else some (j, frameSel f j)),
    dyn := BitVec.ofNat 4 (fBits f 83 80), cut := BitVec.ofNat 28 (fBits f 79 52),
    bnd := BitVec.ofNat 4 (fBits f 51 48), bscope := BitVec.ofNat 12 (fBits f 47 36),
    seamEn := BitVec.ofNat 4 (fBits f 35 32), seamSlot := BitVec.ofNat 24 (fBits f 31 8) }

/-- The scope of the boundary mark on an edge, if it has one. -/
def SwitchCfg.mark (c : SwitchCfg) (e : Nat) : Option Nat :=
  if c.bnd.getLsbD e then some (bitsOf c.bscope.toNat (3 * e + 2) (3 * e)) else Option.none
/-- The seam slot that an edge claims, if it claims one. -/
def SwitchCfg.seam (c : SwitchCfg) (e : Nat) : Option Nat :=
  if c.seamEn.getLsbD e then some (bitsOf c.seamSlot.toNat (6 * e + 5) (6 * e)) else Option.none

/-- Words that a text frame loads (R95). -/
def frameText (f : Frame) : List (Nat × Word) :=
  (List.range (fBits f 211 210)).map (fun i => (fBits f 223 212 + i, BitVec.ofNat 64 (fBits f (64 * i + 63) (64 * i))))

/-- The element configuration of a frame of kind 1 to 3. -/
def frameElem (f : Frame) : ElemCfg :=
  match frameKind f with
  | 1 => .ce (parseCe f)
  | 2 => .me (parseMe f)
  | 3 => .ag (parseAg f)
  | _ => .empty

/-- Scope clipping of R290 at load: a DONESC or BND SCOPE wider than SCOPEMAX is clipped to it. -/
def clipElem (mx : Nat) : ElemCfg → ElemCfg
  | .me c => .me { c with doneSc := min c.doneSc mx }
  | .ce c =>
    if c.opc = 0x4A then .ce { c with opx := BitVec.ofNat 80 (c.opx.toNat - c.scope * 2 ^ 36 + min c.scope mx * 2 ^ 36) }
    else .ce c
  | e => e

/-- A frame applied to a core: the element, switch, matrix slot, port binding or text it names. -/
def applyFrame (mx : Nat) (c : Core) (f : Frame) : Core :=
  match frameKind f with
  | 1 | 2 | 3 =>
    let e := clipElem mx (frameElem f)
    c.setSite (frameSite f) { Site.empty with cfg := e, st := initElem e }
  | 4 => { c with switches := Sparse.put (parseSwitch f) c.switches (frameSite f) }
  | 5 =>
    let k := fBits f 223 222
    { c with engine := c.engine.setSlot k { c.engine.slot k with
        rowid := fBits f 221 214, colid := fBits f 213 206, fda := BitVec.ofNat 16 (fBits f 205 190),
        fdb := BitVec.ofNat 16 (fBits f 189 174), blk := fBits f 173 172 } }
  | 6 =>
    let n := fBits f 222 219
    let b := some (frameSite f, fBits f 218 217)
    if bitOf f.toNat 223 then c.setSink n { c.sink n with bind := b } else c.setFeed n { c.feed n with bind := b }
  | 7 => { c with istore := (frameText f).foldl (fun m p => Sparse.put p.2 m p.1) c.istore }
  | _ => c

/-- R85: the frames that hold for a logical core: broadcast frames that no single-core frame overrides,
then single-core frames. -/
def framesFor (fs : List Frame) (k : Nat) : List Frame :=
  let own := fs.filter (fun f => !frameAll f && frameCore f == k)
  let all := fs.filter (fun f => frameAll f &&
    (frameKind f == 7 || !own.any (fun g => frameKind g == frameKind f && frameKey g == frameKey f)))
  all ++ own

/-- Frames applied to the cores of a rectangle. -/
def applyFrames (mx w h : Nat) (fs : List Frame) (cores : Sparse Core) : Sparse Core :=
  let ks := (List.range h).flatMap (fun y => (List.range w).map (fun x => 16 * y + x))
  ks.foldl (fun m k => Sparse.put ((framesFor fs k).foldl (applyFrame mx) (Sparse.at Core.launch m k)) m k) cores

/-! ## The graph (R92, R184) -/

/-- What a node adds to the capacity of a cycle, less the words that a PRIME there emits (R184). -/
def nodeRoom (cores : Sparse Core) (n : Nat) : Nat :=
  match nodeCfg cores n with
  | .me c => if c.mode = 3 then 4 + (c.lenm1 + 1) / 4 else 4
  | .ce c => if c.opc = 0x46 then 4 - c.n else 4
  | _ => 4

/-- Least room of a path from `v` to each node, by relaxing the connections. -/
def relaxRoom (cores : Sparse Core) (es : List Channel) : Nat → Sparse Nat → Sparse Nat
  | 0, d => d
  | fuel + 1, d =>
    relaxRoom cores es fuel (es.foldl (fun d e =>
      match Sparse.look d e.src with
      | none => d
      | some x =>
        let y := x + nodeRoom cores e.dst
        match Sparse.look d e.dst with
        | none => Sparse.put y d e.dst
        | some z => if y < z then Sparse.put y d e.dst else d) d)

/-- Room of the narrowest cycle through a node. -/
def cycleRoom (cores : Sparse Core) (es : List Channel) (n v : Nat) : Nat :=
  let d0 := (es.filter (fun e => e.src = v)).foldl (fun (d : Sparse Nat) e => Sparse.put (nodeRoom cores e.dst) d e.dst) []
  Sparse.at 0 (relaxRoom cores es n d0) v

/-- LIMIT elements that guard the cycles of a node (R184). -/
def guardsOf (cores : Sparse Core) (es : List Channel) (ns : List Nat) (v : Nat) : List Nat :=
  ns.filter (fun l =>
    match nodeCfg cores l with
    | .ce c =>
      decide (c.opc = 0x47) &&
        (let r := reachSet es ns.length ((es.filter (fun e => e.src = l ∧ e.out = 0)).map Channel.dst).eraseDups
         r.contains v && es.any (fun e => decide (e.dst = l) && decide (e.queue = 1) && r.contains e.src))
    | _ => false)

/-- R184: the elements on a cycle that no LIMIT guards, or that a guarding LIMIT can fill. -/
def badCycleNodes (cores : Sparse Core) (w h : Nat) : List Nat :=
  let es := graphEdges cores w h
  let ns := graphNodes cores
  ns.filter (fun v =>
    (reachAfter es ns.length v).contains v &&
      (let gs := guardsOf cores es ns v
       let room := cycleRoom cores es ns.length v
       gs.isEmpty || gs.any (fun l => match nodeCfg cores l with
         | .ce c => decide (room ≤ c.k0.toNat)
         | _ => false)))

/-- The widest scope of the boundary marks on a route, if it crosses one (R92, R286). -/
def routeMark (cores : Sparse Core) (hops : List HopAt) : Option Nat :=
  hops.foldl (fun m p =>
    if p.out < 24 then
      match ((Sparse.at Core.launch cores p.core).switch p.site).mark (p.out / 6), m with
      | some s, some t => some (max s t)
      | some s, none => some s
      | none, m => m
    else m) none

def bndScope (cores : Sparse Core) (n : Nat) : Option Nat :=
  match nodeCfg cores n with
  | .ce c => if c.opc = 0x4A then some c.scope else none
  | _ => none

/-- R187, R286: elements whose outgoing channel lacks a BND of the right scope, and BND elements whose
scope is not the smallest that contains the labels on both sides. Every element has the label RECT. -/
def badLabels (cores : Sparse Core) (w h : Nat) : List Nat :=
  let es := channels cores w h
  let lacking := (es.filter (fun e =>
    match routeMark cores e.hops with
    | none => false
    | some s => decide (s ≠ 1) && decide (bndScope cores e.src ≠ some (max 1 s)) && decide (bndScope cores e.dst ≠ some (max 1 s)))).map
      Channel.src
  let wrong := (graphNodes cores).filter (fun n =>
    match bndScope cores n with
    | none => false
    | some s => decide (s ≠ (es.filter (fun e => e.src = n ∨ e.dst = n)).foldl
        (fun m e => max m ((routeMark cores e.hops).getD 1)) 1))
  lacking ++ wrong

/-! ## Checks of one frame (Table 3.9, Table 3.10, R89 to R97, R167 to R192) -/

/-- Table 3.10. -/
def siteAllowed (kind col row : Nat) : Bool :=
  decide (row < 8) && (match kind with
    | 1 => [0, 1, 2, 3, 8, 9, 10, 11].contains col
    | 2 => [4, 5, 12, 13].contains col
    | 3 => [6, 14].contains col
    | 4 => true
    | 5 => decide (col = 7) && decide (row = 0)
    | 6 => [0, 1, 2, 3, 4, 5, 8, 9, 10, 11, 12, 13].contains col
    | _ => decide (col = 0) && decide (row = 0))

/-- What a tenant's SCOPEMAX and SCOPESTRICT allow a declared scope (R290). -/
def scopeAllowed (mx : Nat) (strict : Bool) (sc : Nat) : Bool := decide (sc ≠ 7) && !(strict && decide (mx < sc))

/-- Fields of a CE body that an operation may use (R89, R168): each one it does not name must be zero. -/
structure CeUse where
  lane : Bool := false
  rm : Bool := false
  fd : Bool := false
  cond : Bool := false
  tag : Bool := false
  k0 : Bool := false
  k1 : Bool := false
  kb : Bool := false
  kc : Bool := false
  uns : Bool := false
  sat : Bool := false
  lvl : Bool := false
  fd2 : Bool := false
  n : Bool := false
  dith : Bool := false
  blk : Bool := false
  md : Bool := false
  fb : Bool := false
  scope : Bool := false
  meix : Bool := false
  ac : Bool := false
deriving DecidableEq, Repr

/-- The fields that each operation names (06). -/
def ceUse (opc : Nat) : CeUse :=
  if opc = 0x00 then { lane := true }
  else if opc = 0x06 ∨ opc = 0x08 ∨ opc = 0x09 then { lane := true, tag := true, kb := true, uns := true }
  else if opc = 0x07 ∨ opc = 0x12 then { lane := true, tag := true, kb := true, kc := true }
  else if opc = 0x0A then { lane := true, tag := true }
  else if opc = 0x11 then { lane := true, tag := true, kb := true, cond := true }
  else if opc ≤ 0x10 then { lane := true, tag := true, kb := true }
  else match opc with
  | 0x13 => { tag := true, k0 := true, k1 := true, n := true, md := true, fb := true }
  | 0x14 => { lane := true, tag := true, k0 := true, uns := true, sat := true, lvl := true, ac := true }
  | 0x15 => { tag := true, k1 := true, n := true, md := true }
  | 0x16 => { tag := true, k0 := true }
  | 0x20 | 0x21 | 0x22 => { lane := true, fd := true, rm := true, tag := true, kb := true }
  | 0x23 => { lane := true, fd := true, rm := true, tag := true, kb := true, kc := true }
  | 0x24 | 0x25 => { lane := true, fd := true, tag := true, kb := true }
  | 0x26 | 0x27 | 0x28 => { fd := true, tag := true }
  | 0x29 => { fd := true, fd2 := true, rm := true, tag := true, dith := true }
  | 0x2A => { lane := true, fd := true, cond := true, tag := true, kb := true }
  | 0x2B => { lane := true, fd := true, rm := true, tag := true, k0 := true, lvl := true, ac := true }
  | 0x2C => { fd := true, tag := true, k0 := true, lvl := true, ac := true }
  | 0x2D => { fd := true, fd2 := true, rm := true, tag := true, dith := true, blk := true }
  | 0x2E => { fd2 := true, rm := true, tag := true, k1 := true }
  | 0x40 | 0x41 => { cond := true, k0 := true }
  | 0x42 => { cond := true, k0 := true, lvl := true }
  | 0x43 => { k0 := true }
  | 0x44 | 0x45 => { k0 := true, k1 := true }
  | 0x46 => { k0 := true, n := true }
  | 0x47 => { k0 := true }
  | 0x48 => { k0 := true, lvl := true }
  | 0x49 => { k0 := true, n := true, lvl := true, meix := true }
  | _ => { scope := true }

/-- Table 3.17. -/
def ceOpcode (opc : Nat) : Bool :=
  decide (opc ≤ 0x16) || (decide (0x20 ≤ opc) && decide (opc ≤ 0x2E)) || (decide (0x40 ≤ opc) && decide (opc ≤ 0x4A))

/-- Fields that the operation does not use are zero; K0 and K1 are used by KB and KC too. -/
def ceUnusedZero (c : CeCfg) (acn : Nat) : Bool :=
  let u := ceUse c.opc
  (u.lane || c.lane == 0) && (u.rm || c.rm == 0) && (u.fd || c.fd == 0) && (u.cond || c.cond == 0)
    && (u.tag || c.tag == 0) && (u.k0 || (u.kb && c.kb) || c.k0 == 0) && (u.k1 || (u.kc && c.kc) || c.k1 == 0)
    && (u.kb || !c.kb) && (u.kc || !c.kc) && (u.uns || !c.uns) && (u.sat || !c.sat) && (u.lvl || c.lvl == 0)
    && (u.fd2 || c.fd2 == 0) && (u.n || c.n == 0) && ((u.dith && c.rm == 5) || (c.step == 0 && c.ph == 0))
    && (u.blk || c.blk == 0) && (u.md || c.md == 0) && (u.fb || !c.fb) && (u.scope || c.scope == 0)
    && (u.meix || c.bitsX 35 32 == 0) && (u.ac || c.acn.isNone) && (c.acn.isSome || acn == 0) && c.bitsX 31 0 == 0

/-- A format that FCVT names in the fabric (R175): valid, not FP64, not INT64. -/
def fcvtFormat (fd : BitVec 16) : Bool := fdValid fd && fd.toNat != 0 && fd.toNat != 8

/-- A format that DITH may round to (R76). -/
def dithFormat (fd : BitVec 16) : Bool := fdNarrow fd || [2, 3, 4, 5, 6].contains fd.toNat

/-- LANE, FD, RM, COND and the counts of a CE body (R76, R167 to R187). -/
def ceFieldsOk (mx : Nat) (strict : Bool) (c : CeCfg) : Bool :=
  let o := c.opc
  let laneOk :=
    if [0x20, 0x21, 0x22, 0x23, 0x24, 0x25, 0x2A, 0x2B].contains o then
      (c.lane == 0 && c.fd == 1) || (c.lane == 1 && (c.fd == 2 || c.fd == 3))
    else if o = 0x29 then fcvtFormat c.fd && fcvtFormat c.fd2
    else if o = 0x2D then (c.fd == 1 || c.fd == 2) && fdNarrow c.fd2
    else if o = 0x2E then c.fd2 == 1 || c.fd2 == 2
    else if o = 0x26 ∨ o = 0x27 ∨ o = 0x28 ∨ o = 0x2C then c.fd == 1
    else decide (c.lane < 3)
  let rmOk :=
    if c.rm = 5 then (o == 0x29 && dithFormat c.fd2) || o == 0x2D
    else decide (c.rm < 5)
  let condOk :=
    if o = 0x2A then [0, 1, 2, 3, 6, 7, 10].contains c.cond
    else decide (c.cond < 10)
  let inOk := !(c.kb && c.enabled 1) && !(c.kc && c.enabled 2)
  let ownOk :=
    match o with
    | 0x13 => decide (c.md < 2) && decide (c.k0.toNat < 65536) && decide (c.k1.toNat < 65536)
        && (if c.md = 0 then decide (c.n < 2) else c.n == 0)
    | 0x15 => decide (1 ≤ c.n) && decide (c.n ≤ 32) && decide (c.md < 2)
    | 0x43 => decide (c.k0.toNat < 65536)
    | 0x44 | 0x45 => decide (c.k0.toNat < 16) && decide (c.k1.toNat < 16)
    | 0x46 => decide (1 ≤ c.n) && decide (c.n ≤ 4)
    | 0x47 => decide (1 ≤ c.k0.toNat) && decide (c.k0.toNat ≤ 63)
    | 0x49 => decide (1 ≤ c.n)
    | 0x4A => scopeAllowed mx strict c.scope
    | _ => true
  laneOk && rmOk && condOk && inOk && ownOk && decide (c.lvl < 3)

/-- R90: a dynamic destination inside the rectangle, at a CE or ME input. -/
def destOk (w h : Nat) (d : Option Dest) : Bool :=
  match d with
  | none => true
  | some d => decide (d.core % 16 < w) && decide (d.core / 16 < h) && siteAllowed 6 (d.site % 16) (d.site / 16)

def ceFrameOk (w h mx : Nat) (strict : Bool) (f : Frame) : Bool :=
  let c := parseCe f
  ceOpcode c.opc && ceUnusedZero c (fBits f 82 80) && ceFieldsOk mx strict c
    && destOk w h c.xdest && destOk w h c.ydest
    && (c.xdest.isSome || fBits f 117 101 == 0) && (c.ydest.isSome || fBits f 100 84 == 0)

/-- Highest MODEX bit that a mode uses, plus one (Table 6.8). -/
def modexBits (mode : Nat) : Nat :=
  match mode with
  | 0 => 1
  | 2 => 1
  | 4 => 48
  | 5 => 2
  | 6 => 9
  | _ => 0

/-- Number of an ME within its core (Table 1.2). -/
def meIndex (site : Nat) : Nat := 8 * ([4, 5, 12, 13].idxOf (site % 16)) + site / 16

def meFrameOk (mx : Nat) (strict : Bool) (spill : Nat) (f : Frame) : Bool :=
  let c := parseMe f
  let top := c.base + c.lenm1
  decide (c.mode < 7) && (if c.mode = 2 then decide (c.rmwop < 5) else c.rmwop == 0) && decide (c.ew < 3)
    && !bitOf f.toNat 191 && !bitOf f.toNat 175 && decide (top < 0x8000)
    && (List.range 4).all (fun b => !(decide (c.base / 8192 ≤ b) && decide (b ≤ top / 8192)) || c.banks.getLsbD b)
    && decide (c.modex.toNat < 2 ^ modexBits c.mode) && scopeAllowed mx strict c.doneSc
    && (c.fd == 0 || fdValid c.fd)
    && (c.mode != 6 || (c.base % 32 == 0 && c.ew == 0 && c.modex.toNat % 256 != 255))
    && decide (meIndex (frameSite f) * 0x8000 + top < 2 ^ 20 - spill)

def agFrameOk (f : Frame) : Bool := decide (fBits f 223 222 < 3) && fBits f 2 0 == 0

def switchFrameOk (mx : Nat) (strict : Bool) (f : Frame) : Bool :=
  let c := parseSwitch f
  fBits f 7 0 == 0
    && (List.range 28).all (fun j => decide (frameSel f j < 28) && (frameSel f j != 27 || decide (24 ≤ j)))
    && (List.range 4).all (fun e =>
        (!c.dyn.getLsbD e || (c.selOf (6 * e) == 0 && c.selOf (6 * e + 1) == 0))
        && (match c.mark e with | none => true | some s => scopeAllowed mx strict s)
        && (match c.seam e with | none => true | some n => decide (n < 56)))

def mxFrameOk (f : Frame) : Bool :=
  let ok := fun (fd : BitVec 16) => fd == 0 || fcvtFormat fd
  fBits f 171 0 == 0 && ok (BitVec.ofNat 16 (fBits f 205 190)) && ok (BitVec.ofNat 16 (fBits f 189 174))

def portFrameOk (f : Frame) : Bool := fBits f 216 0 == 0 && (!bitOf f.toNat 223 || decide (fBits f 218 217 < 2))

def textFrameOk (f : Frame) : Bool :=
  let n := fBits f 211 210
  n != 0 && decide (fBits f 223 212 + n ≤ 4096) && fBits f 209 192 == 0 && (n == 3 || fBits f 191 (64 * n) == 0)

/-- A frame after the header, on its own. -/
def frameOk (w h mx : Nat) (strict : Bool) (spill : Nat) (f : Frame) : Bool :=
  let k := frameKind f
  let one := frameCx f == 255
  decide (1 ≤ k) && decide (k < 8) && fBits f 251 248 == 0 && (one == (frameCy f == 255))
    && (one || (decide (frameCx f < w) && decide (frameCy f < h)))
    && siteAllowed k (frameCol f) (frameRow f)
    && (match k with
      | 1 => ceFrameOk w h mx strict f
      | 2 => meFrameOk mx strict spill f
      | 3 => agFrameOk f
      | 4 => switchFrameOk mx strict f
      | 5 => mxFrameOk f
      | 6 => portFrameOk f
      | _ => textFrameOk f)

/-- R85, R88: the image header. The device has every capability that NEEDS may name. -/
def headerOk (f : Frame) : Bool :=
  fBits f 255 224 == 0 && decide (1 ≤ imageW f) && decide (imageW f ≤ 16) && decide (1 ≤ imageH f)
    && decide (imageH f ≤ 16) && fBits f 175 168 == 1 && imageTask f 0
    && (List.range 8).all (fun k => imageTask f k || imageEntry f k == 0)
    && fBits f 63 52 == 0 && fBits f 47 0 == 0

/-- R85: two frames give the same thing to the same core. -/
def framesClash (f g : Frame) : Bool :=
  frameKind f == frameKind g && frameAll f == frameAll g && (frameAll f || frameCore f == frameCore g)
    && (if frameKind f = 7 then (frameText f).any (fun a => (frameText g).any (fun b => a.1 == b.1))
        else frameKey f == frameKey g)

/-! ## Checks of the whole (Table 3.9) -/

/-- Index of the frame that gives a core its configuration at a key: the single-core one, else the
broadcast one, else one past the end. -/
def frameIndex (fs : List Frame) (kind core key : Nat) : Nat :=
  let named := fun (f : Frame) => frameKind f == kind && frameKey f == key
  match fs.findIdx? (fun f => named f && !frameAll f && frameCore f == core) with
  | some i => i
  | none => (fs.findIdx? (fun f => named f && frameAll f)).getD fs.length

/-- Index of the frame of an element. -/
def elemIndex (fs : List Frame) (cores : Sparse Core) (n : Nat) : Nat :=
  let k := match nodeCfg cores n with
    | .ce _ => 1
    | .me _ => 2
    | .ag _ => 3
    | .empty => 4
  frameIndex fs k (n / 128) (n % 128)

/-- Pairs of list members that a test joins, in order. -/
def badPairs {α : Type} (l : List α) (p : α → α → Bool) : List (α × α) :=
  match l with
  | [] => []
  | a :: r => ((r.filter (p a)).map (fun b => (a, b))) ++ badPairs r p

/-- Faults of one core that two frames make together: accumulators, ports, inputs and seam slots (R90, R93,
R95). The later of the two frames offends. -/
def corePairs (fs : List Frame) (cores : Sparse Core) (k : Nat) (c : Core) : List Nat :=
  let acs := c.sites.filterMap (fun x => match x.2.cfg with | .ce e => e.acn.map (fun a => (x.1, a)) | _ => none)
  let ports := (c.feeds.filterMap (fun p => p.2.bind.map (fun b => (p.1, b))))
    ++ c.sinks.filterMap (fun p => p.2.bind.map (fun b => (16 + p.1, b)))
  let seams := c.switches.flatMap (fun s => (List.range 4).filterMap (fun e => (s.2.seam e).map (fun n => (s.1, e, n))))
  (badPairs acs (fun a b => a.2 == b.2)).map (fun p => max (elemIndex fs cores (128 * k + p.1.1)) (elemIndex fs cores (128 * k + p.2.1)))
    ++ (badPairs ports (fun a b => a.2 == b.2 && a.1 / 16 == b.1 / 16)).map (fun p =>
        max (frameIndex fs 6 k p.1.1) (frameIndex fs 6 k p.2.1))
    ++ (ports.filter (fun p => decide (p.1 < 16) && (c.switch p.2.1).selOf (24 + p.2.2) != 0)).map (fun p =>
        max (frameIndex fs 6 k p.1) (frameIndex fs 4 k p.2.1))
    ++ (badPairs seams (fun a b => a.2 == b.2 && a.1 != b.1)).map (fun p => max (frameIndex fs 4 k p.1.1) (frameIndex fs 4 k p.2.1))

/-- FEEDMX elements: core, site, group and bus, destination (R199). -/
def feedmxAll (cores : Sparse Core) : List (Nat × Nat × Nat × Nat) :=
  cores.flatMap (fun p => p.2.sites.filterMap (fun x =>
    match x.2.cfg with
    | .me c =>
      if c.mode = 6 then some (p.1, x.1, meIndex x.1 % 16 + 16 * (bitsOf c.modex.toNat 8 8), c.modex.toNat % 256) else none
    | _ => none))

/-- R200: two FEEDMX elements of one rectangle row (row bus) or column (column bus) that drive one group
with one DESTID; the later frame offends. -/
def feedmxPairs (fs : List Frame) (cores : Sparse Core) : List Nat :=
  (badPairs (feedmxAll cores) (fun a b => a.2.2 == b.2.2
      && (if a.2.2.1 < 16 then a.1 / 16 == b.1 / 16 else a.1 % 16 == b.1 % 16))).map (fun p =>
    max (elemIndex fs cores (128 * p.1.1 + p.1.2.1)) (elemIndex fs cores (128 * p.2.1 + p.2.2.1)))

/-- Indices of the frames that offend in a configuration as a whole. -/
def wholeFaults (fs : List Frame) (cores : Sparse Core) (w h : Nat) : List Nat :=
  cores.flatMap (fun p => corePairs fs cores p.1 p.2) ++ feedmxPairs fs cores
    ++ (badCycleNodes cores w h).map (elemIndex fs cores) ++ (badLabels cores w h).map (elemIndex fs cores)

/-- Indices of the frames after `first` that offend on their own or against an earlier frame. -/
def frameFaults (w h mx : Nat) (strict : Bool) (spill first : Nat) (fs : List Frame) : List Nat :=
  (List.range fs.length).filter (fun i => decide (first ≤ i) &&
    (match fs[i]? with
     | none => false
     | some f => !frameOk w h mx strict spill f || (fs.take i).any (framesClash f)))

def leastOf : List Nat → Option Nat
  | [] => none
  | a :: l => match leastOf l with | none => some a | some b => some (min a b)

/-- R86: the index of the first offending frame of an image, or none where the loader takes it. `mx` and
`strict` are the tenant's scope limits; `spill` is the spill size in bytes (R258). -/
def imageFault (mx : Nat) (strict : Bool) (spill : Nat) (fs : List Frame) : Option Nat :=
  match fs with
  | [] => some 0
  | hd :: _ =>
    if !headerOk hd then some 0
    else
      let w := imageW hd
      let h := imageH hd
      let count := if imageCount hd = fs.length then [] else [min (imageCount hd) fs.length]
      leastOf (count ++ frameFaults w h mx strict spill 1 fs ++ wholeFaults fs (applyFrames 6 w h (fs.drop 1) []) w h)

/-! ## A rectangle at launch (R66, R94, R196) -/

/-- A task that an image starts, with its arguments and position (R66). -/
def startTask (spill slot : Nat) (entry : Nat) (args : Word) (core w h : Nat) : Task :=
  let t := Task.start spill slot (BitVec.ofNat 12 entry) args
  (t.write 2 (BitVec.ofNat 64 (core % 16 + 256 * (core / 16)))).write 3 (BitVec.ofNat 64 (w + 256 * h))

/-- The logical state of a rectangle as its image and launch record give it (R66, R467, R480): what cut 0
is. -/
def launchBody (mx : Nat) (fs : List Frame) (args : Word) (spill : Nat) : Body :=
  match fs with
  | [] => Body.launch
  | hd :: rest =>
    let w := imageW hd
    let h := imageH hd
    let cores := Sparse.mapAll (fun k c =>
      let c1 := c.setTask 0 (startTask spill 0 (imageEntry hd 0) args k w h)
      if k = 0 ∧ imageTask hd 7 then
        let t := { startTask spill 7 (imageEntry hd 7) args k w h with handler := true, kmode := true }
        (c1.setTask 7 t).setVc 15 { Vc.empty with holder := some 7 }
      else c1) (applyFrames mx w h rest [])
    { Body.launch with cores := cores }

end Sys2Proof.Machine
end

