-- ==== Sys2Proof/Machine/Fabric.lean ====
section
/-! DEFINITION. The fabric at work: where the words of an output go (R92, R162, R489), firing an element
(R161), the marker protocol at elements and sink ports (R164, R165, R472), held DONE and BND words
(R187, R191, R475), multicast stalls (R365). -/

namespace Sys2Proof.Machine

open Host (Outcome)

/-! ## Markers in the graph (R165, R472, Table 21.3) -/

/-- Where the words of an input come from. -/
inductive Driver
  | feed
  | elem (n : Nat)
  | none
deriving DecidableEq, Repr

def driverOf (cores : Sparse Core) (es : List Channel) (n q : Nat) : Driver :=
  if (Sparse.at Core.launch cores (n / 128)).feeds.any (fun f => f.2.bind == some (n % 128, q)) then .feed
  else match es.find? (fun e => e.dst == n && e.queue == q) with
    | some e => .elem e.src
    | Option.none => .none

/-- How MARK goes through a graph: the cluster of each element, and the elements that MARK passes or starts from.
The elements of a loop, whose inputs from each other are back edges, are one cluster (R165); so is an element with
the elements that words of CONST and CNT GEN alone reach and that lead to it alone. A cluster records as one
(log 35). -/
structure MarkPlan where
  cluster : Sparse Nat
  marked : List Nat
deriving DecidableEq, Repr

def MarkPlan.of (p : MarkPlan) (n : Nat) : Nat := Sparse.at n p.cluster n

/-- Elements without an input and elements that only such elements feed. -/
def freeNodes (cores : Sparse Core) (es : List Channel) (ns : List Nat) : Nat → List Nat → List Nat
  | 0, l => l
  | fuel + 1, l =>
    let new := ns.filter (fun n => !l.contains n && (nodeCfg cores n).ins.all (fun q => match driverOf cores es n q with
      | .elem u => l.contains u
      | _ => false))
    if new.isEmpty then l else freeNodes cores es ns fuel (l ++ new)

/-- A free element with inputs joins the one cluster that all its words go to. -/
def attachFree (cores : Sparse Core) (es : List Channel) (free : List Nat) : Nat → Sparse Nat → Sparse Nat
  | 0, m => m
  | fuel + 1, m =>
    let sunk := fun n => (Sparse.at Core.launch cores (n / 128)).sinks.any (fun k => (k.2.bind.map (·.1)) == some (n % 128))
    attachFree cores es free fuel (free.foldl (fun m n =>
      let to_ := ((es.filter (fun e => e.src == n)).map (fun e => Sparse.look m e.dst)).eraseDups
      match (nodeCfg cores n).ins.isEmpty || sunk n, to_ with
      | false, [some c] => Sparse.put c m n
      | _, _ => m) m)

/-- Clusters: the least number of an element of each loop, then the free elements. -/
def clusters (cores : Sparse Core) (es : List Channel) (ns : List Nat) : Sparse Nat :=
  let reach : Sparse (List Nat) := ns.foldl (fun m n => Sparse.put (reachAfter es ns.length n) m n) []
  let to_ := fun n m => (Sparse.at [] reach n).contains m
  let own := ns.foldl (fun (c : Sparse Nat) n => Sparse.put ((ns.filter (fun m => to_ n m && to_ m n)).foldl min n) c n) []
  attachFree cores es (freeNodes cores es ns ns.length []) ns.length own

/-- MARK arrives at an input once its driver is a feed port or has passed it on. -/
def MarkPlan.arrives (p : MarkPlan) : Driver → Bool
  | .feed => true
  | .elem n => p.marked.contains n
  | .none => false

/-- An input from another element of the cluster. -/
def MarkPlan.inner (p : MarkPlan) (n : Nat) : Driver → Bool
  | .elem u => decide (p.of u = p.of n)
  | _ => false

/-- One round: the clusters all of whose outer inputs get MARK pass it; so does an element that has no input. -/
def markRounds (cores : Sparse Core) (es : List Channel) (ns : List Nat) : Nat → MarkPlan → MarkPlan
  | 0, p => p
  | fuel + 1, p =>
    let outer := fun n => ((nodeCfg cores n).ins.map (driverOf cores es n)).filter (fun d => !p.inner n d)
    let passes := fun n =>
      let ds := (ns.filter (fun m => decide (p.of m = p.of n))).flatMap outer
      ds.all p.arrives && (!ds.isEmpty || (nodeCfg cores n).ins.isEmpty)
    let new := ns.filter (fun n => !p.marked.contains n && passes n)
    if new.isEmpty then p else markRounds cores es ns fuel { p with marked := p.marked ++ new }

def markPlan (cores : Sparse Core) (w h : Nat) : MarkPlan :=
  let ns := graphNodes cores
  let es := channels cores w h
  markRounds cores es ns ns.length { cluster := clusters cores es ns, marked := [] }

/-- Inputs of an element on which MARK is consumed without effect: its back edges and the other inputs from its
cluster; every input of an element that MARK never passes. -/
def MarkPlan.backOf (p : MarkPlan) (cores : Sparse Core) (es : List Channel) (n : Nat) : List Nat :=
  if p.marked.contains n then (nodeCfg cores n).ins.filter (fun q => p.inner n (driverOf cores es n q)) else (nodeCfg cores n).ins

/-- The back edges of an element of a rectangle. -/
def Rect.backOf (x : Rect) (core site : Nat) : List Nat :=
  (markPlan x.body.cores x.w x.h).backOf x.body.cores (channels x.body.cores x.w x.h) (128 * core + site)

/-- The other elements of an element's cluster, as core and site. -/
def Rect.clusterOf (x : Rect) (core site : Nat) : List (Nat × Nat) :=
  let p := markPlan x.body.cores x.w x.h
  let n := 128 * core + site
  ((graphNodes x.body.cores).filter (fun m => decide (m ≠ n) && decide (p.of m = p.of n))).map (fun m => (m / 128, m % 128))

/-! ## Where a word goes -/

/-- A consumer of an output. -/
inductive Place
  | queue (core site q : Nat)
  | sink (core n : Nat)
  | cutBuf (core site out : Nat)
  | net (d : Dest)
  | unit (core port : Nat)
  | masked
  | refused (tval : Word)
deriving DecidableEq, Repr

/-- R401: the edge mask of a core. -/
def State.edgeMask (s : State) (p : Nat) : BitVec 4 := Sparse.at 0#4 s.edgeMasks p
def State.gateOf (s : State) (p : Nat) : BitVec 4 := Sparse.at 0#4 s.gates p
def State.boxTag (s : State) (p : Nat) : Nat := Sparse.at 0 s.boxTags p

/-- TVAL of GATE and FIREWALL (Table 17.1). -/
def edgeTval (cls edge core : Nat) : Word := BitVec.ofNat 64 (cls * 2 ^ 13 + edge * 512 + core)

/-- R400, R401: what a static route meets where it crosses from core to core: nothing, a mask, a refusal. -/
def State.crossing (s : State) (x : Rect) : List HopAt → Option Place
  | a :: b :: rest =>
    let pa := x.phys a.core
    let pb := x.phys b.core
    if a.core = b.core then s.crossing x (b :: rest)
    else if (s.edgeMask pa).getLsbD (a.out / 6) then some .masked
    else if s.boxTag pa ≠ s.boxTag pb then
      some (.refused (edgeTval (if dieOf pa = dieOf pb then 4 else 5) ((a.out / 6 + 2) % 4) pb))
    else s.crossing x (b :: rest)
  | _ => none

/-- The first cut point of a route that holds words: engaged in a cut-drain, or not yet emptied (R489). -/
def Rect.cutPoint (x : Rect) (hops : List HopAt) : Option HopAt :=
  hops.find? (fun p =>
    ((x.body.core p.core).switch p.site).cut.getLsbD p.out &&
      (decide (x.phase = .drain) || !(Sparse.at [] ((x.body.core p.core).site p.site).cutBuf p.out).isEmpty))

def Channel.place (e : Channel) : Place := .queue e.dcore e.dsite e.queue

/-- R162, R92: every consumer of an output. -/
def State.placesOf (s : State) (e : SiteRef) (out : Nat) : List Place :=
  let x := s.rect e.rect
  let b := x.body
  let cs := (staticChannels b.cores x.w x.h ++ agChannels b.cores).filter (fun c =>
    c.score == e.core && c.ssite == e.site && c.out == out)
  let static_ := cs.map (fun c =>
    match s.crossing x c.hops with
    | some p => p
    | none => match x.cutPoint c.hops with
      | some h => .cutBuf h.core h.site h.out
      | none => c.place)
  let dyn := match (b.core e.core |>.site e.site).cfg with
    | .ce c => ((if out = 0 then c.xdest else c.ydest).map Place.net).toList
    | _ => []
  let sinks := ((b.core e.core).sinks.filter (fun p => p.2.bind == some (e.site, out))).map (fun p => Place.sink e.core p.1)
  let su := match (b.core e.core |>.site e.site).cfg with
    | .ag g => if g.tgtsu && out == 0 then [Place.unit e.core g.tgt] else []
    | _ => []
  (static_ ++ dyn ++ sinks ++ su).eraseDups

/-- Input queue of a site; the control and index inputs of the matrix engine stand at column 7 (R213, R247). -/
def Core.inQueue (c : Core) (site q : Nat) : List FWord :=
  if site = 7 ∧ q = 0 then c.engine.control else if site = 23 ∧ q = 0 then c.engine.index
  else (c.site site).queues.getD q []

def Core.setInQueue (c : Core) (site q : Nat) (l : List FWord) : Core :=
  if site = 7 ∧ q = 0 then { c with engine := { c.engine with control := l } }
  else if site = 23 ∧ q = 0 then { c with engine := { c.engine with index := l } }
  else let x := c.site site; c.setSite site { x with queues := x.queues.set q l }

/-- Fabric packets on their way to an input queue (R362). -/
def Body.flying (b : Body) (d : Dest) : List Packet :=
  b.net.filter (fun p => match p.payload with
    | .fabric d' _ _ => decide (d' = d)
    | _ => false)

/-- The port that an AG with TGTSU serves: the feed port of that number if it is bound, else the sink port
(log 24). -/
def Core.unitIsFeed (c : Core) (n : Nat) : Bool := (c.feed n).bind.isSome

/-- R161: the consumer has a free slot. -/
def State.hasRoom (s : State) (r : Nat) (p : Place) (w : FWord) : Bool :=
  let b := (s.rect r).body
  match p with
  | .queue c t q => decide (((b.core c).inQueue t q).length < 4)
  | .sink c n => decide (w.kind = .mark) || decide (((b.core c).sink n).queue.length < 16)
  | .cutBuf c t j => decide ((Sparse.at [] ((b.core c).site t).cutBuf j).length < 8)
  | .net d => decide (((b.core d.core).inQueue d.site d.queue).length + (b.flying d).length < 4)
  | .unit c n =>
    if decide (w.kind = .data) || decide (w.kind = .mark) || !(b.core c).unitIsFeed n then true
    else match ((b.core c).feed n).bind with
      | some (t, q) => decide (((b.core c).inQueue t q).length < 4)
      | none => true
  | .masked | .refused _ => true

/-- The record of the cut in progress, changed. -/
def Rect.modProg (x : Rect) (f : CutProgress → CutProgress) : Rect := { x with prog := x.prog.map f }

/-- R471 to R473: a word that reaches a recorded input from a source that has not recorded is part of the
record of that input. -/
def Rect.lateWord (x : Rect) (core site q : Nat) (srcOpen : Bool) (w : FWord) : Rect :=
  x.modProg (fun g =>
    if srcOpen && !g.elems.contains (core, site) && decide (w.kind ≠ .mark) then
      { g with body := g.body.modCore core (fun c => c.setInQueue site q (c.inQueue site q ++ [w])) }
    else g)

/-- R472, R49: the record of a sink port when MARK reaches it: its position, its queued words and, before
them, the words that later commands took; commands issued after the start of the cut are left out. -/
def SinkPort.recordAt (live old : SinkPort) : SinkPort :=
  let n := old.issued - live.finished
  let keep := live.cmds.take n
  { live with cmds := keep, issued := old.issued, queue := old.queue ++ live.queue,
              active := live.active && decide (0 < n), at_ := if n = 0 then 0 else live.at_ }

def State.markAtSink (s : State) (r core n : Nat) : State :=
  s.modRect r (fun x =>
    let live := (x.body.core core).sink n
    x.modProg (fun g =>
      if g.sinks.contains (core, n) then
        { g with sinks := g.sinks.filter (fun p => decide (p ≠ (core, n))),
                 body := g.body.modCore core (fun c => c.setSink n (live.recordAt (c.sink n))) }
      else g))

/-- Delivers a word to a consumer that has room. `srcOpen`: the producer has not recorded for the cut in
progress. -/
def State.deliverTo (s : State) (e : SiteRef) (srcOpen : Bool) (w : FWord) (p : Place) : State :=
  match p with
  | .queue c t q =>
    (s.modCore ⟨e.rect, c⟩ (fun k => k.setInQueue t q (k.inQueue t q ++ [w]))).modRect e.rect
      (fun x => x.lateWord c t q srcOpen w)
  | .sink c n =>
    if w.kind = .mark then s.markAtSink e.rect c n
    else
      (s.modCore ⟨e.rect, c⟩ (fun k =>
        let y := k.sink n
        k.setSink n { y with queue := y.queue ++ [w], position := y.position + 1 })).modRect e.rect
        (fun x => x.modProg (fun g =>
          if srcOpen && !g.sinks.contains (c, n) then
            { g with body := g.body.modCore c (fun k =>
                let y := k.sink n
                k.setSink n { y with queue := y.queue ++ [w], position := y.position + 1 }) }
          else g))
  | .cutBuf c t j =>
    s.modCore ⟨e.rect, c⟩ (fun k =>
      let x := k.site t
      k.setSite t { x with cutBuf := Sparse.put (Sparse.at [] x.cutBuf j ++ [w]) x.cutBuf j })
  | .net d =>
    let (s1, id) := s.fresh
    s1.modBody e.rect (fun b =>
      { b with net := b.net ++ [{ id := id, router := (s.rect e.rect).phys e.core, yFirst := Config.routeBit id,
                                  payload := .fabric d w (128 * e.core + e.site) }] })
  | .unit c n =>
    if decide (w.kind = .data) || decide (w.kind = .mark) then s
    else
      let k := s.core ⟨e.rect, c⟩
      if k.unitIsFeed n then
        match (k.feed n).bind with
        | some (t, q) => s.setCore ⟨e.rect, c⟩ (k.setInQueue t q (k.inQueue t q ++ [w]))
        | none => s
      else s
  | .masked => s
  | .refused v => (s.elementFault e.rect 0x07 v e.core).modPart (s.rect e.rect).part (fun p => { p with refusals := p.refusals + 1 })

/-- A producer has not recorded for the cut in progress. -/
def Rect.isOpen (x : Rect) (core site : Nat) : Bool :=
  match x.prog with
  | none => false
  | some g => g.elems.contains (core, site)

/-- MARK is not sent to elements of the producer's own cluster, which record with it (log 35). -/
def State.outerPlaces (s : State) (e : SiteRef) (w : FWord) (ps : List Place) : List Place :=
  if w.kind = .mark then
    let cl := (s.rect e.rect).clusterOf e.core e.site
    ps.filter (fun p => match p with
      | .queue c t _ => !(decide ((c, t) = (e.core, e.site)) || cl.contains (c, t))
      | .net d => !(decide ((d.core, d.site) = (e.core, e.site)) || cl.contains (d.core, d.site))
      | _ => true)
  else ps

/-- One output of an emission: every consumer takes the word, or none does (R161, R162). -/
def State.emitOut (s : State) (e : SiteRef) (out : Nat) (w : FWord) : Option State :=
  let ps := s.outerPlaces e w (s.placesOf e out)
  if ps.all (fun p => s.hasRoom e.rect p w) then
    some (ps.foldl (fun s p => s.deliverTo e ((s.rect e.rect).isOpen e.core e.site) w p) s)
  else none

/-- The words of one emission. -/
def State.emit (s : State) (e : SiteRef) (m : Emission) : Option State :=
  let s1 := match m.x with
    | some w => s.emitOut e 0 w
    | none => some s
  match s1, m.y with
  | some s1, some w => s1.emitOut e 1 w
  | r, _ => r

/-! ## Cut buffers after a move (R489) -/

/-- A cut buffer on the routes of an output that holds words, with the consumers behind it. -/
def State.fullCutBuf (s : State) (e : SiteRef) (out : Nat) : Option (HopAt × List Place) :=
  let x := s.rect e.rect
  let cs := (staticChannels x.body.cores x.w x.h).filter (fun c => c.score == e.core && c.ssite == e.site && c.out == out)
  match cs.findSome? (fun c => (x.cutPoint c.hops).map (fun h => h)) with
  | none => none
  | some h =>
    some (h, ((cs.filter (fun c => x.cutPoint c.hops == some h)).map Channel.place).eraseDups)

/-- Outside a drain, the first word of such a buffer goes on to every consumer behind it. -/
def State.flushCut (s : State) (e : SiteRef) (out : Nat) : Option State :=
  if (s.rect e.rect).phase = .drain then none
  else match s.fullCutBuf e out with
    | none => none
    | some (h, ps) =>
      let x := (s.core ⟨e.rect, h.core⟩).site h.site
      match Sparse.at [] x.cutBuf h.out with
      | [] => none
      | w :: rest =>
        if ps.all (fun p => s.hasRoom e.rect p w) then
          let s1 := s.setSite ⟨e.rect, h.core, h.site⟩ { x with cutBuf := Sparse.put rest x.cutBuf h.out }
          some (ps.foldl (fun s p => s.deliverTo e ((s.rect e.rect).isOpen e.core e.site || rest.any (fun v => decide (v.kind = .mark))) w p) s1)
        else none

/-! ## Firing -/

/-- OPC of Table 6.3. -/
def ElemCfg.opcode : ElemCfg → Nat
  | .ce c => c.opc
  | .me c => 0x80 + c.mode
  | .ag c => 0x90 + c.mode
  | .empty => 0

/-- TVAL of an element fault (Table 6.3). -/
def siteTval (kind : Kind) (queue opc core site : Nat) : Word :=
  BitVec.ofNat 64 (kind.code % 16 * 2 ^ 28 + queue % 16 * 2 ^ 24 + opc % 256 * 2 ^ 16 + core % 16 * 2 ^ 12
    + core / 16 % 16 * 256 + site % 16 * 16 + site / 16 % 8)

/-- Phases in which elements fire (Table 22.1). -/
def Phase.fires : Phase → Bool
  | .run | .drain | .boundary => true
  | _ => false

/-- Elements of the rectangle may fire: no fault, no freeze, no error that waits for a rollback. -/
def Rect.fires (x : Rect) : Bool := x.phase.fires && !x.body.fabricStop && x.soft.isNone

/-- First byte of an ME's 32 KiB in its core's scratchpad (R20). -/
def meOrigin (site : Nat) : Nat := meIndex site * 0x8000

/-- Reads bytes of an ME's 32 KiB. -/
def Core.meRead (c : Core) (site off n : Nat) : Nat := joinBytes (cellBytes c.scratch (meOrigin site + off) n)

/-- Words on their way to an input: in the cut buffers of its route, then in the network. -/
def Rect.underway (x : Rect) (d : Dest) : List FWord :=
  let es := (staticChannels x.body.cores x.w x.h).filter (fun e => e.dcore == d.core && e.dsite == d.site && e.queue == d.queue)
  es.flatMap (fun e => e.hops.reverse.flatMap (fun p => Sparse.at [] ((x.body.core p.core).site p.site).cutBuf p.out))
    ++ (x.body.flying d).filterMap (fun p => match p.payload with
      | .fabric _ w _ => some w
      | _ => none)

/-- The words of a queue that stand before its MARK, `spent` earlier MARKs apart. -/
def beforeMark : Nat → List FWord → List FWord
  | _, [] => []
  | spent, w :: ws =>
    if w.kind = .mark then (match spent with
      | 0 => []
      | n + 1 => beforeMark n ws)
    else w :: beforeMark spent ws

/-- R472: the element has recorded: its state as MARK passes, back edges with their words, the forward inputs
`ahead` with the words before their MARK, the others empty. -/
def State.recordElem (s : State) (e : SiteRef) (back ahead : List Nat) : State :=
  s.modRect e.rect (fun x =>
    let live := (x.body.core e.core).site e.site
    x.modProg (fun g =>
      if g.elems.contains (e.core, e.site) then
        let qs := (List.range 4).map (fun q => if back.contains q then (live.queues.getD q [] ++ x.underway ⟨e.core, e.site, q⟩).filter (fun w => decide (w.kind ≠ .mark))
          else if ahead.contains q then beforeMark (live.owed.count q) (live.queues.getD q []) else [])
        let st' := { live.st with pend := [], fifo := live.st.fifo.filter (fun w => decide (w.kind ≠ .mark)) }
        let recd : Site := { live with queues := qs, owed := [], cutBuf := ((g.body.core e.core).site e.site).cutBuf, st := st' }
        let me := meOrigin e.site
        { g with elems := g.elems.filter (fun p => decide (p ≠ (e.core, e.site))),
                 body := g.body.modCore e.core (fun c =>
                   let c1 := c.setSite e.site recd
                   match live.cfg with
                   | .me m =>
                     let lo := me + m.base
                     { c1 with scratch := setCells c1.scratch lo (cellBytes (x.body.core e.core).scratch lo (m.lenm1 + 1)) }
                   | _ => c1) }
      else g))

/-- The other elements of a cluster record with it: the words before MARK at their outer inputs are part of the
record, and each owes a MARK to what lies outside (R165, R472, log 35). -/
def State.recordCluster (s : State) (e : SiteRef) : State :=
  ((s.rect e.rect).clusterOf e.core e.site).foldl (fun (s : State) m =>
    let f : SiteRef := ⟨e.rect, m.1, m.2⟩
    let x := s.rect e.rect
    if x.isOpen m.1 m.2 then
      let back := x.backOf m.1 m.2
      let ahead := (s.site f).cfg.ins.filter (fun q => !back.contains q)
      let s1 := s.recordElem f back ahead
      let y := s1.site f
      let mark : FWord := { kind := .mark, tag := 0, data := 0 }
      s1.setSite f { y with owed := y.owed ++ ahead, st := { y.st with pend := y.st.pend ++ [onBoth mark] } }
    else s) s

/-- No element of the cluster holds a word of an earlier firing. -/
def State.clusterReady (s : State) (e : SiteRef) : Bool :=
  ((s.rect e.rect).clusterOf e.core e.site).all (fun m => (s.site ⟨e.rect, m.1, m.2⟩).st.pend.isEmpty)

/-- The words that a BND or an ME keeps until a release, and the cut that they wait for if it is wider than
RECT (R187, R191, R475). -/
def State.holdWords (s : State) (e : SiteRef) (scope : Nat) (hs : List (FWord × Bool)) : State :=
  if hs.isEmpty then s
  else
    let x := s.rect e.rect
    let cut := if 2 ≤ scope then x.cutAfter (x.siteRecorded e.core e.site) else 0
    let y := s.site e
    (s.setSite e { y with st := { y.st with held := y.st.held ++ hs.map (fun h =>
      { word := h.1, onX := h.2, upto := s.nextId, cut := cut }) } }).modRect e.rect (fun x => x.wantCut cut)

/-- Scope of the words that an element holds. -/
def ElemCfg.holdScope : ElemCfg → Nat
  | .ce c => c.scope
  | .me c => c.doneSc
  | _ => 0

/-- Consumption and state of a firing, before its words leave. -/
def State.consume (s : State) (e : SiteRef) (f : Fire) (back : List Nat) : State :=
  let x := s.site e
  let eos := f.take.contains 0 && decide ((qhead x.queues 0).map (·.kind) = some .eos)
  let qs := (List.range 4).map (fun q => let l := x.queues.getD q []; if f.take.contains q then l.drop 1 else l)
  let s1 := s.setSite e { x with queues := qs, st := f.st, stallX := 0, stallY := 0 }
  let s2 := match f.store with
    | some (o, n, v) => s1.modCore e.coreRef (fun c => { c with scratch := setCells c.scratch (meOrigin e.site + o) (splitBytes n v) })
    | none => s1
  let s3 := s2.modBody e.rect (fun b => b.flags f.flags)
  let s4 := s3.holdWords e x.cfg.holdScope f.hold
  let s5 := match x.cfg with
    | .ce c => match c.acn with
      | some a => if eos then s4.modCore e.coreRef (fun k => k.applyResets a.val) else s4
      | none => s4
    | _ => s4
  if f.mark then (s5.recordElem e back []).recordCluster e else s5

/-- R365: a producer held by some consumers while another has room: its fan-out begins to count. -/
def State.noteStall (s : State) (e : SiteRef) (m : Emission) : State :=
  let stalled := fun (out : Nat) (w : Option FWord) => match w with
    | none => false
    | some w =>
      let ps := s.placesOf e out
      ps.any (fun p => s.hasRoom e.rect p w) && ps.any (fun p => !s.hasRoom e.rect p w)
  let x := s.site e
  let up := fun (b : Bool) (n : Nat) => if b && n == 0 then 1 else n
  let x' := { x with stallX := up (stalled 0 m.x) x.stallX, stallY := up (stalled 1 m.y) x.stallY }
  if x' = x then s else s.setSite e x'

/-- Forward inputs of an element. -/
def Site.forward (e : Site) (back : List Nat) : List Nat := e.cfg.ins.filter (fun q => !back.contains q)

/-- Inputs among `l` with MARK at their head. -/
def Site.markHeads (x : Site) (l : List Nat) : List Nat :=
  l.filter (fun q => decide ((qhead x.queues q).map (·.kind) = some .mark))

/-- A MARK at a head that is spent: the element has recorded, or recorded before that MARK could come up. -/
def Site.spentMark (x : Site) (open_ : Bool) (l : List Nat) : Option Nat :=
  (x.markHeads l).find? (fun q => !open_ || x.owed.contains q)

/-- The queues with the given ones empty. -/
def Site.hide (x : Site) (l : List Nat) : List (List FWord) :=
  (List.range 4).map (fun q => if l.contains q then [] else x.queues.getD q [])

/-- R473: MARK stands at some heads and words ahead of MARK at the others, which no firing can take: the element
records with those words, so that a rollback pairs them with the words that are sent again. -/
def State.splitMark (s : State) (e : SiteRef) (back fwd marks : List Nat) : Option State :=
  let y := s.site e
  let ahead := fwd.filter (fun q => !marks.contains q)
  match marks.head?.bind (qhead y.queues) with
  | none => none
  | some w =>
    if !s.clusterReady e then none else
    let s1 := (s.recordElem e back ahead).recordCluster e
    let y1 := s1.site e
    let s2 := s1.setSite e { y1 with
      queues := (List.range 4).map (fun q => let l := y1.queues.getD q []; if marks.contains q then l.drop 1 else l),
      owed := y1.owed ++ ahead, stallX := 0, stallY := 0 }
    s2.emit e (onBoth w)

/-- R161: one firing of an element by its function. Words of an earlier firing leave first, one emission at
a time; a firing takes place once its first emission can leave. -/
def State.fireSite (s : State) (e : SiteRef) (f : List Nat → ElemState → List (List FWord) → FireRes) : State :=
  let x := s.rect e.rect
  if !x.fires then s
  else match (s.flushCut e 0).orElse (fun _ => s.flushCut e 1) with
    | some s' => s'
    | none =>
      let y := s.site e
      match y.st.pend with
      | m :: rest =>
        (match (s.setSite e { y with st := { y.st with pend := rest }, stallX := 0, stallY := 0 }).emit e m with
         | some s' => s'
         | none => s.noteStall e m)
      | [] =>
        let back := if (y.markHeads y.cfg.ins).isEmpty then [] else x.backOf e.core e.site
        let fwd := Site.forward y back
        let marks := y.markHeads fwd
        let open_ := x.isOpen e.core e.site
        let some_ := !marks.isEmpty && decide (marks.length < fwd.length)
        match y.spentMark open_ fwd with
        | some q => s.setSite e { y with queues := y.queues.modify q (List.drop 1), owed := y.owed.erase q }
        | none =>
        match f back y.st (if some_ then y.hide marks else y.queues) with
        | .wait =>
          if some_ && fwd.all (fun q => (qhead y.queues q).isSome) then (s.splitMark e back fwd marks).getD s else s
        | .fault c k q =>
          if x.fabricBusy then s else s.elementFault e.rect c.code (siteTval k q y.cfg.opcode e.core e.site) e.core
        | .fire r =>
          if (!y.st.held.isEmpty && !r.mark) || (r.mark && !s.clusterReady e) then s
          else
            let s1 := s.consume e r back
            match r.out with
            | [] => s1
            | m :: rest =>
              match s1.emit e m with
              | some s2 => s2.modCore e.coreRef (fun k =>
                  let z := k.site e.site
                  k.setSite e.site { z with st := { z.st with pend := rest } })
              | none => s.noteStall e m

/-- Fires a CE whose operation a test names. -/
def State.fireCe (s : State) (e : SiteRef) (ok : CeCfg → Bool)
    (f : CeCfg → List Nat → ElemState → List (List FWord) → FireRes) : State :=
  match (s.site e).cfg with
  | .ce c => if ok c then s.fireSite e (f c) else s
  | _ => s

/-- Fires an ME of a mode; its function reads the ME's bytes. -/
def State.fireMe (s : State) (e : SiteRef) (mode : Nat)
    (f : MeCfg → (Nat → Nat → Nat) → List Nat → ElemState → List (List FWord) → FireRes) : State :=
  match (s.site e).cfg with
  | .me c => if c.mode = mode then s.fireSite e (f c ((s.core e.coreRef).meRead e.site)) else s
  | _ => s

/-- CE_INTEGER_FIRE (R170). -/
def execCeIntegerFire (e : SiteRef) (s : State) : Outcome State Fault Refusal :=
  .next (s.fireCe e (fun c => decide (c.opc ≤ 0x12)) fireInteger)

/-- CE_FLOAT_FIRE (R175). -/
def execCeFloatFire (e : SiteRef) (s : State) : Outcome State Fault Refusal :=
  .next (s.fireCe e (fun c => decide (0x20 ≤ c.opc) && decide (c.opc ≤ 0x2A)) fireFloat)

/-- CE_CNT (R171). -/
def execCeCnt (e : SiteRef) (s : State) : Outcome State Fault Refusal :=
  .next (s.fireCe e (fun c => c.opc == 0x13) (fun c b st qs => fireCnt c b st qs s.freePayload))

/-- CE_RUNNING_VALUE (R172). -/
def execCeRunningValue (e : SiteRef) (s : State) : Outcome State Fault Refusal :=
  .next (s.fireCe e (fun c => c.opc == 0x14 || c.opc == 0x2B || c.opc == 0x2C) fireRunning)

/-- CE_DLY (R173). -/
def execCeDly (e : SiteRef) (s : State) : Outcome State Fault Refusal :=
  .next (s.fireCe e (fun c => c.opc == 0x15) fireDly)

/-- CE_CONST (R174). -/
def execCeConst (e : SiteRef) (s : State) : Outcome State Fault Refusal :=
  .next (s.fireCe e (fun c => c.opc == 0x16) fireConst)

/-- CE_QNT (R176). -/
def execCeQnt (e : SiteRef) (s : State) : Outcome State Fault Refusal :=
  .next (s.fireCe e (fun c => c.opc == 0x2D) fireQnt)

/-- CE_DQNT (R177). -/
def execCeDqnt (e : SiteRef) (s : State) : Outcome State Fault Refusal :=
  .next (s.fireCe e (fun c => c.opc == 0x2E) fireDqnt)

/-- CE_STEER (R178). -/
def execCeSteer (e : SiteRef) (s : State) : Outcome State Fault Refusal :=
  .next (s.fireCe e (fun c => c.opc == 0x40) fireSteer)

/-- CE_MERGE (R179). -/
def execCeMerge (e : SiteRef) (s : State) : Outcome State Fault Refusal :=
  .next (s.fireCe e (fun c => c.opc == 0x41) fireMerge)

/-- CE_GATE (R180). -/
def execCeGate (e : SiteRef) (s : State) : Outcome State Fault Refusal :=
  .next (s.fireCe e (fun c => c.opc == 0x42) fireGate)

/-- CE_DUP (R181). -/
def execCeDup (e : SiteRef) (s : State) : Outcome State Fault Refusal :=
  .next (s.fireCe e (fun c => c.opc == 0x43) fireDup)

/-- CE_TAGCHK (R182), TAGSET too. -/
def execCeTagchk (e : SiteRef) (s : State) : Outcome State Fault Refusal :=
  .next (s.fireCe e (fun c => c.opc == 0x44 || c.opc == 0x45) fireTag)

/-- CE_PRIME (R183). -/
def execCePrime (e : SiteRef) (s : State) : Outcome State Fault Refusal :=
  .next (s.fireCe e (fun c => c.opc == 0x46) firePrime)

/-- CE_LIMIT (R184). -/
def execCeLimit (e : SiteRef) (s : State) : Outcome State Fault Refusal :=
  .next (s.fireCe e (fun c => c.opc == 0x47) fireLimit)

/-- CE_SEQ (R185). -/
def execCeSeq (e : SiteRef) (s : State) : Outcome State Fault Refusal :=
  .next (s.fireCe e (fun c => c.opc == 0x48) fireSeq)

/-- CE_REORD (R186). -/
def execCeReord (e : SiteRef) (s : State) : Outcome State Fault Refusal :=
  .next (s.fireCe e (fun c => c.opc == 0x49) fireReord)

/-! ## Words that wait on a release (R187, R191, R284, R286, R475) -/

/-- R286: some write of a task of the rectangle numbered before the word has not been performed. -/
def State.writesBefore (s : State) (r upto : Nat) : Bool :=
  s.accesses.any (fun a => decide (a.task.rect = r) && decide (a.id < upto) && !a.kind.isLoad)

/-- The first held word of a site leaves: its cut is complete, its release is performed, and every consumer
has room. -/
def State.releaseHeld (s : State) (e : SiteRef) : State :=
  let x := s.rect e.rect
  let y := s.site e
  match y.st.held with
  | [] => s
  | h :: rest =>
    let scope := y.cfg.holdScope
    if !x.fires || decide (x.complete < h.cut) || s.writesBefore e.rect h.upto
        || (decide (scope = 6) && x.remote.any (fun w => decide (w.id < h.upto))) || !y.st.pend.isEmpty then s
    else
      let s1 := (s.releaseWork x.tag ((Scope.ofCode scope).getD .core)).setSite e { y with st := { y.st with held := rest } }
      (s1.emit e (if h.onX then onX h.word else onY h.word)).getD s

/-- CE_BND (R187): a word that it holds leaves after its release; otherwise it takes the next word. -/
def execCeBnd (e : SiteRef) (s : State) : Outcome State Fault Refusal :=
  let s1 := match (s.site e).cfg with
    | .ce c => if c.opc = 0x4A then s.releaseHeld e else s
    | _ => s
  .next (if s1 = s then s.fireCe e (fun c => c.opc == 0x4A) fireBnd else s1)

/-- ME_DONE_EMIT (R191, R475): a DONE at a scope wider than RECT leaves on y. -/
def execMeDoneEmit (e : SiteRef) (s : State) : Outcome State Fault Refusal :=
  match (s.site e).cfg with
  | .me _ => .next (s.releaseHeld e)
  | _ => .next s

/-! ## Memory elements (R188 to R192, R199) -/

/-- ME_RD. -/
def execMeRd (e : SiteRef) (s : State) : Outcome State Fault Refusal := .next (s.fireMe e 0 fireRd)
/-- ME_WR. -/
def execMeWr (e : SiteRef) (s : State) : Outcome State Fault Refusal := .next (s.fireMe e 1 (fun c _ => fireWr c))
/-- ME_RMW. -/
def execMeRmw (e : SiteRef) (s : State) : Outcome State Fault Refusal := .next (s.fireMe e 2 fireRmw)
/-- ME_FIFO. -/
def execMeFifo (e : SiteRef) (s : State) : Outcome State Fault Refusal := .next (s.fireMe e 3 (fun c _ _ => fireFifo c))
/-- ME_DELAY. -/
def execMeDelay (e : SiteRef) (s : State) : Outcome State Fault Refusal := .next (s.fireMe e 4 (fun c _ => fireDelay c))
/-- ME_HIST. -/
def execMeHist (e : SiteRef) (s : State) : Outcome State Fault Refusal := .next (s.fireMe e 5 fireHist)
/-- ME_FEEDMX: the beat or token stands ready for its bus (R199). -/
def execMeFeedmx (e : SiteRef) (s : State) : Outcome State Fault Refusal := .next (s.fireMe e 6 fireFeedmx)

/-! ## Address generators (R194) -/

/-- Bytes of an AG's element. -/
def AgCfg.bytes (g : AgCfg) : Nat := 2 ^ g.esz

/-- An AG address reaches its stream unit (log 24): a feed port reads the element and delivers it as DATA; a
sink port stores the word at the head of its queue. None: the AG waits. An element of 8 bytes does not
fit a payload of 4, so what is delivered, or what fills the upper half, is a free value. -/
def State.unitAccess (s : State) (e : SiteRef) (g : AgCfg) (va : Word) : Option State × Bool :=
  let k := s.core e.coreRef
  let n := g.bytes
  if k.unitIsFeed g.tgt then
    match (k.feed g.tgt).bind with
    | none => (some s, true)
    | some (t, q) =>
      if 4 ≤ (k.inQueue t q).length then (none, false)
      else match s.agentReach (.port e.coreRef false g.tgt) e.coreRef va n n false with
        | .wait s' => (some s', false)
        | .fault s' c =>
          if (s.rect e.rect).fabricBusy then (none, false) else (some (s'.elementFault e.rect c va e.core), false)
        | .ok s' l pol =>
          let (s2, bs) := s'.readLoc e.rect l n pol
          let v : W32 := if n = 8 then (s.freeWord 5).setWidth 32 else BitVec.ofNat 32 (joinBytes bs)
          (some (s2.modCore e.coreRef (fun k =>
            let p := k.feed g.tgt
            (k.setInQueue t q (k.inQueue t q ++ [⟨.data, 0, v⟩])).setFeed g.tgt
              { p with position := p.position + 1, sinceMark := p.sinceMark + 1 })), true)
  else
    let p := k.sink g.tgt
    match p.queue with
    | [] => (none, false)
    | w :: rest =>
      let take := fun (s : State) => (s.modRect e.rect (fun x => x.tookWord e.core g.tgt p w)).modCore e.coreRef
        (fun k => k.setSink g.tgt { p with queue := rest })
      if w.kind ≠ .data then (some (take s), false)
      else match s.agentReach (.port e.coreRef true g.tgt) e.coreRef va n n true with
        | .wait s' => (some s', false)
        | .fault s' c =>
          if (s.rect e.rect).fabricBusy then (none, false) else (some (s'.elementFault e.rect c va e.core), false)
        | .ok s' l pol =>
          let x := s.rect e.rect
          let seg := x.segOf (x.sinkRecorded e.core g.tgt)
          let bs := (splitBytes 4 w.data.toNat ++ splitBytes 4 (s.freeWord 6).toNat).take n
          match l with
          | .peer pa =>
            if 4096 ≤ x.remote.length then (none, false)
            else (some ((take s').bufferRemote e.rect none pa va bs seg (seg + 1)), true)
          | _ => if !x.roomAt l then (none, false) else (some ((take s').writeLoc e.rect seg l bs pol), true)

/-- What an AG does next: its state, the inputs it consumes, its words with their addresses. -/
def agFire (g : AgCfg) (back : List Nat) (st : ElemState) (qs : List (List FWord)) (pl : W32) : FireRes × Option Word :=
  if g.mode = 2 then
    match tokenRule false [0] back qs st with
    | some r => (r, none)
    | none => match qhead qs 0 with
      | none => (.wait, none)
      | some w =>
        let a := agAddr g (sgn 32 w.data.toNat * g.d 0)
        (.fire { st := st, take := [0], out := [onX ⟨.data, 0, a.setWidth 32⟩] }, some a)
  else if st.stopped then (.wait, none)
  else
    let r := agNext g st pl
    (.fire { st := r.1, take := [], out := r.2.map (fun o => onX o.word) },
     match r.2 with
     | o :: _ => if o.word.kind = .data then some o.addr else none
     | [] => none)

/-- AG_EMIT (R194). -/
def execAgEmit (e : SiteRef) (s : State) : Outcome State Fault Refusal :=
  match (s.site e).cfg with
  | .ag g =>
    let y := s.site e
    let x := s.rect e.rect
    let fire := fun (s : State) => s.fireSite e (fun b st qs => (agFire g b st qs s.freePayload).1)
    let back := if (y.markHeads y.cfg.ins).isEmpty then [] else x.backOf e.core e.site
    (match (agFire g back y.st y.queues s.freePayload).2 with
     | some a =>
       if g.tgtsu && y.st.pend.isEmpty && x.fires then
         match s.unitAccess e g a with
         | (none, _) => .next s
         | (some s', false) => .next s'
         | (some s', true) => let s2 := fire s'; .next (if (s2.site e).st = y.st then s else s2)
       else .next (fire s)
     | none => .next (fire s))
  | _ => .next s

/-! ## Multicast stalls (R365) -/

/-- The emission that a site holds: of an earlier firing, or of the firing that it could make. -/
def State.blockedEmission (s : State) (e : SiteRef) (f : List Nat → ElemState → List (List FWord) → FireRes) : Option Emission :=
  let x := s.rect e.rect
  let y := s.site e
  match y.st.pend with
  | m :: _ => some m
  | [] => match f (if (y.markHeads y.cfg.ins).isEmpty then [] else x.backOf e.core e.site) y.st y.queues with
    | .fire r => r.out.head?
    | _ => none

/-- The function of a configured element. -/
def State.fireFn (s : State) (e : SiteRef) : List Nat → ElemState → List (List FWord) → FireRes :=
  let rd := (s.core e.coreRef).meRead e.site
  match (s.site e).cfg with
  | .empty => fun _ _ _ => .wait
  | .ag g => fun b st qs => (agFire g b st qs s.freePayload).1
  | .me c => match c.mode with
    | 0 => fireRd c rd
    | 1 => fireWr c
    | 2 => fireRmw c rd
    | 3 => fun _ => fireFifo c
    | 4 => fireDelay c
    | 5 => fireHist c rd
    | _ => fireFeedmx c rd
  | .ce c =>
    if c.opc ≤ 0x12 then fireInteger c
    else match c.opc with
    | 0x13 => fun b st qs => fireCnt c b st qs s.freePayload
    | 0x14 | 0x2B | 0x2C => fireRunning c
    | 0x15 => fireDly c
    | 0x16 => fireConst c
    | 0x2D => fireQnt c
    | 0x2E => fireDqnt c
    | 0x40 => fireSteer c
    | 0x41 => fireMerge c
    | 0x42 => fireGate c
    | 0x43 => fireDup c
    | 0x44 | 0x45 => fireTag c
    | 0x46 => firePrime c
    | 0x47 => fireLimit c
    | 0x48 => fireSeq c
    | 0x49 => fireReord c
    | 0x4A => fireBnd c
    | _ => fireFloat c

/-- TVAL and RSTAT.PORT of MCSTUCK for a lagging consumer (R365, Table 6.3). -/
def State.lagTval (s : State) (e : SiteRef) (w : FWord) (p : Place) : Word × Nat :=
  match p with
  | .queue c t q => (siteTval w.kind q ((s.core ⟨e.rect, c⟩).site t).cfg.opcode c t, 0xFF)
  | .net d => (siteTval w.kind d.queue ((s.core ⟨e.rect, d.core⟩).site d.site).cfg.opcode d.core d.site, 0xFF)
  | .sink c n => (siteTval w.kind 0xF (0xA0 + n) c (((s.core ⟨e.rect, c⟩).sink n).bind.map (·.1) |>.getD 0), n)
  | .cutBuf c t _ => (siteTval w.kind 0xF 0 c t, 0xFF)
  | .unit c n => (siteTval w.kind 0xF (0xA0 + n) c e.site, n)
  | .masked | .refused _ => (0, 0xFF)

/-- RSTAT after an MCSTUCK: MCS and PORT. -/
def Body.setMcs (b : Body) (port : Nat) : Body :=
  { b with rstat := (b.rstat &&& 0xFFFFFFFF00FFFFFF#64) ||| BitVec.ofNat 64 (port % 256 * 2 ^ 24) ||| 0x200#64 }

/-- MCSTALL_EXPIRY (R365): the count of a lasting stall reaches MCSTALL. MCSTUCK is raised unless a fabric
cause stands (R466); RSTAT records it; the count starts again. Which of several lagging consumers has
waited longest is a free choice. -/
def execMcstallExpiry (e : SiteRef) (out : Fin 2) (s : State) : Outcome State Fault Refusal :=
  let x := s.rect e.rect
  let y := s.site e
  let n := if out = 0 then y.stallX else y.stallY
  match s.blockedEmission e (s.fireFn e) with
  | none => .next s
  | some m =>
    match (if out = 0 then m.x else m.y) with
    | none => .next s
    | some w =>
      let ps := s.placesOf e out.val
      let lag := ps.filter (fun p => !s.hasRoom e.rect p w)
      if !x.phase.issues || x.body.fabricStop || x.body.mcstall == 0 || decide (n < x.body.mcstall.toNat + 1) || lag.isEmpty
          || !ps.any (fun p => s.hasRoom e.rect p w) then .next s
      else
        let p := lag.getD ((s.freeWord 7).toNat % lag.length) .masked
        let (v, port) := s.lagTval e w p
        let y' := if out = 0 then { y with stallX := 1 } else { y with stallY := 1 }
        let s1 := (s.setSite e y').modBody e.rect (fun b => b.setMcs port)
        .next (s1.raiseFabric e.rect 0x0D v e.core)

end Sys2Proof.Machine
end

