-- ==== Sys2Proof/Machine/Net.lean ====
section
/-! DEFINITION. The dynamic network (R361 to R363, R392, R394, R400), arrivals on virtual channels (R371,
R373), what EMPTY means (R490 to R492), and the replacement of a configuration by CFGLD (R310, R510). -/

namespace Sys2Proof.Machine

open Host (Outcome)

/-! ## Hops -/

/-- Physical core that a packet of a rectangle is for. -/
def Rect.packetGoal (x : Rect) (p : Packet) : Nat :=
  match p.payload with
  | .fabric d _ _ => x.phys d.core
  | .vcWord c _ _ _ => x.phys c

/-- R361: the output that a packet takes at a router under its dimension order. -/
def routeStep (yFirst : Bool) (at_ goal : Nat) : HopOut :=
  let ns := if at_ / 16 < goal / 16 then some HopOut.south else if goal / 16 < at_ / 16 then some .north else none
  let ew := if at_ % 16 < goal % 16 then some HopOut.east else if goal % 16 < at_ % 16 then some .west else none
  match (if yFirst then ns.orElse (fun _ => ew) else ew.orElse (fun _ => ns)) with
  | some o => o
  | none => .here

/-- Edge number of an output, and the router beyond it. -/
def hopEdge : HopOut → Nat
  | .north => 0 | .east => 1 | .south => 2 | .west => 3 | .here => 4
def hopNext (o : HopOut) (p : Nat) : Nat :=
  match o with
  | .north => p - 16 | .east => p + 1 | .south => p + 16 | .west => p - 1 | .here => p

/-- Phases in which packets of the rectangle travel (R494, Table 22.1). -/
def Phase.carries : Phase → Bool
  | .run | .drain | .freeze | .boundary => true
  | _ => false

/-- R130, R361: an earlier packet of the same source to the same queue or channel has not arrived. -/
def Body.outOfOrder (b : Body) (p : Packet) : Bool :=
  b.net.any (fun q => decide (q.id < p.id) && (match q.payload, p.payload with
    | .fabric d _ u, .fabric d' _ u' => decide (d = d') && decide (u = u')
    | .vcWord c v _ u, .vcWord c' v' _ u' => decide (c = c') && decide (v = v') && decide (u = u')
    | _, _ => false))

/-- Packets that wait at a router for an output, with their rectangles: the oldest that may move (R363). -/
def State.nextPacket (s : State) (router : Nat) (out : HopOut) : Option (Nat × Packet) :=
  let all := s.rects.flatMap (fun p =>
    if p.2.phase.carries then
      (p.2.body.net.filter (fun k =>
        decide (k.router = router) && decide (routeStep k.yFirst router (p.2.packetGoal k) = out)
          && !(decide (out = .here) && p.2.body.outOfOrder k))).map (fun k => (p.1, k))
    else [])
  all.foldl (fun m k => match m with
    | none => some k
    | some j => if k.2.id < j.2.id then some k else some j) none

def Body.dropPacket (b : Body) (id : Nat) : Body := { b with net := b.net.filter (fun p => decide (p.id ≠ id)) }

/-- R392, R394, R400: what a packet meets on an edge: a locked gate, a foreign tag, or nothing. -/
def State.edgeRefusal (s : State) (router next : Nat) (out : HopOut) : Option (Nat × Word) :=
  let back := (hopEdge out + 2) % 4
  if (s.gateOf router).getLsbD (hopEdge out) then some (0x06, edgeTval 0 (hopEdge out) router)
  else if (s.gateOf next).getLsbD back then some (0x06, edgeTval 0 back next)
  else if s.boxTag router ≠ s.boxTag next then some (0x07, edgeTval 0 back next)
  else none

/-- A fabric word of the network enters its credited slot (R362); where the record of that input is made and
its source, or a marker behind the word, is not, the word belongs to the record. -/
def State.landWord (s : State) (r : Nat) (k : Packet) (d : Dest) (w : FWord) (src : Nat) : State :=
  let x := s.rect r
  let behind := x.body.net.any (fun q => decide (k.id < q.id) && (match q.payload with
    | .fabric d' w' u => decide (d' = d) && decide (u = src) && decide (w'.kind = .mark)
    | _ => false))
  let late := x.isOpen (src / 128) (src % 128) || behind
  (s.modBody r (fun b => (b.dropPacket k.id).modCore d.core (fun c => c.setInQueue d.site d.queue (c.inQueue d.site d.queue ++ [w])))).modRect r
    (fun x => x.lateWord d.core d.site d.queue late w)

/-- DYNAMIC_PACKET_HOP (R361 to R363): the oldest packet waiting at an output of a router crosses it, or
enters its queue. A locked gate or a foreign tag refuses and drops it, and stops its rectangle (R394,
R400). -/
def execDynamicPacketHop (router : Nat) (out : HopOut) (s : State) : Outcome State Fault Refusal :=
  match s.nextPacket router out with
  | none => .next s
  | some (r, k) =>
    if out = .here then
      match k.payload with
      | .fabric d w src => .next (s.landWord r k d w src)
      | .vcWord _ _ _ _ => .next s
    else
      let next := hopNext out router
      match s.edgeRefusal router next out with
      | some (c, v) =>
        if (s.rect r).fabricBusy then .next s
        else .next (((s.modBody r (fun b => b.dropPacket k.id)).elementFault r c v
            (match k.payload with
             | .fabric _ _ src => src / 128
             | .vcWord _ _ _ u => u / 8)).modPart (s.rect r).part (fun p => { p with refusals := p.refusals + 1 }))
      | none => .next (s.modBody r (fun b =>
          { b with net := b.net.map (fun p => if p.id = k.id then { p with router := next } else p) }))

/-- VC_WORD_ARRIVE (R55, R373): a word enters the queue of its channel, in its sender's order. -/
def execVcWordArrive (c : CoreRef) (vc : Fin 16) (pkt : Nat) (s : State) : Outcome State Fault Refusal :=
  let x := s.rect c.rect
  match x.body.net.find? (fun p => decide (p.id = pkt)) with
  | none => .next s
  | some p =>
    match p.payload with
    | .vcWord core v w _ =>
      if core = c.core ∧ v = vc.val ∧ p.router = x.phys core ∧ x.phase.carries ∧ !x.body.outOfOrder p then
        .next (s.modBody c.rect (fun b => (b.dropPacket pkt).modCore core (fun k =>
          let q := k.vc v
          k.setVc v { q with queue := q.queue ++ [w] })))
      else .next s
    | .fabric _ _ _ => .next s

/-! ## EMPTY (R490 to R492) -/

/-- Words of a core that stand in queues, latches, buses or port staging. -/
def Core.busy (c : Core) : Bool :=
  c.sites.any (fun p => p.2.queues.any (fun q => !q.isEmpty) || !p.2.st.pend.isEmpty || p.2.st.busOut.isSome)
    || c.sinks.any (fun p => !p.2.queue.isEmpty)
    || c.engine.bus.any (fun p => !p.2.isEmpty) || !c.engine.control.isEmpty || !c.engine.index.isEmpty

/-- A requester belongs to a rectangle. -/
def Requester.inRect (r : Nat) : Requester → Bool
  | .task t => decide (t.rect = r)
  | .port c _ _ | .mx c _ => decide (c.rect = r)
  | .engine _ | .admission _ => false
  | .config k => decide (k = r)

/-- EMPTY: no word, packet, memory request or credit of the rectangle is on its way. Requests that wait for
a cut have not been sent. -/
def State.quiescent (s : State) (r : Nat) : Bool :=
  let x := s.rect r
  !x.body.cores.any (fun p => p.2.busy) && x.body.net.isEmpty
    && !s.accesses.any (fun a => decide (a.task.rect = r) && !s.awaitsCut a)
    && !s.walks.any (fun w => w.who.inRect r)
    && !x.remote.any (fun w => w.sent)

/-! ## CFGLD (R310) -/

/-- Reads the frames at the addresses of a pattern, in order. -/
def readFrames (pat : Pattern) : List Nat → State → List Frame → (State → List Frame → Flow) → Flow
  | [], s, acc, k => k s acc
  | i :: is, s, acc, k =>
    taskAccess s (patAddr pat i) 32 32 false .keep (fun s l p =>
      directRead s (patAddr pat i) l 32 p (fun s bs => readFrames pat is s (acc ++ [BitVec.ofNat 256 (joinBytes bs)]) k))

/-- R310: the first offending frame of a replacement. -/
def State.reloadFault (s : State) (r : Nat) (fs : List Frame) : Option Nat :=
  let x := s.rect r
  let t := s.tenant x.tag
  let barred := (List.range fs.length).filter (fun i => match fs[i]? with
    | some f => frameKind f == 0 || frameKind f == 7
    | none => false)
  leastOf (barred ++ frameFaults x.w x.h t.scopeMax t.scopeStrict x.spill 0 fs
    ++ wholeFaults fs (applyFrames 6 x.w x.h fs x.body.cores) x.w x.h)

/-- CFGLD (R310): the frames are read and checked; then the feed ports hold and the rectangle drains. The
instruction ends by QUIESCENCE_EMPTY or by CFGLD_DRAIN_TIMEOUT. -/
def execCfgld (g : Guard) (q : Fin 16) (b : Src) (s : State) : Outcome State Fault Refusal :=
  issueP g (fun t => if t.kmode then none else some 0) [srcNeed b] (fun s =>
    let pat := s.myCore.pattern q.val
    let n := ((s.me.reg b.r).setWidth 32).toNat
    let limit := if n = 0 then 2 ^ 20 else n
    readFrames pat (List.range (patTotal pat)) s [] (fun s fs =>
      match s.reloadFault s.cur.rect fs with
      | some i => .trap 0x10 (BitVec.ofNat 64 i)
      | none =>
        let now := (s.die (s.dieOfTask s.cur)).cycles.toNat
        .wait (s.modRect s.cur.rect (fun x =>
          { x with reload := some { task := s.cur, frames := fs, stores := now + limit, active := true } })) .drain)) s

/-- R310: EMPTY came; the named elements, switches and bindings are replaced, and a cut is requested. -/
def State.finishReload (s : State) (r : Nat) (rl : Reload) : State :=
  let x := s.rect r
  let mx := (s.tenant x.tag).scopeMax
  let s1 := s.modRect r (fun x =>
    ({ x with reload := none, body := { x.body with cores := applyFrames mx x.w x.h rl.frames x.body.cores } } : Rect).wantCut (x.started + 1))
  State.countIssue (s.core rl.task.coreRef) rl.task (s1.modTask rl.task (fun t => { t.loopEnd with wait := none }))

/-- R161: the head word waits for another input of the same firing. -/
def Site.halfMatched (x : Site) (q : Nat) : Bool :=
  x.cfg.ins.contains q && x.cfg.ins.any (fun i => decide (i ≠ q) && (x.queues.getD i []).isEmpty)

/-- R510: a residue word for each input queue that holds words, in order. -/
def Body.residueWords (b : Body) : List Word :=
  b.cores.flatMap (fun p => p.2.sites.flatMap (fun e => (List.range 4).filterMap (fun q =>
    match e.2.queues.getD q [] with
    | [] => none
    | w :: rest =>
      some (BitVec.ofNat 64 (2 ^ 63 + (if e.2.halfMatched q then 2 ^ 36 else 0) + (rest.length + 1) % 16 * 2 ^ 32
        + (siteTval w.kind q e.2.cfg.opcode p.1 e.1).toNat)))))

/-- CFGLD_DRAIN_TIMEOUT (R310, R510): EMPTY did not come in time; the residue words replace the buffer and the
task traps DRAIN. -/
def execCfgldDrainTimeout (rect : Nat) (s : State) : Outcome State Fault Refusal :=
  let x := s.rect rect
  match x.reload with
  | none => .next s
  | some rl =>
    if (s.die (s.dieOfTask rl.task)).cycles.toNat < rl.stores ∨ s.quiescent rect ∨ !x.phase.issues then .next s
    else
      let ws := x.body.residueWords
      let s1 := s.modRect rect (fun x => { x with reload := none, body := { x.body with residue := ws.take 64 } })
      let s2 := s1.modTask rl.task (fun t => { t with wait := none })
      .next (s2.raise rl.task 0x15 (BitVec.ofNat 64 ws.length) (s2.task rl.task).pc)

/-- RESIDUE_WORD_ENQUEUE (R510): the first residue word enters a free place of vc15 of core (0, 0). -/
def execResidueWordEnqueue (rect : Nat) (s : State) : Outcome State Fault Refusal :=
  let b := (s.rect rect).body
  match b.residue with
  | [] => .next s
  | w :: rest =>
    let v := (b.core 0).vc 15
    let word : VcWord := { kind := .stat, word := w }
    if 8 ≤ v.queue.length ∨ !(s.rect rect).phase.hears then .next s
    else .next (s.modBody rect (fun b =>
      ({ b with residue := rest } : Body).modCore 0 (fun c => c.setVc 15 { v with queue := v.queue ++ [word] })))

end Sys2Proof.Machine
end

