-- ==== Sys2Proof/Machine/Engines.lean ====
section
/-! DEFINITION. Engine commands (R314 to R320, R341), the shared classes and their arbiters (R356 to R360),
timelines, sleeps and the time base (R287, R321 to R323). -/

namespace Sys2Proof.Machine

open Host (Outcome)

/-! ## Sorted numbers -/

def insertNat (a : Nat) : List Nat → List Nat
  | [] => [a]
  | b :: l => if a = b then b :: l else if a < b then a :: b :: l else b :: insertNat a l

/-- Rising, without repeats. -/
def sortNat (l : List Nat) : List Nat := l.foldr insertNat []

/-- The first of a rising list after `last`, in cyclic order, that a test admits. -/
def nextAfter (last : Nat) (ok : Nat → Bool) (l : List Nat) : Option Nat :=
  (l.filter (fun x => decide (last < x)) ++ l.filter (fun x => decide (x ≤ last))).find? ok

/-! ## Shares and promises (R315, R358) -/

/-- Partitions with an enabled core on a die. -/
def State.partsOnDie (s : State) (d : Nat) : List Nat :=
  sortNat (((List.range 256).filter (fun p => decide (dieOf p = d) && s.coreEnabled p)).map (partOf s.mode))

/-- Live tenants of a partition, by rising tag. -/
def State.tenantsOf (s : State) (part : Nat) : List Nat :=
  (s.tenants.filter (fun p => decide (p.2.part = part))).map (·.1)

def sumNat (l : List Nat) : Nat := l.foldl (· + ·) 0

/-- R358, with 1 in place of 0 (R315). -/
def State.shareOf (s : State) (rate die tag : Nat) : Nat :=
  let t := s.tenant tag
  let sp := sumNat ((s.partsOnDie die).map (fun p => (s.part p).weight))
  let st := sumNat ((s.tenantsOf t.part).map (fun k => (s.tenant k).wt))
  max 1 (rate * (s.part t.part).weight * t.wt / (sp * st))

/-- Words of a packet of K codes (R114, R201). -/
def packetWords (fd : BitVec 16) (blk k : Nat) : Nat :=
  let nsc := if fdStandard fd then 0 else ceilDiv k (blkLen blk)
  1 + ceilDiv nsc 3 + ceilDiv (k * (fmtOf fd).w) 32

/-- Rows of CPYQ (R318). -/
def patRows (p : Pattern) : Nat := patCount p 1 * patCount p 2 * patCount p 3

/-- Units of a command: elements or rows. -/
def EngCmd.units (e : EngCmd) : Nat :=
  match e.op with
  | .cpy _ => patTotal e.patB
  | .cpyq _ _ _ _ _ _ => patRows e.patB
  | .gemv _ _ => patCount e.patM 0

/-- Bytes that a unit moves (R315). -/
def EngCmd.unitBytes (e : EngCmd) : Nat :=
  match e.op with
  | .cpy n => n
  | .cpyq _ _ blk fd _ _ => 4 * packetWords fd blk (patCount e.patB 0)
  | .gemv _ _ => (patStride e.patM 0).natAbs

def EngCmd.isGemv (e : EngCmd) : Bool := match e.op with | .gemv _ _ => true | _ => false

/-- Every engine command with the number of its rectangle. -/
def State.engCmds (s : State) : List (Nat × EngCmd) :=
  s.rects.flatMap (fun p => p.2.body.eng.map (fun e => (p.1, e)))

/-- Q of R315: bytes still to move for the tenant's commands on one class of a die. -/
def State.queuedBytes (s : State) (tag die : Nat) (gemv : Bool) : Nat :=
  sumNat ((s.engCmds.filter (fun p => decide ((s.rect p.1).tag = tag) && decide (p.2.die = die) && p.2.isGemv == gemv)).map
    (fun p => (p.2.units - p.2.at_) * p.2.unitBytes))

/-- Rc of Table 14.3. -/
def classRate (gemv : Bool) : Nat := if gemv then 48000 else 3850

/-- R315. -/
def State.promise (s : State) (e : EngCmd) : Word :=
  let tag := s.myRect.tag
  let g := e.isGemv
  (s.die e.die).timebase
    + BitVec.ofNat 64 (ceilDiv (s.queuedBytes tag e.die g + e.units * e.unitBytes) (s.shareOf (classRate g) e.die tag) + 250)

/-! ## Sealed weight store (R263) -/

/-- Phases in which a rectangle's seal holds. -/
def Phase.seals : Phase → Bool
  | .swapped | .ended => false
  | _ => true

def framesBind (fs : List Frame) : Bool := match fs with | f :: _ => imageNeeds f 3 | [] => false

/-- R263: a binding rectangle of the tenant runs, or one has been admitted and has not started. -/
def State.sealed (s : State) (tag : Nat) : Bool :=
  s.rects.any (fun p => decide (p.2.tag = tag) && p.2.phase.seals && framesBind p.2.frames)
    || s.launches.any (fun l => decide (l.tag = tag) && (decide (l.phase = .pending) || decide (l.phase = .chosen))
        && framesBind l.frames)

/-- Addresses that a copy writes, one for each 4-byte word or element. -/
def EngCmd.destAddrs (e : EngCmd) : List Word :=
  match e.op with
  | .cpy _ => (List.range e.units).map (patAddr e.patA)
  | .cpyq _ _ blk fd _ _ => (List.range e.units).flatMap (fun r =>
      (List.range (packetWords fd blk (patCount e.patB 0))).map (fun k => patAddr e.patA r + BitVec.ofNat 64 (4 * k)))
  | .gemv _ _ => []

/-- R314 step 2: the first address in sealed weight store. -/
def State.sealHit (s : State) (e : EngCmd) : Option Word :=
  let tag := s.myRect.tag
  if !s.sealed tag then none
  else e.destAddrs.find? (fun a => decide (a.toNat < windowBase) &&
    (match s.vaToPa tag a.toNat with | some pa => isWeightStore pa | none => false))

/-! ## Issue (R314) -/

/-- What the four instructions share: the wait of R341, the count check (its TVAL where it fails), the
seal, the number, the promise, the queue. `after` does what the entry adds. -/
def engineFlow (s : State) (d : Reg) (tl : Nat) (op : EngOp) (qa qb qm : Fin 16) (bad : EngCmd → Option Nat)
    (after : EngCmd → State → State) : Flow :=
  let c := s.myCore
  if 32 ≤ s.outstanding s.cur.coreRef then .wait s .engineQueue
  else
    let (s1, id) := s.fresh
    let (c1, num) := c.takeNumber tl
    let e : EngCmd :=
      { id := id, core := s.cur.core, slot := s.cur.slot, op := op, patA := c.pattern qa.val, patB := c.pattern qb.val,
        patM := c.pattern qm.val, tl := tl, num := num, die := s.dieOfTask s.cur, src := [], started := false, at_ := 0,
        off := 0, finished := false, fault := false }
    match bad e with
    | some v => .trap 0x10 (BitVec.ofNat 64 v)
    | none =>
      match s.sealHit e with
      | some a => .trap 0x16 a
      | none =>
        let p := s.promise e
        let e' := { e with finished := decide (e.units = 0) }
        let s2 := ((s1.setCore s.cur.coreRef c1).modTask s.cur (fun t => t.write d p)).modBody s.cur.rect
          (fun b => { b with eng := b.eng ++ [e'] })
        .go (after e' s2)

/-- The check of CPY and CPYMX. -/
def cpyBad (e : EngCmd) : Option Nat := if patTotal e.patA = patTotal e.patB then none else some (patTotal e.patB)

def cpyBytes : CpySize → Nat
  | .b => 1 | .h => 2 | .w => 4 | .d => 8 | .e32 => 32 | .e128 => 128

/-- CPY (R316). -/
def execCpy (g : Guard) (esz : CpySize) (d : Reg) (qa qb : Fin 16) (tl : Fin 8) (s : State) : Outcome State Fault Refusal :=
  issue g [.dst d] (fun s => engineFlow s d tl.val (.cpy (cpyBytes esz)) qa qb 0 cpyBad (fun _ s => s)) s

/-- CPYMX (R317): matrix commands that the core issues later wait for it. -/
def execCpymx (g : Guard) (esz : CpySize) (d : Reg) (qa qb : Fin 16) (tl : Fin 8) (s : State) : Outcome State Fault Refusal :=
  issue g [.dst d] (fun s => engineFlow s d tl.val (.cpy (cpyBytes esz)) qa qb 0 cpyBad (fun e s =>
    s.modCore s.cur.coreRef (fun c => { c with engine := { c.engine with gates := c.engine.gates ++ [(e.id, s.nextId)] } }))) s

/-- CPYQ (R318): the rows take their dither phases from FPMODE, whose phase advances by all of them. -/
def execCpyq (g : Guard) (bf : Bool) (rm : Rm) (blk : Blk) (fd : BitVec 16) (d : Reg) (qa qb : Fin 16) (tl : Fin 8)
    (s : State) : Outcome State Fault Refusal :=
  issue g [.dst d] (fun s =>
    let fm := s.me.fpmode.toNat
    let op := EngOp.cpyq bf rm blk.code fd (fm / 16) (fm % 16)
    engineFlow s d tl.val op qa qb 0
      (fun e => if patTotal e.patA = e.units then none else some e.units)
      (fun e s => s.modTask s.cur (fun t =>
        { t with fpmode := BitVec.ofNat 8 ((fm / 16 + e.units * (fm % 16)) % 16 * 16 + fm % 16) }))) s

/-- GEMV (R319). -/
def execGemv (g : Guard) (acc : Bool) (fd : BitVec 16) (d : Reg) (qa qb : Fin 16) (tl : Fin 8) (qm : Fin 16)
    (s : State) : Outcome State Fault Refusal :=
  issue g [.dst d] (fun s => engineFlow s d tl.val (.gemv acc fd) qa qb qm
    (fun e =>
      let n := patCount e.patM 0
      if patTotal e.patA = n ∧ patCount e.patM 1 = 1 ∧ patCount e.patM 2 = 1 ∧ patCount e.patM 3 = 1 then none else some n)
    (fun _ s => s)) s

/-! ## Engines at memory -/

/-- The checks of R292 for an engine command. -/
def State.engReach (s : State) (r : Nat) (e : EngCmd) (va : Word) (n : Nat) (write : Bool) : AgentReach :=
  let x := s.rect r
  let who := Requester.engine e.id
  if va.toNat % n ≠ 0 then .fault s 0x04
  else if 2 ^ 48 ≤ va.toNat then .fault s 0x05
  else match s.reach r who (engineCache e.die) e.die va.toNat n write (!e.isGemv) with
    | .access => .fault (s.forgetRefusal who) 0x05
    | .miss => .wait (s.startWalk who e.die x.part x.tag va.toNat write).1
    | .at_ l bp =>
      if s.tagPass x.tag l write then .ok ((s.touchTlb (engineCache e.die) e.die x.tag va.toNat).monitored e.die l) l (if bp then .bypass else .keep)
      else .fault s 0x05

/-- What a piece of an engine command's work comes to. -/
inductive EngRes (α : Type)
  | ok (s : State) (v : α)
  | wait (s : State)
  | fault (s : State) (c : Nat) (va : Word)

/-- Reads `n` bytes for a command: the issuing task's earlier stores are observed (Table 10.3). -/
def State.engRead (s : State) (r : Nat) (e : EngCmd) (va : Word) (n : Nat) (ok : Loc → Bool) : EngRes (List Byte) :=
  match s.engReach r e va n false with
  | .wait s1 => .wait s1
  | .fault s1 c => .fault s1 c va
  | .ok s1 l pol =>
    let t : TaskRef := ⟨r, e.core, e.slot⟩
    if !ok l then .fault s 0x05 va
    else if s1.readBlocked t e.id l n then .wait s
    else match l with
      | .phys pa => if refreshing pa (s.die (pa / 2 ^ 29 % 4)).timebase.toNat then .wait s
          else let (s2, bs) := s1.readLoc r l n pol; .ok s2 (s2.overlay t e.id l bs)
      | _ => let (s2, bs) := s1.readLoc r l n pol; .ok s2 (s2.overlay t e.id l bs)

/-- Reads elements at a list of addresses. -/
def State.engReads (r : Nat) (e : EngCmd) (n : Nat) (ok : Loc → Bool) : List Word → State → EngRes (List Byte)
  | [], s => .ok s []
  | a :: as, s =>
    match s.engRead r e a n ok with
    | .ok s1 bs =>
      (match State.engReads r e n ok as s1 with
       | .ok s2 cs => .ok s2 (bs ++ cs)
       | .wait s2 => .wait s2
       | .fault s2 c v => .fault s2 c v)
    | .wait s1 => .wait s1
    | .fault s1 c v => .fault s1 c v

/-- Writes bytes for a command: remote ones wait in the buffer for a cut (R474). -/
def State.engWrite (s : State) (r : Nat) (e : EngCmd) (va : Word) (bs : List Byte) (ok : Loc → Bool) : EngRes Unit :=
  match s.engReach r e va bs.length true with
  | .wait s1 => .wait s1
  | .fault s1 c => .fault s1 c va
  | .ok s1 l pol =>
    let x := s.rect r
    let seg := x.segOf true
    if !ok l then .fault s 0x05 va
    else match l with
      | .peer pa => if 4096 ≤ x.remote.length then .wait s else .ok (s1.bufferRemote r none pa va bs seg (seg + 1)) ()
      | _ => if !x.roomAt l then .wait s else .ok (s1.writeLoc r seg l bs pol) ()

def anyLoc (_ : Loc) : Bool := true
/-- Local paged HBM (R319). -/
def hbmLoc (l : Loc) : Bool := match l with | .phys pa => isHbm pa | _ => false
/-- One stack of HBM holds the location (Table 9.2, R319). -/
def stackLoc (h : Nat) (l : Loc) : Bool := match l with | .phys pa => isHbm pa && decide (pa / 2 ^ 36 = h) | _ => false

def State.modEng (s : State) (r id : Nat) (f : EngCmd → EngCmd) : State :=
  s.modBody r (fun b => { b with eng := b.eng.map (fun e => if e.id = id then f e else e) })

/-- R320: the command stops; its cause is fabric. -/
def State.engFault (s : State) (r : Nat) (e : EngCmd) (c : Nat) (va : Word) : State :=
  (s.modEng r e.id (fun x => { x with fault := true })).raiseFabric r c va e.core

/-- What a grant leaves, with the bytes that it moved. -/
def State.engEnd {α : Type} (r : Nat) (e : EngCmd) (k : State → α → State × Nat) (x : EngRes α) : State × Nat :=
  match x with
  | .ok s v => k s v
  | .wait s => (s, 0)
  | .fault s c v => (s.engFault r e c v, 0)

def State.engCmd (s : State) (r id : Nat) : Option EngCmd := (s.rect r).body.eng.find? (fun e => decide (e.id = id))

/-- R316: copies elements, every source element before any destination element; `fuel` elements at
most. -/
def State.copyChunk (r id n : Nat) : Nat → State → State × Nat
  | 0, s => (s, 0)
  | fuel + 1, s =>
    match s.engCmd r id with
    | none => (s, 0)
    | some e =>
      let total := e.units
      if e.finished then (s, 0)
      else if e.src.length < total * n then
        State.engEnd r e (fun s1 bs =>
          let rest := State.copyChunk r id n fuel (s1.modEng r id (fun x => { x with src := x.src ++ bs }))
          (rest.1, rest.2 + n)) (s.engRead r e (patAddr e.patB (e.src.length / n)) n anyLoc)
      else
        State.engEnd r e (fun s1 _ =>
          let rest := State.copyChunk r id n fuel (s1.modEng r id (fun x =>
            { x with at_ := x.at_ + 1, finished := decide (x.at_ + 1 = total) }))
          (rest.1, rest.2 + n)) (s.engWrite r e (patAddr e.patA e.at_) ((e.src.drop (n * e.at_)).take n) anyLoc)

/-- Bytes as 4-byte words. -/
def wordsOf : Nat → List Byte → List W32
  | 0, _ => []
  | n + 1, bs => BitVec.ofNat 32 (joinBytes (bs.take 4)) :: wordsOf n (bs.drop 4)

/-- Elements of `n` bytes as numbers. -/
def numbersOf (n : Nat) : Nat → List Byte → List Nat
  | 0, _ => []
  | k + 1, bs => joinBytes (bs.take n) :: numbersOf n k (bs.drop n)

/-- The packet of a source row (R318) and its flags. -/
def cpyqPacket (bf : Bool) (rm : Rm) (blk : Nat) (fd : BitVec 16) (phase : Nat) (raw : List Nat) : List W32 × Flags :=
  let r := quantRow (fmtOf fd) fd rm blk phase (raw.map (decodeNum (if bf then bf16 else fp32)))
  (r.1.map (·.2), r.2)

/-- Writes what is left of a row's packet, a word at a time. -/
def State.rowWords (r id : Nat) : Nat → State → State × Nat
  | 0, s => (s, 0)
  | fuel + 1, s =>
    match s.engCmd r id with
    | none => (s, 0)
    | some e =>
      if e.src.isEmpty then (s, 0)
      else
        State.engEnd r e (fun s1 _ =>
          let s2 := s1.modEng r id (fun x =>
            if x.off + 4 = x.src.length then
              { x with src := [], off := 0, at_ := x.at_ + 1, finished := decide (x.at_ + 1 = x.units) }
            else { x with off := x.off + 4 })
          let rest := State.rowWords r id fuel s2
          (rest.1, rest.2 + 4))
          (s.engWrite r e (patAddr e.patA e.at_ + BitVec.ofNat 64 e.off) ((e.src.drop e.off).take 4) anyLoc)

/-- R318: one row of a CPYQ, at most 4 KiB of it at a grant (Table 14.3). -/
def State.quantUnit (s : State) (r : Nat) (e : EngCmd) (bf : Bool) (rm : Rm) (blk : Nat) (fd : BitVec 16) (ph step : Nat) :
    State × Nat :=
  let k := patCount e.patB 0
  let n := if bf then 2 else 4
  let words := packetWords fd blk k
  if !e.src.isEmpty then State.rowWords r e.id (min words 1024) s
  else
    State.engEnd r e (fun s1 bs =>
      let p := cpyqPacket bf rm blk fd ((ph + e.at_ * step) % 16) (numbersOf n k bs)
      let s2 := (s1.modEng r e.id (fun x => { x with src := p.1.flatMap (fun w => splitBytes 4 w.toNat) })).modBody r
        (fun b => b.flags p.2)
      State.rowWords r e.id (min words 1024) s2)
      (State.engReads r e n anyLoc ((List.range k).map (fun i => patAddr e.patB (e.at_ * k + i))) s)

/-- Reads a packet of K codes: its header word, then the rest. -/
def State.readPacket (s : State) (r : Nat) (e : EngCmd) (va : Word) (k : Nat) (ok : Loc → Bool) : EngRes (List Byte) :=
  match s.engRead r e va 4 ok with
  | .ok s1 h =>
    let hw := BitVec.ofNat 32 (joinBytes h)
    let n := if hdrFdOk (hdrFd hw) then imageBeats [hw] k else 1
    (match State.engReads r e 4 ok ((List.range (n - 1)).map (fun i => va + BitVec.ofNat 64 (4 * (i + 1)))) s1 with
     | .ok s2 bs => .ok s2 (h ++ bs)
     | .wait s2 => .wait s2
     | .fault s2 c v => .fault s2 c v)
  | .wait s1 => .wait s1
  | .fault s1 c v => .fault s1 c v

/-- Address of row `i` of a GEMV matrix (R319). -/
def EngCmd.rowAddr (e : EngCmd) (i : Nat) : Word :=
  BitVec.ofInt 64 ((patBase e.patM : Int) + (i : Int) * patStride e.patM 0)

/-- The stack that holds the next row of a GEMV. -/
def State.rowStack (s : State) (r : Nat) (e : EngCmd) : Nat :=
  match s.vaToPa (s.rect r).tag (e.rowAddr e.at_).toNat with
  | some pa => if isHbm pa then pa / 2 ^ 36 else 2 * e.die
  | none => 2 * e.die

/-- Result of one row (R319): `mat` and `vec` are packets; a fault names the operand. -/
def gemvRow (fd : BitVec 16) (k : Nat) (mat vec : List W32) (acc : W32) : Except (Cause × Nat) (W32 × Flags) :=
  let cfg := { MxSlot.launch with fda := fd }
  let fa := packetFd mat
  let scaled := fdNarrow fa
  match headerFault cfg scaled k [mat] [vec] with
  | some f => .error f
  | none =>
    let L := packetL mat
    let blocks := ceilDiv k L
    let t0 := { Tile.blank with vals := Sparse.set 0#32 acc [] 0 }
    let r := (List.range blocks).foldl (fun (a : Tile × Flags) b =>
      let q := a.1.addBlock [0] 1 (fun _ _ => blockContrib mat vec k L b)
      (q.1, a.2 ||| q.2)) (t0, 0#5)
    .ok (r.1.at 0 0, r.2)

/-- R319: the next row of a GEMV; the vector is read once. -/
def State.gemvUnit (s : State) (r : Nat) (e : EngCmd) (acc : Bool) (fd : BitVec 16) : State × Nat :=
  let k := patCount e.patB 0
  let vecVa := BitVec.ofNat 64 (patBase e.patB)
  if e.src.isEmpty then
    State.engEnd r e (fun s1 bs => (s1.modEng r e.id (fun x => { x with src := bs }), bs.length))
      (s.readPacket r e vecVa k hbmLoc)
  else
    let row := e.rowAddr e.at_
    let dst := patAddr e.patA e.at_
    let h := s.rowStack r e
    State.engEnd r e (fun s1 m =>
      let old := if acc then s1.engRead r e dst 4 hbmLoc else .ok s1 [0, 0, 0, 0]
      State.engEnd r e (fun s2 a =>
        match gemvRow fd k (wordsOf (m.length / 4) m) (wordsOf (e.src.length / 4) e.src) (BitVec.ofNat 32 (joinBytes a)) with
        | .error f => (s2.engFault r e f.1.code (if f.2 = 0 then row else vecVa), 0)
        | .ok v =>
          State.engEnd r e (fun s3 _ =>
            ((s3.modBody r (fun b => b.flags v.2)).modEng r e.id (fun x =>
              { x with at_ := x.at_ + 1, finished := decide (x.at_ + 1 = x.units) }), m.length))
            (s2.engWrite r e dst (splitBytes 4 v.1.toNat) hbmLoc)) old)
      (s.readPacket r e row k (stackLoc h))

/-- One grant to a command (Table 14.3). -/
def State.grantUnit (s : State) (r : Nat) (e : EngCmd) : State × Nat :=
  let s1 := s.modEng r e.id (fun x => { x with started := true })
  match e.op with
  | .cpy n => State.copyChunk r e.id n (4096 / n) s1
  | .cpyq bf rm blk fd ph st => s1.quantUnit r e bf rm blk fd ph st
  | .gemv acc fd => s1.gemvUnit r e acc fd

/-! ## Arbiters (R357, R360) -/

/-- R314, R320: the command may be granted a unit: it has not finished, no stopped command stands before it
on its timeline, every earlier command of the timeline has started, and it waits for no walk. -/
def State.engReady (s : State) (r : Nat) (e : EngCmd) : Bool :=
  let x := s.rect r
  !e.finished && decide (x.phase ≠ .ended) && x.soft.isNone
    && !x.body.eng.any (fun f => decide (f.core = e.core) && decide (f.tl = e.tl) && decide (f.num ≤ e.num)
        && (f.fault || (decide (f.num < e.num) && !f.started && !f.finished)))
    && !s.walks.any (fun w => decide (w.who = .engine e.id))

/-- Quantum per weight and key of a class (Table 14.3). -/
def classQuantum : SharedClass → Nat
  | .copy _ => 4096 | .gemv _ => 65536 | .hbm _ => 256
def classKey : SharedClass → Nat
  | .copy d => d | .gemv h => 16 + h | .hbm c => 64 + c

/-- Deficits after those of parties without backlog are set to 0. -/
def keepOnly (keys : List Nat) (m : Sparse Int) : Sparse Int := m.filter (fun p => keys.contains p.1)

/-- The next party with a positive deficit; if there is none, every backlogged party is replenished and
the choice repeats. -/
def deficitChoose (last : Nat) (keys : List Nat) (quantum : Nat → Nat) : Nat → Sparse Int → Option (Nat × Sparse Int)
  | 0, _ => none
  | fuel + 1, m =>
    match nextAfter last (fun k => decide (0 < Sparse.get 0 m k)) keys with
    | some k => some (k, m)
    | none => deficitChoose last keys quantum fuel
        (keys.foldl (fun m k => Sparse.set 0 (Sparse.get 0 m k + (quantum k : Int)) m k) m)

/-- Replenishments that certainly bring one party above 0. -/
def deficitRounds (keys : List Nat) (m : Sparse Int) : Nat :=
  2 + sumNat (keys.map (fun k => (-(Sparse.get 0 m k)).toNat)) / 256

/-- R357: the partition and tenant to be served among the backlogged (partition, tag) pairs. -/
def State.arbitrate (s : State) (cls : SharedClass) (back : List (Nat × Nat)) : Option (Nat × Nat × Arbiter) :=
  let a := Sparse.at Arbiter.idle s.arbiters (classKey cls)
  let ps := sortNat (back.map (·.1))
  let dp := keepOnly ps a.dp
  match deficitChoose a.lastP ps (fun p => classQuantum cls * (s.part p).weight) (deficitRounds ps dp) dp with
  | none => none
  | some (p, dp) =>
    let ts := sortNat ((back.filter (fun b => decide (b.1 = p))).map (·.2))
    let dt := keepOnly (sortNat (back.map (·.2))) a.dt
    match deficitChoose (Sparse.at (2 ^ 16) a.lastT p) ts (fun t => classQuantum cls * (s.tenant t).wt) (deficitRounds ts dt) dt with
    | none => none
    | some (t, dt) => some (p, t, { lastP := p, lastT := Sparse.put t a.lastT p, dp := dp, dt := dt })

/-- The arbiter after a grant of `n` bytes. -/
def Arbiter.charge (a : Arbiter) (p t n : Nat) : Arbiter :=
  { a with dp := Sparse.set 0 (Sparse.get 0 a.dp p - (n : Int)) a.dp p, dt := Sparse.set 0 (Sparse.get 0 a.dt t - (n : Int)) a.dt t }

/-- Device channel of an HBM address (R26, Table 9.2). -/
def hbmChannel (pa : Nat) : Nat := 32 * (pa / 2 ^ 36) + pa / 256 % 32

/-- Accesses that a channel may perform now: nothing of Table 10 holds them and they pass their slices. -/
def State.channelReady (s : State) (c : Nat) (a : Access) : Bool :=
  match a.loc with
  | .phys pa =>
    let x := s.rect a.task.rect
    isHbm pa && decide (hbmChannel pa = c) &&
      ((s.sliceFor x.tag pa a.policy).isNone || (s.findLine x.tag (pa / 128)).isNone)
      && !(s.orderBlocked a || decide (x.complete < a.cut) || s.ackBlocked a || !s.roomFor a || s.needsReplay a)
      && s.tagPass x.tag a.loc (!a.kind.isLoad)
  | _ => false

/-- The oldest command of a tenant in a class that may be granted a unit. -/
def State.classCmds (s : State) (cls : SharedClass) : List (Nat × EngCmd) :=
  match cls with
  | .copy d => s.engCmds.filter (fun p => !p.2.isGemv && decide (p.2.die = d) && s.engReady p.1 p.2)
  | .gemv h => s.engCmds.filter (fun p => p.2.isGemv && decide (s.rowStack p.1 p.2 = h) && s.engReady p.1 p.2)
  | .hbm _ => []

def oldestCmd (l : List (Nat × EngCmd)) : Option (Nat × EngCmd) :=
  l.foldl (fun m p => match m with
    | none => some p
    | some q => if p.2.id < q.2.id then some p else some q) none

/-- SHARED_CLASS_GRANT (R356, R357, R360): one unit of the tenant that the arbiter serves. -/
def execSharedClassGrant (cls : SharedClass) (s : State) : Outcome State Fault Refusal :=
  match cls with
  | .hbm c =>
    let ok := s.accesses.filter (s.channelReady c)
    (match s.arbitrate cls (ok.map (fun a => ((s.rect a.task.rect).part, (s.rect a.task.rect).tag))) with
     | none => .next s
     | some (p, t, arb) =>
       match ok.find? (fun a => decide ((s.rect a.task.rect).tag = t)) with
       | none => .next s
       | some a =>
         let s1 := s.perform a
         .next { s1 with arbiters := Sparse.put (arb.charge p t (max 32 a.kind.bytes)) s1.arbiters (classKey cls) })
  | _ =>
    let ok := s.classCmds cls
    match s.arbitrate cls (ok.map (fun p => ((s.rect p.1).part, (s.rect p.1).tag))) with
    | none => .next s
    | some (p, t, arb) =>
      match oldestCmd (ok.filter (fun q => decide ((s.rect q.1).tag = t))) with
      | none => .next s
      | some (r, e) =>
        let (s1, n) := s.grantUnit r e
        if s1 = s then .next s
        else .next { s1 with arbiters := Sparse.put (arb.charge p t n) s1.arbiters (classKey cls) }

/-- ENGINE_COMMAND_COMPLETE (R314, R53): the last write of a command has been performed, remote ones
acknowledged; gates that stand for it open (R317). -/
def execEngineCommandComplete (id : Nat) (s : State) : Outcome State Fault Refusal :=
  match s.engCmds.find? (fun p => decide (p.2.id = id)) with
  | none => .next s
  | some (r, e) =>
    if !e.finished || (s.rect r).remote.any (fun w => w.task.isNone) then .next s
    else
      let s1 := s.modBody r (fun b =>
        ({ b with eng := b.eng.filter (fun x => decide (x.id ≠ id)) } : Body).modCore e.core (fun c =>
          { c with engine := { c.engine with gates := c.engine.gates.filter (fun g => decide (g.1 ≠ id)) } }))
      .next (s1.complete ⟨r, e.core⟩ e.tl e.num true)

/-! ## Timelines and time (R287, R321 to R323) -/

/-- R287: the default scope, PART but never above SCOPEMAX. -/
def State.defaultScope (s : State) : Scope :=
  let m := (s.tenant s.myRect.tag).scopeMax
  if m < 4 then (Scope.ofCode m).getD .core else .part

/-- TLWAIT (R321): with 0 it completes at once and acquires nothing. -/
def execTlwait (g : Guard) (sc : Option Scope) (tl : Fin 8) (a : Src) (s : State) : Outcome State Fault Refusal :=
  issue g [srcNeed a] (fun s =>
    let n := (s.me.reg a.r).toNat
    let body := fun (s : State) (sc : Scope) =>
      if n = 0 then Flow.go s
      else if n ≤ (s.myCore.tline tl.val).c then .go (s.acquireWork s.myRect.tag sc)
      else .wait s (.timeline tl.val n none)
    match sc with
    | some sc => clipped s sc body
    | none => body s s.defaultScope) s

/-- TLREAD (R321). -/
def execTlread (g : Guard) (d : Reg) (tl : Fin 8) (s : State) : Outcome State Fault Refusal :=
  issue g [.dst d] (fun s => .go (s.modTask s.cur (fun t => t.write d (BitVec.ofNat 64 (s.myCore.tline tl.val).c)))) s

/-- TLNUM (R321). -/
def execTlnum (g : Guard) (d : Reg) (tl : Fin 8) (s : State) : Outcome State Fault Refusal :=
  issue g [.dst d] (fun s => .go (s.modTask s.cur (fun t => t.write d (BitVec.ofNat 64 (s.myCore.tline tl.val).i)))) s

/-- R322, R369: the wake flag of the issuing task ends its sleep and clears. -/
def State.wokeUp (s : State) : State := s.modTask s.cur (fun t => { t with wake := false })

/-- SLEEPT (R322). -/
def execSleept (g : Guard) (a : Src) (s : State) : Outcome State Fault Refusal :=
  issue g [srcNeed a] (fun s =>
    let v := s.me.reg a.r
    if s.me.wake then .go s.wokeUp
    else if v.toNat ≤ (s.timeOf s.cur.coreRef).toNat then .go s
    else .wait s (.sleep v)) s

/-- SLEEPT.P (R322): C reaches n, the time is reached first, or a wake. -/
def execSleeptP (g : Guard) (a : Src) (tl : Fin 8) (b : Src) (s : State) : Outcome State Fault Refusal :=
  issue g [srcNeed a, srcNeed b] (fun s =>
    let v := s.me.reg a.r
    let n := (s.me.reg b.r).toNat
    if s.me.wake then .go s.wokeUp
    else if n ≤ (s.myCore.tline tl.val).c then .go (s.acquireWork s.myRect.tag s.defaultScope)
    else if v.toNat ≤ (s.timeOf s.cur.coreRef).toNat then .trap 0x08 (BitVec.ofNat 64 n)
    else .wait s (.sleepP v tl.val n)) s

/-- TIME (R323, R13). -/
def execTime (g : Guard) (d : Reg) (s : State) : Outcome State Fault Refusal :=
  issue g [.dst d] (fun s => .go (s.modTask s.cur (fun t => t.write d (s.timeOf s.cur.coreRef)))) s

/-- CYC (R323, R15). -/
def execCyc (g : Guard) (d : Reg) (s : State) : Outcome State Fault Refusal :=
  issue g [.dst d] (fun s => .go (s.modTask s.cur (fun t => t.write d (s.die (s.dieOfTask s.cur)).cycles))) s

end Sys2Proof.Machine
end

