-- ==== Sys2Proof/Machine/Matrix.lean ====
section
/-! DEFINITION. The matrix engine (07, 08): configuration and queueing of commands (R207, R214, R239), operand
buses (R198 to R201), and the steps of its two pipes (R207 to R226, R240 to R251). -/

namespace Sys2Proof.Machine

open Host (Outcome)

/-! ## Commands by pipe and tile (R197, R207) -/

def MxOp.drains : MxOp → Bool
  | .drn _ | .chk | .st _ | .net _ _ _ _ _ _ | .trc _ _ _ _ => true
  | _ => false

/-- RKTAB names no tile (R245). -/
def MxOp.namesTile : MxOp → Bool | .tab _ _ => false | _ => true

/-- Commands that put a tile in use from their start (R197). -/
def MxOp.writes : MxOp → Bool
  | .ldt _ | .mm _ _ _ _ _ | .gen _ _ | .rev _ _ | .stg _ | .run | .rank _ _ _ _ | .val _ _ _ => true
  | _ => false

/-- Commands that clear the in-use mark at completion (R217, R222, R224). -/
def MxOp.clears : MxOp → Bool | .z | .drn _ | .st _ => true | _ => false

def MxCmd.names (m : MxCmd) (t : Nat) : Bool := m.op.namesTile && decide (m.tile = t)
def Engine.armed (e : Engine) (t : Nat) : Bool := e.cmds.any (fun m => m.names t)

/-- Owner of a tile, as a slot number. -/
def Engine.ownerOf (e : Engine) (t : Nat) : Option Nat := (e.tile t).owner.map (·.val)

/-! ## Instructions that act at issue -/

def modEngine (s : State) (f : Engine → Engine) : State := modMyCore s (fun c => { c with engine := f c.engine })

/-- The fields of Table 7.1 of a slot. -/
def MxSlot.load (m : MxSlot) (v : Word) : MxSlot :=
  let x := v.toNat
  { m with rowid := bitsOf x 63 56, colid := bitsOf x 55 48, fda := BitVec.ofNat 16 (bitsOf x 47 32),
           fdb := BitVec.ofNat 16 (bitsOf x 31 16), blk := bitsOf x 15 14, mm1 := bitsOf x 13 7, nm1 := bitsOf x 6 0 }

/-- Mask of a list of tiles. -/
def tileMask (l : List Nat) : Word := BitVec.ofNat 64 (sumNat (l.map (fun t => 2 ^ t)))

/-- MXCFG (R215). -/
def execMxcfg (g : Guard) (keep : Bool) (t : Fin 4) (a : Src) (slot : Fin 4) (s : State) : Outcome State Fault Refusal :=
  issue g [srcNeed a] (fun s =>
    let e := s.myCore.engine
    let affected := (List.range 4).filter (fun k => decide (k = t.val) || (!keep && decide (e.ownerOf k = some slot.val)))
    let busy := affected.filter (fun k => e.armed k || (e.tile k).inUse)
    if !busy.isEmpty then .trap 0x09 (tileMask busy)
    else .go (modEngine s (fun e =>
      let x := e.tile t.val
      let x1 := if x.owner = some slot then x else x.zeroed
      let e1 := e.setTile t.val { x1 with owner := some slot }
      if keep then e1 else e1.setSlot slot.val ((e1.slot slot.val).load (s.me.reg a.r))))) s

/-- MXREL (R216). -/
def execMxrel (g : Guard) (t : Fin 4) (s : State) : Outcome State Fault Refusal :=
  issue g [] (fun s =>
    let e := s.myCore.engine
    if e.armed t.val || (e.tile t.val).inUse then .trap 0x09 (tileMask [t.val])
    else .go (modEngine s (fun e => e.setTile t.val { (e.tile t.val).zeroed with owner := none }))) s

/-- MXFMT (R220). -/
def execMxfmt (g : Guard) (slot : Fin 4) (fd : BitVec 16) (rm : Rm) (ph step : Fin 16) (s : State) :
    Outcome State Fault Refusal :=
  issue g [] (fun s => .go (modEngine s (fun e =>
    e.setSlot slot.val { e.slot slot.val with fdo := fd, rm := rm.code, phase := ph.val, step := step.val }))) s

/-- MXRT (R221, R197). -/
def execMxrt (g : Guard) (route : Route) (t : Fin 4) (s : State) : Outcome State Fault Refusal :=
  issue g [] (fun s =>
    if (s.myCore.engine.tile t.val).owner.isNone then .trap 0x10 (BitVec.ofNat 64 t.val)
    else .go (modEngine s (fun e => e.setTile t.val { e.tile t.val with route := route }))) s

/-- TWSET (R240). -/
def execTwset (g : Guard) (inv : Bool) (slot : Fin 4) (s : State) : Outcome State Fault Refusal :=
  issue g [] (fun s => .go (modEngine s (fun e => e.setSlot slot.val { e.slot slot.val with inv := inv }))) s

/-- RADk of a plan word, k = 0 to 12 (Table 8.1). -/
def planCodes (v : Word) : List Nat := (List.range 13).map (fun k => bitsOf v.toNat (3 * k + 2) (3 * k))

/-- R229: what is wrong with s[a]. -/
def planBad (v : Word) : Bool :=
  let cs := planCodes v
  let n := (cs.takeWhile (fun c => c != 0)).length
  decide (v.toNat / 2 ^ 39 ≠ 0) || cs.any (fun c => decide (5 < c)) || n == 0 || (cs.drop n).any (fun c => c != 0)
    || decide (8192 < prodList (cs.map radixOf))

/-- R229: what is wrong with s[b] beside a sound s[a]. -/
def planBadB (a b : Word) : Bool :=
  let cs := planCodes a
  let n := (cs.takeWhile (fun c => c != 0)).length
  decide (bitsOf b.toNat 51 39 ≠ 0) || ((planCodes b).drop n).any (fun c => c != 0)
    || decide (8192 < (bitsOf b.toNat 63 52 + 1) * prodList (cs.map radixOf))

/-- BFPLAN (R241). -/
def execBfplan (g : Guard) (slot : Fin 4) (a b : Src) (s : State) : Outcome State Fault Refusal :=
  issue g [srcNeed a, srcNeed b] (fun s =>
    let va := s.me.reg a.r
    let vb := s.me.reg b.r
    if planBad va then .trap 0x10 va
    else if planBadB va vb then .trap 0x10 vb
    else
      let rads := (planCodes va).takeWhile (fun c => c != 0)
      .go (modEngine s (fun e => e.setSlot slot.val { e.slot slot.val with
        rads := rads.map radixOf, shs := (planCodes vb).take rads.length, bm1 := bitsOf vb.toNat 63 52 }))) s

/-- RKCUT (R244). -/
def execRkcut (g : Guard) (slot : Fin 4) (a : Src) (s : State) : Outcome State Fault Refusal :=
  issue g [srcNeed a] (fun s =>
    let v := s.me.reg a.r
    let x := v.toNat
    let theta := BitVec.ofNat 32 (bitsOf x 63 32)
    if bitsOf x 8 0 = 0 ∨ 256 < bitsOf x 8 0 ∨ (val32 theta).isNan ∨ bitsOf x 30 26 ≠ 0 ∨ bitsOf x 15 9 ≠ 0 then .trap 0x10 v
    else .go (modEngine s (fun e => e.setSlot slot.val { e.slot slot.val with
      theta := theta, th := bitOf x 31, vm1 := bitsOf x 25 16, k := bitsOf x 8 0 }))) s

/-! ## Queueing (R197, R207) -/

/-- A command enters the queue with a copy of its slot, patterns and route; `tile` none is RKTAB's. -/
def enqueueFlow (s : State) (tile : Option (Fin 4)) (slot : Fin 4) (opc : Nat) (op : MxOp) (pa pb : Pattern)
    (tl : Fin 8) (bad : MxSlot → Bool) (after : Nat → MxSlot → Nat → State → State) : Flow :=
  let c := s.myCore
  let e := c.engine
  let own := match tile with
    | some t => e.ownerOf t.val
    | none => some slot.val
  let tv := BitVec.ofNat 64 ((tile.map (·.val)).getD 0)
  match own with
  | none => .trap 0x10 tv
  | some k =>
    let cfg := e.slot k
    if bad cfg then .trap 0x10 tv
    else if 16 ≤ e.cmds.length then .wait s .mxQueue
    else
      let (s1, id) := s.fresh
      let (c1, num) := c.takeNumber tl.val
      let t := (tile.map (·.val)).getD 0
      let m : MxCmd :=
        { id := id, opc := opc, op := op, tile := t, tl := tl.val, num := num, slotTask := s.cur.slot, cfg := cfg,
          patA := pa, patB := pb, route := some (e.tile t).route, phase := .queued, block := 0, rowsA := [], rowsB := [],
          endA := 0, endB := 0, staged := [], vecs := [], emitted := 0 }
      .go (after k cfg id (s1.setCore s.cur.coreRef { c1 with engine := { e with cmds := e.cmds ++ [m] } }))

def noAfter (_ : Nat) (_ : MxSlot) (_ : Nat) (s : State) : State := s

/-- Queues a command on a tile that reads no pattern. -/
def mxPlain (g : Guard) (t : Fin 4) (opc : Nat) (op : MxOp) (tl : Fin 8) (bad : MxSlot → Bool) (s : State) :
    Outcome State Fault Refusal :=
  issue g [] (fun s => enqueueFlow s (some t) 0 opc op 0 0 tl bad noAfter) s

def neverBad (_ : MxSlot) : Bool := false

/-- MXZ (R217). -/
def execMxz (g : Guard) (t : Fin 4) (tl : Fin 8) (s : State) : Outcome State Fault Refusal :=
  mxPlain g t 0xA2 .z tl neverBad s

/-- MXLDT (R218). -/
def execMxldt (g : Guard) (fmt : TileFmt) (t : Fin 4) (q : Fin 16) (tl : Fin 8) (s : State) : Outcome State Fault Refusal :=
  issue g [] (fun s => enqueueFlow s (some t) 0 0xA3 (.ldt fmt) (s.myCore.pattern q.val) 0 tl neverBad noAfter) s

/-- The pattern of an operand source. -/
def Core.srcPattern (c : Core) : MxSrc → Pattern
  | .bus => 0
  | .direct q => c.pattern q.val

/-- MXMM (R219). -/
def execMxmm (g : Guard) (acc : Bool) (t : Fin 4) (srcA srcB : MxSrc) (k : BitVec 16) (tl : Fin 8) (s : State) :
    Outcome State Fault Refusal :=
  issue g [] (fun s => enqueueFlow s (some t) 0 0xA4 (.mm false acc srcA srcB k.toNat) (s.myCore.srcPattern srcA)
    (s.myCore.srcPattern srcB) tl neverBad noAfter) s

/-- MXMMS (R219). -/
def execMxmms (g : Guard) (acc : Bool) (t : Fin 4) (srcA srcB : MxSrc) (k : BitVec 16) (tl : Fin 8) (s : State) :
    Outcome State Fault Refusal :=
  issue g [] (fun s => enqueueFlow s (some t) 0 0xA5 (.mm true acc srcA srcB k.toNat) (s.myCore.srcPattern srcA)
    (s.myCore.srcPattern srcB) tl neverBad noAfter) s

/-- MXDRN (R222, R212): issue moves the slot's phase on by STEP·M. -/
def execMxdrn (g : Guard) (ws : Bool) (t : Fin 4) (tl : Fin 8) (s : State) : Outcome State Fault Refusal :=
  issue g [] (fun s => enqueueFlow s (some t) 0 0xA8 (.drn ws) 0 0 tl neverBad (fun k cfg _ s =>
    modEngine s (fun e => e.setSlot k { e.slot k with phase := (cfg.phase + cfg.step * (cfg.mm1 + 1)) % 16 }))) s

/-- MXCHK (R223). -/
def execMxchk (g : Guard) (t : Fin 4) (tl : Fin 8) (s : State) : Outcome State Fault Refusal :=
  mxPlain g t 0xA9 .chk tl neverBad s

/-- MXST (R224). -/
def execMxst (g : Guard) (fmt : TileFmt) (t : Fin 4) (q : Fin 16) (tl : Fin 8) (s : State) : Outcome State Fault Refusal :=
  issue g [] (fun s => enqueueFlow s (some t) 0 0xAA (.st fmt) (s.myCore.pattern q.val) 0 tl neverBad noAfter) s

/-- TWSET.GEN (R240). -/
def execTwsetGen (g : Guard) (inv : Bool) (t : Fin 4) (n : Nat) (tl : Fin 8) (s : State) : Outcome State Fault Refusal :=
  mxPlain g t 0xB0 (.gen inv n) tl neverBad s

/-- No plan (R239). -/
def noPlan (m : MxSlot) : Bool := m.rads.isEmpty

/-- BFREV (R242). -/
def execBfrev (g : Guard) (bf re : Bool) (t : Fin 4) (q : Fin 16) (tl : Fin 8) (s : State) : Outcome State Fault Refusal :=
  issue g [] (fun s => enqueueFlow s (some t) 0 0xB2 (.rev bf re) (s.myCore.pattern q.val) 0 tl noPlan noAfter) s

/-- BFSTG (R243): a stage beyond the plan traps CONFIG. -/
def execBfstg (g : Guard) (t : Fin 4) (k : Nat) (tl : Fin 8) (s : State) : Outcome State Fault Refusal :=
  mxPlain g t 0xB3 (.stg k) tl (fun m => noPlan m || decide (m.rads.length ≤ k)) s

/-- BFRUN (R243). -/
def execBfrun (g : Guard) (t : Fin 4) (tl : Fin 8) (s : State) : Outcome State Fault Refusal :=
  mxPlain g t 0xB4 .run tl noPlan s

/-- RKTAB (R245). -/
def execRktab (g : Guard) (recon : Bool) (slot : Fin 4) (q : Fin 16) (tl : Fin 8) (s : State) : Outcome State Fault Refusal :=
  issue g [] (fun s => enqueueFlow s none slot 0xB8 (.tab recon slot) (s.myCore.pattern q.val) 0 tl neverBad noAfter) s

/-- R236, R239: the rows of the command would pass row 127. -/
def rowsPast (row0 nv : Nat) (m : MxSlot) : Bool := decide (128 < row0 + nv * ceilDiv (m.vm1 + 1) 128)

/-- The register of RKNET and RKTRC becomes empty (R246). -/
def rankEmpty (d : Reg) (_ : Nat) (_ : MxSlot) (id : Nat) (s : State) : State :=
  s.modTask s.cur (fun t => t.markEmpty d (.rank id))

/-- RKNET (R246). -/
def execRknet (g : Guard) (ws : Bool) (t : Fin 4) (d : Reg) (dst : RankDst) (row0 nvm1 : Fin 128) (tl : Fin 8) (s : State) :
    Outcome State Fault Refusal :=
  issue g [.dst d] (fun s => enqueueFlow s (some t) 0 0xBA (.net ws dst row0.val (nvm1.val + 1) s.cur.slot d.val)
    (match dst with | .drain => 0 | .direct q => s.myCore.pattern q.val) 0 tl (rowsPast row0.val (nvm1.val + 1)) (rankEmpty d)) s

/-- RKTRC (R246). -/
def execRktrc (g : Guard) (t : Fin 4) (d : Reg) (q : Fin 16) (row0 nvm1 : Fin 128) (tl : Fin 8) (s : State) :
    Outcome State Fault Refusal :=
  issue g [.dst d] (fun s => enqueueFlow s (some t) 0 0xBD (.trc row0.val (nvm1.val + 1) s.cur.slot d.val)
    (s.myCore.pattern q.val) 0 tl (rowsPast row0.val (nvm1.val + 1)) (rankEmpty d)) s

/-- The pattern of an index source. -/
def Core.idxPattern (c : Core) : IdxSrc → Pattern
  | .idx => 0
  | .direct q => c.pattern q.val

/-- MXRANK (R248). -/
def execMxrank (g : Guard) (acc : Bool) (t : Fin 4) (src : IdxSrc) (q : Fin 16) (row0 nvm1 : Fin 128) (tl : Fin 8) (s : State) :
    Outcome State Fault Refusal :=
  issue g [] (fun s => enqueueFlow s (some t) 0 0xBB (.rank acc src row0.val (nvm1.val + 1)) (s.myCore.idxPattern src)
    (s.myCore.pattern q.val) tl neverBad noAfter) s

/-- RKVAL (R249). -/
def execRkval (g : Guard) (t : Fin 4) (src : IdxSrc) (row0 nvm1 : Fin 128) (tl : Fin 8) (s : State) : Outcome State Fault Refusal :=
  issue g [] (fun s => enqueueFlow s (some t) 0 0xBC (.val src row0.val (nvm1.val + 1)) (s.myCore.idxPattern src) 0 tl
    (rowsPast row0.val (nvm1.val + 1)) noAfter) s

/-! ## Buses (R198 to R201) -/

/-- Items that the input buffer of a group holds (log 25). -/
def busRoom : Nat := 4

/-- A group's input buffer: row bus groups 0 to 15, column bus groups 16 to 31. -/
def Engine.group (e : Engine) (n : Nat) : List BusItem := Sparse.at [] e.bus n
def Engine.setGroup (e : Engine) (n : Nat) (l : List BusItem) : Engine := { e with bus := Sparse.put l e.bus n }

def BusItem.dest : BusItem → Nat
  | .beat d _ => d
  | .token d _ => d

/-- R200: the cores whose engine takes what an ME drives: its rectangle row or column, with a slot of that
destination. -/
def Rect.busCores (x : Rect) (core : Nat) (column : Bool) (dest : Nat) : List Nat :=
  x.coreList.filter (fun k =>
    (if column then decide (k % 16 = core % 16) else decide (k / 16 = core / 16)) &&
    (List.range 4).any (fun g =>
      let m := (x.body.core k).engine.slot g
      decide ((if column then m.colid else m.rowid) = dest)))

/-- MATRIX_BUS_BEAT (R198 to R200): the beat or token of a FEEDMX element reaches every engine that takes its
destination once each has room. MARK stops here (R226): the engines have recorded at the start of the
cut, and what a source that has not recorded drives joins their records. -/
def execMatrixBusBeat (e : SiteRef) (s : State) : Outcome State Fault Refusal :=
  let x := s.rect e.rect
  let y := s.site e
  match y.cfg, y.st.busOut with
  | .me c, some item =>
    if !x.fires then .next s
    else
      let column := bitOf c.modex.toNat 8
      let n := meIndex e.site % 16 + (if column then 16 else 0)
      let ks := x.busCores e.core column item.dest
      let s1 := s.setSite e { y with st := { y.st with busOut := none } }
      let isMark := match item with | BusItem.token _ w => decide (w.kind = Kind.mark) | BusItem.beat _ _ => false
      if isMark then .next s1
      else if ks.all (fun k => decide (((x.body.core k).engine.group n).length < busRoom)) then
        let put := fun (b : Body) => ks.foldl (fun (b : Body) k => b.modCore k (fun c =>
          { c with engine := c.engine.setGroup n (c.engine.group n ++ [item]) })) b
        .next (s1.modRect e.rect (fun x => ({ x with body := put x.body } : Rect).modProg (fun g =>
          if g.elems.contains (e.core, e.site) then { g with body := put g.body } else g)))
      else .next s
  | _, _ => .next s

/-! ## Faults and failed checks (R209, R211) -/

def State.modMx (s : State) (c : CoreRef) (id : Nat) (f : MxCmd → MxCmd) : State :=
  s.modCore c (fun k => { k with engine := { k.engine with cmds := k.engine.cmds.map (fun m => if m.id = id then f m else m) } })

def State.modTile (s : State) (c : CoreRef) (t : Nat) (f : Tile → Tile) : State :=
  s.modCore c (fun k => { k with engine := k.engine.setTile t (f (k.engine.tile t)) })

/-- The count of RKNET and RKTRC stands ready for its register (R246). -/
def State.rankCount (s : State) (c : CoreRef) (m : MxCmd) : State :=
  let put := fun (slot reg : Nat) => s.modTask ⟨c.rect, c.core, slot⟩ (fun t =>
    if Sparse.at .full t.pres reg = .empty (.rank m.id) then
      { t with pres := Sparse.put (.empty (.value (BitVec.ofNat 64 m.emitted) none)) t.pres reg }
    else t)
  match m.op with
  | .net _ _ _ _ slot reg => put slot reg
  | .trc _ _ slot reg => put slot reg
  | _ => s

/-- A fault after issue (R209): fabric; commands behind it do not start. It waits while another fabric cause
stands (R466). -/
def State.mxFault (s : State) (c : CoreRef) (m : MxCmd) (cause : Nat) (k : Kind) (queue : Nat) : State :=
  if (s.rect c.rect).fabricBusy then s
  else
    let s1 := (s.rankCount c m).modCore c (fun x => { x with engine := { x.engine with noStart := true } })
    s1.elementFault c.rect cause (siteTval k queue m.opc c.core 7) c.core

/-- R211, R479: a failed check leads to a rollback. -/
def State.softError (s : State) (r : Nat) (u : FaultUnit) (core addr len : Nat) : State :=
  s.modRect r (fun x => { x with soft := some (u, core, addr, len) })

/-- Runs the rest if the tile of a command passes its check. -/
def State.checked (s : State) (c : CoreRef) (m : MxCmd) (k : State → State) : State :=
  if ((s.core c).engine.tile m.tile).check then k s else s.softError c.rect .tile c.core 0 0

/-! ## Memory (R208) -/

/-- Reads bytes for a command, with the issuing task's earlier stores. -/
def State.mxRead (s : State) (c : CoreRef) (m : MxCmd) (va : Word) (n align : Nat) : EngRes (List Byte) :=
  match s.agentReach (.mx c m.id) c va n align false with
  | .wait s1 => .wait s1
  | .fault s1 cause => .fault s1 cause va
  | .ok s1 l pol =>
    let t : TaskRef := ⟨c.rect, c.core, m.slotTask⟩
    let busy := match l with
      | .phys pa => refreshing pa (s.die (pa / 2 ^ 29 % 4)).timebase.toNat
      | _ => false
    if s1.readBlocked t m.id l n || busy then .wait s
    else let (s2, bs) := s1.readLoc c.rect l n pol; .ok s2 (s2.overlay t m.id l bs)

/-- Reads elements at a list of addresses. -/
def State.mxReads (c : CoreRef) (m : MxCmd) (n align : Nat) : List Word → State → EngRes (List Byte)
  | [], s => .ok s []
  | a :: as, s =>
    match s.mxRead c m a n align with
    | .ok s1 bs =>
      (match State.mxReads c m n align as s1 with
       | .ok s2 cs => .ok s2 (bs ++ cs)
       | .wait s2 => .wait s2
       | .fault s2 k v => .fault s2 k v)
    | .wait s1 => .wait s1
    | .fault s1 k v => .fault s1 k v

/-- Writes bytes for a command. -/
def State.mxWrite (s : State) (c : CoreRef) (m : MxCmd) (va : Word) (bs : List Byte) : EngRes Unit :=
  match s.agentReach (.mx c m.id) c va bs.length bs.length true with
  | .wait s1 => .wait s1
  | .fault s1 cause => .fault s1 cause va
  | .ok s1 l pol =>
    let x := s.rect c.rect
    let seg := x.segOf true
    match l with
    | .peer pa => if 4096 ≤ x.remote.length then .wait s else .ok (s1.bufferRemote c.rect none pa va bs seg (seg + 1)) ()
    | _ => if !x.roomAt l then .wait s else .ok (s1.writeLoc c.rect seg l bs pol) ()

/-- What follows a memory step of a command. -/
def State.mxEnd {α : Type} (c : CoreRef) (m : MxCmd) (queue : Nat) (k : State → α → State) (x : EngRes α) : State :=
  match x with
  | .ok s v => k s v
  | .wait s => s
  | .fault s cause _ => s.mxFault c m cause .data queue

/-- The first `n` addresses of a pattern. -/
def firstAddrs (p : Pattern) (n : Nat) : List Word := (List.range (min (patTotal p) n)).map (patAddr p)

/-! ## Starting a command -/

/-- A command that has done its work. -/
def State.mxDone (s : State) (c : CoreRef) (m : MxCmd) : State := s.modMx c m.id (fun x => { x with phase := .finished })

/-- The tile of a command as a function leaves it, in use, with flags to RSTAT; the command has done its
work. -/
def State.mxTile (s : State) (c : CoreRef) (m : MxCmd) (r : Tile × Flags) : State :=
  ((s.modTile c m.tile (fun _ => { r.1 with inUse := true })).modBody c.rect (fun b => b.flags r.2)).mxDone c m

/-- R213: the route of a WS command is the next control word. None: the command waits; a word that is no
route is dealt with first. -/
def State.controlRoute (s : State) (c : CoreRef) (m : MxCmd) (k : State → Route → State) : State :=
  let e := (s.core c).engine
  match e.control with
  | [] => s
  | w :: rest =>
    let next := s.modCore c (fun x => { x with engine := { x.engine with control := rest } })
    if w.kind = .steer then
      match w.data.toNat with
      | 0 => k next .x
      | 1 => k next .y
      | 2 => k next .xy
      | _ => s.mxFault c m 0x13 .steer 2
    else if w.kind = .data then s.mxFault c m 0x13 .data 2
    else next

/-- Vectors ranked by a command, with the number of indices emitted over all of them (R246). -/
def rankTotal (vs : List (List (Nat × W32) × List (Nat × W32))) : Nat := sumNat (vs.map (fun v => v.2.length))

/-- Words of RKNET or RKTRC to memory: an emitted index is DATA, what fills a slot is STAT. -/
def rankStores (k : Nat) (trc : Bool) (vs : List (List (Nat × W32) × List (Nat × W32))) : List (Nat × FWord) :=
  let fill := fun (v : W32) => (0, (⟨.stat, 0#4, v⟩ : FWord))
  let idx := fun (v : Nat) => (0, (⟨.data, 0#4, BitVec.ofNat 32 v⟩ : FWord))
  vs.flatMap (fun p =>
    if trc then
      (p.2.flatMap (fun x => [idx x.1, fill x.2])) ++ (List.replicate (k - p.2.length) [fill 0xFFFFFFFF#32, fill 0#32]).flatten
        ++ [fill (BitVec.ofNat 32 p.2.length), fill (((p.1[p.2.length]?).map (·.2)).getD 0x7FC00000#32)]
    else p.2.map (fun x => idx x.1) ++ List.replicate (k - p.2.length) (fill 0xFFFFFFFF#32))

/-- Starts a rank command to memory: the address count and alignment are checked first. -/
def State.startRankStores (s : State) (c : CoreRef) (m : MxCmd) (trc : Bool) (row0 nv : Nat) : State :=
  let vs := rankVectors m.cfg ((s.core c).engine.tile m.tile) row0 nv
  let per := if trc then m.cfg.k + 1 else m.cfg.k
  if patTotal m.patA ≠ nv * per then s.mxFault c m 0x13 .data 0xF
  else if (firstAddrs m.patA (nv * per)).any (fun a => decide (a.toNat % (if trc then 8 else 4) ≠ 0)) then
    s.mxFault c m 0x04 .data 0xF
  else s.modMx c m.id (fun x => { x with phase := .running, staged := rankStores m.cfg.k trc vs })

/-- Bytes and alignment of a BFREV element (R242). -/
def revBytes (bf re : Bool) : Nat := if bf then (if re then 2 else 4) else (if re then 4 else 8)

/-- The complex point of a BFREV element. -/
def revPoint (bf re : Bool) (v : Nat) : Cplx × Flags :=
  let fmt := if bf then TileFmt.bf else .s
  let w := if bf then 16 else 32
  let a := widen32 fmt (v % 2 ^ w)
  if re then ((a.1, 0#32), a.2)
  else let b := widen32 fmt (v / 2 ^ w % 2 ^ w); ((a.1, b.1), a.2 ||| b.2)

def orFlags (l : List Flags) : Flags := l.foldl (· ||| ·) 0#5

/-- What a command does when it starts: all of its work, or the part before its blocks, stores and
words. -/
def State.startMx (s : State) (c : CoreRef) (m : MxCmd) : State :=
  let t := (s.core c).engine.tile m.tile
  let M := m.cfg.mm1 + 1
  let N := m.cfg.nm1 + 1
  match m.op with
  | .z => (s.modTile c m.tile Tile.zeroed).mxDone c m
  | .ldt fmt =>
    let as := firstAddrs m.patA (M * N)
    State.mxEnd c m 0 (fun s bs =>
      let vs := (numbersOf (TileFmt.bytes fmt) as.length bs).map (widen32 fmt)
      s.mxTile c m (t.load M N (vs.map (·.1)), orFlags (vs.map (·.2))))
      (State.mxReads c m (TileFmt.bytes fmt) (TileFmt.bytes fmt) as s)
  | .mm _ _ _ _ _ =>
    (s.modTile c m.tile (fun t => { t with inUse := true })).modMx c m.id (fun x => { x with phase := .running })
  | .drn ws =>
    s.checked c m (fun s =>
      let go := fun (s : State) (r : Option Route) =>
        let d := drainWords m.cfg t s.freePayload
        (s.modMx c m.id (fun x => { x with phase := .running, route := r, staged := d.1 })).modBody c.rect (fun b => b.flags d.2)
      if ws then s.controlRoute c m (fun s r => go s (some r)) else go s m.route)
  | .chk => s.checked c m (fun s => s.mxDone c m)
  | .st _ => s.checked c m (fun s => s.modMx c m.id (fun x => { x with phase := .running }))
  | .gen inv n => s.mxTile c m (t.twiddles inv n, 0#5)
  | .rev bf re =>
    let n := revBytes bf re
    let as := firstAddrs m.patA ((m.cfg.bm1 + 1) * m.cfg.planN)
    State.mxEnd c m 0 (fun s bs =>
      let zs := (numbersOf n as.length bs).map (revPoint bf re)
      s.mxTile c m (t.loadRev m.cfg (zs.map (·.1)), orFlags (zs.map (·.2))))
      (State.mxReads c m n n as s)
  | .stg k => s.checked c m (fun s => s.mxTile c m (t.stage m.cfg k))
  | .run => s.checked c m (fun s => s.mxTile c m (t.stages m.cfg))
  | .tab recon slot =>
    if 256 < patTotal m.patA then s.mxFault c m 0x13 .data 0
    else
      State.mxEnd c m 0 (fun s bs =>
        let ws := (numbersOf 4 (patTotal m.patA) bs).map (BitVec.ofNat 32)
        let tab := Sparse.setList 0x3F800000#32 [] 0 ws
        (s.modCore c (fun k =>
          let g := k.engine.slot slot.val
          { k with engine := k.engine.setSlot slot.val (if recon then { g with tabC := tab } else { g with tabT := tab }) })).mxDone c m)
        (State.mxReads c m 4 4 (firstAddrs m.patA 256) s)
  | .net ws dst row0 nv _ _ =>
    s.checked c m (fun s =>
      match dst with
      | .direct _ => s.startRankStores c m false row0 nv
      | .drain =>
        let go := fun (s : State) (r : Option Route) =>
          let vs := rankVectors m.cfg t row0 nv
          s.modMx c m.id (fun x => { x with phase := .running, route := r, staged := rankDrain (vs.map (·.2)) s.freePayload })
        if ws then s.controlRoute c m (fun s r => go s (some r)) else go s m.route)
  | .trc row0 nv _ _ => s.checked c m (fun s => s.startRankStores c m true row0 nv)
  | .rank _ src _ nv =>
    s.checked c m (fun s =>
      if src ≠ .idx ∧ patTotal m.patA ≠ nv * m.cfg.k then s.mxFault c m 0x13 .data 0
      else (s.modTile c m.tile (fun t => { t with inUse := true })).modMx c m.id (fun x => { x with phase := .running, vecs := [[]] }))
  | .val src _ nv =>
    s.checked c m (fun s =>
      if src ≠ .idx ∧ patTotal m.patA ≠ nv * m.cfg.k then s.mxFault c m 0x13 .data 0
      else (s.modTile c m.tile (fun t => { t with inUse := true })).modMx c m.id (fun x => { x with phase := .running, vecs := [[]] }))

/-- R207, R317: a queued command may start: its pipe has none before it, no earlier command names its tile,
no copy gate holds it, the rectangle runs; no array command starts at a boundary (R502). -/
def State.mxMayStart (s : State) (c : CoreRef) (m : MxCmd) : Bool :=
  let x := s.rect c.rect
  let e := (s.core c).engine
  decide (m.phase = .queued) && x.fires && !e.noStart
    && !e.cmds.any (fun n => decide (n.id < m.id) &&
        ((n.op.drains == m.op.drains) || (m.op.namesTile && n.names m.tile)))
    && (m.op.drains || (!e.gates.any (fun g => decide (g.2 ≤ m.id)) && decide (x.phase ≠ .boundary)))
    && !s.walks.any (fun w => decide (w.who = .mx c m.id))

def State.mxCmd (s : State) (c : CoreRef) (id : Nat) : Option MxCmd := (s.core c).engine.cmds.find? (fun m => decide (m.id = id))

/-- MATRIX_COMMAND_START (R207). -/
def execMatrixCommandStart (c : CoreRef) (id : Nat) (s : State) : Outcome State Fault Refusal :=
  match s.mxCmd c id with
  | none => .next s
  | some m => if s.mxMayStart c m then .next (s.startMx c m) else .next s

/-! ## Products (R201 to R206, R219) -/

/-- Rows of an operand (A, or B with `b`), which have ended, how many there are. -/
def MxCmd.rows (m : MxCmd) (b : Bool) : Sparse (List W32) := if b then m.rowsB else m.rowsA
def MxCmd.ended (m : MxCmd) (b : Bool) (g : Nat) : Bool := if b then m.endB.getLsbD g else m.endA.getLsbD g
def MxCmd.side (m : MxCmd) (b : Bool) : Nat := if b then m.cfg.nm1 + 1 else m.cfg.mm1 + 1
def MxCmd.row (m : MxCmd) (b : Bool) (i : Nat) : List W32 := Sparse.at [] (m.rows b) i
def MxCmd.groups (m : MxCmd) (b : Bool) : Nat := ceilDiv (m.side b) 8
def MxCmd.packets (m : MxCmd) (b : Bool) : List (List W32) := (List.range (m.side b)).map (m.row b)

/-- One beat joins the rows of its group; the slots of rows beyond the side are ignored (R201). -/
def MxCmd.addBeat (m : MxCmd) (b : Bool) (g : Nat) (ws : List W32) : MxCmd :=
  let rows := (List.range 8).foldl (fun (r : Sparse (List W32)) k =>
    let i := 8 * g + k
    if i < m.side b then Sparse.put (Sparse.at [] r i ++ [ws.getD k 0]) r i else r) (m.rows b)
  if b then { m with rowsB := rows } else { m with rowsA := rows }

def MxCmd.endGroup (m : MxCmd) (b : Bool) (g : Nat) : MxCmd :=
  if b then { m with endB := m.endB ||| (1#16 <<< g) } else { m with endA := m.endA ||| (1#16 <<< g) }

/-- Every header of both operands has arrived (R206). -/
def MxCmd.headersIn (m : MxCmd) : Bool := (m.packets false ++ m.packets true).all (fun l => !l.isEmpty)

/-- K, once the headers are in (R203). -/
def MxCmd.kNow (m : MxCmd) : Option Nat :=
  match m.op with
  | .mm scaled _ _ _ k => if m.headersIn then some (mmK scaled k (m.row false 0)) else none
  | _ => none

/-- What one item of a group's buffer does to a command: nothing yet, the command with the item consumed, or
ELEMENT (R201). -/
inductive BusStep
  | hold
  | take (m : MxCmd)
  | bad (k : Kind)

/-- One item for operand `b`. -/
def MxCmd.busStep (m : MxCmd) (b : Bool) (g : Nat) : BusItem → BusStep
  | .beat _ ws =>
    let n := (m.row b (8 * g)).length
    if m.ended b g then .hold
    else if n = 0 then .take (m.addBeat b g ws)
    else match m.kNow with
      | none => .hold
      | some k => if n < imageBeats (m.row b (8 * g)) k then .take (m.addBeat b g ws) else .bad .data
  | .token _ w =>
    let n := (m.row b (8 * g)).length
    if w.kind = .eor then
      if m.ended b g then .hold
      else if n = 0 then .bad .eor
      else match m.kNow with
        | none => .hold
        | some k => if n < imageBeats (m.row b (8 * g)) k then .bad .eor else .take (m.endGroup b g)
    else .take m

/-- Takes the items of a command's own destination from a group's buffer while they can be taken. -/
def MxCmd.takeGroup (b : Bool) (g dest : Nat) : Nat → List BusItem → MxCmd → List BusItem × MxCmd × Option Kind
  | 0, l, m => (l, m, none)
  | fuel + 1, l, m =>
    match l.find? (fun i => decide (i.dest = dest)) with
    | none => (l, m, none)
    | some i =>
      match m.busStep b g i with
      | .hold => (l, m, none)
      | .bad k => (l, m, some k)
      | .take m' => MxCmd.takeGroup b g dest fuel (l.erase i) m'

/-- Takes what stands in the buffers of operand `b`. -/
def State.absorb (s : State) (c : CoreRef) (id : Nat) (b : Bool) : State :=
  match s.mxCmd c id with
  | none => s
  | some m0 =>
    (List.range (m0.groups b)).foldl (fun s g =>
      match s.mxCmd c id with
      | none => s
      | some m =>
        let n := g + (if b then 16 else 0)
        let l := (s.core c).engine.group n
        let r := MxCmd.takeGroup b g (if b then m.cfg.colid else m.cfg.rowid) l.length l m
        let s1 := (s.modCore c (fun k => { k with engine := k.engine.setGroup n r.1 })).modMx c id (fun _ => r.2.1)
        match r.2.2 with
        | none => if r.2.1 = m then s else s1
        | some k => s.mxFault c m 0x13 k (if b then 1 else 0)) s

/-- Words that a row of operand `b` needs for the next step (R202). -/
def MxCmd.needWords (m : MxCmd) (b : Bool) : Nat :=
  let ws := m.row b 0
  match m.kNow with
  | none => 1
  | some k =>
    let L := packetL (m.row false 0)
    if m.block + 1 ≥ ceilDiv k L then imageBeats ws k else wordsForBlock ws k L m.block

/-- Direct fetch (R202): beats in address order until the rows hold what the next step needs. -/
def State.fetchBeats (c : CoreRef) (id : Nat) (b : Bool) : Nat → State → EngRes Unit
  | 0, s => .ok s ()
  | fuel + 1, s =>
    match s.mxCmd c id with
    | none => .ok s ()
    | some m =>
      let G := m.groups b
      let n := sumNat ((List.range G).map (fun g => (m.row b (8 * g)).length))
      let p := if b then m.patB else m.patA
      if G * m.needWords b ≤ n then .ok s ()
      else if patTotal p ≤ n then .ok s ()
      else match s.mxRead c m (patAddr p n) 32 32 with
        | .ok s1 bs => State.fetchBeats c id b fuel (s1.modMx c id (fun x => x.addBeat b (n % G) (wordsOf 8 bs)))
        | .wait s1 => .wait s1
        | .fault s1 k v => .fault s1 k v

/-- Brings operand words to the command from its source. -/
def State.gather (s : State) (c : CoreRef) (m : MxCmd) (b : Bool) (src : MxSrc) : State :=
  match src with
  | .bus => s.absorb c m.id b
  | .direct _ =>
    if patTotal (if b then m.patB else m.patA) < m.groups b then s.mxFault c m 0x13 .data (if b then 1 else 0)
    else State.mxEnd c m (if b then 1 else 0) (fun s _ => s) (State.fetchBeats c m.id b (m.groups b * m.needWords b) s)

/-- A direct operand must generate exactly G·P beats (R202). -/
def MxCmd.badCount (m : MxCmd) (b : Bool) (src : MxSrc) (k : Nat) : Bool :=
  match src with
  | .bus => false
  | .direct _ => decide (patTotal (if b then m.patB else m.patA) ≠ m.groups b * imageBeats (m.row b 0) k)

def allEnded (m : MxCmd) (b : Bool) (src : MxSrc) : Bool :=
  match src with
  | .bus => (List.range (m.groups b)).all (m.ended b)
  | .direct _ => true

/-- R219: the next block of a product whose headers have passed, or its end. -/
def State.mmStep (s : State) (c : CoreRef) (m : MxCmd) (scaled acc : Bool) (srcA srcB : MxSrc) (kf : Nat) : State :=
  let as := m.packets false
  let bs := m.packets true
  match headerFault m.cfg scaled kf as bs with
  | some f => s.mxFault c m f.1.code .hdr f.2
  | none =>
    let k := mmK scaled kf (m.row false 0)
    if m.badCount false srcA k then s.mxFault c m 0x13 .data 0
    else if m.badCount true srcB k then s.mxFault c m 0x13 .data 1
    else
      let L := packetL (m.row false 0)
      let nb := ceilDiv k L
      let M := m.cfg.mm1 + 1
      let N := m.cfg.nm1 + 1
      let clear := fun (t : Tile) => if acc then t else t.zeroShape M N
      if m.block < nb then
        let have_ := as.all (fun w => decide (wordsForBlock w k L m.block ≤ w.length))
          && bs.all (fun w => decide (wordsForBlock w k L m.block ≤ w.length))
        if !have_ then s
        else
          let t := (s.core c).engine.tile m.tile
          let t0 := if m.block = 0 then clear t else t
          let r := t0.addBlock (List.range M) N (fun i j => blockContrib (m.row false i) (m.row true j) k L m.block)
          ((s.modTile c m.tile (fun _ => r.1)).modMx c m.id (fun x => { x with block := x.block + 1 })).modBody c.rect
            (fun b => b.flags r.2)
      else if allEnded m false srcA && allEnded m true srcB then
        (if nb = 0 then s.modTile c m.tile clear else s).mxDone c m
      else s

/-! ## Index streams (R247 to R249) -/

/-- The current vector takes an index, or ends. -/
def MxCmd.pushIndex (m : MxCmd) (x : Nat) : MxCmd :=
  { m with vecs := m.vecs.dropLast ++ [m.vecs.getLastD [] ++ [x]], emitted := m.emitted + 1 }
def MxCmd.endVector (m : MxCmd) : MxCmd := { m with vecs := m.vecs ++ [[]] }

/-- Words of the weight row at an index (R248). -/
def MxCmd.weightAddr (m : MxCmd) (x : Nat) : Word := BitVec.ofInt 64 ((patBase m.patB : Int) + (x : Int) * patStride m.patB 0)

/-- R248: one arrival of MXRANK, or an index for RKVAL, at rank `k` of vector `v`; `fin` is what the stream
does with the index taken. -/
def State.arrive (s : State) (c : CoreRef) (m : MxCmd) (x : Nat) (fin : State → State) : State :=
  let v := m.vecs.length - 1
  let k := (m.vecs.getLastD []).length
  if m.cfg.vm1 + 1 ≤ x then s.mxFault c m 0x13 .data 0
  else match m.op with
    | .rank acc _ row0 _ =>
      let N := m.cfg.nm1 + 1
      let va := m.weightAddr x
      State.mxEnd c m 1 (fun s h =>
        let hw := wordsOf 1 h
        match weightFault m.cfg hw with
        | some f => s.mxFault c m f.code .hdr 1
        | none =>
          State.mxEnd c m 1 (fun s bs =>
            let ws := hw ++ wordsOf (bs.length / 4) bs
            let e := (s.core c).engine
            let t := e.tile m.tile
            let t0 := if acc || decide (k ≠ 0) then t
              else Tile.resum { t with vals := Sparse.clear t.vals (128 * (row0 + v)) (128 * (row0 + v) + N) }
            let own := (e.ownerOf m.tile).getD 0
            let r := t0.arrival m.cfg (e.slot own).tabT (row0 + v) k ws
            ((fin (s.modTile c m.tile (fun _ => r.1))).modBody c.rect (fun b => b.flags r.2)).modMx c m.id (fun y => y.pushIndex x))
            (State.mxReads c m 4 4 ((List.range (imageBeats hw N - 1)).map (fun i => va + BitVec.ofNat 64 (4 * (i + 1)))) s))
        (s.mxRead c m va 4 4)
    | _ => (fin s).modMx c m.id (fun y => y.pushIndex x)

/-- A vector ends; one without an index still clears its row where ACC is 0 (R248). -/
def State.closeVector (s : State) (c : CoreRef) (m : MxCmd) : State :=
  let v := m.vecs.length - 1
  let s1 := match m.op with
    | .rank false _ row0 _ =>
      if (m.vecs.getLastD []).isEmpty then
        s.modTile c m.tile (fun t => Tile.resum { t with
          vals := Sparse.clear t.vals (128 * (row0 + v)) (128 * (row0 + v) + m.cfg.nm1 + 1) })
      else s
    | _ => s
  s1.modMx c m.id MxCmd.endVector

/-- The end of an index stream: RKVAL writes its vectors (R249). -/
def State.endStream (s : State) (c : CoreRef) (m : MxCmd) : State :=
  match m.op with
  | .val _ row0 nv =>
    let e := (s.core c).engine
    let own := (e.ownerOf m.tile).getD 0
    (s.modTile c m.tile (fun t => t.expand m.cfg (e.slot own).tabC row0 (m.vecs.take nv))).mxDone c m
  | _ => s.mxDone c m

/-- R247: one word of the index stream. -/
def State.streamStep (s : State) (c : CoreRef) (m : MxCmd) (src : IdxSrc) (nv : Nat) : State :=
  if nv < m.vecs.length then s.endStream c m
  else match src with
    | .idx =>
      (match (s.core c).engine.index with
       | [] => s
       | w :: rest =>
         let pop := fun (s : State) => s.modCore c (fun x => { x with engine := { x.engine with index := rest } })
         if w.kind = .data then
           if m.cfg.k ≤ (m.vecs.getLastD []).length then s.mxFault c m 0x13 .data 0 else s.arrive c m w.data.toNat pop
         else if w.kind = .eor then (pop s).closeVector c m
         else pop s)
    | .direct _ =>
      let K := m.cfg.k
      if m.block = K then (s.modMx c m.id (fun x => { x with block := 0, endA := 0 })).closeVector c m
      else
        let n := (m.vecs.length - 1) * K + m.block
        State.mxEnd c m 0 (fun s bs =>
          let x := joinBytes bs
          let step := fun (s : State) => s.modMx c m.id (fun y => { y with block := y.block + 1 })
          if m.endA ≠ 0 then step s
          else if x = 0xFFFFFFFF then (step s).modMx c m.id (fun y => { y with endA := 1 })
          else s.arrive c m x step) (s.mxRead c m (patAddr m.patA n) 4 4)

/-- MATRIX_BLOCK (R123, R219, R248): operand words come in and the next block is rounded, or the next index
of a stream is taken. -/
def execMatrixBlock (c : CoreRef) (id : Nat) (s : State) : Outcome State Fault Refusal :=
  match s.mxCmd c id with
  | none => .next s
  | some m =>
    if m.phase ≠ .running ∨ !(s.rect c.rect).fires ∨ s.walks.any (fun w => decide (w.who = .mx c id)) then .next s
    else match m.op with
      | .mm scaled acc srcA srcB kf =>
        let s1 := (s.gather c m false srcA)
        let s2 := if (s1.rect c.rect).body.fabricStop then s1 else s1.gather c m true srcB
        (match s2.mxCmd c id with
         | none => .next s2
         | some m2 =>
           if (s2.rect c.rect).body.fabricStop ∨ !m2.headersIn then .next s2
           else .next (s2.mmStep c m2 scaled acc srcA srcB kf))
      | .rank _ src _ nv => .next (s.streamStep c m src nv)
      | .val src _ nv => .next (s.streamStep c m src nv)
      | _ => .next s

/-! ## Draining, storing, completing -/

/-- Outputs of a route (R213). -/
def routeOuts : Option Route → List Nat
  | some .y => [1]
  | some .xy => [0, 1]
  | _ => [0]

/-- A staged word enters the fabric at row `row` of site column 7 (R212). -/
def State.emitDrain (s : State) (c : CoreRef) (r : Option Route) (row : Nat) (w : FWord) : Option State :=
  (routeOuts r).foldl (fun (a : Option State) out => match a with
    | some s => s.emitOut ⟨c.rect, c.core, 16 * row + 7⟩ out w
    | none => none) (some s)

/-- R212: the staged words that may leave: the first of each drain row; EOK only after every row. -/
def stagedHeads (l : List (Nat × FWord)) : List Nat :=
  let last := l.all (fun p => decide (p.2.kind = .eok))
  (List.range l.length).filter (fun i => match l[i]? with
    | none => false
    | some p => !((l.take i).any (fun q => decide (q.1 = p.1))) && (last || decide (p.2.kind ≠ .eok)))

/-- The first staged word, of those a test admits, that can leave, with the state after it. -/
def State.drainOne (s : State) (c : CoreRef) (m : MxCmd) (ok : FWord → Bool) : Option State :=
  (stagedHeads m.staged).findSome? (fun i => match m.staged[i]? with
    | none => none
    | some p =>
      if ok p.2 then
        (s.emitDrain c m.route p.1 p.2).map (fun s => s.modMx c m.id (fun x => { x with staged := x.staged.eraseIdx i }))
      else none)

/-- The next store of a rank command to memory: a word, or a record of two. -/
def State.rankStore (s : State) (c : CoreRef) (m : MxCmd) (trc : Bool) : State :=
  let n := if trc then 2 else 1
  let ws := (m.staged.take n).map (fun p => p.2.data)
  let isIdx : Bool := match m.staged with | p :: _ => decide (p.2.kind = Kind.data) | [] => false
  State.mxEnd c m 0xF (fun s _ => s.modMx c m.id (fun x =>
    { x with staged := x.staged.drop n, block := x.block + 1, emitted := if isIdx then x.emitted + 1 else x.emitted }))
    (s.mxWrite c m (patAddr m.patA m.block) (ws.flatMap (fun w => splitBytes 4 w.toNat)))

/-- The next store of MXST (R224). -/
def State.tileStore (s : State) (c : CoreRef) (m : MxCmd) (fmt : TileFmt) : State :=
  let t := (s.core c).engine.tile m.tile
  let N := m.cfg.nm1 + 1
  let r := narrowStore fmt (t.at (m.block / N) (m.block % N))
  State.mxEnd c m 0xF (fun s _ =>
    (s.modMx c m.id (fun x => { x with block := x.block + 1 })).modBody c.rect (fun b => b.flags r.2))
    (s.mxWrite c m (patAddr m.patA m.block) (splitBytes (TileFmt.bytes fmt) r.1))

/-- The command leaves the queue; its number completes (R208, R53). -/
def State.retireMx (s : State) (c : CoreRef) (m : MxCmd) : State :=
  let s1 := s.rankCount c m
  let s2 := if m.op.clears then s1.modTile c m.tile (fun t => { t with inUse := false }) else s1
  (s2.modCore c (fun k => { k with engine := { k.engine with cmds := k.engine.cmds.filter (fun x => decide (x.id ≠ m.id)) } })).complete
    c m.tl m.num true

/-- R237, R238: an index of RKNET or RKTRC, to the drain or to memory. -/
def State.indexOut (s : State) (c : CoreRef) (m : MxCmd) : State :=
  match m.op with
  | .net _ .drain _ _ _ _ =>
    (match s.drainOne c m (fun w => decide (w.kind = .data)) with
     | some s1 => s1.modMx c m.id (fun x => { x with emitted := x.emitted + 1 })
     | none => s)
  | .net _ (.direct _) _ _ _ _ => s.rankStore c m false
  | .trc _ _ _ _ => s.rankStore c m true
  | _ => s

/-- RANK_INDEX_EMIT (R237, R238, R246). -/
def execRankIndexEmit (c : CoreRef) (id : Nat) (s : State) : Outcome State Fault Refusal :=
  match s.mxCmd c id with
  | none => .next s
  | some m =>
    if m.phase ≠ .running ∨ !(s.rect c.rect).fires ∨ s.walks.any (fun w => decide (w.who = .mx c id))
        ∨ !m.staged.any (fun p => decide (p.2.kind = .data)) then .next s
    else match m.op with
      | .net _ .drain _ _ _ _ => .next (s.indexOut c m)
      | .net _ (.direct _) _ _ _ _ | .trc _ _ _ _ =>
        (match m.staged with
         | p :: _ => if p.2.kind = .data then .next (s.indexOut c m) else .next s
         | [] => .next s)
      | _ => .next s

/-- MATRIX_COMMAND_COMPLETE (R208): what a command still has to store or emit goes out; with nothing left,
and its remote writes acknowledged, the command completes. -/
def execMatrixCommandComplete (c : CoreRef) (id : Nat) (s : State) : Outcome State Fault Refusal :=
  match s.mxCmd c id with
  | none => .next s
  | some m =>
    let x := s.rect c.rect
    if !x.fires ∨ m.phase = .queued ∨ s.walks.any (fun w => decide (w.who = .mx c id)) then .next s
    else if m.phase = .finished then .next (s.retireMx c m)
    else
      let stored := if x.remote.any (fun w => w.task.isNone) then s else s.retireMx c m
      match m.op with
      | .drn _ =>
        if m.staged.isEmpty then .next (s.retireMx c m) else .next ((s.drainOne c m (fun _ => true)).getD s)
      | .st fmt =>
        if min (patTotal m.patA) ((m.cfg.mm1 + 1) * (m.cfg.nm1 + 1)) ≤ m.block then .next stored
        else .next (s.tileStore c m fmt)
      | .net _ .drain _ _ _ _ =>
        if m.staged.isEmpty then .next (s.retireMx c m)
        else .next ((s.drainOne c m (fun w => decide (w.kind ≠ .data))).getD s)
      | .net _ (.direct _) _ _ _ _ =>
        (match m.staged with
         | [] => .next stored
         | p :: _ => if p.2.kind = .data then .next s else .next (s.rankStore c m false))
      | .trc _ _ _ _ =>
        (match m.staged with
         | [] => .next stored
         | p :: _ => if p.2.kind = .data then .next s else .next (s.rankStore c m true))
      | _ => .next s

end Sys2Proof.Machine
end

