-- ==== Sys2Proof/Machine/Tasks.lean ====
section
/-! DEFINITION. Task, barrier, launch and query instructions (15 R366 to R381), and the areas of a partition
and a lease (R34 to R36, R345). -/

namespace Sys2Proof.Machine

open Host (Outcome)

/-! ## Tasks of one core (R367 to R370) -/

/-- Lowest free slot for TSPAWN: slot 7 of core (0, 0) is kept where the image defines .task 7. -/
def State.freeSlotFor (s : State) (t : TaskRef) : Option Nat :=
  let x := s.rect t.rect
  (List.range 8).find? (fun k => !((s.core t.coreRef).task k).occupied && !(decide (k = 7) && decide (t.core = 0) && x.handlerDef))

/-- TSPAWN (R367): the new task follows the writes that its spawner knows. -/
def execTspawn (g : Guard) (d : Reg) (a : Src) (entry : BitVec 12) (s : State) : Outcome State Fault Refusal :=
  issue g [srcNeed a, .dst d] (fun s =>
    if s.uninformed s.cur then .wait s .taking
    else match s.freeSlotFor s.cur with
    | none => .go (s.modTask s.cur (fun t => t.write d (BitVec.allOnes 64)))
    | some k =>
      let new := { Task.start s.myRect.spill k entry (s.me.reg a.r) with behind := (s.cur, s.nextId) :: s.me.behind }
      .go ((s.setTask { s.cur with slot := k } new).modTask s.cur (fun t => t.write d (BitVec.ofNat 64 k)))) s

/-- TYIELD (R368). -/
def execTyield (g : Guard) (s : State) : Outcome State Fault Refusal :=
  issueT g [] (fun t => { t with yielding := true }) s

/-- TWAKE (R369): flags of free slots are ignored. -/
def execTwake (g : Guard) (mask : BitVec 8) (s : State) : Outcome State Fault Refusal :=
  issue g [] (fun s => .go (modMyCore s (fun c => (List.range 8).foldl (fun (c : Core) k =>
    if mask.getLsbD k && (c.task k).occupied then c.modTask k (fun t => { t with wake := true }) else c) c))) s

/-- TPRIO (R370). -/
def execTprio (g : Guard) (prio : Fin 4) (s : State) : Outcome State Fault Refusal :=
  issueT g [] (fun t => { t with prio := BitVec.ofNat 2 prio.val }) s

/-! ## Virtual channels (R371 to R373) -/

/-- TBIND (R371, R55): the binding moves, queue and claims stay. -/
def execTbind (g : Guard) (vc : Fin 16) (s : State) : Outcome State Fault Refusal :=
  issue g [] (fun s => .go (modMyCore s (fun c => c.setVc vc.val { c.vc vc.val with holder := some s.cur.slot }))) s

/-- WAITV (R372). -/
def execWaitv (g : Guard) (d : Reg) (vc : Fin 16) (s : State) : Outcome State Fault Refusal :=
  issue g [.dst d] (fun s =>
    let v := s.myCore.vc vc.val
    if v.holder ≠ some s.cur.slot then .trap 0x10 (BitVec.ofNat 64 vc.val)
    else .go ((modMyCore s (fun c => c.setVc vc.val { v with claims := v.claims ++ [(s.cur.slot, d.val)] })).modTask s.cur
      (fun t => t.markEmpty d (.waitv vc.val)))) s

/-- SENDV (R373): injected with a credit for a free slot. -/
def execSendv (g : Guard) (a b : Src) (vc : Fin 16) (s : State) : Outcome State Fault Refusal :=
  issue g [srcNeed a, srcNeed b] (fun s =>
    let v := s.me.reg a.r
    let x := v.toNat % 256
    let y := v.toNat / 256 % 256
    let r := s.myRect
    if 65536 ≤ v.toNat ∨ r.w ≤ x ∨ r.h ≤ y then .trap 0x05 v
    else
      let core := 16 * y + x
      if !r.body.vcRoom core vc.val then .wait s (.credit core vc.val)
      else
        let (s1, id) := s.fresh
        let p : Packet := { id := id, router := r.phys s.cur.core, yFirst := Config.routeBit id,
                            payload := .vcWord core vc.val ⟨.data, s.me.reg b.r⟩ (8 * s.cur.core + s.cur.slot) }
        .go (s1.modBody s.cur.rect (fun b => { b with net := b.net ++ [p] }))) s

/-! ## Barriers (R374 to R376) -/

/-- The block of an arrival. -/
def Arrival.block (a : Arrival) : Nat × Nat × Nat × Nat := (a.x, a.y, a.w, a.h)

/-- Cores of a block. -/
def blockCores (b : Nat × Nat × Nat × Nat) : List Nat :=
  (List.range b.2.2.2).flatMap (fun j => (List.range b.2.2.1).map (fun i => 16 * (b.2.1 + j) + b.1 + i))

/-- The first generation from `g` on that a core has no arrival in. -/
def freeGen (l : List Arrival) : Nat → Nat → Nat
  | 0, g => g
  | fuel + 1, g => if l.any (fun a => decide (a.gen = g)) then freeGen l fuel (g + 1) else g

/-- R374: an arrival at an id for a block, or CONFIG. -/
def arriveFlow (s : State) (id : Nat) (blk : Nat × Nat × Nat × Nat) (tval : Word) : Flow :=
  let b := s.myCore.barrier id
  if s.uninformed s.cur then .wait s .taking
  else if b.arrivals.any (fun a => decide (a.block ≠ blk)) then .trap 0x10 tval
  else
    let gen := freeGen b.arrivals b.arrivals.length b.gen
    let a : Arrival := { gen := gen, slot := s.cur.slot, x := blk.1, y := blk.2.1, w := blk.2.2.1, h := blk.2.2.2 }
    .goWait (modMyCore s (fun c => c.setBarrier id { b with arrivals := b.arrivals ++ [a] })) (.barrier id gen)

/-- RBAR (R375). -/
def execRbar (g : Guard) (id : Fin 16) (s : State) : Outcome State Fault Refusal :=
  issue g [] (fun s => arriveFlow s id.val (0, 0, s.myRect.w, s.myRect.h) (BitVec.ofNat 64 id.val)) s

def isPow2 (n : Nat) : Bool := [1, 2, 4, 8, 16].contains n

/-- GBAR (R376). -/
def execGbar (g : Guard) (a b : Src) (s : State) : Outcome State Fault Refusal :=
  issue g [srcNeed a, srcNeed b] (fun s =>
    let va := (s.me.reg a.r).toNat
    let vb := (s.me.reg b.r).toNat
    let x0 := va % 256
    let y0 := va / 256 % 256
    let w := vb % 256
    let h := vb / 256 % 256
    let id := vb / 65536 % 16
    let r := s.myRect
    let cx := s.cur.core % 16
    let cy := s.cur.core / 16
    let tval := BitVec.ofNat 64 (vb % 2 ^ 20 * 2 ^ 32 + va % 65536)
    if va < 65536 ∧ vb < 2 ^ 20 ∧ isPow2 w ∧ isPow2 h ∧ x0 % w = 0 ∧ y0 % h = 0 ∧ x0 + w ≤ r.w ∧ y0 + h ≤ r.h
        ∧ x0 ≤ cx ∧ cx < x0 + w ∧ y0 ≤ cy ∧ cy < y0 + h then
      arriveFlow s id (x0, y0, w, h) tval
    else .trap 0x10 tval) s

/-- BARRIER_COMPLETE (R374): every core of the block has an arrival in its current generation, and the writes
that the arrivers knew have been performed. -/
def execBarrierComplete (c : CoreRef) (id : Fin 16) (s : State) : Outcome State Fault Refusal :=
  let x := s.rect c.rect
  let b := (s.core c).barrier id.val
  match b.arrivals.find? (fun a => decide (a.gen = b.gen)) with
  | none => .next s
  | some a =>
    let ks := blockCores a.block
    let arrived := fun (k : Nat) =>
      let bk := (x.body.core k).barrier id.val
      bk.arrivals.find? (fun y => decide (y.gen = bk.gen) && decide (y.block = a.block))
    let ready := ks.all (fun k => match arrived k with
      | none => false
      | some y => !s.ownPending ⟨c.rect, k, y.slot⟩ s.nextId true)
    if !ready ∨ !x.phase.carries then .next s
    else .next (s.modBody c.rect (fun b => ks.foldl (fun (b : Body) k => b.modCore k (fun q =>
      let z := q.barrier id.val
      q.setBarrier id.val { gen := z.gen + 1, arrivals := z.arrivals.filter (fun y => decide (y.gen ≠ z.gen)) })) b))

/-! ## Areas (R34 to R36, R345) -/

/-- Phases in which a rectangle occupies its cores. -/
def Phase.occupies : Phase → Bool
  | .swapped | .ended => false
  | _ => true

/-- R34. -/
def State.usable (s : State) (part : Nat) : Nat :=
  ((List.range 256).filter (fun p => s.coreEnabled p && decide (partOf s.mode p = part))).length

/-- Rectangles of a tenant that occupy cores. -/
def State.rectsOf (s : State) (tag : Nat) : List (Nat × Rect) :=
  s.rects.filter (fun p => decide (p.2.tag = tag) && p.2.phase.occupies)

def State.usedArea (s : State) (tag : Nat) : Nat := sumNat ((s.rectsOf tag).map (fun p => p.2.area))

/-- R345: the free area of a lease. -/
def State.freeArea (s : State) (tag : Nat) : Nat := (s.tenant tag).lease - s.usedArea tag

/-- R36. -/
def State.oversubscribed (s : State) (part : Nat) : Bool :=
  decide (s.usable part < sumNat ((s.tenantsOf part).map (fun k => (s.tenant k).lease)))

/-! ## Launching (R377) -/

/-- Little-endian field of a record. -/
def recField (bs : List Byte) (off n : Nat) : Nat := joinBytes ((bs.drop off).take n)

/-- LAUNCH (R377): checks, the reserved entry, the record's target, the number, the empty register; the
submission waits for the cut that records the task after the LAUNCH. -/
def execLaunch (g : Guard) (d : Reg) (a : Src) (s : State) : Outcome State Fault Refusal :=
  issue g [srcNeed a, .dst d] (fun s =>
    let ea := s.me.reg a.r
    taskAccess s ea 64 64 false .keep (fun s l p =>
      if !s.freeEntry s.myRect.part then .wait s .entry
      else directRead s ea l 64 p (fun s bs =>
        let remote := decide (recField bs 10 2 % 2 = 1)
        let tl := recField bs 24 8 % 8
        let (c1, num) := s.myCore.takeNumber tl
        let (s1, id) := s.fresh
        let s2 := if remote then s1 else s1.setCore s.cur.coreRef c1
        let x := s.myRect
        let e : Launch :=
          { id := id, part := x.part, tag := x.tag,
            src := if remote then .remote s.cur d.val else .local s.cur d.val tl num,
            addr := ea, cut := x.taskCut, phase := .reserved, lrec := [], frames := [], arrival := 0, head := none, boost := 0, copies := 0,
            stage := none }
        let s3 := ({ s2 with launches := s2.launches ++ [e] } : State).modTask s.cur (fun t => t.markEmpty d (.launch id))
        .go (s3.modRect s.cur.rect (fun x => x.wantCut x.taskCut))))) s

/-! ## Queries (R380) -/

/-- LQRY (Table 15.4). -/
def State.leaseQuery (s : State) (sel : Nat) : Nat :=
  let x := s.myRect
  let t := s.tenant x.tag
  match sel with
  | 0 => t.lease
  | 1 => s.freeArea x.tag
  | 2 => s.usable x.part
  | 3 => (s.rectsOf x.tag).length
  | 4 => (s.launches.filter (fun l => decide (l.tag = x.tag) && (decide (l.phase = .submitted) || decide (l.phase = .pending)))).length
  | 5 => x.part + 256 * s.mode
  | 6 => if s.oversubscribed x.part then 1 else 0
  | _ => t.wt + 256 * (s.part x.part).weight

/-- LQRY (R380). -/
def execLqry (g : Guard) (d : Reg) (sel : Fin 8) (s : State) : Outcome State Fault Refusal :=
  issue g [.dst d] (fun s => .go (s.modTask s.cur (fun t => t.write d (BitVec.ofNat 64 (s.leaseQuery sel.val))))) s

/-- STAGEQ (Table 15.5): a rectangle of no pipeline is one unreplicated stage; queue readings of a pipeline
are free values (log 26). -/
def State.stageQuery (s : State) (sel : Nat) : Word :=
  let x := s.myRect
  match x.stage with
  | none => BitVec.ofNat 64 ([0, 1, 65537].getD sel 0)
  | some k =>
    match Sparse.look s.stages k with
    | none => s.freeWord sel
    | some g =>
      match sel with
      | 0 => BitVec.ofNat 64 (g.rects.idxOf s.cur.rect)
      | 1 => BitVec.ofNat 64 g.rects.length
      | 2 => BitVec.ofNat 64 (g.rmin + 65536 * g.rmax)
      | _ => s.freeWord sel

/-- STAGEQ (R380). -/
def execStageq (g : Guard) (d : Reg) (sel : Fin 7) (s : State) : Outcome State Fault Refusal :=
  issue g [.dst d] (fun s => .go (s.modTask s.cur (fun t => t.write d (s.stageQuery sel.val)))) s

end Sys2Proof.Machine
end

