-- ==== Sys2Proof/Machine/Crypto.lean ====
section
/-! DEFINITION. SHA-384, HMAC-SHA-384 and the curve P-384, as the manual names them (R420, R424, R426, R435,
R437). -/

namespace Sys2Proof.Machine

/-! ## SHA-384 -/

/-- Largest r with r^n ≤ x, r below 2^bits. -/
def rootNat (n x : Nat) : Nat → Nat → Nat
  | 0, r => r
  | bits + 1, r => if (r + 2 ^ bits) ^ n ≤ x then rootNat n x bits (r + 2 ^ bits) else rootNat n x bits r

/-- The first primes. -/
def shaPrimes : List Nat :=
  (List.range 410).filter (fun n => decide (2 ≤ n) && (List.range n).all (fun d => decide (d < 2) || n % d != 0))

/-- First 64 bits of the fraction of the n-th root of p. -/
def rootBits (n p : Nat) : BitVec 64 := BitVec.ofNat 64 (rootNat n (p * 2 ^ (64 * n)) 72 0)

def shaConstants : List (BitVec 64) := shaPrimes.map (rootBits 3)
def sha384Init : List (BitVec 64) := ((shaPrimes.drop 8).take 8).map (rootBits 2)

def rotr (x : BitVec 64) (n : Nat) : BitVec 64 := (x >>> n) ||| (x <<< (64 - n))

/-- The message schedule, newest word first. -/
def shaSchedule : Nat → List (BitVec 64) → List (BitVec 64)
  | 0, w => w
  | k + 1, w =>
    let a := w.getD 14 0
    let b := w.getD 1 0
    let s0 := rotr a 1 ^^^ rotr a 8 ^^^ (a >>> 7)
    let s1 := rotr b 19 ^^^ rotr b 61 ^^^ (b >>> 6)
    shaSchedule k ((w.getD 15 0 + s0 + w.getD 6 0 + s1) :: w)

/-- One round on (a … h). -/
def shaRound (v : List (BitVec 64)) (kw : BitVec 64) : List (BitVec 64) :=
  match v with
  | [a, b, c, d, e, f, g, h] =>
    let t1 := h + (rotr e 14 ^^^ rotr e 18 ^^^ rotr e 41) + ((e &&& f) ^^^ (~~~e &&& g)) + kw
    let t2 := (rotr a 28 ^^^ rotr a 34 ^^^ rotr a 39) + ((a &&& b) ^^^ (a &&& c) ^^^ (b &&& c))
    [t1 + t2, a, b, c, d + t1, e, f, g]
  | _ => v

/-- Big-endian value of bytes. -/
def bigEndian (bs : List Byte) : Nat := bs.foldl (fun a b => 256 * a + b.toNat) 0
/-- `n` big-endian bytes. -/
def bigBytes (n v : Nat) : List Byte := (splitBytes n v).reverse

/-- A block of 128 bytes. -/
def shaBlock (ks h : List (BitVec 64)) (blk : List Byte) : List (BitVec 64) :=
  let w0 := (List.range 16).map (fun i => BitVec.ofNat 64 (bigEndian ((blk.drop (8 * i)).take 8)))
  let ws := (shaSchedule 64 w0.reverse).reverse
  let v := (ks.zip ws).foldl (fun v p => shaRound v (p.1 + p.2)) h
  (h.zip v).map (fun p => p.1 + p.2)

def shaBlocks (ks : List (BitVec 64)) : Nat → List (BitVec 64) → List Byte → List (BitVec 64)
  | 0, h, _ => h
  | n + 1, h, m => shaBlocks ks n (shaBlock ks h (m.take 128)) (m.drop 128)

/-- SHA-384: 48 bytes. -/
def sha384 (m : List Byte) : List Byte :=
  let n := m.length
  let pad := (239 - n % 128) % 128
  let full := m ++ [0x80] ++ List.replicate pad 0 ++ bigBytes 16 (8 * n)
  ((shaBlocks shaConstants (full.length / 128) sha384Init full).take 6).flatMap (fun w => bigBytes 8 w.toNat)

/-- HMAC-SHA-384. -/
def hmac384 (key msg : List Byte) : List Byte :=
  let k0 := if 128 < key.length then sha384 key else key
  let k := k0 ++ List.replicate (128 - k0.length) 0
  sha384 (k.map (· ^^^ 0x5C) ++ sha384 (k.map (· ^^^ 0x36) ++ msg))

/-! ## P-384 -/

def p384 : Nat := 2 ^ 384 - 2 ^ 128 - 2 ^ 96 + 2 ^ 32 - 1
def n384 : Nat := 0xffffffffffffffffffffffffffffffffffffffffffffffffc7634d81f4372ddf581a0db248b0a77aecec196accc52973
def b384 : Nat := 0xb3312fa7e23ee7e4988e056be3f82d19181d9c6efe8141120314088f5013875ac656398d8a2ed19d2a85c8edd3ec2aef
def g384 : Nat × Nat :=
  (0xaa87ca22be8b05378eb1c71ef320ad746e1d3b628ba79b9859f741e082542a385502f25dbf55296c3a545e3872760ab7,
   0x3617de4a96262c6f5d9e98bf9292dc29f8f41dbd289a147ce9da3113b5f0b8c00a60b1ce1d7e819d7a431d7c90ea0e5f)

/-- a^e mod m over the low `bits` bits of e, highest first. -/
def powMod (m a e : Nat) : Nat → Nat → Nat
  | 0, r => r
  | k + 1, r => powMod m a e k (if e / 2 ^ k % 2 = 1 then r * r % m * a % m else r * r % m)

/-- Inverse modulo a prime below 2^384. -/
def invMod (m a : Nat) : Nat := powMod m (a % m) (m - 2) 384 1

/-- A point of the curve; none is the neutral one. -/
abbrev Point := Option (Nat × Nat)

def onCurve (x y : Nat) : Bool :=
  decide (x < p384) && decide (y < p384) && (y * y % p384 == (x * x * x + (p384 - 3) * x + b384) % p384)

def pointAdd (p q : Point) : Point :=
  match p, q with
  | none, _ => q
  | _, none => p
  | some (x1, y1), some (x2, y2) =>
    if x1 = x2 ∧ (y1 + y2) % p384 = 0 then none
    else
      let l := if x1 = x2 then (3 * x1 * x1 + (p384 - 3)) * invMod p384 (2 * y1) % p384
               else (y2 + p384 - y1) * invMod p384 (x2 + p384 - x1) % p384
      let x3 := (l * l + 2 * p384 - x1 - x2) % p384
      some (x3, (l * (x1 + p384 - x3) + p384 - y1) % p384)

/-- k · P over the low `bits` bits of k, highest first. -/
def pointMul (k : Nat) (p : Point) : Nat → Point → Point
  | 0, r => r
  | b + 1, r =>
    let d := pointAdd r r
    pointMul k p b (if k / 2 ^ b % 2 = 1 then pointAdd d p else d)

def scalarMul (k : Nat) (p : Nat × Nat) : Point := pointMul k (some p) 384 none

/-- A draw of the entropy source as a scalar from 1 to n − 1. -/
def scalarOf (v : Nat) : Nat := v % (n384 - 1) + 1

/-- x ‖ y, big-endian, 96 bytes. -/
def pointBytes (p : Point) : List Byte := match p with
  | none => List.replicate 96 0
  | some (x, y) => bigBytes 48 x ++ bigBytes 48 y

/-- ECDSA over SHA-384 with private scalar `d` and nonce `k`: r ‖ s. -/
def ecdsaSign (d k : Nat) (msg : List Byte) : List Byte :=
  let r := ((scalarMul k g384).map (·.1)).getD 0 % n384
  let s := invMod n384 k * (bigEndian (sha384 msg) + r * d) % n384
  bigBytes 48 r ++ bigBytes 48 s

end Sys2Proof.Machine
end

