-- ==== Sys2Proof/Machine/System.lean ====
section
/-! DEFINITION. Control registers, supervisor calls, event counters and the capability list (02 R58 to R66, 18
R425, R426, 19 R445 to R453). -/

namespace Sys2Proof.Machine

open Host (Outcome)

/-! ## The capability list (R425, R426) -/

/-- Dies that have booted and announced themselves, as a mask. -/
def State.runningMask (s : State) : Nat :=
  sumNat ((List.range 4).map (fun d => if (s.die d).announced then 2 ^ d else 0))
def State.heldMask (s : State) : Nat :=
  sumNat ((List.range 4).map (fun d => if (s.die d).announced && (s.die d).held then 2 ^ d else 0))

/-- Dies of the four seams, bit by bit (R9). -/
def seamDies : List (Nat × Nat) := [(0, 1), (2, 3), (0, 2), (1, 3)]

/-- Seams that work: both dies run (R11). -/
def State.seamMask (s : State) : Nat :=
  sumNat ((List.range 4).map (fun i =>
    let p := seamDies.getD i (0, 0)
    if (s.die p.1).announced && (s.die p.2).announced then 2 ^ i else 0))

/-- Stacks of the running dies (R11, R26). -/
def State.stackMask (s : State) : Nat :=
  sumNat ((List.range 4).map (fun d => if (s.die d).announced then 3 * 4 ^ d else 0))

/-- The fixed entries 0x0010 to 0x0015 (Table 18.3). -/
def State.capFixed (s : State) : List (Nat × List Nat) :=
  [(0x10, [1024, 256]), (0x11, [0x13C, 8192]), (0x12, [s.stackMask]), (0x13, [512, 16]), (0x14, [s.seamMask]), (0x15, [0xFFF])]

/-- R426. -/
def State.capSignature (s : State) : Word :=
  BitVec.ofNat 64 (joinBytes ((sha384 ((s.capFixed.flatMap (·.2)).flatMap (splitBytes 8))).take 8))

/-- The entries with their bodies; the certificate follows the last one. -/
def State.capEntries (s : State) (certAt : Nat) : List (Nat × List Nat) :=
  let enabled := ((List.range 256).filter s.coreEnabled).length
  (1, [0x4610 + 65536 * Config.deviceNumber.toNat, s.mode, s.capSignature.toNat, enabled,
       s.heldMask + 16 * s.runningMask, certAt + 65536 * Config.certificate.length]) :: s.capFixed
    ++ [(0x16, [s.wearEntry.1, s.wearEntry.2])]

/-- Headers and bodies from an offset on. -/
def capLayout : Nat → List (Nat × List Nat) → List Nat
  | _, [] => []
  | off, (id, body) :: rest =>
    let next := off + 8 * (body.length + 1)
    (id + 65536 * (Config.capVersion id).toNat + 2 ^ 24 * body.length + 2 ^ 32 * (if rest.isEmpty then 0 else next))
      :: body ++ capLayout next rest

/-- The words of the list. -/
def State.capList (s : State) : List Nat :=
  let certAt := 8 * sumNat ((s.capEntries 0).map (fun e => e.2.length + 1))
  let cert := Config.certificate
  capLayout 0 (s.capEntries certAt) ++ numbersOf 8 (ceilDiv cert.length 8) cert

/-- R425, R452: the word at a byte offset. -/
def State.capWord (s : State) (off : Word) : Word :=
  if off.toNat % 8 ≠ 0 ∨ 4096 ≤ off.toNat then 0 else BitVec.ofNat 64 (s.capList.getD (off.toNat / 8) 0)

/-- CAPR (R452). -/
def execCapr (g : Guard) (d : Reg) (a : Src) (s : State) : Outcome State Fault Refusal :=
  issue g [srcNeed a, .dst d] (fun s => .go (s.modTask s.cur (fun t => t.write d (s.capWord (t.reg a.r))))) s

/-- CNTR (R451). -/
def execCntr (g : Guard) (d : Reg) (n : Fin 8) (s : State) : Outcome State Fault Refusal :=
  issue g [.dst d] (fun s => .go (s.modTask s.cur (fun t => t.write d ((s.myCore.counter n.val).setWidth 64)))) s

/-! ## Reading control registers (R446, Table 2.5) -/

/-- WSREF (R265, Table 2.10): the next window to start. -/
def wsref (t : Nat) : Word :=
  let start := (t / 500 + 1) * 500
  BitVec.ofNat 64 (start / 500 % 16 * 2 ^ 60 + start % 2 ^ 60)

def loopBound (st en : BitVec 12) : Word := BitVec.ofNat 64 (en.toNat * 65536 + st.toNat)

/-- COREXY (Table 2.10). -/
def Rect.coreXY (x : Rect) (core : Nat) : Word :=
  let p := x.phys core
  BitVec.ofNat 64 (core / 16 * 2 ^ 24 + core % 16 * 2 ^ 16 + p / 16 * 256 + p % 16)

/-- The 64 bits of a control register, reserved bits 0. -/
def State.ctlRead (s : State) (r : TaskRef) (idx : Nat) : Word :=
  let t := s.task r
  let x := s.rect r.rect
  let c := s.core r.coreRef
  let n := s.tenant x.tag
  match idx with
  | 0x000 => t.status
  | 0x001 => BitVec.ofNat 64 (r.slot + if t.handler then 8 else 0)
  | 0x002 => t.fpmode.setWidth 64
  | 0x003 => t.fpflags.setWidth 64
  | 0x008 => t.tvec.setWidth 64
  | 0x009 => t.tcause
  | 0x00A => t.tpc.setWidth 64
  | 0x00B => t.tval
  | 0x010 => t.sp
  | 0x011 => spillBase x.spill r.slot
  | 0x012 => t.ovfptr
  | 0x013 => t.ovflim
  | 0x018 => t.cnt0.setWidth 64
  | 0x019 => loopBound t.start0 t.end0
  | 0x01A => t.cnt1.setWidth 64
  | 0x01B => loopBound t.start1 t.end1
  | 0x100 => x.coreXY r.core
  | 0x101 => BitVec.ofNat 64 (x.w + 256 * x.h)
  | 0x102 => BitVec.ofNat 64 n.leaseNo
  | 0x103 => BitVec.ofNat 64 x.tag
  | 0x108 => BitVec.ofNat 64 x.spill
  | 0x110 => BitVec.ofNat 64 n.scopeMax
  | 0x111 => if n.scopeStrict then 1 else 0
  | 0x118 => wsref (s.timeOf r.coreRef).toNat
  | 0x120 => x.body.tdeleg
  | 0x128 => x.body.mcstall.setWidth 64
  | 0x129 => x.body.snapint.setWidth 64
  | 0x12A => x.body.rstat
  | k =>
    if 0x130 ≤ k ∧ k ≤ 0x137 then (c.sel (k - 0x130)).setWidth 64
    else if 0x140 ≤ k ∧ k ≤ 0x147 then (c.acValue (k - 0x140)).setWidth 64
    else 0

/-- RW bits in a mode (Table 2.5 and the field maps). -/
def ctlRw (k : Bool) (idx : Nat) : Word :=
  let inK := fun (m : Word) => if k then m else 0
  match idx with
  | 0x002 => 0xFF
  | 0x003 => 0x1F
  | 0x008 => 0xFFF
  | 0x009 => inK 0xFF1FFF
  | 0x00A => inK 0xFFF
  | 0x00B => inK (BitVec.allOnes 64)
  | 0x010 => BitVec.allOnes 64
  | 0x012 | 0x013 => inK (BitVec.allOnes 64)
  | 0x018 | 0x01A => 0xFFFFFFFF
  | 0x019 | 0x01B => 0x0FFF0FFF
  | 0x120 => inK 0x7FFFFE
  | 0x128 | 0x129 => inK 0xFFFFFFFF
  | n => if 0x130 ≤ n ∧ n ≤ 0x137 then 0x1FFFF else 0

/-- W1C bits in a mode. -/
def ctlW1c (k : Bool) (idx : Nat) : Word :=
  match idx with
  | 0x000 => 0x6
  | 0x12A => if k then 0x21F else 0
  | n => if 0x130 ≤ n ∧ n ≤ 0x137 then 0x20000 else 0

/-- R446: some field of the register is writable in the mode. -/
def ctlWritable (k : Bool) (idx : Nat) : Bool := ctlRw k idx ||| ctlW1c k idx != 0

/-- The three writes of Table 19.3. -/
inductive CtlOp | w | s | c
deriving DecidableEq, Repr

/-- The new value of a register (R446). -/
def ctlNew (op : CtlOp) (rw w1c old v : Word) : Word :=
  match op with
  | .w => (old &&& ~~~(rw ||| w1c)) ||| (v &&& rw) ||| (old &&& w1c &&& ~~~v)
  | .s => old ||| (v &&& rw)
  | .c => old &&& ~~~(v &&& (rw ||| w1c))

/-- CNTSELn with its counter: a change of EVENT clears the counter and OVF (R447). -/
def Core.setSel (c : Core) (n : Nat) (v : Word) : Core :=
  let new := v.setWidth 18
  if (new.setWidth 16) = ((c.sel n).setWidth 16) then { c with cntsel := Sparse.put new c.cntsel n }
  else { c with cntsel := Sparse.put (new &&& 0x1FFFF#18) c.cntsel n, counts := Sparse.put 0#48 c.counts n }

/-- Fields of a task register. -/
def Task.ctlSet (t : Task) (idx : Nat) (v : Word) : Task :=
  match idx with
  | 0x000 => { t with dz := v.getLsbD 2, sc := v.getLsbD 1 }
  | 0x002 => { t with fpmode := v.setWidth 8 }
  | 0x003 => { t with fpflags := v.setWidth 5 }
  | 0x008 => { t with tvec := v.setWidth 12 }
  | 0x009 => { t with tcause := v }
  | 0x00A => { t with tpc := v.setWidth 12 }
  | 0x00B => { t with tval := v }
  | 0x010 => { t with sp := v }
  | 0x012 => { t with ovfptr := v }
  | 0x013 => { t with ovflim := v }
  | 0x018 => { t with cnt0 := v.setWidth 32 }
  | 0x019 => { t with start0 := v.setWidth 12, end0 := v.extractLsb' 16 12 }
  | 0x01A => { t with cnt1 := v.setWidth 32 }
  | 0x01B => { t with start1 := v.setWidth 12, end1 := v.extractLsb' 16 12 }
  | _ => t

/-- Writes a control register's new value. -/
def State.ctlWrite (s : State) (r : TaskRef) (idx : Nat) (v : Word) : State :=
  match idx with
  | 0x120 => s.modBody r.rect (fun b => { b with tdeleg := v })
  | 0x128 => s.modBody r.rect (fun b => { b with mcstall := v.setWidth 32 })
  | 0x129 => s.modBody r.rect (fun b => { b with snapint := v.setWidth 32 })
  | 0x12A => s.modBody r.rect (fun b => { b with rstat := v })
  | n =>
    if 0x130 ≤ n ∧ n ≤ 0x137 then s.modCore r.coreRef (fun c => c.setSel (n - 0x130) v)
    else s.modTask r (fun t => t.ctlSet n v)

/-- R297, R447: AMO.FADD operations of a task whose old value has not been delivered. -/
def State.faddPending (s : State) (r : TaskRef) : Option Wait :=
  if s.accesses.any (fun a => decide (a.task = r) && (match a.kind with | .amo .fadd _ _ => true | _ => false)) then
    some (.accesses s.nextId false)
  else ((s.task r).pending.find? (fun p => match p.2 with | .value _ (some _) => true | _ => false)).map (fun p => .reg p.1)

/-- R445: an index from 0x800 upward traps PRIV when the instruction executes. -/
def privIndex (idx : BitVec 12) (bad : Task → Bool) (t : Task) : Option Word :=
  if 0x800 ≤ idx.toNat ∨ bad t then some (idx.setWidth 64) else none

/-- CTLR (R446, R447). -/
def execCtlr (g : Guard) (d : Reg) (idx : BitVec 12) (s : State) : Outcome State Fault Refusal :=
  issueP g (privIndex idx (fun _ => false)) [.dst d] (fun s =>
    match (if idx = 0x003 then s.faddPending s.cur else none) with
    | some w => .wait s w
    | none => .go (s.modTask s.cur (fun t => t.write d (s.ctlRead s.cur idx.toNat)))) s

/-- What the three writes share. -/
def ctlFlow (op : CtlOp) (g : Guard) (idx : BitVec 12) (a : Src) (s : State) : Outcome State Fault Refusal :=
  issueP g (privIndex idx (fun t => !ctlWritable t.kmode idx.toNat)) [srcNeed a] (fun s =>
    let n := idx.toNat
    let k := s.me.kmode
    .go (s.ctlWrite s.cur n (ctlNew op (ctlRw k n) (ctlW1c k n) (s.ctlRead s.cur n) (s.me.reg a.r)))) s

/-- CTLW (R446). -/
def execCtlw (g : Guard) (idx : BitVec 12) (a : Src) (s : State) : Outcome State Fault Refusal := ctlFlow .w g idx a s
/-- CTLS (R446). -/
def execCtls (g : Guard) (idx : BitVec 12) (a : Src) (s : State) : Outcome State Fault Refusal := ctlFlow .s g idx a s
/-- CTLC (R446). -/
def execCtlc (g : Guard) (idx : BitVec 12) (a : Src) (s : State) : Outcome State Fault Refusal := ctlFlow .c g idx a s

/-! ## Supervisor calls (R449) -/

/-- SVC (R449): mode, alignment and address checks; s5 becomes empty; the block is submitted at the cut. -/
def execSvc (g : Guard) (code : Fin 2) (s : State) : Outcome State Fault Refusal :=
  issueP g (fun t => if t.kmode then none else some 0) [.src 4 false, .dst 5] (fun s =>
    let a := s.me.reg 4
    if a.toNat % 64 ≠ 0 then .trap 0x04 a
    else if windowBase ≤ a.toNat then .trap 0x05 a
    else taskAccess s a 64 64 false .keep (fun s _ _ =>
      let (s1, id) := s.fresh
      let c : Call := { id := id, task := s.cur, part := s.myRect.part, tag := s.myRect.tag, sup := decide (code.val = 1), addr := a, cut := s.myRect.taskCut,
                        submitted := false, block := none, status := none, results := [] }
      .go ((({ s1 with calls := s1.calls ++ [c] } : State).modTask s.cur (fun t => t.markEmpty 5 (.svc id))).modRect s.cur.rect
        (fun x => x.wantCut x.taskCut)))) s

end Sys2Proof.Machine
end

