-- ==== Sys2Proof/Machine/Recovery.lean ====
section
/-! DEFINITION. Trap, return, snapshot and context instructions (23 R511 to R520) and the task record (Table 22.4,
R505). -/

namespace Sys2Proof.Machine

open Host (Outcome)

/-! ## Raising and returning (R512, R513) -/

/-- TRAP (R512): the cause is precise; TPC names the next instruction after the loop-end step. -/
def execTrap (g : Guard) (code : BitVec 8) (s : State) : Outcome State Fault Refusal :=
  issue g [] (fun _ => .trapNext code.toNat (BitVec.ofNat 64 (code.toNat * 65536))) s

/-- EBRK (R512). -/
def execEbrk (g : Guard) (code : BitVec 16) (s : State) : Outcome State Fault Refusal :=
  issue g [] (fun _ => .trapNext 0x12 (code.setWidth 64)) s

/-- RETT (R513): outside a handler it traps ILLEGAL; the low 32 bits of its word are 0. -/
def execRett (g : Guard) (s : State) : Outcome State Fault Refusal :=
  issue g [] (fun s => if s.me.intrap then .done (s.rett s.cur) else .trap 0x01 0) s

/-! ## Cuts on request (R514, R519) -/

/-- SNAP (R514): the request waits for the commands issued before it on the ports of the mask. -/
def execSnap (g : Guard) (mask : BitVec 16) (s : State) : Outcome State Fault Refusal :=
  issue g [] (fun s =>
    let c := s.myCore
    let ports := (List.range 16).filter (fun n => mask.getLsbD n)
    match ports.find? (fun n => (c.feed n).bind.isNone) with
    | some n => .trap 0x10 (BitVec.ofNat 64 n)
    | none =>
      if ports.all (fun n => (c.feed n).cmds.isEmpty) then
        .go (s.modRect s.cur.rect (fun x => x.wantCut (x.started + 1)))
      else .go (s.modBody s.cur.rect (fun b => { b with snaps := b.snaps ++ [(s.cur.core, ports.map (fun n => (n, (c.feed n).issued)))] }))) s

/-- A SNAP whose ports have delivered. -/
def Body.snapReady (b : Body) (p : Nat × List (Nat × Nat)) : Bool :=
  p.2.all (fun q => decide (q.2 ≤ ((b.core p.1).feed q.1).finished))

/-- CUTREQ (R514): recorded as standing after it; it waits for the cut. -/
def execCutreq (g : Guard) (s : State) : Outcome State Fault Refusal :=
  issue g [] (fun s =>
    let n := s.myRect.taskCut
    .goWait (s.modRect s.cur.rect (fun x => x.wantCut n)) (.cut n)) s

/-- HALT (R519): a second one has no effect. -/
def execHalt (g : Guard) (s : State) : Outcome State Fault Refusal :=
  issue g [] (fun s =>
    if s.myRect.halting.isSome then .go s
    else
      let n := s.myRect.taskCut
      .goWait (s.modRect s.cur.rect (fun x => { x.wantCut n with halting := some (n, s.cur.core, s.cur.slot) })) (.cut n)) s

/-! ## Task records (Table 22.4, R505) -/

/-- Control registers of CTL, in order. -/
def recordCtl : List Nat :=
  [0x000, 0x002, 0x003, 0x008, 0x009, 0x00A, 0x00B, 0x010, 0x011, 0x012, 0x013, 0x018, 0x019, 0x01A, 0x01B]

/-- Bits of them that are not reserved. -/
def recordCtlMask : List Word :=
  [0xCF, 0xFF, 0x1F, 0xFFF, 0xFF1FFF, 0xFFF, BitVec.allOnes 64, BitVec.allOnes 64, BitVec.allOnes 64, BitVec.allOnes 64,
   BitVec.allOnes 64, 0xFFFFFFFF, 0x0FFF0FFF, 0xFFFFFFFF, 0x0FFF0FFF]

/-- The value of a register as a context holds it. -/
def Task.savedReg (t : Task) (k : Nat) : Word :=
  if k = 0 then 0
  else match Sparse.at .full t.pres k with
    | .absent => Sparse.at 0#64 t.saved k
    | _ => Sparse.at 0#64 t.regs k

/-- A re-arm record (R505). -/
def armWord (reg kind port sub : Nat) : Nat := reg % 64 + 64 + kind % 16 * 256 + port % 16 * 4096 + sub % 2 ^ 48 * 65536

/-- Re-arm record of a pending producer. AMO and CAS awaiting a cut are kind 5, counts kind 6. -/
def Producer.arm (reg : Nat) : Producer → Option Nat
  | .take k => some (armWord reg 1 k 0)
  | .waitv v => some (armWord reg 2 v 0)
  | .svc n => some (armWord reg 3 0 n)
  | .launch n => some (armWord reg 4 0 n)
  | .access _ => some (armWord reg 5 0 0)
  | .rank _ => some (armWord reg 6 0 0)
  | .value _ _ => none

/-- The 1,024 bytes of an occupied slot's record; `dq` is the entry of bytes 720 to 740. -/
def State.recordOf (s : State) (r : TaskRef) (dq : List Byte) : List Byte :=
  let t := s.task r
  let pres := sumNat (t.pending.map (fun p => 4 ^ p.1))
  let flags := 1 + (if t.handler then 2 else 0) + (if t.held then 4 else 0) + (if t.wake then 8 else 0)
  let arms := (t.pending.filterMap (fun p => p.2.arm p.1)).take 8
  (List.range 64).flatMap (fun k => splitBytes 8 (t.savedReg k).toNat)
    ++ splitBytes 16 pres ++ splitBytes 1 (t.preds ||| 1).toNat ++ splitBytes 1 flags ++ splitBytes 2 t.pc.toNat
    ++ splitBytes 2 (min t.age 2047) ++ splitBytes 2 0
    ++ recordCtl.flatMap (fun i => splitBytes 8 (s.ctlRead r i).toNat)
    ++ (List.range 8).flatMap (fun i => splitBytes 8 (arms.getD i 0)) ++ dq ++ splitBytes (304 - dq.length) 0

/-- The record of a slot as XSAVE writes it (R516). -/
def State.taskRecord (s : State) (r : TaskRef) : List Byte :=
  if (s.task r).occupied then s.recordOf r [] else splitBytes 1024 0

def recBytes (bs : List Byte) (off n : Nat) : Nat := joinBytes ((bs.drop off).take n)

/-- Presence code of a register in a record. -/
def recPres (bs : List Byte) (k : Nat) : Nat := recBytes bs 512 16 / 4 ^ k % 4

/-- Re-arm records of a record. -/
def recArms (bs : List Byte) : List Nat := (List.range 8).map (fun i => recBytes bs (656 + 8 * i) 8)

def armReg (a : Nat) : Nat := a % 64
def armValid (a : Nat) : Bool := decide (a / 64 % 2 = 1)
def armKind (a : Nat) : Nat := a / 256 % 16
def armPort (a : Nat) : Nat := a / 4096 % 16

/-- R517: the record is refused with ILLEGAL. -/
def badRecord (c : Core) (bs : List Byte) : Bool :=
  let ts := recBytes bs 529 1
  let arms := recArms bs
  let good := fun (a : Nat) => armValid a && (decide (armKind a = 2) || (decide (armKind a = 1) && (c.sink (armPort a)).bind.isSome))
  decide (ts / 2 % 2 = 1) || decide (16 ≤ ts) || decide (4096 ≤ recBytes bs 530 2) || decide (2048 ≤ recBytes bs 532 2)
    || decide (recBytes bs 534 2 ≠ 0) || decide (recBytes bs 720 304 ≠ 0)
    || (List.range 64).any (fun k => decide (recPres bs k = 3) ||
        (decide (recPres bs k = 1) && !arms.any (fun a => good a && decide (armReg a = k))))
    || arms.any (fun a => decide (a / 128 % 2 = 1) || decide (65536 ≤ a) || (armValid a && !(decide (armKind a = 1) || decide (armKind a = 2))))
    || (List.range 15).any (fun i =>
        BitVec.ofNat 64 (recBytes bs (536 + 8 * i) 8) &&& ~~~(recordCtlMask.getD i 0) != 0)

/-- STATUS from a context; MODE is not taken (R517). -/
def Task.setStatus (t : Task) (v : Word) : Task :=
  { t with prio := v.extractLsb' 6 2, intrap := v.getLsbD 3, dz := v.getLsbD 2, sc := v.getLsbD 1 }

/-- The registers, predicates, PC and control registers of a record in a task. -/
def Task.loadRecord (t : Task) (bs : List Byte) : Task :=
  let ks := (List.range 63).map (fun i => i + 1)
  let ctl := fun (i : Nat) => BitVec.ofNat 64 (recBytes bs (536 + 8 * i) 8)
  let t1 : Task := (List.range 15).foldl (fun (t : Task) i =>
    match recordCtl.getD i 0 with
    | 0x000 => t.setStatus (ctl i)
    | 0x011 => t
    | n => t.ctlSet n (ctl i)) t
  { t1 with
    occupied := true, wake := decide (recBytes bs 529 1 / 8 % 2 = 1), regs := [],
    saved := ks.map (fun k => (k, BitVec.ofNat 64 (recBytes bs (8 * k) 8))),
    pres := (ks.filter (fun k => decide (recPres bs k ≠ 1))).map (fun k => (k, .absent)),
    preds := BitVec.ofNat 8 (recBytes bs 528 1) ||| 1, pc := BitVec.ofNat 12 (recBytes bs 530 2) }

/-- A re-armed claim (R49, R505). -/
def Core.claim (c : Core) (slot reg kind port : Nat) : Core :=
  if kind = 1 then
    let p := c.sink port
    let cmd : StreamCmd := { slot := slot, op := .take reg, pat := 0 }
    (c.setSink port { p with cmds := p.cmds ++ [cmd], issued := p.issued + 1 }).modTask slot
      (fun t => t.markEmpty (Fin.ofNat 64 reg) (.take port))
  else
    let v := c.vc port
    (c.setVc port { v with claims := v.claims ++ [(slot, reg)] }).modTask slot
      (fun t => t.markEmpty (Fin.ofNat 64 reg) (.waitv port))

/-- Claims of a record's empty registers, in rising order. -/
def Core.rearm (c : Core) (slot : Nat) (bs : List Byte) : Core :=
  (List.range 64).foldl (fun c k =>
    if k ≠ 0 ∧ recPres bs k = 1 then
      match (recArms bs).find? (fun a => armValid a && decide (armReg a = k)) with
      | some a => c.claim slot k (armKind a) (armPort a)
      | none => c
    else c) c

/-- R517: a slot loaded from a record. A held slot stays held and keeps the order of its task's earlier
writes. -/
def Core.loadSlot (c : Core) (slot : Nat) (bs : List Byte) : Core :=
  let old := c.task slot
  let base := if old.held then { Task.free with held := true, relScope := old.relScope, relUpto := old.relUpto,
                                                relCut := old.relCut, behind := old.behind }
              else Task.free
  (c.setTask slot (base.loadRecord bs)).rearm slot bs

/-! ## XSAVE and XLOAD (R515 to R518) -/

/-- A flow whose trap reports a value. -/
def reTval (v : Word) : Flow → Flow
  | .trap c _ => .trap c v
  | .trapIn s c _ => .trapIn s c v
  | f => f

/-- The checks of R515 for the 1,024 bytes at an address, which may cross into a second page; the
continuation gets the pieces. -/
def recordAccess (s : State) (a : Word) (write : Bool) (k : State → List (Loc × Nat × Policy) → Flow) : Flow :=
  let n := min 1024 (4096 - a.toNat % 4096)
  taskAccess s a n 64 write .keep (fun s l p =>
    if n = 1024 then k s [(l, n, p)]
    else reTval a (taskAccess s (a + BitVec.ofNat 64 n) (1024 - n) 64 write .keep (fun s l' p' => k s [(l, n, p), (l', 1024 - n, p')])))

/-- Bytes of the record read in pieces. -/
def readPieces (a : Word) : List (Loc × Nat × Policy) → State → List Byte → (State → List Byte → Flow) → Flow
  | [], s, acc, k => k s acc
  | (l, n, p) :: rest, s, acc, k => directRead s a l n p (fun s bs => readPieces a rest s (acc ++ bs) k)

/-- Bytes of the record written in pieces; remote ones wait for the next cut (R474). -/
def State.writePieces (s : State) (va : Word) : List (Loc × Nat × Policy) → List Byte → State
  | [], _ => s
  | (l, n, p) :: rest, bs =>
    let x := s.myRect
    let s1 := match l with
      | .peer pa => s.bufferRemote s.cur.rect (some s.cur) pa va (bs.take n) x.started x.taskCut
      | _ => s.writeLoc s.cur.rect x.started l (bs.take n) p
    s1.writePieces (va + BitVec.ofNat 64 n) rest (bs.drop n)

/-- XSAVE (R515, R516): the slot stops while its producers deliver; then the record is written and the task
waits until the write is performed. -/
def execXsave (g : Guard) (a : Src) (slot : Fin 8) (s : State) : Outcome State Fault Refusal :=
  issueP g (fun t => if t.kmode then none else some 0) [srcNeed a] (fun s =>
    let ea := s.me.reg a.r
    let x := s.myRect
    if slot.val = s.cur.slot then .trap 0x01 (BitVec.ofNat 64 slot.val)
    else recordAccess s ea true (fun s ps =>
      if !s.waitOver s.cur (.saving slot.val) then .wait s (.saving slot.val)
      else if s.ownPending s.cur s.nextId false then .wait s (.accesses s.nextId false)
      else if 1024 * x.area < x.undo.length + 34 then .wait (s.modRect s.cur.rect (fun x => x.wantCut x.taskCut)) (.cut x.taskCut)
      else if ps.any (fun p => !s.tagPass x.tag p.1 true) then .wait (s.raiseFabric s.cur.rect 0x05 ea s.cur.core) .producers
      else
        let s1 := s.writePieces ea ps (s.taskRecord { s.cur with slot := slot.val })
        .goWait s1 (.accesses s1.nextId true))) s

/-- XLOAD (R515, R517). -/
def execXload (g : Guard) (a : Src) (slot : Fin 8) (s : State) : Outcome State Fault Refusal :=
  issueP g (fun t => if t.kmode then none else some 0) [srcNeed a] (fun s =>
    let ea := s.me.reg a.r
    let k := slot.val
    if k = s.cur.slot then .trap 0x01 (BitVec.ofNat 64 k)
    else recordAccess s ea false (fun s ps =>
      let t := s.myCore.task k
      if !t.pending.isEmpty then .wait s (.settled k)
      else if t.occupied && !t.held then .trap 0x10 (BitVec.ofNat 64 k)
      else readPieces ea ps s [] (fun s bs =>
        if badRecord s.myCore bs then .trap 0x01 (BitVec.ofNat 64 k)
        else if recBytes bs 529 1 % 2 = 0 then .go (modMyCore s (fun c => if t.occupied then c.freeSlot k else c))
        else .go (modMyCore s (fun c => c.loadSlot k bs))))) s

end Sys2Proof.Machine
end

