-- ==== Sys2Proof/Machine/Cuts.lean ====
section
/-! DEFINITION. Cuts, rolling faults and rollbacks (21 R471 to R483). -/

namespace Sys2Proof.Machine

open Host (Outcome)

/-! ## The start of a cut (R471, R472) -/

/-- R472: an access that delivers before the record: a load, or an atomic performed at once, that awaits no
cut. -/
def State.firstDelivers (s : State) (a : Access) : Bool := (a.kind.isLoad || a.reg.isSome) && !s.awaitsCut a

/-- Results that stand ready have been delivered, and so have loads. -/
def State.settledForCut (s : State) (r : Nat) : Bool :=
  !s.accesses.any (fun a => decide (a.task.rect = r) && s.firstDelivers a)
    && !(s.rect r).body.cores.any (fun c => c.2.tasks.any (fun t => t.2.pending.any (fun p => match p.2 with
        | .value _ _ => true
        | _ => false)))

/-- A cut has been asked for: by name, or by a SNAP whose ports have delivered. -/
def Rect.cutWanted (x : Rect) : Bool := x.requested || x.body.snaps.any x.body.snapReady

/-- A record holds what packets of the fabric carry in the queues that they were sent to. -/
def Body.landStill (b : Body) (still elems : List Nat) : Body :=
  let landed := b.net.foldl (fun (b : Body) p => match p.payload with
    | .fabric d w src =>
      if still.contains src && !elems.contains (128 * d.core + d.site) then
        b.modCore d.core (fun c => c.setInQueue d.site d.queue (c.inQueue d.site d.queue ++ [w]))
      else b
    | .vcWord _ _ _ _ => b) b
  { landed with net := b.net.filter (fun p => match p.payload with
      | .fabric _ _ _ => false
      | .vcWord _ _ _ _ => true) }

/-- Cut buffers whose words come from elements that MARK passes hold none in a record. -/
def Body.clearCutBufs (w h : Nat) (marked : List Nat) (b : Body) : Body :=
  { b with cores := Sparse.mapAll (fun k c =>
      if c.sites.any (fun p => !p.2.cutBuf.isEmpty) then
        { c with sites := Sparse.mapAll (fun n x => { x with cutBuf := x.cutBuf.filter (fun j =>
            match traceBack b.cores w h 4096 ⟨k, n, j.1⟩ [] with
            | some t => !marked.contains (128 * t.1 + t.2.1)
            | none => true) }) c.sites }
      else c) b.cores }

/-- R472: one core as the cut starts: every bound feed port owes a MARK, and so does every element without
an input, before its next word. -/
def Core.cutLive (sourceless : List Nat) (k : Nat) (c : Core) : Core :=
  let mark : FWord := { kind := .mark, tag := 0, data := 0 }
  { c with
    feeds := Sparse.mapAll (fun _ p => if p.bind.isSome then { p with markDue := true } else p) c.feeds,
    sites := Sparse.mapAll (fun n x =>
      if sourceless.contains (128 * k + n) then { x with st := { x.st with pend := { x := some mark, y := some mark } :: x.st.pend } }
      else x) c.sites }

/-- R472: one core as the record holds it at the start: sink ports that MARK will reach hold no word yet, and
the counts of SNAPINT start again. -/
def Core.cutRecord (sinks : List (Nat × Nat)) (k : Nat) (c : Core) : Core :=
  { c with
    feeds := Sparse.mapAll (fun _ p => { p with sinceMark := 0, markDue := false }) c.feeds,
    sinks := Sparse.mapAll (fun n p => if sinks.contains (k, n) then { p with queue := [] } else p) c.sinks }

/-- The state with the next cut started. -/
def State.startCut (s : State) (r : Nat) : State :=
  let x := s.rect r
  let b := { x.body with snaps := x.body.snaps.filter (fun p => !x.body.snapReady p) }
  let plan := markPlan b.cores x.w x.h
  let ns := graphNodes b.cores
  let elems := plan.marked.filter (fun n => !(nodeCfg b.cores n).ins.isEmpty)
  let sourceless := plan.marked.filter (fun n => (nodeCfg b.cores n).ins.isEmpty)
  let still := ns.filter (fun n => !plan.marked.contains n)
  let sinks := b.cores.flatMap (fun p => p.2.sinks.filterMap (fun k => match k.2.bind with
    | some (t, _) => if plan.marked.contains (128 * p.1 + t) then some (p.1, k.1) else none
    | none => none))
  let record := (({ b with cores := Sparse.mapAll (Core.cutRecord sinks) b.cores } : Body).landStill still elems).clearCutBufs x.w x.h plan.marked
  s.setRect r { x with
    started := x.started + 1, requested := false,
    body := { b with cores := Sparse.mapAll (Core.cutLive sourceless) b.cores },
    prog := some { n := x.started + 1, body := record, elems := elems.map (fun n => (n / 128, n % 128)), sinks := sinks, still := still } }

/-- CUT_START (R471, R472): a cut asked for starts once none is in progress and pending loads have delivered. -/
def execCutStart (rect : Nat) (s : State) : Outcome State Fault Refusal :=
  let x := s.rect rect
  if x.phase.issues && x.cutWanted && x.prog.isNone && x.soft.isNone && x.reload.isNone && s.settledForCut rect then
    .next (s.startCut rect)
  else .next s

/-! ## The end of a cut (R473 to R475) -/

/-- Timelines pass what cut `n` releases (R53, R475). -/
def Body.commit (n : Nat) (b : Body) : Body :=
  { b with cores := Sparse.mapAll (fun _ c =>
      { c with tl := Sparse.mapAll (fun _ t => Timeline.commit n t.done.length t) c.tl }) b.cores }

/-- RSTAT.CUT (Table 2.10). -/
def Body.cutTaken (b : Body) : Body := { b with rstat := b.rstat ||| 0x100#64 }

/-- What the completion of cut `n` releases and frees. -/
def Rect.completeCut (x : Rect) (n : Nat) (record : Body) : Rect :=
  { x with
    complete := n, record := some (record.commit n).cutTaken, prog := none, repeats := 0,
    body := (x.body.commit n).cutTaken, undo := x.undo.filter (fun u => decide (n ≤ u.seg)),
    remote := x.remote.map (fun w => if w.cut ≤ n then { w with sent := true } else w) }

/-- R519: the cut of a HALT is complete: the rectangle stops. -/
def Rect.haltAt (x : Rect) : Rect :=
  match x.halting with
  | some (n, core, slot) =>
    if n ≤ x.complete then
      { x with phase := if x.phase = .swapped then .swapped else .stopped, verdict := some (1, 0x0F, core * 256 + slot) }
    else x
  | none => x

/-- CUT_COMPLETE (R473): every agent has recorded. -/
def execCutComplete (rect : Nat) (s : State) : Outcome State Fault Refusal :=
  let x := s.rect rect
  match x.prog with
  | none => .next s
  | some g =>
    if g.elems.isEmpty && g.sinks.isEmpty && x.phase.fires && x.soft.isNone then
      .next (s.setRect rect (x.completeCut g.n g.body).haltAt)
    else .next s

/-! ## Rolling faults (R477 to R483) -/

/-- Phases in which a rectangle has state that an error can meet. -/
def Phase.live : Phase → Bool
  | .swapped | .ended | .stopped => false
  | _ => true

/-- SOFT_ERROR_DETECT (R477, R478): the consumers of the data stall until the rollback. -/
def execSoftErrorDetect (rect : Nat) (unit : FaultUnit) (core addr len : Nat) (s : State) : Outcome State Fault Refusal :=
  let x := s.rect rect
  if x.phase.live && x.soft.isNone then .next (s.softError rect unit core addr len) else .next s

/-- Numbers of Table 21.5. -/
def unitCode : FaultUnit → Nat
  | .scratchpad => 0 | .slice => 1 | .edram => 2 | .hbm => 3 | .queue => 4 | .link => 5 | .tile => 6 | .register => 7

/-- A tenant virtual address that maps a physical one (Table 21.5). -/
def State.vaOf (s : State) (tag pa : Nat) : Option Nat :=
  (Sparse.at [] s.pages tag).findSome? (fun p =>
    let e := p.2
    let lv := p.1 / 2 ^ 36
    if e.getLsbD 0 && e.getLsbD 1 then
      let size := if lv = 3 then 2 ^ 39 else pageBytes (leafPs e)
      if leafPa e ≤ pa ∧ pa < leafPa e + size then some (p.1 % 2 ^ 36 * 2 ^ (12 + 9 * lv) + (pa - leafPa e)) else none
    else none)

/-- The damage report (Table 21.5). -/
def State.damage (s : State) (r reason : Nat) : List Byte :=
  let x := s.rect r
  let (u, core, addr, len) := x.soft.getD (.scratchpad, 0, 0, 0)
  let va := if addr = 0 then 0 else (s.vaOf x.tag addr).getD 0
  splitBytes 1 reason ++ splitBytes 1 (unitCode u)
    ++ splitBytes 2 (core % 16 + core / 16 % 16 * 16 + x.phys core % 256 * 256) ++ splitBytes 4 x.complete
    ++ splitBytes 8 addr ++ splitBytes 8 len ++ splitBytes 8 va ++ splitBytes 32 0

/-- R482: the rectangle stops for good; its report goes to the partition supervisor's mailbox. The detail of
its completion is a free value. -/
def State.unrecoverable (s : State) (r reason : Nat) : State :=
  let x := s.rect r
  { s.setRect r { x with phase := .stopped, verdict := some (1, 0x24, (s.freeWord 1).toNat % 2 ^ 32) } with
    mailbox := Sparse.put (s.damage r reason) s.mailbox x.part }

/-- R480: every byte of a range of a tenant's memory can be read. -/
def State.readable (s : State) (tag : Nat) (va : Word) (n : Nat) : Bool :=
  decide (va.toNat + n ≤ windowBase) && (List.range ((va.toNat % 4096 + n + 4095) / 4096)).all (fun i =>
    let a := va.toNat / 4096 * 4096 + 4096 * i
    match s.leafOf tag a, s.vaToPa tag a with
    | some e, some pa => leafAllows e.1 false && (isPeerWindow pa || s.granulePass tag pa false)
    | _, _ => false)

/-- R480: cut 0: the state at launch; none where image or launch record no longer reads. -/
def State.cutZero (s : State) (r : Nat) : Option Body :=
  let x := s.rect r
  let t := s.tenant x.tag
  if s.readable x.tag x.laddr 64 && s.readable x.tag x.image (32 * x.frames.length) then
    some (launchBody t.scopeMax x.frames (BitVec.ofNat 64 (recBytes x.lrec 16 8)) x.spill)
  else none

/-- R48, R508: the full registers of a restored task come back absent. -/
def Task.absentAll (t : Task) : Task :=
  if t.occupied then
    let ks := (List.range 63).map (fun i => i + 1)
    { t with
      saved := ks.map (fun k => (k, t.savedReg k)), regs := [],
      pres := ks.filterMap (fun k => match Sparse.at .full t.pres k with
        | .empty p => some (k, .empty p)
        | _ => some (k, .absent)) }
  else t

/-- The logical state as a restored record gives it: registers absent, messages on their way sent again
(R479 step 4). -/
def Rect.restored (x : Rect) (b : Body) : Body :=
  { b with
    cores := Sparse.mapAll (fun _ c => { c with tasks := Sparse.mapAll (fun _ t => t.absentAll) c.tasks }) b.cores,
    net := b.net.map (fun p => match p.payload with
      | .vcWord _ _ _ u => { p with router := x.phys (u / 8) }
      | .fabric _ _ _ => p) }

/-- A requester of the rectangle, its engine commands included. -/
def Rect.asks (x : Rect) (r : Nat) (who : Requester) : Bool :=
  who.inRect r || (match who with
    | .engine id => x.body.eng.any (fun e => decide (e.id = id))
    | _ => false)

/-- A launch that a task of a rectangle makes. -/
def LaunchSrc.ofRect (r : Nat) : LaunchSrc → Bool
  | .local t _ _ _ => decide (t.rect = r)
  | .remote t _ => decide (t.rect = r)
  | _ => false

/-- Completions that reached the record after cut `n` wait for the next one (R53, R475). -/
def Body.waitNext (n : Nat) (b : Body) : Body :=
  { b with cores := Sparse.mapAll (fun _ c =>
      { c with tl := Sparse.mapAll (fun _ t => { t with done := t.done.map (fun p => (p.1, min p.2 (n + 1))) }) c.tl }) b.cores }

/-- A completion waits for a cut. -/
def Body.completing (b : Body) : Bool := b.cores.any (fun c => c.2.tl.any (fun t => !t.2.done.isEmpty))

/-- R479: the rectangle returns to its last complete cut, whose record is `b`. -/
def State.rollTo (s : State) (r : Nat) (b : Body) : State :=
  let x := s.rect r
  let n := x.complete
  let unit := unitCode (x.soft.getD (.scratchpad, 0, 0, 0)).1
  let s1 := ((x.undo.filter (fun u => decide (n ≤ u.seg))).reverse).foldl (State.undoOne x.tag) s
  let s2 := { s1 with
    accesses := s1.accesses.filter (fun a => !(decide (a.task.rect = r) && decide (n ≤ a.seg))),
    walks := s1.walks.filter (fun w => !x.asks r w.who),
    refused := s1.refused.filter (fun w => !x.asks r w.who),
    launches := s1.launches.filter (fun (l : Launch) => !(l.src.ofRect r && decide (l.phase = AdmPhase.reserved) && decide (n < l.cut))),
    calls := s1.calls.filter (fun c => !(decide (c.task.rect = r) && !c.submitted && decide (n < c.cut))) }
  let back := ((x.restored b).commit n).waitNext n
  s2.setRect r { x with
    body := back, started := n, requested := back.completing, prog := none, repeats := x.repeats + 1,
    rollbacks := Sparse.put (Sparse.at 0 x.rollbacks unit + 1) x.rollbacks unit, ending := none, halting := none,
    reload := none, undo := x.undo.filter (fun u => decide (u.seg < n)),
    remote := x.remote.filter (fun w => decide (w.seg < n)), soft := none }

/-- ROLLBACK (R479 to R482): to the last complete cut, cut 0 before the first; the third repeat, or a cut 0
that cannot be restored, stops the rectangle. A move or a pre-emption ends first. -/
def execRollback (rect : Nat) (s : State) : Outcome State Fault Refusal :=
  let x := s.rect rect
  if x.soft.isNone || decide (x.phase ≠ .run) then .next s
  else if 3 ≤ x.repeats then .next (s.unrecoverable rect 2)
  else match x.record with
    | some b => .next (s.rollTo rect b)
    | none => match s.cutZero rect with
      | some b => .next (s.rollTo rect b)
      | none => .next (s.unrecoverable rect 1)

end Sys2Proof.Machine
end

