-- ==== Sys2Proof/Machine/Lease.lean ====
section
/-! DEFINITION. The fields of a launch record (Table 3.19) and the time slices of an oversubscribed partition
(R350). -/

namespace Sys2Proof.Machine

/-- R28: the die whose units serve a partition: the lowest-numbered die with a core of it. -/
def State.dieOfPart (s : State) (part : Nat) : Nat :=
  match ((List.range 4).find? (fun d => (List.range 256).any (fun p => decide (dieOf p = d) && decide (partOf s.mode p = part)
      && (s.die d).announced))) with
  | some d => d
  | none => 0

/-! ## Fields of a launch record (Table 3.19) -/

def Launch.field (l : Launch) (off n : Nat) : Nat := recBytes l.lrec off n
def Launch.w (l : Launch) : Nat := l.field 8 1
def Launch.h (l : Launch) : Nat := l.field 9 1
def Launch.rmin (l : Launch) : Nat := l.field 12 2
def Launch.rmax (l : Launch) : Nat := l.field 14 2
def Launch.prio (l : Launch) : Nat := l.field 33 1
def Launch.proc (l : Launch) : Nat := l.field 34 1 % 16

def State.modLaunch (s : State) (id : Nat) (f : Launch → Launch) : State :=
  { s with launches := s.launches.map (fun l => if l.id = id then f l else l) }

def State.dropLaunch (s : State) (id : Nat) : State := { s with launches := s.launches.filter (fun l => decide (l.id ≠ id)) }

def State.launch (s : State) (id : Nat) : Option Launch := s.launches.find? (fun l => decide (l.id = id))

/-- Ticks of the time base where a partition is served. -/
def State.partTime (s : State) (part : Nat) : Nat := (s.die (s.dieOfPart part)).timebase.toNat

/-- The least of a list of rationals. -/
def leastQ : List Q → Option Q
  | [] => none
  | a :: l => match leastQ l with
    | none => some a
    | some b => if Q.lt b a then some b else some a

def maxQ (a : Q) (b : Option Q) : Q := match b with
  | none => a
  | some b => if Q.lt a b then b else a

/-- Pending launches of a tenant. -/
def State.pendingOf (s : State) (tag : Nat) : List Launch := s.launches.filter (fun l => decide (l.tag = tag) && decide (l.phase = .pending))

/-- The key with the smallest turn, ties to the lowest key. -/
def leastTurn (turn : Nat → Q) : List Nat → Option Nat
  | [] => none
  | k :: ks => match leastTurn turn ks with
    | none => some k
    | some j => if Q.lt (turn j) (turn k) || (Q.eq (turn j) (turn k) && decide (j < k)) then some j else some k

/-! ## Time slices (R350) -/

def State.residents (s : State) (part : Nat) : List Nat := (s.tenantsOf part).filter (fun k => (s.tenant k).resident)

/-- Wt of R350. -/
def State.waiters (s : State) (part : Nat) : List Nat :=
  (s.tenantsOf part).filter (fun k => !(s.tenant k).resident && (s.pendingOf k).any (fun l =>
    decide (l.w * l.h * l.rmin ≤ (s.tenant k).lease - sumNat ((s.rects.filter (fun p => decide (p.2.tag = k) && decide (p.2.phase ≠ .ended))).map
      (fun p => p.2.area)))))

/-- The tenant that a slice goes to: one that has waited 8 quanta, longest first; else by its turn. -/
def State.nextWaiter (s : State) (part : Nat) : Option Nat :=
  let ws := s.waiters part
  match maxBy (fun k => (s.tenant k).quanta) (ws.filter (fun k => 8 ≤ (s.tenant k).quanta)) with
  | some k => some k
  | none => leastTurn (fun k => (s.tenant k).vs) ws

/-- The resident tenant that goes: resident for a quantum, the largest turn, ties to the highest tag. -/
def State.nextVictim (s : State) (part : Nat) : Option Nat :=
  ((s.residents part).filter (fun k => 1 ≤ (s.tenant k).quanta)).foldl (fun m k => match m with
    | none => some k
    | some j => if Q.lt (s.tenant k).vs (s.tenant j).vs then some j else some k) none

/-- Bytes of the context of a rectangle (R504). -/
def Rect.contextBytes (x : Rect) : Nat := x.area * 1388 * 1024 + 4096

/-- R506: the Crocks of the running dies have room for the contexts of a tenant beside those they hold. -/
def State.crockRoom (s : State) (tag : Nat) : Bool :=
  let need := s.rects.filter (fun p => decide (p.2.phase = .swapped) || p.2.moving == some MoveKind.preempt || decide (p.2.tag = tag))
  decide (sumNat (need.map (fun p => p.2.contextBytes)) ≤ ((List.range 4).filter (fun d => (s.die d).announced)).length * 2 ^ 27)

/-- Every rectangle of a tenant is to be pre-empted; the tenant leaves residence and waits. -/
def State.swapOut (s : State) (part tag : Nat) : State :=
  let floor := leastQ (((s.residents part).filter (fun k => decide (k ≠ tag))).map (fun k => (s.tenant k).vs))
  ({ s with rects := Sparse.mapAll (fun _ x =>
      if x.tag = tag ∧ x.phase.occupies ∧ x.moving.isNone then { x with moving := some .preempt } else x) s.rects } : State).modTenant tag
    (fun t => { t with resident := false, quanta := 0, vs := maxQ t.vs floor })

/-- The loop of R350: room for the lease of the waiter. -/
def State.makeRoom (part need : Nat) : Nat → State → Option State
  | 0, _ => none
  | fuel + 1, s =>
    if need + sumNat ((s.residents part).map (fun k => (s.tenant k).lease)) ≤ s.usable part then some s
    else match s.nextVictim part with
      | none => none
      | some u => if s.crockRoom u then State.makeRoom part need fuel (s.swapOut part u) else none

/-- R350: the admission unit runs at a quantum's end and when a lease is released. -/
def State.timeSlice (s : State) (part : Nat) : State :=
  if !s.oversubscribed part then s
  else match s.nextWaiter part with
    | none => s
    | some t =>
      match State.makeRoom part (s.tenant t).lease 257 s with
      | none => s
      | some s1 => s1.modTenant t (fun t => { t with resident := true, quanta := 0 })

/-- A tenant without rectangles and without launches leaves residence (R350). -/
def State.idleTenant (s : State) (tag : Nat) : Bool :=
  !s.rects.any (fun p => decide (p.2.tag = tag)) && !s.launches.any (fun l => decide (l.tag = tag) && decide (l.phase ≠ .reserved))

/-- A lease that is released leaves room, and the admission unit runs (R350). -/
def State.releaseIdle (s : State) (part tag : Nat) : State :=
  if s.idleTenant tag && (s.tenant tag).resident then (s.modTenant tag (fun t => { t with resident := false })).timeSlice part else s

end Sys2Proof.Machine
end

