-- ==== Sys2Proof/Machine/Churn.lean ====
section
/-! DEFINITION. The end of a rectangle (R379, R403), placement (R37, R348, R400 to R402), moves (R487 to R501),
pre-emption, saving and restoring (R502 to R508). -/

namespace Sys2Proof.Machine

open Host (Outcome)

/-! ## Blocks (R16, R33, R37) -/

/-- Physical cores of a block. -/
def blockAt (px py w h : Nat) : List Nat := (List.range h).flatMap (fun j => (List.range w).map (fun i => 16 * (py + j) + (px + i)))

def Rect.block (x : Rect) : List Nat := blockAt x.px x.py x.w x.h

/-- Cores that a rectangle holds: its block and, while it moves, its target (R496). -/
def Rect.holds (x : Rect) : List Nat :=
  if x.phase.occupies then
    x.block ++ (match x.moving with
      | some (.move px py) => blockAt px py x.w x.h
      | _ => [])
  else []

/-- R37: every core of a block is an enabled core of the partition that no other rectangle holds. -/
def State.freeBlock (s : State) (part self px py w h : Nat) : Bool :=
  decide (px + w ≤ 16) && decide (py + h ≤ 16) && (blockAt px py w h).all (fun p =>
    s.coreEnabled p && !s.worn.contains p && decide (partOf s.mode p = part) && s.rects.all (fun r => decide (r.1 = self) || !r.2.holds.contains p))

/-- Seam slots that a core claims on an edge (R93). -/
def Core.seamSlots (c : Core) (e : Nat) : List Nat := c.switches.filterMap (fun p => p.2.seam e)

/-- R93: the two cores at a die seam claim one slot. -/
def seamClash (cores : Sparse Core) (px py w h : Nat) : Bool :=
  (List.range h).any (fun y => (List.range w).any (fun x =>
    let p := 16 * (py + y) + (px + x)
    let core := fun (k : Nat) => Sparse.at Core.launch cores k
    let meet := fun (e k e' : Nat) => ((core (16 * y + x)).seamSlots e).any (fun n => ((core k).seamSlots e').contains n)
    (decide (x + 1 < w) && decide (dieOf p ≠ dieOf (p + 1)) && meet 1 (16 * y + x + 1) 3)
      || (decide (y + 1 < h) && decide (dieOf p ≠ dieOf (p + 16)) && meet 2 (16 * (y + 1) + x) 0)))

/-- R400, R401: the switch boxes of a block get a tag, and their edges out of the block a mask. -/
def State.stamp (s : State) (px py w h tag : Nat) : State :=
  (blockAt px py w h).foldl (fun (s : State) p =>
    let x := p % 16 - px
    let y := p / 16 - py
    let m : BitVec 4 := BitVec.ofNat 4 ((if y = 0 then 1 else 0) + (if x + 1 = w then 2 else 0) + (if y + 1 = h then 4 else 0)
      + (if x = 0 then 8 else 0))
    { s with boxTags := Sparse.set 0 tag s.boxTags p, edgeMasks := Sparse.set 0#4 (if tag = 0 then 0 else m) s.edgeMasks p }) s

/-! ## Accesses of an admission unit, with a tenant's tag (R378, R379) -/

/-- One byte range inside a page: its place, a wait for its walk, or a refusal. -/
def State.admReach (s : State) (id part tag : Nat) (va : Nat) (write : Bool) : EngRes Loc :=
  let who := Requester.admission id
  let die := s.dieOfPart part
  if windowBase ≤ va then .fault s 0x05 (BitVec.ofNat 64 va)
  else match s.translate who (engineCache die) die tag va write with
    | .refused => .fault (s.forgetRefusal who) 0x05 (BitVec.ofNat 64 va)
    | .miss => .wait (s.startWalk who die part tag va write).1
    | .hit pa _ =>
      if isPeerWindow pa || (s.granulePass tag pa write && (!write || !isWeightStore pa)) then .ok (s.touchTlb (engineCache die) die tag va) (locOf pa)
      else .fault s 0x05 (BitVec.ofNat 64 va)

/-- Reads bytes, page by page. -/
def State.admRead (id part tag : Nat) : Nat → Nat → Nat → State → EngRes (List Byte)
  | 0, _, _, s => .ok s []
  | fuel + 1, va, n, s =>
    if n = 0 then .ok s [] else
    let k := min n (4096 - va % 4096)
    match s.admReach id part tag va false with
    | .wait s1 => .wait s1
    | .fault s1 c v => .fault s1 c v
    | .ok s1 l =>
      let (s2, bs) := match l with
        | .phys pa => State.readPhys tag .keep (pieces pa k) s1 pa k
        | .peer pa => (s1, cellBytes s1.peer pa k)
        | .window _ _ => (s1, [])
      match State.admRead id part tag fuel (va + k) (n - k) s2 with
      | .ok s3 cs => .ok s3 (bs ++ cs)
      | .wait s3 => .wait s3
      | .fault s3 c v => .fault s3 c v

def State.tenantRead (s : State) (id part tag : Nat) (va n : Nat) : EngRes (List Byte) :=
  State.admRead id part tag ((va % 4096 + n) / 4096 + 1) va n s

/-- Writes bytes inside one page as a release at SYS scope does (R284). -/
def State.tenantWrite (s : State) (id part tag : Nat) (va : Nat) (bs : List Byte) : EngRes Unit :=
  match s.admReach id part tag va true with
  | .wait s1 => .wait s1
  | .fault s1 c v => .fault s1 c v
  | .ok s1 l =>
    let s2 := s1.releaseWork tag .sys
    match l with
    | .phys pa => .ok ((State.writePhys tag .keep (pieces pa bs.length) s2 pa bs).cleanLines (fun l => l.is tag (pa / 128))) ()
    | .peer pa => .ok { s2 with peer := setCells s2.peer pa bs } ()
    | .window _ _ => .ok s2 ()

/-! ## Answers to a launch (R377, R379) -/

/-- A value stands ready for a register whose pending producer is `p`; a record that holds the register as
empty takes it too (R49). -/
def Body.answer (b : Body) (t : TaskRef) (reg : Nat) (p : Producer) (v : Word) (ready : Bool) : Body :=
  b.modCore t.core (fun c => c.modTask t.slot (fun x =>
    if Sparse.at .full x.pres reg = .empty p then
      (if ready then { x with pres := Sparse.put (.empty (.value v none)) x.pres reg } else x.write (Fin.ofNat 64 reg) v)
    else x))

def State.answer (s : State) (t : TaskRef) (reg : Nat) (p : Producer) (v : Word) : State :=
  if (Sparse.look s.rects t.rect).isNone then s
  else s.modRect t.rect (fun x =>
    { x with body := x.body.answer t reg p v true, record := x.record.map (fun b => b.answer t reg p v false),
             prog := x.prog.map (fun g => { g with body := g.body.answer t reg p v false }) })

/-- A command number of a launching core completes, in its records too; a launcher that has ended gets
nothing (R379). -/
def State.answerNumber (s : State) (t : TaskRef) (tl num : Nat) : State :=
  match Sparse.look s.rects t.rect with
  | none => s
  | some x =>
    let cut := x.cutAfter true
    let f := fun (b : Body) => b.modCore t.core (fun c => c.completeNumber tl num cut)
    s.setRect t.rect ({ x with body := f x.body, record := x.record.map f,
                               prog := x.prog.map (fun g => { g with body := f g.body }) } : Rect) |>.modRect t.rect (fun x => x.wantCut cut)

/-- R377 step 6: the launch has started (`v` is its number, or 0) or was refused. -/
def State.answerLaunch (s : State) (id : Nat) (src : LaunchSrc) (v : Option Word) : State :=
  match src with
  | .local t reg tl num =>
    let s1 := s.answer t reg (.launch id) (v.getD (BitVec.ofNat 64 num))
    if v.isSome then s1.answerNumber t tl num else s1
  | .remote t reg => s.answer t reg (.launch id) (v.getD 0)
  | _ => s

/-- R377: the first issue of a rectangle's task 0 answers its launch. -/
def State.announce (s : State) (t : TaskRef) : State :=
  let x := s.rect t.rect
  if x.announced || decide (t.slot ≠ 0) then s
  else (s.modRect t.rect (fun x => { x with announced := true })).answerLaunch x.launch x.src none

/-! ## Completion records (R434) -/

/-- The completion record of entry `e` of a work queue, then the header's count. -/
def State.queueRecord (s : State) (id q e status reason detail : Nat) : EngRes Unit :=
  match Sparse.look s.queues q with
  | none => .ok s ()
  | some k =>
    let part := (s.tenant k.tag).part
    let rec_ := splitBytes 8 e ++ splitBytes 2 status ++ splitBytes 2 reason ++ splitBytes 4 detail
    let slot := k.comp.toNat + 64 + 16 * (e % 2 ^ k.logn)
    match s.tenantWrite id part k.tag slot rec_ with
    | .wait s1 => .wait s1
    | .fault s1 _ _ => .ok (s1.modPart part (fun p => { p with refusals := p.refusals + 1 })) ()
    | .ok s1 _ =>
      match s1.tenantWrite id part k.tag (k.comp.toNat + 16) (splitBytes 8 (k.done + 1)) with
      | .wait s2 => .wait s2
      | .fault s2 _ _ => .ok (s2.modPart part (fun p => { p with refusals := p.refusals + 1 })) ()
      | .ok s2 _ => .ok { s2 with queues := Sparse.put { k with done := k.done + 1 } s2.queues q } ()

/-! ## The end of a rectangle (R379, R403, R429) -/

/-- Every condition of R379 but the cut. -/
def State.atEnd (s : State) (r : Nat) : Bool :=
  let x := s.rect r
  x.body.cores.all (fun c => c.2.tasks.all (fun t => !t.2.occupied) && c.2.feeds.all (fun p => p.2.cmds.isEmpty)
      && c.2.sinks.all (fun p => p.2.cmds.isEmpty) && c.2.engine.cmds.isEmpty)
    && x.body.eng.isEmpty && !s.accesses.any (fun a => decide (a.task.rect = r))

/-- The accesses of a stopped rectangle that memory has been asked for are performed; the others are
discarded (R429, R519). -/
def State.settleAll (s : State) (r : Nat) : State :=
  let s1 := (s.accesses.filter (fun a => decide (a.task.rect = r))).foldl (fun (s : State) a =>
    if s.awaitsCut a || s.orderBlocked a || !s.tagPass (s.rect r).tag a.loc (!a.kind.isLoad) then s else s.perform a) s
  { s1 with accesses := s1.accesses.filter (fun a => decide (a.task.rect ≠ r)) }

/-- The rectangle leaves its cores, which are cleared with it (R403), and every request of it is gone. -/
def State.removeRect (s : State) (r : Nat) : State :=
  let x := s.rect r
  let s1 := if x.phase.occupies then s.stamp x.px x.py x.w x.h 0 else s
  let s2 := { s1 with
    rects := Sparse.del s1.rects r,
    accesses := s1.accesses.filter (fun a => decide (a.task.rect ≠ r)),
    walks := s1.walks.filter (fun w => !x.asks r w.who),
    refused := s1.refused.filter (fun w => !x.asks r w.who),
    launches := s1.launches.filter (fun (l : Launch) => !(l.src.ofRect r && decide (l.phase = AdmPhase.reserved))),
    calls := s1.calls.filter (fun c => !(decide (c.task.rect = r) && !c.submitted)),
    stages := Sparse.mapAll (fun _ g => { g with rects := g.rects.filter (fun k => decide (k ≠ r)) }) s1.stages }
  s2.releaseIdle x.part x.tag

/-- R379: the write of a remote target; a refused one is counted. -/
def State.remoteDone (s : State) (r : Nat) : EngRes Unit :=
  let x := s.rect r
  if recBytes x.lrec 10 2 % 2 = 1 then
    let done := recBytes x.lrec 24 8
    match s.tenantWrite r x.part x.tag (done % 2 ^ 48) (splitBytes 8 (done / 2 ^ 48)) with
    | .fault s1 _ _ => .ok (s1.modPart x.part (fun p => { p with refusals := p.refusals + 1 })) ()
    | e => e
  else .ok s ()

/-- Replicas of a stage do not post; the stage posts with its last one (R379). -/
def State.posts (s : State) (r : Nat) : Bool :=
  match (s.rect r).stage with
  | none => true
  | some k => !s.rects.any (fun p => decide (p.1 ≠ r) && decide (p.2.stage = some k))
      && !s.launches.any (fun l => decide (l.stage = some k))

/-- The completion is posted with a status, and the rectangle leaves. -/
def State.finishRect (s : State) (r status reason detail : Nat) : State :=
  let x := s.rect r
  if !s.posts r then s.removeRect r
  else
    match s.remoteDone r with
    | .wait s1 => s1
    | .fault s1 _ _ => s1
    | .ok s1 _ =>
      let s2 := if x.announced then s1 else s1.answerLaunch x.launch x.src none
      let posted := match x.src with
        | .local t _ tl num => EngRes.ok (s2.answerNumber t tl num) ()
        | .queue q e => s2.queueRecord r q e status reason detail
        | _ => .ok s2 ()
      match posted with
      | .wait s3 => s3
      | .fault s3 _ _ => s3
      | .ok s3 _ =>
        let s4 := s3.removeRect r
        match x.stage with
        | some k => { s4 with stages := Sparse.del s4.stages k }
        | none => s4

/-- RECTANGLE_COMPLETE (R379): after the conditions, a cut; after the cut, the completion. A rectangle that
was stopped for good completes with its verdict. What a completion record gives as reason and detail of
a plain completion is a free value. -/
def execRectangleComplete (rect : Nat) (s : State) : Outcome State Fault Refusal :=
  let x := s.rect rect
  match x.verdict with
  | some (st, reason, detail) =>
    if x.remote.any (fun w => w.sent) || decide (x.phase ≠ .stopped ∧ x.phase ≠ .swapped) then .next s
    else .next ((s.settleAll rect).finishRect rect st reason detail)
  | none =>
    if !x.phase.issues || x.soft.isSome || x.retiring then .next s
    else if !s.atEnd rect then .next (if x.ending.isNone then s else s.modRect rect (fun x => { x with ending := none }))
    else match x.ending with
      | none => .next (s.modRect rect (fun x => { x.wantCut (x.started + 1) with ending := some (x.started + 1) }))
      | some n =>
        if n ≤ x.complete ∧ x.remote.isEmpty then
          .next (s.finishRect rect 0 ((s.freeWord 2).toNat % 2 ^ 16) ((s.freeWord 3).toNat % 2 ^ 32))
        else .next s

/-! ## Moves (R487, R493 to R501) -/

/-- Cycles that the drain and the boundary wait at most (R495, R502): 20 µs. -/
def drainLimit : Nat := 18800

def State.rectClock (s : State) (r : Nat) : Nat := (s.die (dieOf ((s.rect r).phys 0))).cycles.toNat

/-- A core of the rectangle has been found unsafe (R17). -/
def State.onUnsafe (s : State) (r : Nat) : Bool := (s.rect r).block.any (fun p => s.worn.contains p)

/-- R487: the Churn may move the rectangle: for the placement in hand, once, or off an unsafe core. -/
def State.mayMove (s : State) (r : Nat) : Bool :=
  let x := s.rect r
  let p := s.part x.part
  (p.chosen.isSome && !p.moved.contains r) || s.onUnsafe r

/-- CUT_DRAIN_MOVE (R493): tasks and feed ports stop, cut points engage. -/
def execCutDrainMove (rect px py : Nat) (s : State) : Outcome State Fault Refusal :=
  let x := s.rect rect
  if x.phase = .run ∧ x.moving.isNone ∧ x.reload.isNone ∧ x.soft.isNone ∧ (px ≠ x.px ∨ py ≠ x.py) ∧ s.mayMove rect
      ∧ s.freeBlock x.part rect px py x.w x.h ∧ !seamClash x.body.cores px py x.w x.h then
    .next ((s.setRect rect { x with phase := .drain, moving := some (.move px py), clock := s.rectClock rect, frozen := false }).modPart
      x.part (fun p => if p.chosen.isSome then { p with moved := rect :: p.moved } else p))
  else .next s

/-- Both pipes of every matrix engine are empty (R225). -/
def Body.pipesEmpty (b : Body) : Bool := b.cores.all (fun c => c.2.engine.cmds.all (fun m => decide (m.phase = .queued)))

/-- QUIESCENCE_EMPTY (R491): a CFGLD that waits for EMPTY ends (R310); a drain goes on to the copy (R493). -/
def execQuiescenceEmpty (rect : Nat) (s : State) : Outcome State Fault Refusal :=
  let x := s.rect rect
  if !s.quiescent rect then .next s
  else match x.reload with
    | some rl => if x.prog.isNone && x.phase.issues then .next (s.finishReload rect rl) else .next s
    | none =>
      if x.phase = .drain ∧ x.body.pipesEmpty then .next (s.setRect rect { x with phase := .copy }) else .next s

/-- DRAIN_TIMEOUT (R495): the move goes on as freeze-copy. -/
def execDrainTimeout (rect : Nat) (s : State) : Outcome State Fault Refusal :=
  let x := s.rect rect
  if x.phase = .drain ∧ x.clock + drainLimit ≤ s.rectClock rect then
    .next (s.setRect rect { x with phase := .freeze, frozen := true })
  else .next s

/-- R494 step 3: accesses past translation are performed, packets have landed. -/
def State.frozenStill (s : State) (r : Nat) : Bool :=
  (s.rect r).body.net.isEmpty && !s.accesses.any (fun a => decide (a.task.rect = r) && !s.awaitsCut a)

/-- Accesses that wait for translation are withdrawn, and issued again after the release (R494). -/
def State.withdrawWalks (s : State) (r : Nat) : State :=
  { s with walks := s.walks.filter (fun w => !w.who.inRect r) }

/-- CORE_COPY_COMPLETE (R496): a drained rectangle, or a frozen one whose accesses have settled, has been
copied. -/
def execCoreCopyComplete (rect : Nat) (s : State) : Outcome State Fault Refusal :=
  let x := s.rect rect
  if x.phase = .copy then .next (s.setRect rect { x with phase := .rebind })
  else match x.moving with
    | some (.move _ _) =>
      if x.phase = .freeze ∧ s.frozenStill rect then .next ((s.withdrawWalks rect).setRect rect { x with phase := .rebind })
      else .next s
    | _ => .next s

/-- REBIND_RELEASE (R496, R500): the new origin, tags and masks; the release; a cut is asked for. -/
def execRebindRelease (rect : Nat) (s : State) : Outcome State Fault Refusal :=
  let x := s.rect rect
  match x.phase, x.moving with
  | .rebind, some (.move px py) =>
    let s1 := (s.stamp x.px x.py x.w x.h 0).stamp px py x.w x.h x.tag
    .next (s1.setRect rect (({ x with px := px, py := py, phase := .run, moving := none } : Rect).wantCut (x.started + 1)))
  | _, _ => .next s

/-! ## Pre-emption and saving (R502, R503) -/

/-- No array-pipe command of the rectangle is under way (R502). -/
def Body.atBoundary (b : Body) : Bool :=
  b.cores.all (fun c => c.2.engine.cmds.all (fun m => m.op.drains || decide (m.phase = .queued)))

/-- R17: no block of the rectangle's shape is free. -/
def State.noBlock (s : State) (r : Nat) : Bool :=
  let x := s.rect r
  !(List.range 16).any (fun py => (List.range 16).any (fun px => s.freeBlock x.part r px py x.w x.h))

/-- PREEMPT (R502, R350, R17): a rectangle that is to be swapped forbids new array commands; at the tile-task
boundary it freezes. A lease that stands on an unsafe core and fits nowhere is swapped whole. -/
def execPreempt (rect : Nat) (s : State) : Outcome State Fault Refusal :=
  let x := s.rect rect
  if x.phase = .boundary then
    (if x.body.atBoundary then .next (s.setRect rect { x with phase := .freeze, frozen := true, bound := true }) else .next s)
  else if x.phase ≠ .run ∨ x.reload.isSome ∨ x.soft.isSome then .next s
  else match x.moving with
    | some .preempt => .next (s.setRect rect { x with phase := .boundary, clock := s.rectClock rect, bound := false })
    | some (.move _ _) => .next s
    | none =>
      if s.onUnsafe rect && s.noBlock rect then
        .next { s with rects := Sparse.mapAll (fun _ y =>
          if y.tag = x.tag ∧ y.phase = .run then { y with moving := some .preempt } else y) s.rects }
      else .next s

/-- PREEMPT_TIMEOUT (R502). -/
def execPreemptTimeout (rect : Nat) (s : State) : Outcome State Fault Refusal :=
  let x := s.rect rect
  if x.phase = .boundary ∧ x.clock + drainLimit ≤ s.rectClock rect then
    .next (s.setRect rect { x with phase := .freeze, frozen := true })
  else .next s

def FWord.notMark (w : FWord) : Bool := decide (w.kind ≠ .mark)

def Emission.noMark (e : Emission) : Emission := { x := e.x.filter FWord.notMark, y := e.y.filter FWord.notMark }

/-- R503: the MARK words of the cut in progress leave the saved queues. -/
def Core.dropMarks (c : Core) : Core :=
  { c with
    feeds := Sparse.mapAll (fun _ p => { p with markDue := false, stage := p.stage.filter FWord.notMark }) c.feeds,
    sites := Sparse.mapAll (fun _ x => { x with
      queues := x.queues.map (fun q => q.filter FWord.notMark),
      cutBuf := x.cutBuf.map (fun p => (p.1, p.2.filter FWord.notMark)), owed := [],
      st := { x.st with
        pend := (x.st.pend.map Emission.noMark).filter (fun e => e.x.isSome || e.y.isSome),
        fifo := x.st.fifo.filter FWord.notMark,
        busOut := x.st.busOut.filter (fun i => match i with
          | .token _ w => w.notMark
          | .beat _ _ => true) } }) c.sites,
    engine := { c.engine with control := c.engine.control.filter FWord.notMark, index := c.engine.index.filter FWord.notMark } }

/-- Everything that waits for a later cut waits for cut `n`: its record follows them all (R475, R503). -/
def Task.cutAtMost (n : Nat) (t : Task) : Task :=
  { t with
    asked := min t.asked n, relCut := min t.relCut n,
    wait := t.wait.map (fun w => match w with
      | .cut m => .cut (min m n)
      | w => w) }

def Core.cutAtMost (n : Nat) (c : Core) : Core :=
  { c with
    tasks := Sparse.mapAll (fun _ t => t.cutAtMost n) c.tasks,
    tl := Sparse.mapAll (fun _ t => { t with done := t.done.map (fun p => (p.1, min p.2 n)) }) c.tl,
    sites := Sparse.mapAll (fun _ x => { x with st := { x.st with held := x.st.held.map (fun h => { h with cut := min h.cut n }) } }) c.sites }

/-- R503: the context is the record of a complete cut. -/
def State.saveContext (s : State) (r : Nat) : State :=
  let x := s.rect r
  let n := match x.prog with
    | some g => g.n
    | none => x.started + 1
  let body := { x.body with cores := Sparse.mapAll (fun _ c => (c.dropMarks).cutAtMost n) x.body.cores }
  let y : Rect := ({ x with
    started := n, requested := false, undo := [], remote := x.remote.map (fun w => { w with cut := min w.cut n, seg := min w.seg (n - 1) }),
    ending := x.ending.map (fun m => min m n), halting := x.halting.map (fun h => (min h.1 n, h.2)),
    body := body, phase := .swapped, moving := none, capsig := s.capSignature } : Rect).completeCut n body
  let s1 := ((s.withdrawWalks r).stamp x.px x.py x.w x.h 0).setRect r y.haltAt
  { s1 with
    accesses := s1.accesses.map (fun a => if a.task.rect = r then { a with cut := min a.cut n, seg := min a.seg (n - 1) } else a),
    calls := s1.calls.map (fun c => if c.task.rect = r then { c with cut := min c.cut n } else c),
    launches := s1.launches.map (fun l => if l.src.ofRect r then { l with cut := min l.cut n } else l) }

/-- CONTEXT_SAVE_COMPLETE (R503): a frozen rectangle whose accesses have settled is in the Crock. -/
def execContextSaveComplete (rect : Nat) (s : State) : Outcome State Fault Refusal :=
  let x := s.rect rect
  if x.phase = .freeze ∧ x.moving = some .preempt ∧ s.frozenStill rect then .next (s.saveContext rect) else .next s

/-! ## Restoring (R507, R508) -/

/-- R350: a lease may run: its partition is not oversubscribed, or it is resident. -/
def State.runs (s : State) (tag : Nat) : Bool := (s.tenant tag).resident || !s.oversubscribed (s.tenant tag).part

/-- CONTEXT_RESTORE (R507, R508): onto a free block of the shape; registers come back absent. A context whose
capability signature is not the device's is not restored, and its launch completes. -/
def execContextRestore (rect px py : Nat) (s : State) : Outcome State Fault Refusal :=
  let x := s.rect rect
  if x.phase ≠ .swapped ∨ x.verdict.isSome ∨ !s.runs x.tag then .next s
  else if x.capsig ≠ s.capSignature then .next ((s.unrecoverable rect 3).modRect rect (fun y => { y with phase := .swapped }))
  else if s.freeBlock x.part rect px py x.w x.h && !seamClash x.body.cores px py x.w x.h then
    let y := { x with px := px, py := py }
    .next ((s.stamp px py x.w x.h x.tag).setRect rect { y with phase := .run, body := y.restored x.body })
  else .next s

end Sys2Proof.Machine
end

