-- ==== Sys2Proof/Machine/Admission.lean ====
section
/-! DEFINITION. Admission: submission, checks, choice, ageing, placement, time slices and replicas (14 R342 to
R355, 15 R377, R378). -/

namespace Sys2Proof.Machine

open Host (Outcome)

/-! ## Submission (R377) -/

/-- LAUNCH_SUBMIT (R377 step 5): the cut is complete, and the task's earlier writes, and those its spawner
knew, have been performed. -/
def execLaunchSubmit (id : Nat) (s : State) : Outcome State Fault Refusal :=
  match s.launch id with
  | none => .next s
  | some l =>
    let from_ := match l.src with
      | .local t _ _ _ => some t
      | .remote t _ => some t
      | _ => none
    match from_ with
    | none => .next s
    | some t =>
      let x := s.rect t.rect
      let writes := fun (u : TaskRef) (n : Nat) => s.accesses.any (fun a => decide (a.task = u) && decide (a.id < n) && (a.acq || !a.kind.isLoad))
      if l.phase = .reserved ∧ l.cut ≤ x.complete ∧ !writes t id ∧ !(s.task t).behind.any (fun p => writes p.1 p.2) then
        .next (s.modLaunch id (fun l => { l with phase := .submitted }))
      else .next s

/-! ## Checks (R378, Table 15.3) -/

/-- R378 step 3: reasons 0x01 to 0x04 with their details. -/
def State.recordFault (s : State) (tag : Nat) (rec_ : List Byte) (hd : Frame) : Option (Nat × Nat) :=
  let f := recBytes rec_
  let w := f 8 1
  let h := f 9 1
  let rmin := f 12 2
  let t := s.tenant tag
  let done := f 24 8
  let bad4 : List (Bool × Nat) :=
    [(decide (f 0 8 % 32 ≠ 0), 0), (decide (2 ≤ f 10 2), 10),
     (if f 10 2 % 2 = 0 then decide (8 ≤ done) else decide (done % 8 ≠ 0), 24), (decide (64 < f 32 1), 32),
     (decide (3 < f 33 1), 33), (decide (16 ≤ f 34 1), 34), (decide (f 35 1 ≠ 0), 35)]
  if w < 1 ∨ 16 < w ∨ h < 1 ∨ 16 < h ∨ w ≠ imageW hd ∨ h ≠ imageH hd then some (0x01, w * 256 + h)
  else if partW s.mode < w ∨ partH s.mode < h ∨ t.lease < w * h * rmin then some (0x02, w * h * rmin)
  else if rmin = 0 ∨ f 14 2 < rmin then some (0x03, rmin)
  else (bad4.find? (·.1)).map (fun p => (0x04, p.2))

/-- The launch is refused (R377 step 6, R434). -/
def State.refuseLaunch (s : State) (l : Launch) (reason detail : Nat) : State :=
  let s1 := ((s.answerLaunch l.id l.src (some (BitVec.ofNat 64 (2 ^ 63 + reason * 2 ^ 32 + detail % 2 ^ 32)))).dropLaunch l.id).releaseIdle l.part l.tag
  match l.src with
  | .queue q e =>
    (match s1.queueRecord l.id q e 1 reason detail with
     | .ok s2 _ => s2
     | .wait s2 => { s2 with launches := s.launches }
     | .fault s2 _ _ => s2)
  | _ => s1

/-- A tenant or process that becomes backlogged takes the smallest turn of the backlogged (R346); a tenant
that comes to wait takes at least that of the resident ones (R350). -/
def State.joinTurn (s : State) (part tag proc : Nat) : State :=
  let mine := s.pendingOf tag
  let others := (s.tenantsOf part).filter (fun k => decide (k ≠ tag) && !(s.pendingOf k).isEmpty)
  let residents := (s.tenantsOf part).filter (fun k => decide (k ≠ tag) && (s.tenant k).resident)
  let s1 := if mine.isEmpty then
      s.modTenant tag (fun t => { t with
        vt := maxQ t.vt (leastQ (others.map (fun k => (s.tenant k).vt))),
        vs := if t.resident then t.vs else maxQ t.vs (leastQ (residents.map (fun k => (s.tenant k).vs))),
        quanta := if t.resident then t.quanta else 0 })
    else s
  let procs := ((mine.map Launch.proc).eraseDups).filter (fun p => decide (p ≠ proc))
  if mine.any (fun l => decide (l.proc = proc)) then s1
  else s1.modTenant tag (fun t => { t with
    vps := Sparse.put (maxQ (Sparse.at Q.zero t.vps proc) (leastQ (procs.map (fun p => Sparse.at Q.zero t.vps p)))) t.vps proc })

/-- A launch that passed every check joins its queue. -/
def State.joinQueue (s : State) (l : Launch) (rec_ : List Byte) (frames : List Frame) : State :=
  let proc := recBytes rec_ 34 1 % 16
  let prio := recBytes rec_ 33 1
  let first := !(s.pendingOf l.tag).any (fun m => decide (m.proc = proc) && decide (m.prio = prio))
  let now := s.partTime l.part
  let (s1, n) := (s.joinTurn l.part l.tag proc).fresh
  s1.modLaunch l.id (fun l => { l with
    phase := .pending, lrec := rec_, frames := frames, arrival := n, head := if first then some now else none,
    copies := recBytes rec_ 12 2 })

def framesOf (n : Nat) (bs : List Byte) : List Frame := (List.range n).map (fun i => BitVec.ofNat 256 (recBytes bs (32 * i) 32))

/-- ADMISSION_RECEIVE (R378): the record (that of a queue entry was read with the entry, R433), the image header, the fields, the rest of the image, the image. -/
def execAdmissionReceive (id : Nat) (s : State) : Outcome State Fault Refusal :=
  match s.launch id with
  | none => .next s
  | some l =>
    if l.phase ≠ .submitted then .next s
    else match (if l.lrec.isEmpty then s.tenantRead id l.part l.tag l.addr.toNat 64 else .ok s l.lrec) with
      | .wait s1 => .next s1
      | .fault s1 _ _ => .next (s1.refuseLaunch l 0x05 0)
      | .ok s1 rec_ =>
        let image := recBytes rec_ 0 8
        match s1.tenantRead id l.part l.tag image 32 with
        | .wait s2 => .next s2
        | .fault s2 _ _ => .next (s2.refuseLaunch l 0x05 0)
        | .ok s2 hb =>
          let hd : Frame := BitVec.ofNat 256 (joinBytes hb)
          match s2.recordFault l.tag rec_ hd with
          | some f => .next (s2.refuseLaunch l f.1 f.2)
          | none =>
            let n := max 1 (imageCount hd)
            match s2.tenantRead id l.part l.tag image (32 * n) with
            | .wait s3 => .next s3
            | .fault s3 _ _ => .next (s3.refuseLaunch l 0x05 0)
            | .ok s3 bs =>
              let fs := framesOf n bs
              let t := s3.tenant l.tag
              match imageFault t.scopeMax t.scopeStrict (4096 * recBytes rec_ 32 1) fs with
              | some i => .next (s3.refuseLaunch l 0x06 i)
              | none => .next (s3.joinQueue l rec_ fs)

/-! ## Choice (R345 to R347) -/

/-- Heads of the launch queues of a tenant: of each process and priority, the launch that arrived first. -/
def State.headsOf (s : State) (tag : Nat) : List Launch :=
  (s.pendingOf tag).filter (fun l => (s.pendingOf tag).all (fun m =>
    decide (m.proc ≠ l.proc) || decide (m.prio ≠ l.prio) || decide (l.arrival ≤ m.arrival)))

/-- R345. -/
def State.admissible (s : State) (l : Launch) : Bool := decide (l.w * l.h * l.rmin ≤ s.freeArea l.tag) && s.runs l.tag

/-- Launches that may be chosen: admissible heads, in a reserved tenant the reserving one alone. -/
def State.mayChoose (s : State) (tag : Nat) : List Launch :=
  (s.headsOf tag).filter (fun l => s.admissible l && (match (s.tenant tag).reserved with
    | some r => decide (r = l.id)
    | none => true))

/-- R347: effective priority, never above 3. -/
def Launch.effective (l : Launch) : Nat := min 3 (l.prio + l.boost)

/-- R346, R347: the launch that comes first among those of one process. -/
def firstLaunch : List Launch → Option Launch
  | [] => none
  | l :: ls => match firstLaunch ls with
    | none => some l
    | some m =>
      if l.effective < m.effective ∨ (l.effective = m.effective ∧ (l.prio < m.prio ∨ (l.prio = m.prio ∧ m.arrival < l.arrival))) then some m
      else some l

/-- R346: the launch that the admission unit chooses. -/
def State.choice (s : State) (part : Nat) : Option Launch :=
  match leastTurn (fun k => (s.tenant k).vt) ((s.tenantsOf part).filter (fun k => !(s.mayChoose k).isEmpty)) with
  | none => none
  | some tag =>
    let ls := s.mayChoose tag
    match leastTurn (fun p => Sparse.at Q.zero (s.tenant tag).vps p) (ls.map Launch.proc).eraseDups with
    | none => none
    | some p => firstLaunch (ls.filter (fun l => decide (l.proc = p)))

/-- The launch becomes the one that the Churn places; the next of its queue comes to the head. -/
def State.choose (s : State) (part : Nat) (l : Launch) : State :=
  let a := l.w * l.h * l.rmin
  let s1 := (s.modLaunch l.id (fun l => { l with phase := .chosen })).modTenant l.tag (fun t => { t with
    vt := t.vt.add (Q.div (Q.ofInt a) (Q.ofInt t.wt)),
    vps := Sparse.put ((Sparse.at Q.zero t.vps l.proc).add (Q.div (Q.ofInt a) (Q.ofInt ((Sparse.at (1 : Nat) t.wps l.proc : Nat) : Int)))) t.vps l.proc,
    reserved := if t.reserved = some l.id then none else t.reserved })
  let s2 := s1.modPart part (fun p => { p with chosen := some l.id, moved := [] })
  match (s2.headsOf l.tag).find? (fun m => decide (m.proc = l.proc) && decide (m.prio = l.prio)) with
  | none => s2
  | some m => s2.modLaunch m.id (fun m => { m with head := some (s2.partTime part) })

/-- ADMISSION_CHOICE (R346): while the Churn is free. -/
def execAdmissionChoice (part : Nat) (s : State) : Outcome State Fault Refusal :=
  if (s.part part).chosen.isSome then .next s
  else match s.choice part with
    | none => .next s
    | some l => .next (s.choose part l)

/-- The head of a launch queue. -/
def State.headAt (s : State) (tag proc prio : Nat) : Option Launch :=
  (s.headsOf tag).find? (fun l => decide (l.proc = proc) && decide (l.prio = prio))

/-- LAUNCH_AGEING (R347): one level for each 1 ms (250,000 ticks) at the head, up to 3. -/
def execLaunchAgeing (part tag proc prio : Nat) (s : State) : Outcome State Fault Refusal :=
  match s.headAt tag proc prio with
  | none => .next s
  | some l =>
    match l.head with
    | none => .next s
    | some t =>
      if l.part = part ∧ l.boost < 3 ∧ t + 250000 * (l.boost + 1) ≤ s.partTime part then
        .next (s.modLaunch l.id (fun l => { l with boost := l.boost + 1 }))
      else .next s

/-- TENANT_RESERVE (R347): a head that is not admissible and has waited 100 µs (25,000 ticks). -/
def execTenantReserve (part tag proc prio : Nat) (s : State) : Outcome State Fault Refusal :=
  match s.headAt tag proc prio with
  | none => .next s
  | some l =>
    match l.head with
    | none => .next s
    | some t =>
      if l.part = part ∧ (s.tenant tag).reserved.isNone ∧ !s.admissible l ∧ t + 25000 ≤ s.partTime part then
        .next (s.modTenant tag (fun t => { t with reserved := some l.id }))
      else .next s

/-! ## Placement (R342, R348, R66, R263) -/

/-- R263: a copy into the tenant's weight store, issued before the launch was admitted, is under way. -/
def State.copiesToStore (s : State) (tag id : Nat) : Bool :=
  (s.engCmds).any (fun p => decide ((s.rect p.1).tag = tag) && decide (p.2.id < id) && p.2.destAddrs.any (fun a =>
    decide (a.toNat < windowBase) && (match s.vaToPa tag a.toNat with
      | some pa => isWeightStore pa
      | none => false)))

/-- The rectangle of a launch at a place: its image loaded, task 0 of every core and the handler task started
(R66). -/
def State.newRect (s : State) (l : Launch) (px py : Nat) : Rect :=
  let t := s.tenant l.tag
  let spill := 4096 * l.field 32 1
  { Rect.absent with
    phase := .run, part := l.part, tag := l.tag, w := l.w, h := l.h, px := px, py := py,
    image := BitVec.ofNat 64 (l.field 0 8), handlerDef := (match l.frames with
      | hd :: _ => imageTask hd 7
      | [] => false),
    spill := spill, frames := l.frames, lrec := l.lrec, laddr := l.addr, src := l.src, launch := l.id, stage := l.stage,
    announced := match l.src with
      | .local _ _ _ _ => false
      | .remote _ _ => false
      | _ => true,
    body := launchBody t.scopeMax l.frames (BitVec.ofNat 64 (l.field 16 8)) spill }

/-- LAUNCH_PLACE (R348): the chosen launch, one replica at a time, onto a free block. -/
def execLaunchPlace (part px py : Nat) (s : State) : Outcome State Fault Refusal :=
  match (s.part part).chosen.bind s.launch with
  | none => .next s
  | some l =>
    let r := s.newRect l px py
    if !s.freeBlock part 0 px py l.w l.h || seamClash r.body.cores px py l.w l.h || (framesBind l.frames && s.copiesToStore l.tag l.arrival) then .next s
    else
      let (s1, id) := s.fresh
      let stage := if l.stage.isSome then l.stage else if 1 < l.rmax then some l.id else none
      let now := BitVec.ofNat 64 (s.partTime part)
      let s2 := ((s1.stamp px py l.w l.h l.tag).setRect id { r with stage := stage }).modTenant l.tag
        (fun t => { t with resident := true })
      let s3 := match stage with
        | none => s2
        | some k =>
          let old : Stage := Sparse.at { part := part, tag := l.tag, lrec := l.lrec, frames := l.frames, src := l.src, rmin := l.rmin,
                                         rmax := l.rmax, rects := [], changed := now } s2.stages k
          { s2 with stages := Sparse.put { old with rects := old.rects ++ [id], changed := now } s2.stages k }
      if l.copies ≤ 1 then .next ((s3.dropLaunch l.id).modPart part (fun p => { p with chosen := none, moved := [] }))
      else .next (s3.modLaunch l.id (fun l => { l with copies := l.copies - 1, stage := stage }))

/-! ## Quanta (R350) -/

/-- Ticks of a quantum. -/
def State.quantumTicks (s : State) : Nat := s.quantum * 250000

/-- QUANTUM_END (R350): turns grow; then the slices. -/
def execQuantumEnd (part : Nat) (s : State) : Outcome State Fault Refusal :=
  let now := s.partTime part
  if (Sparse.look s.parts part).isNone ∨ now < (s.part part).lastQ + s.quantumTicks then .next s
  else
    let s1 := (s.tenantsOf part).foldl (fun (s : State) k => s.modTenant k (fun t =>
      if t.resident then { t with vs := t.vs.add (Q.div (Q.ofInt 1) (Q.ofInt t.wt)), quanta := t.quanta + 1 }
      else if (s.pendingOf k).isEmpty then t else { t with quanta := t.quanta + 1 })) s
    .next ((s1.modPart part (fun p => { p with lastQ := p.lastQ + s.quantumTicks })).timeSlice part)

/-! ## Replicas (R353 to R355) -/

/-- REPLICA_EVALUATE (R354): the occupancy of the queue is a free value (log 26), so are its readings. -/
def execReplicaEvaluate (pipe stage : Nat) (s : State) : Outcome State Fault Refusal :=
  match Sparse.look s.stages stage with
  | none => .next s
  | some g =>
    let now := s.partTime g.part
    let n := g.rects.length
    let t := s.tenant g.tag
    let w := recBytes g.lrec 8 1
    let h := recBytes g.lrec 9 1
    let swapping := !s.runs g.tag || s.rects.any (fun p => decide (p.2.tag = g.tag) && p.2.moving == some MoveKind.preempt)
    if pipe ≠ g.part ∨ swapping ∨ t.part ≠ g.part then .next s
    else if (s.freeWord 4).getLsbD 0 ∧ n < g.rmax ∧ w * h ≤ s.freeArea g.tag ∧ g.changed.toNat + 2000 ≤ now ∧ (s.part g.part).chosen.isNone then
      let (s1, id) := s.fresh
      let l : Launch := { id := id, part := g.part, tag := g.tag, src := .replica stage, addr := 0, cut := 0, phase := .chosen, lrec := g.lrec,
                          frames := g.frames, arrival := id, head := none, boost := 0, copies := 1, stage := some stage }
      .next (({ s1 with launches := s1.launches ++ [l],
                        stages := Sparse.put { g with changed := BitVec.ofNat 64 now } s1.stages stage } : State).modPart g.part
        (fun p => { p with chosen := some id, moved := [] }))
    else if (s.freeWord 4).getLsbD 1 ∧ g.rmin < n ∧ g.changed.toNat + 16000 ≤ now then
      match g.rects.getLast? with
      | none => .next s
      | some r =>
        if (s.rect r).retiring ∨ (s.rect r).phase ≠ .run then .next s
        else .next ({ s.modRect r (fun x => { x with retiring := true }) with
          stages := Sparse.put { g with changed := BitVec.ofNat 64 now } s.stages stage })
    else .next s

/-- REPLICA_RETIRE_END (R355): whether every item has left is a free value (log 26). -/
def execReplicaRetireEnd (rect : Nat) (s : State) : Outcome State Fault Refusal :=
  let x := s.rect rect
  if x.retiring ∧ x.phase = .run ∧ x.moving.isNone ∧ (s.freeWord 5).getLsbD 0 then .next (s.removeRect rect) else .next s

end Sys2Proof.Machine
end

