-- ==== Sys2Proof/Machine/Contexts.lean ====
section
/-! DEFINITION. The bytes of a context (Table 22.2, Table 22.3, Table 22.4) and its way between devices (R504,
R507, R509). -/

namespace Sys2Proof.Machine

open Host (Outcome)

/-! ## Sections without a stated layout (Table 22.3, log 29) -/

/-- The sections of a core whose contents the manual names without a layout: shared state, elements, switch
boxes, matrix engine. -/
opaque openSections : Core → List Byte

/-- A core with what those sections hold; none where their reserved fields are not zero. -/
opaque readSections : List Byte → Option Core

/-- A signature verifies under the vendor's certification of the device that exported (R509). -/
opaque genuine : List Byte → List Byte → Bool

/-- `n` bytes of a section, shorter ones filled up with zeros. -/
def fit (n : Nat) (bs : List Byte) : List Byte := (bs ++ List.replicate (n - bs.length) 0).take n

/-- Bytes of 32-bit words 0 to n − 1. -/
def wordBytes (m : Sparse W32) (n : Nat) : List Byte := (List.range n).flatMap (fun i => splitBytes 4 (Sparse.at 0#32 m i).toNat)

/-- 32-bit words from bytes. -/
def wordsFrom (bs : List Byte) (off n : Nat) : Sparse W32 :=
  (List.range n).foldl (fun m i => Sparse.set 0#32 (BitVec.ofNat 32 (recBytes bs (off + 4 * i) 4)) m i) []

/-- Tiles: 64 KiB of values, then c, β, r and γ. -/
def Tile.bytes (t : Tile) : List Byte :=
  wordBytes t.vals 16384 ++ wordBytes t.c 128 ++ wordBytes t.beta 128 ++ wordBytes t.r 128 ++ wordBytes t.gamma 128

def Tile.withBytes (t : Tile) (bs : List Byte) (off : Nat) : Tile :=
  { t with vals := wordsFrom bs off 16384, c := wordsFrom bs (off + 65536) 128, beta := wordsFrom bs (off + 66048) 128,
           r := wordsFrom bs (off + 66560) 128, gamma := wordsFrom bs (off + 67072) 128 }

/-! ## Writing (R504) -/

/-- A task record of a context, with the task's entry in the delegation queue. -/
def State.contextRecord (s : State) (r : TaskRef) : List Byte :=
  if (s.task r).occupied then
    s.recordOf r (match (s.rect r.rect).body.dq.find? (fun q => !q.fabric && decide (q.core = r.core) && decide (q.slot = r.slot)) with
      | some q => splitBytes 8 q.trapWord.toNat ++ splitBytes 8 q.tval.toNat ++ splitBytes 4 q.seq ++ splitBytes 1 1
      | none => [])
  else splitBytes 1024 0

/-- The section of a core (Table 22.3). -/
def State.coreSection (s : State) (r : CoreRef) : List Byte :=
  let c := s.core r
  let rest := fit 65536 (openSections c)
  rest.take 4096 ++ (List.range 8).flatMap (fun k => s.contextRecord ⟨r.rect, r.core, k⟩) ++ (rest.drop 4096).take 57344
    ++ (List.range 4).flatMap (fun k => (c.engine.tile k).bytes)
    ++ (List.range 4096).flatMap (fun i => splitBytes 8 (c.instrWord i).toNat) ++ cellBytes c.scratch 0 (2 ^ 20)

/-- The header (Table 22.2). -/
def State.contextHeader (s : State) (r : Nat) : List Byte :=
  let x := s.rect r
  let b := x.body
  let fq := b.dq.find? (·.fabric)
  let flags := (if x.frozen then 1 else 0) + 2 + (if x.bound then 4 else 0)
  splitBytes 4 0x58435643 ++ splitBytes 2 1 ++ splitBytes 1 x.w ++ splitBytes 1 x.h ++ splitBytes 8 x.capsig.toNat
    ++ splitBytes 2 x.tag ++ splitBytes 2 flags ++ splitBytes 4 (s.tenant x.tag).leaseNo ++ splitBytes 8 x.image.toNat
    ++ splitBytes 8 x.complete ++ splitBytes 8 (s.partTime x.part) ++ fit 64 x.lrec ++ splitBytes 8 b.tdeleg.toNat
    ++ splitBytes 4 b.mcstall.toNat ++ splitBytes 4 b.snapint.toNat ++ splitBytes 8 b.rstat.toNat
    ++ (match fq with
        | some q => splitBytes 8 q.trapWord.toNat ++ splitBytes 8 q.tval.toNat ++ splitBytes 4 q.seq ++ splitBytes 1 1
        | none => splitBytes 21 0)
    ++ splitBytes 3 0 ++ splitBytes 4 b.nseq ++ splitBytes 4 0 ++ splitBytes 8 b.residue.length
    ++ fit 512 (b.residue.flatMap (fun w => splitBytes 8 w.toNat)) ++ splitBytes 3408 0

def State.contextOf (s : State) (r : Nat) : List Byte :=
  s.contextHeader r ++ (s.rect r).coreList.flatMap (fun k => s.coreSection ⟨r, k⟩)

/-- The die whose identity key signs for the device (R423). -/
def State.signer (s : State) : Nat := s.primary.getD 0

/-- An ECDSA P-384 signature by the device identity key. -/
def State.sign (s : State) (msg : List Byte) : State × List Byte :=
  let (s1, n) := s.fresh
  (s1, ecdsaSign (scalarOf (Config.identityKey s.signer)) (scalarOf (Config.entropy n)) msg)

/-- Nothing of the rectangle is under way outside its cores. -/
def State.allInside (s : State) (r : Nat) : Bool :=
  let x := s.rect r
  !s.accesses.any (fun a => decide (a.task.rect = r)) && x.body.eng.isEmpty && x.remote.isEmpty && x.body.atSup.isEmpty

/-- CONTEXT_EXPORT (R509): a swapped context, signed, goes to the partition supervisor's mailbox (log 29). -/
def execContextExport (rect : Nat) (s : State) : Outcome State Fault Refusal :=
  let x := s.rect rect
  if x.phase = .swapped ∧ x.verdict.isNone ∧ s.allInside rect then
    let bytes := s.contextOf rect
    let (s1, sig) := s.sign bytes
    .next { s1 with mailbox := Sparse.put (bytes ++ sig) s1.mailbox x.part }
  else .next s

/-! ## Reading (R507, R508) -/

/-- Reserved fields of a task record that are not zero. -/
def contextRecordOdd (bs : List Byte) : Bool :=
  decide (16 ≤ recBytes bs 529 1) || decide (4096 ≤ recBytes bs 530 2) || decide (2048 ≤ recBytes bs 532 2)
    || decide (recBytes bs 534 2 ≠ 0) || decide (2 ≤ recBytes bs 740 1) || decide (recBytes bs 741 283 ≠ 0)
    || (List.range 64).any (fun k => decide (recPres bs k = 3))
    || (recArms bs).any (fun a => decide (a / 128 % 2 = 1) || (armValid a && (decide (armKind a = 0) || decide (6 < armKind a))))
    || (List.range 15).any (fun i => BitVec.ofNat 64 (recBytes bs (536 + 8 * i) 8) &&& ~~~(recordCtlMask.getD i 0) != 0)

/-- R507: the header matches this device and its reserved fields are zero. -/
def State.headerFits (s : State) (bs : List Byte) : Bool :=
  let f := recBytes bs
  decide (f 0 4 = 0x58435643) && decide (f 4 2 = 1) && decide (1 ≤ f 6 1) && decide (f 6 1 ≤ 16) && decide (1 ≤ f 7 1) && decide (f 7 1 ≤ 16)
    && decide (f 8 8 = s.capSignature.toNat) && decide (f 16 2 < 4096) && decide (f 18 2 < 8)
    && decide (BitVec.ofNat 64 (f 112 8) &&& ~~~0x7FFFFE#64 = 0) && decide (BitVec.ofNat 64 (f 128 8) &&& ~~~0xFF00031F#64 = 0)
    && decide (f 156 1 < 2) && decide (f 157 3 = 0) && decide (f 164 4 = 0) && decide (f 168 8 ≤ 64) && decide (f 688 3408 = 0)
    && decide (bs.length = f 6 1 * f 7 1 * 1388 * 1024 + 4096)

/-- A queued cause from its trap word (Table 21.2). -/
def causeFrom (w tval : Word) (seq : Nat) : QCause :=
  { seq := seq, fabric := w.getLsbD 12, core := (w.extractLsb' 16 4).toNat + 16 * (w.extractLsb' 20 4).toNat,
    slot := (w.extractLsb' 8 3).toNat, cause := (w.setWidth 8).toNat, tval := tval, tpc := (w.extractLsb' 24 12).toNat,
    lx := (w.extractLsb' 16 4).toNat, ly := (w.extractLsb' 20 4).toNat }

/-- A task from its record. -/
def taskFrom (bs : List Byte) : Task :=
  let ts := recBytes bs 529 1
  if ts % 2 = 0 then Task.free
  else { Task.free.loadRecord bs with
    handler := decide (ts / 2 % 2 = 1), held := decide (ts / 4 % 2 = 1), kmode := decide (recBytes bs 536 1 % 2 = 1),
    age := recBytes bs 532 2 }

/-- The matrix command that will write a count into a register. -/
def Engine.counter (e : Engine) (slot reg : Nat) : Nat :=
  ((e.cmds.find? (fun m => match m.op with
    | .net _ _ _ _ t r => decide (t = slot) && decide (r = reg)
    | .trc _ _ t r => decide (t = slot) && decide (r = reg)
    | _ => false)).map (·.id)).getD 0

/-- R505: the empty registers of a slot, by their re-arm records. -/
def Core.rearmAll (c : Core) (slot : Nat) (bs : List Byte) : Core :=
  (List.range 64).foldl (fun c k =>
    if k ≠ 0 ∧ recPres bs k = 1 then
      match (recArms bs).find? (fun a => armValid a && decide (armReg a = k)) with
      | none => c
      | some a =>
        let n := a / 65536
        let p : Producer := match armKind a with
          | 3 => .svc n
          | 4 => .launch n
          | 6 => .rank (c.engine.counter slot k)
          | _ => .access n
        if armKind a = 1 ∨ armKind a = 2 then c.claim slot k (armKind a) (armPort a)
        else c.modTask slot (fun t => t.markEmpty (Fin.ofNat 64 k) p)
    else c) c

/-- A core whose claims have gone: its records claim again. -/
def Core.unclaimed (c : Core) : Core :=
  { c with
    sinks := Sparse.mapAll (fun _ p =>
      let cs := p.cmds.filter (fun m => match m.op with
        | .take _ => false
        | _ => true)
      { p with cmds := cs, issued := p.issued - (p.cmds.length - cs.length) }) c.sinks,
    vcs := Sparse.mapAll (fun _ v => { v with claims := [] }) c.vcs }

/-- A core from its section. -/
def coreFrom (bs : List Byte) : Option Core :=
  let rec_ := fun (k : Nat) => (bs.drop (0x1000 + 1024 * k)).take 1024
  if (List.range 8).any (fun k => contextRecordOdd (rec_ k)) then none
  else match readSections (bs.take 4096 ++ (bs.drop 0x3000).take 57344) with
    | none => none
    | some c =>
      let c1 : Core := { c.unclaimed with
        tasks := (List.range 8).map (fun k => (k, taskFrom (rec_ k))),
        engine := (List.range 4).foldl (fun (e : Engine) k => e.setTile k ((e.tile k).withBytes bs (0x11000 + 67584 * k))) c.engine,
        istore := (List.range 4096).map (fun i => (i, BitVec.ofNat 64 (recBytes bs (0x53000 + 8 * i) 8))),
        scratch := setCells [] 0 ((bs.drop 0x5B000).take (2 ^ 20)) }
      some ((List.range 8).foldl (fun c k => c.rearmAll k (rec_ k)) c1)

/-- The cores of a context, in increasing index; none where one of them does not read. -/
def coresFrom (bs : List Byte) : List Nat → Nat → Option (Sparse Core)
  | [], _ => some []
  | k :: ks, i =>
    match coreFrom ((bs.drop (4096 + 1421312 * i)).take 1421312) with
    | none => none
    | some c => (coresFrom bs ks (i + 1)).map (fun m => (k, c) :: m)

/-- The fabric cause that the handler task serves. -/
def servedFrom (h : Task) : Option QCause :=
  if h.intrap && h.tcause.getLsbD 11 then some (causeFrom h.tcause h.tval 0) else none

/-- The logical state in a context. -/
def bodyFrom (bs : List Byte) (w h : Nat) : Option Body :=
  let f := recBytes bs
  let ks := (List.range h).flatMap (fun y => (List.range w).map (fun i => 16 * y + i))
  match coresFrom bs ks 0 with
  | none => none
  | some cores =>
    let tasks := (List.range ks.length).flatMap (fun i => (List.range 8).filterMap (fun k =>
      let r := (bs.drop (4096 + 1421312 * i + 0x1000 + 1024 * k)).take 1024
      if recBytes r 740 1 = 1 then some (causeFrom (BitVec.ofNat 64 (recBytes r 720 8)) (BitVec.ofNat 64 (recBytes r 728 8)) (recBytes r 736 4))
      else none))
    let fq := if f 156 1 = 1 then [causeFrom (BitVec.ofNat 64 (f 136 8)) (BitVec.ofNat 64 (f 144 8)) (f 152 4)] else []
    let served := servedFrom ((Sparse.at Core.launch cores 0).task 7)
    some { Body.launch with
      cores := cores, dq := fq ++ tasks, nseq := f 160 4, serving := served,
      fabricStop := !fq.isEmpty || (served.map (·.fabric)).getD false,
      residue := (List.range (f 168 8)).map (fun i => BitVec.ofNat 64 (f (176 + 8 * i) 8)),
      tdeleg := BitVec.ofNat 64 (f 112 8), mcstall := BitVec.ofNat 32 (f 120 4), snapint := BitVec.ofNat 32 (f 124 4),
      rstat := BitVec.ofNat 64 (f 128 8) }

/-- CONTEXT_IMPORT (R509): verified, compared, and put into the Crock as a swapped context of the importing
tenant. -/
def execContextImport (part tag : Nat) (bytes sig : List Byte) (s : State) : Outcome State Fault Refusal :=
  let f := recBytes bytes
  if (Sparse.look s.tenants tag).isNone ∨ (s.tenant tag).part ≠ part then .next s
  else if !genuine bytes sig || !s.headerFits bytes || !s.crockRoom tag then .next s
  else match bodyFrom bytes (f 6 1) (f 7 1) with
    | none => .next s
    | some b =>
      let ids := b.cores.flatMap (fun c => c.2.engine.cmds.map (·.id))
      let (s1, id) := ({ s with nextId := ids.foldl max s.nextId + 1 } : State).fresh
      let x : Rect := { Rect.absent with
        phase := .swapped, part := part, tag := tag, w := f 6 1, h := f 7 1, image := BitVec.ofNat 64 (f 24 8),
        handlerDef := ((Sparse.at Core.launch b.cores 0).task 7).handler, spill := 4096 * f 80 1,
        lrec := (bytes.drop 48).take 64, src := .imported, frozen := decide (f 18 1 % 2 = 1),
        bound := decide (f 18 1 / 4 % 2 = 1), capsig := BitVec.ofNat 64 (f 8 8), body := b, started := f 32 8, complete := f 32 8,
        record := some b }
      .next (s1.setRect id x)

end Sys2Proof.Machine
end

