-- ==== Sys2Proof/Machine/Commands.lean ====
section
/-! DEFINITION. Gelesque commands: blocks, authority, the journal, supervisor calls, invalidations, and the
commands over partitions, tenants and leases (17 R392 to R399, R409, R410, 18 R419, R427 to R430, 19 R449, R450). -/

namespace Sys2Proof.Machine

open Host (Outcome)

/-! ## A command being executed (R427, R430) -/

/-- A command: the call or a number of its own, whether it was handed in directly, its issuer, the tag and the
partition that its addresses belong to, the die that executes it, its arguments. -/
structure Cmd where
  id : Nat
  direct : Bool
  issuer : Issuer
  tag : Nat
  part : Nat
  die : Nat
  args : List Word
deriving DecidableEq, Repr

def Cmd.arg (c : Cmd) (i : Nat) : Nat := (c.args.getD i 0).toNat

/-- What the execution of a command comes to: a status other than OK, which changes nothing; a wait; work that
other steps end; OK with result words; OK once an invalidation of ranges is over. -/
inductive CmdRes
  | fail (status : Nat)
  | wait (s : State)
  | held (s : State)
  | done (s : State) (results : List (Nat × Word))
  | inval (s : State) (ranges : List (Nat × Nat × Nat)) (results : List (Nat × Word))

/-- A pair of the die's complex runs, its own or its adopter's (R440, R442). -/
def State.complexRuns (s : State) (d : Nat) : Bool :=
  (s.die d).announced && ((s.die d).failed != 3#2 || (s.die d).adopter.isSome)

/-- R430: the record of a command, once. -/
def State.journaled (s : State) (c : Cmd) (code : Nat) : State :=
  if s.journal.any (fun j => decide (j.id = c.id)) then s
  else { s with journal := s.journal ++ [{ id := c.id, die := c.die, code := code, args := c.args, done := false }] }

def State.journalDone (s : State) (id : Nat) : State :=
  { s with journal := s.journal.map (fun j => if j.id = id then { j with done := true } else j) }

/-- A command ends: the receiver has its status and its result words. Those of a call reach the block by
SVC_RESULT. -/
def State.finishCommand (s : State) (id : Nat) (direct : Bool) (st : Nat) (results : List (Nat × Word)) : State :=
  if direct then { s.journalDone id with reply := (st, results) }
  else { s with calls := s.calls.map (fun c => if c.id = id then { c with status := some st, results := results } else c) }

/-! ## Invalidations (R409, R410) -/

/-- The step that follows an invalidation. -/
def State.afterInval (s : State) : InvalDone → State
  | .command id direct results => s.finishCommand id direct 0 results
  | .copy m => { s with migrations := s.migrations.map (fun x => if x.id = m then { x with copying := true } else x) }
  | .release m =>
    let s1 := { s with migrations := s.migrations.filter (fun x => decide (x.id ≠ m)) }
    match (s.migrations.find? (fun x => decide (x.id = m))).bind (·.command) with
    | some (id, direct) => s1.finishCommand id direct 0 []
    | none => s1

/-- R410: the broadcast of an invalidation; one of no range is over at once. -/
def State.startInval (s : State) (die : Nat) (ranges : List (Nat × Nat × Nat)) (after : InvalDone) : State :=
  if ranges.isEmpty then s.afterInval after
  else
    let (s1, id) := s.fresh
    { s1 with invals := s1.invals ++ [{ id := id, die := die, ranges := ranges, received := [], acked := [], marked := [], after := after }] }

def inRanges (ranges : List (Nat × Nat × Nat)) (tag lo hi : Nat) : Bool :=
  ranges.any (fun r => decide (r.1 = tag) && decide (r.2.1 < hi) && decide (lo < r.2.2))

/-- The caches of a die: those of its cores, its engines, its second level. -/
def cacheOf (die : Nat) (e : TlbEntry) (second : Bool) : Bool :=
  if second then decide (e.cache = die) else decide (e.cache = engineCache die) || (decide (e.cache < 256) && decide (dieOf e.cache = die))

/-- Accesses of a die, and remote writes, that a range covers and that are still to be performed. -/
def State.markedBy (s : State) (die : Nat) (ranges : List (Nat × Nat × Nat)) : List Nat :=
  (s.accesses.filter (fun a => decide (s.dieOfTask a.task = die) &&
      inRanges ranges (s.rect a.task.rect).tag a.va.toNat (a.va.toNat + a.kind.bytes))).map (·.id)
    ++ s.rects.flatMap (fun p => (p.2.remote.filter (fun w => decide (dieOf (p.2.phys 0) = die) &&
      inRanges ranges p.2.tag w.va.toNat (w.va.toNat + w.bytes.length))).map (·.id))

/-- INVALIDATION_RECEIVE (R410 steps 1, 2): a die that runs drops its entries and marks its accesses; for one that
does not run, its adopter or a neighbour answers at once. -/
def execInvalidationReceive (id : Nat) (die : Fin 4) (s : State) : Outcome State Fault Refusal :=
  match s.invals.find? (fun v => decide (v.id = id)) with
  | none => .next s
  | some v =>
    let d := die.val
    if v.received.contains d then .next s
    else
      let hit := fun (e : TlbEntry) => inRanges v.ranges e.tag e.base (e.base + pageBytes e.ps)
      let runs := (s.die d).announced
      let v' := { v with received := v.received ++ [d],
                         marked := v.marked ++ (s.markedBy d v.ranges).map (fun i => 4 * i + d) }
      .next { s with
        tlb1 := s.tlb1.filter (fun e => !(runs && cacheOf d e false && hit e)),
        tlb2 := s.tlb2.filter (fun e => !(runs && cacheOf d e true && hit e)),
        invals := s.invals.map (fun w => if w.id = id then v' else w) }

/-- INVALIDATION_ACK (R410 step 3): every marked access of the die has been performed, refused or has faulted; the
last acknowledgment completes the invalidation. -/
def execInvalidationAck (id : Nat) (die : Fin 4) (s : State) : Outcome State Fault Refusal :=
  match s.invals.find? (fun v => decide (v.id = id)) with
  | none => .next s
  | some v =>
    let d := die.val
    let pending := v.marked.any (fun m => decide (m % 4 = d) &&
      (s.accesses.any (fun a => decide (a.id = m / 4)) || s.rects.any (fun p => p.2.remote.any (fun w => decide (w.id = m / 4)))))
    if !v.received.contains d || v.acked.contains d || pending then .next s
    else
      let v' := { v with acked := v.acked ++ [d] }
      if v'.acked.length < 4 then .next { s with invals := s.invals.map (fun w => if w.id = id then v' else w) }
      else .next (({ s with invals := s.invals.filter (fun w => decide (w.id ≠ id)) } : State).afterInval v.after)

/-! ## Where commands come from (R419, R427, R449) -/

/-- A call is being executed: a later step ends it. -/
def State.inHand (s : State) (id : Nat) : Bool :=
  s.invals.any (fun v => match v.after with
    | .command i d _ => decide (i = id) && !d
    | _ => false) || s.migrations.any (fun m => m.command == some (id, false))

/-- The words of a block from byte 8 on. -/
def blockArgs (b : List Byte) : List Word := (List.range 7).map (fun i => BitVec.ofNat 64 (recBytes b (8 + 8 * i) 8))

/-- The number that stands for MEM_GRANT with its four operations. -/
def blockCode (b : List Byte) : Nat × Nat := (recBytes b 0 2, if recBytes b 0 2 = 5 then recBytes b 16 8 else 0)

/-- The command that `src` brings for a code and an operation; none: it brings none now. -/
def State.cmdOf (s : State) (src : CmdSrc) (code op : Nat) : Option Cmd :=
  match src with
  | .call id =>
    (match s.calls.find? (fun c => decide (c.id = id)) with
     | none => none
     | some c =>
       match c.block with
       | none => none
       | some b =>
         if !c.submitted || c.status.isSome || blockCode b ≠ (code, op) || s.inHand id then none
         else some { id := id, direct := false, issuer := if c.sup then .supervisor c.part else .tenant c.tag, tag := c.tag, part := c.part,
                     die := s.dieOfPart c.part, args := blockArgs b })
  | .direct die by_ args =>
    let (tag, part) := match by_ with
      | .owner => (0, 0)
      | .supervisor p => (0, p)
      | .tenant t => (t, (s.tenant t).part)
    if code = 5 ∧ (args.getD 1 0).toNat ≠ op then none
    else some { id := s.nextId, direct := true, issuer := by_, tag := tag, part := part, die := die, args := args }

/-- Table 18.1 for a command on a partition. -/
def State.holdsPart (s : State) (c : Cmd) (p : Nat) : Bool :=
  match c.issuer with
  | .owner => !(s.part p).sup
  | .supervisor q => decide (q = p) && (s.part p).sup
  | .tenant _ => false

/-- Table 18.1 for a partition-level command that names a tag: the tenant lives in a partition of the issuer. -/
def State.holdsTag (s : State) (c : Cmd) (tag : Nat) : Bool :=
  (Sparse.look s.tenants tag).isSome && s.holdsPart c (s.tenant tag).part

/-- Table 18.1 for a tenant-level command: on the caller's own tag. -/
def Cmd.own (c : Cmd) (tag : Nat) : Bool := match c.issuer with
  | .tenant t => decide (t = tag)
  | _ => false

/-- The issuer exists. -/
def State.issuerOk (s : State) (c : Cmd) : Bool := match c.issuer with
  | .owner => true
  | .supervisor p => (s.part p).sup
  | .tenant t => (Sparse.look s.tenants t).isSome

/-- Every command: before READY the answer is BUSY; an issuer without the authority gets DENIED; then the
effect. -/
def runCommand (code op : Nat) (may : State → Cmd → Bool) (body : State → Cmd → CmdRes) (src : CmdSrc) (s : State) :
    Outcome State Fault Refusal :=
  match s.cmdOf src code op with
  | none => .next s
  | some c =>
    if c.direct && !s.house.ready then .next { s with reply := (1, []) }
    else if !s.complexRuns c.die then .next s
    else
      let s0 := (if c.direct then s.fresh.1 else s).journaled c code
      if !s.issuerOk c || !may s c then .next (s0.finishCommand c.id c.direct 2 [])
      else match body s0 c with
        | .fail st => .next (s0.finishCommand c.id c.direct st [])
        | .wait s1 => .next s1
        | .held s1 => .next s1
        | .done s1 rs => .next (s1.finishCommand c.id c.direct 0 rs)
        | .inval s1 ranges rs => .next (s1.startInval c.die ranges (.command c.id c.direct rs))

/-! ## The caller's memory (R427, R454) -/

/-- The requester of a command's translations. -/
def Cmd.who (c : Cmd) : Nat := if c.direct then 0 else c.id

/-- Bytes at an address of the caller: a tenant's virtual address; of the owner and a supervisor a physical one
(log 30). -/
def Cmd.read (c : Cmd) (s : State) (va n : Nat) : EngRes (List Byte) :=
  if c.tag = 0 then let (s1, bs) := State.readPhys 0 .bypass (pieces va n) s va n; .ok s1 bs
  else s.tenantRead c.who c.part c.tag va n

/-- Writes page by page. -/
def State.admWrite (id part tag : Nat) : Nat → Nat → List Byte → State → EngRes Unit
  | 0, _, _, s => .ok s ()
  | fuel + 1, va, bs, s =>
    if bs.isEmpty then .ok s () else
    let k := 4096 - va % 4096
    match s.tenantWrite id part tag va (bs.take k) with
    | .ok s1 _ => State.admWrite id part tag fuel (va + k) (bs.drop k) s1
    | e => e

/-- Writes bytes at an address of the caller. -/
def Cmd.write (c : Cmd) (s : State) (va : Nat) (bs : List Byte) : EngRes Unit :=
  if c.tag = 0 then .ok (State.writePhys 0 .bypass (pieces va bs.length) s va bs) ()
  else State.admWrite c.who c.part c.tag ((va % 4096 + bs.length) / 4096 + 1) va bs s

/-- Reads for a command; what cannot be read is BADARG. -/
def Cmd.reading (c : Cmd) (s : State) (va n : Nat) (k : State → List Byte → CmdRes) : CmdRes :=
  match c.read s va n with
  | .ok s1 bs => k s1 bs
  | .wait s1 => .wait s1
  | .fault _ _ _ => .fail 4

/-- Writes for a command. -/
def Cmd.writing (c : Cmd) (s : State) (va : Nat) (bs : List Byte) (k : State → CmdRes) : CmdRes :=
  match c.write s va bs with
  | .ok s1 _ => k s1
  | .wait s1 => .wait s1
  | .fault _ _ _ => .fail 4

/-! ## Supervisor calls (R449, R450) -/

/-- Calls that a die executes (R427). -/
def State.busyCalls (s : State) (die : Nat) : Nat :=
  (s.calls.filter (fun c => c.submitted && c.status.isNone && decide (s.dieOfPart c.part = die))).length

/-- A block that no command takes (R427). -/
def blockOdd (b : List Byte) : Bool :=
  let k := blockCode b
  decide (recBytes b 2 2 ≠ 0) || decide (k.1 = 0) || decide (0x14 < k.1) || decide (3 < k.2)

/-- SVC_SUBMIT (R449, R450): after the cut, with every write that the task knew; the block is read. CODE 1 goes to the
partition supervisor, whose answer is a free value (log 15); without one it is DENIED. -/
def execSvcSubmit (id : Nat) (s : State) : Outcome State Fault Refusal :=
  match s.calls.find? (fun c => decide (c.id = id)) with
  | none => .next s
  | some c =>
    let writes := fun (u : TaskRef) (n : Nat) => s.accesses.any (fun a => decide (a.task = u) && decide (a.id < n) && (a.acq || !a.kind.isLoad))
    if c.submitted || decide ((s.rect c.task.rect).complete < c.cut) || writes c.task id
        || (s.task c.task).behind.any (fun p => writes p.1 p.2) || !s.complexRuns (s.dieOfPart c.part) then .next s
    else
      let put := fun (s : State) (b : Option (List Byte)) (st : Option Nat) =>
        ({ s with calls := s.calls.map (fun d => if d.id = id then { d with submitted := true, block := b, status := st } else d) } : State)
      if c.sup && !(s.part c.part).sup then .next (put s none (some 2))
      else match s.tenantRead id c.part c.tag c.addr.toNat 64 with
        | .wait s1 => .next s1
        | .fault s1 _ _ => .next (put s1 none (some 4))
        | .ok s1 b =>
          let own := if c.sup then (Config.supReply id).map (·.toNat) else none
          let st := match own with
            | some v => some v
            | none => if 64 ≤ s.busyCalls (s.dieOfPart c.part) then some 1 else if blockOdd b then some 4 else none
          .next (put s1 (some b) st)

/-- A result reaches s5 and the records that hold s5 as empty (R450). -/
def State.deliverCall (s : State) (t : TaskRef) (id : Nat) (v : Word) : State :=
  if (Sparse.look s.rects t.rect).isNone then s
  else s.modRect t.rect (fun x =>
    { x with body := x.body.answer t 5 (.svc id) v false, record := x.record.map (fun b => b.answer t 5 (.svc id) v false),
             prog := x.prog.map (fun g => { g with body := g.body.answer t 5 (.svc id) v false }) })

/-- Status and result words in a block. -/
def blockResult (b : List Byte) (st : Nat) (results : List (Nat × Word)) : List Byte :=
  b.take 2 ++ splitBytes 2 st ++ (b.drop 4).take 4
    ++ (List.range 7).flatMap (fun i => match results.find? (fun p => decide (p.1 = i)) with
      | some p => splitBytes 8 p.2.toNat
      | none => (b.drop (8 + 8 * i)).take 8)

/-- SVC_RESULT (R427, R449, R450): the block is written and released, the record marked done, s5 delivered with an
acquire at TENANT scope. It waits while the Churn holds messages for the rectangle (R497). -/
def execSvcResult (id : Nat) (s : State) : Outcome State Fault Refusal :=
  match s.calls.find? (fun c => decide (c.id = id)) with
  | none => .next s
  | some c =>
    match c.status with
    | none => .next s
    | some st =>
      let there := (Sparse.look s.rects c.task.rect).isSome
      if there && !(s.rect c.task.rect).phase.hears then .next s
      else
        let wrote := match c.block with
          | none => EngRes.ok s ()
          | some b => s.tenantWrite id c.part c.tag c.addr.toNat (blockResult b st c.results)
        match wrote with
        | .wait s1 => .next s1
        | .ok s1 _ | .fault s1 _ _ =>
          let s2 := ({ s1.journalDone id with calls := s1.calls.filter (fun d => decide (d.id ≠ id)) } : State).deliverCall c.task id
            (BitVec.ofNat 64 (st % 2 ^ 16))
          .next (s2.acquireWork c.tag .tenant)

/-! ## Partitions (R392, R395, R428) -/

/-- Edges N, E, S, W of a core that lie between two partitions of a mode. -/
def gateMask (m p : Nat) : BitVec 4 :=
  let x := p % 16
  let y := p / 16
  let cut := fun (b : Bool) (q : Nat) => b && decide (partOf m q ≠ partOf m p)
  BitVec.ofNat 4 ((if cut (decide (0 < y)) (p - 16) then 1 else 0) + (if cut (decide (x < 15)) (p + 1) then 2 else 0)
    + (if cut (decide (y < 15)) (p + 16) then 4 else 0) + (if cut (decide (0 < x)) (p - 1) then 8 else 0))

/-- The partitions of a mode, fresh (R395, R414). -/
def State.setMode (s : State) (m quantum : Nat) (weights : List Byte) : State :=
  let s1 := s.flushLines (fun _ => true)
  { s1 with
    mode := m, quantum := quantum,
    gates := (List.range 256).foldl (fun g p => Sparse.set 0#4 (gateMask m p) g p) [],
    parts := (List.range (2 ^ m)).map (fun p =>
      (p, { freshPart (max 1 (recBytes weights p 1)) (Config.supervisor p) with lastQ := s.partTime p })),
    tenants := Sparse.mapAll (fun _ t => { t with domain := 0 }) s1.tenants }

/-- PART_SET (R395): every partition is affected. -/
def execPartSet (c : CmdSrc) (s : State) : Outcome State Fault Refusal :=
  runCommand 0x01 0 (fun _ c => match c.issuer with
    | .owner => true
    | _ => false) (fun s c =>
    let m := c.arg 0
    if 6 < m ∨ c.arg 1 < 1 ∨ 100 < c.arg 1 then .fail 4
    else
      let go := fun (s : State) (ws : List Byte) =>
        if s.rects.any (fun p => decide (p.2.phase ≠ .ended)) || !s.launches.isEmpty then CmdRes.fail 5
        else if m ≠ s.mode ∧ !s.tenants.isEmpty then .fail 2
        else .done (s.setMode m (c.arg 1) ws) []
      if c.arg 2 = 0 then go s [] else c.reading s (c.arg 2) 64 go) c s

/-! ## Tenants and leases (R396, R399, R428) -/

/-- Nothing names the tag any more (R396). -/
def State.tagFree (s : State) (tag : Nat) : Bool :=
  (Sparse.look s.tenants tag).isNone && !s.lines.any (fun l => decide (l.tag = tag)) && !s.tlb1.any (fun e => decide (e.tag = tag))
    && !s.tlb2.any (fun e => decide (e.tag = tag)) && !s.granules.any (fun g => decide (g.2.owner = tag))
    && !s.rects.any (fun p => decide (p.2.tag = tag)) && !s.invals.any (fun v => v.ranges.any (fun r => decide (r.1 = tag)))

def weightOk (w : Nat) : Bool := decide (1 ≤ w) && decide (w ≤ 255)

/-- TENANT_CREATE (R396): partition, lease, way mask, SCOPEMAX, SCOPESTRICT, w_t. -/
def execTenantCreate (c : CmdSrc) (s : State) : Outcome State Fault Refusal :=
  runCommand 0x02 0 (fun s c => decide (c.arg 0 < 2 ^ s.mode) && s.holdsPart c (c.arg 0) || decide (2 ^ s.mode ≤ c.arg 0)) (fun s c =>
    let p := c.arg 0
    if 2 ^ s.mode ≤ p ∨ c.arg 1 < 1 ∨ partW s.mode * partH s.mode < c.arg 1 ∨ 2 ^ 16 ≤ c.arg 2 ∨ 6 < c.arg 3 ∨ 1 < c.arg 4 ∨ !weightOk (c.arg 5) then .fail 4
    else if 64 ≤ (s.tenantsOf p).length ∨ 256 ≤ s.tenants.length then .fail 3
    else match (List.range 4096).find? (fun t => decide (t ≠ 0) && s.tagFree t) with
      | none => .fail 3
      | some tag =>
        let t : Tenant := { Tenant.absent with
          part := p, lease := c.arg 1, leaseNo := s.nextLease, ways := BitVec.ofNat 16 (c.arg 2), scopeMax := c.arg 3,
          scopeStrict := decide (c.arg 4 = 1), wt := c.arg 5 }
        .done { s with tenants := Sparse.put t s.tenants tag, nextLease := s.nextLease + 1 }
          [(0, BitVec.ofNat 64 tag), (1, BitVec.ofNat 64 s.nextLease)]) c s

/-- TENANT_DESTROY (R399): BUSY while the tenant has a rectangle, a launch or a queued command; lines are discarded,
translations dropped on every die, contexts deleted, share sets left; granules become unowned. -/
def execTenantDestroy (c : CmdSrc) (s : State) : Outcome State Fault Refusal :=
  runCommand 0x03 0 (fun s c => s.holdsTag c (c.arg 0)) (fun s c =>
    let tag := c.arg 0
    let crock := fun (p : Nat × Rect) => decide (p.2.src = .imported) && decide (p.2.phase = .swapped)
    if s.rects.any (fun p => decide (p.2.tag = tag) && !crock p) || s.launches.any (fun l => decide (l.tag = tag))
        || s.calls.any (fun k => decide (k.tag = tag) && decide (k.id ≠ c.id)) || s.migrations.any (fun m => decide (m.tag = tag)) then .fail 1
    else
      let s1 := s.discardLines (fun l => decide (l.tag = tag))
      .inval { s1 with
        rects := s1.rects.filter (fun p => decide (p.2.tag ≠ tag)), pages := Sparse.del s1.pages tag,
        shareSets := Sparse.mapAll (fun _ ts => ts.filter (fun t => decide (t ≠ tag))) s1.shareSets,
        granules := (s1.granules.filter (fun g => decide (g.2.owner = tag))).foldl (fun m g => Sparse.set Granule.free Granule.free m g.1) s1.granules,
        exports := s1.exports.filter (fun e => decide (e.tag ≠ tag)), queues := s1.queues.filter (fun q => decide (q.2.tag ≠ tag)),
        tenants := Sparse.del s1.tenants tag } [(tag, 0, 2 ^ 48)] []) c s

/-- LEASE_SET (R428): tag, lease, w_t, process, w_p. -/
def execLeaseSet (c : CmdSrc) (s : State) : Outcome State Fault Refusal :=
  runCommand 0x04 0 (fun s c => s.holdsTag c (c.arg 0)) (fun s c =>
    let tag := c.arg 0
    if c.arg 1 < 1 ∨ partW s.mode * partH s.mode < c.arg 1 ∨ !weightOk (c.arg 2) ∨ 15 < c.arg 3 ∨ !weightOk (c.arg 4) then .fail 4
    else if c.arg 1 < s.usedArea tag then .fail 1
    else .done (s.modTenant tag (fun t => { t with lease := c.arg 1, wt := c.arg 2, wps := Sparse.put (c.arg 4) t.wps (c.arg 3) })) []) c s

end Sys2Proof.Machine
end

