-- ==== Sys2Proof/Machine/Mapping.lean ====
section
/-! DEFINITION. Granules, share sets, page tables and migrations (17 R397 to R399, R405, R406, R409, R411 to R413, 18
R428, R432, R538). -/

namespace Sys2Proof.Machine

open Host (Outcome)

/-! ## Granules (R397 to R399) -/

/-- Granule numbers: 0 to 0x3FFFF of HBM, 0x40000 to 0x403FF of the weight store. -/
def granuleExists (g : Nat) : Bool := decide (g < 0x40400)

/-- The die that holds a granule. -/
def granuleDie (g : Nat) : Nat := if g < 0x40000 then g / 2 ^ 16 else (g - 0x40000) / 256

def State.setGranule (s : State) (g : Nat) (x : Granule) : State := { s with granules := Sparse.set Granule.free x s.granules g }

/-- R399: zeros at its node, every slice line of it invalidated. -/
def State.zeroGranule (s : State) (g : Nat) : State :=
  let b := granuleBase g
  let s1 := s.discardLines (fun l => decide (b ≤ 128 * l.line) && decide (128 * l.line < b + 2 ^ 21))
  { s1 with mem := Sparse.clear s1.mem b (b + 2 ^ 21) }

/-- Granules of a physical range. -/
def granulesOf (pa size : Nat) : List Nat :=
  (List.range ((pa % 2 ^ 21 + size + 2 ^ 21 - 1) / 2 ^ 21)).map (fun i => granuleOf (pa / 2 ^ 21 * 2 ^ 21 + i * 2 ^ 21))

/-! ## Page tables (R405, R406, Table 9.4) -/

/-- Level of the leaves of a page size. -/
def leafLevel (ps : Nat) : Nat := if ps ≤ 4 then 0 else if ps ≤ 8 then 1 else 2

/-- Keys of the entries that a page fills. -/
def pageKeys (va ps : Nat) : List Nat :=
  let lv := leafLevel ps
  let unit := 2 ^ (12 + 9 * lv)
  (List.range (pageBytes ps / unit)).map (fun i => lv * 2 ^ 36 + va / unit + i)

/-- Writes the entries of a page; 0 clears them. -/
def State.setPage (s : State) (tag va ps : Nat) (leaf : Word) : State :=
  { s with pages := Sparse.put ((pageKeys va ps).foldl (fun m k => Sparse.set 0#64 leaf m k) (Sparse.at [] s.pages tag)) s.pages tag }

/-- A leaf (Table 17.3). -/
def leafWord (pa ps : Nat) (r w bp mig : Bool) : Word :=
  BitVec.ofNat 64 (pa / 4096 % 2 ^ 40 * 4096 + ps * 256 + (if mig then 32 else 0) + (if bp then 16 else 0) + (if w then 8 else 0)
    + (if r then 4 else 0) + 3)

/-- The pages of a tenant: first address, size code, leaf. -/
def State.pagesOf (s : State) (tag : Nat) : List (Nat × Nat × Word) :=
  (Sparse.at [] s.pages tag).filterMap (fun p =>
    let lv := p.1 / 2 ^ 36
    let va := p.1 % 2 ^ 36 * 2 ^ (12 + 9 * lv)
    let ps := leafPs p.2
    if p.2.getLsbD 0 && p.2.getLsbD 1 && decide (va % pageBytes ps = 0) then some (va, ps, p.2) else none)

/-- The pages that a range of addresses touches. -/
def State.pagesIn (s : State) (tag va len : Nat) : List (Nat × Nat × Word) :=
  (s.pagesOf tag).filter (fun p => decide (p.1 < va + len) && decide (va < p.1 + pageBytes p.2.1))

/-- The range begins and ends on boundaries of the pages that it touches. -/
def wholePages (ps : List (Nat × Nat × Word)) (va len : Nat) : Bool :=
  ps.all (fun p => decide (va ≤ p.1) && decide (p.1 + pageBytes p.2.1 ≤ va + len))

/-- A page of the range is under migration. -/
def migrating (ps : List (Nat × Nat × Word)) : Bool := ps.any (fun p => leafMig p.2.2)

/-- A granule that a tag may map (R538). -/
def State.mayMap (s : State) (tag : Nat) (write : Bool) (g : Nat) : Bool :=
  let x := s.granule g
  decide (x.owner = tag) || (decide (x.sset ≠ 0) && (Sparse.at [] s.shareSets x.sset).contains tag && !(write && x.sro))

/-! ## Frames -/

def alignUp (a n : Nat) : Nat := (a + n - 1) / n * n

/-- Physical ranges that a tenant's pages hold, and those that migrations fill. -/
def State.takenBy (s : State) (tag : Nat) : List (Nat × Nat) := (s.pagesOf tag).map (fun p => (leafPa p.2.2, pageBytes p.2.1))
def State.migrationFrames (s : State) : List (Nat × Nat) := s.migrations.map (fun m => (m.dst, m.bytes))

def disjointFrom (taken : List (Nat × Nat)) (pa size : Nat) : Bool :=
  taken.all (fun t => decide (pa + size ≤ t.1) || decide (t.1 + t.2 ≤ pa))

/-- The lowest frame whose granules a test accepts and that nothing in `taken` meets: it starts at a granule's
start or at the end of a taken range, aligned. -/
def State.lowestFrame (s : State) (good : Nat → Bool) (taken : List (Nat × Nat)) (align size : Nat) : Option Nat :=
  let starts := (s.granules.filter (fun g => good g.1)).map (fun g => granuleBase g.1) ++ taken.map (fun t => t.1 + t.2)
  leastOf ((starts.map (fun a => alignUp a align)).filter (fun pa =>
    (isHbm pa || isWeightStore pa) && (isHbm (pa + size - 1) || isWeightStore (pa + size - 1)) && (granulesOf pa size).all good && disjointFrom taken pa size))

/-! ## MEM_GRANT (R397 to R399, R428) -/

def State.grantRange (first count : Nat) : Option (List Nat) :=
  let gs := (List.range count).map (fun i => first + i)
  if count = 0 ∨ !granuleExists first ∨ !granuleExists (first + count - 1) then none else some gs

/-- MEM_GRANT operation 0: unowned granules become the tenant's, zeroed. -/
def execMemGrant (c : CmdSrc) (s : State) : Outcome State Fault Refusal :=
  runCommand 0x05 0 (fun s c => s.holdsTag c (c.arg 0)) (fun s c =>
    match State.grantRange (c.arg 2) (c.arg 3) with
    | none => .fail 4
    | some gs =>
      if gs.any (fun g => decide ((s.granule g).owner ≠ 0) || !(s.die (granuleDie g)).announced) then .fail 3
      else .done (gs.foldl (fun s g => (s.zeroGranule g).setGranule g { owner := c.arg 0, sset := 0, sro := false }) s)
        [(0, BitVec.ofNat 64 (c.arg 2))]) c s

/-- Some tenant maps part of a granule. -/
def State.granuleMapped (s : State) (g : Nat) : Bool :=
  s.pages.any (fun p => (s.takenBy p.1).any (fun t => (granulesOf t.1 t.2).contains g && !isPeerWindow t.1))

/-- MEM_GRANT operation 1: granules of the tenant that nothing maps become unowned. -/
def execMemRevoke (c : CmdSrc) (s : State) : Outcome State Fault Refusal :=
  runCommand 0x05 1 (fun s c => s.holdsTag c (c.arg 0) && (match State.grantRange (c.arg 2) (c.arg 3) with
      | none => true
      | some gs => gs.all (fun g => decide ((s.granule g).owner = c.arg 0)))) (fun s c =>
    match State.grantRange (c.arg 2) (c.arg 3) with
    | none => .fail 4
    | some gs =>
      if gs.any s.granuleMapped then .fail 1
      else .done (gs.foldl (fun s g => s.setGranule g Granule.free) s) [(0, BitVec.ofNat 64 (c.arg 2))]) c s

/-- MEM_GRANT operation 2: a share set and its SRO bit are attached to granules; the fifth argument holds the set
in [7:0] and SRO in [8] (log 31). -/
def execMemSetShare (c : CmdSrc) (s : State) : Outcome State Fault Refusal :=
  runCommand 0x05 2 (fun s c => s.holdsTag c (c.arg 0) && (match State.grantRange (c.arg 2) (c.arg 3) with
      | none => true
      | some gs => gs.all (fun g => decide ((s.granule g).owner = c.arg 0)))) (fun s c =>
    match State.grantRange (c.arg 2) (c.arg 3) with
    | none => .fail 4
    | some gs =>
      if 512 ≤ c.arg 4 then .fail 4
      else .done (gs.foldl (fun s g => s.setGranule g { s.granule g with sset := c.arg 4 % 256, sro := decide (256 ≤ c.arg 4) }) s)
        [(0, BitVec.ofNat 64 (c.arg 2))]) c s

/-- Member tags in two words; 0 is an empty place. -/
def memberTags (a b : Nat) : List Nat :=
  ((List.range 4).map (fun i => a / 4096 ^ i % 4096) ++ (List.range 4).map (fun i => b / 4096 ^ i % 4096)).filter (fun t => decide (t ≠ 0))

/-- Addresses at which a tenant maps granules that a share set is attached to. -/
def State.shareRanges (s : State) (set tag : Nat) : List (Nat × Nat × Nat) :=
  ((s.pagesOf tag).filter (fun p => (granulesOf (leafPa p.2.2) (pageBytes p.2.1)).any (fun g => decide ((s.granule g).sset = set)))).map
    (fun p => (tag, p.1, p.1 + pageBytes p.2.1))

/-- MEM_GRANT operation 3 (R398): the members of a share set are replaced; one that is removed loses its translations
before the command completes. -/
def execMemDefineShareSet (c : CmdSrc) (s : State) : Outcome State Fault Refusal :=
  runCommand 0x05 3 (fun s c => s.holdsTag c (c.arg 0)) (fun s c =>
    let set := c.arg 2
    let ts := memberTags (c.arg 3) (c.arg 4)
    let outside := fun (t : Nat) => match c.issuer with
      | .supervisor p => decide ((s.tenant t).part ≠ p)
      | _ => false
    if set < 1 ∨ 255 < set ∨ 2 ^ 48 ≤ c.arg 3 ∨ 2 ^ 48 ≤ c.arg 4 ∨ ts.any (fun t => (Sparse.look s.tenants t).isNone || outside t) then .fail 4
    else
      let gone := (Sparse.at [] s.shareSets set).filter (fun t => !ts.contains t)
      .inval { s with shareSets := Sparse.put ts s.shareSets set } (gone.flatMap (fun t => s.shareRanges set t)) [(0, BitVec.ofNat 64 set)]) c s

/-! ## The export table (R432, R538) -/

/-- Lowest free offset of the exported window for a mapping. -/
def State.exportOffset (s : State) (size : Nat) : Option Nat :=
  let used := s.exports.map (fun e => (e.off / 2 ^ 21 * 2 ^ 21, alignUp (e.off + e.len) (2 ^ 21) - e.off / 2 ^ 21 * 2 ^ 21))
  leastOf ((0 :: used.map (fun u => u.1 + u.2)).filter (fun o => decide (alignUp (o + size) (2 ^ 21) ≤ 0x1FFE00000) && disjointFrom used o (alignUp size (2 ^ 21))))

/-- Device numbers of an export list; none where an entry has reserved bits. -/
def exportList (bs : List Byte) : Option (List Nat) :=
  let vs := (List.range 8).map (fun i => recBytes bs (4 * i) 4)
  if vs.all (fun v => decide (v < 2 ^ 18) || decide (v = 0xFFFFFFFF)) then some (vs.filter (fun v => decide (v < 2 ^ 18))) else none

/-- What is left of an export when a range of addresses is unmapped. -/
def Exported.without (e : Exported) (va len : Nat) : List Exported :=
  if va + len ≤ e.va ∨ e.va + e.len ≤ va then [e]
  else
    (if e.va < va then [{ e with len := va - e.va }] else [])
      ++ (if va + len < e.va + e.len then
            [{ e with off := e.off + (va + len - e.va), pa := e.pa + (va + len - e.va), va := va + len, len := e.va + e.len - (va + len) }]
          else [])

/-! ## MAP, UNMAP, PROTECT (R406, R409, R428, R538) -/

/-- Where a MAP puts its pages: the named granule, or the lowest frames that fit; a status where it may not.
Granule numbers from 2^30 up name frames of remote windows (log 32). -/
def State.mapPlace (s : State) (tag ps size attr g : Nat) : Except Nat Nat :=
  let ws := attr / 8 % 2 = 1
  let write := attr / 2 % 2 = 1
  if 2 ^ 30 ≤ g ∧ g < 2 ^ 31 then
    let pa := g * 2 ^ 21
    if ws ∨ pa % pageBytes ps ≠ 0 ∨ 2 ^ 52 < pa + size then .error 4 else .ok pa
  else if g ≠ 0 then
    let pa := granuleBase g
    if !granuleExists g ∨ (ws ↔ g < 0x40000) ∨ pa % pageBytes ps ≠ 0 ∨ (ws ∧ !isWeightStore (pa + size - 1)) ∨ (¬ws ∧ !isHbm (pa + size - 1)) then .error 4
    else if (granulesOf pa size).all (s.mayMap tag write) then .ok pa
    else .error 2
  else match s.lowestFrame (fun g => decide ((s.granule g).owner = tag) && decide (ws ↔ 0x40000 ≤ g))
      (s.takenBy tag ++ s.migrationFrames) (pageBytes ps) size with
    | some pa => .ok pa
    | none => .error 3

/-- MAP (R538). -/
def execMap (c : CmdSrc) (s : State) : Outcome State Fault Refusal :=
  runCommand 0x06 0 (fun _ c => c.own (c.arg 0)) (fun s c =>
    let tag := c.arg 0
    let va := c.arg 1
    let ps := c.arg 2
    let size := c.arg 3
    let attr := c.arg 4
    let out := decide (attr / 16 % 2 = 1)
    if 11 < ps ∨ 32 ≤ attr ∨ (!out ∧ c.arg 6 ≠ 0) ∨ size = 0 ∨ size % pageBytes ps ≠ 0 ∨ va % pageBytes ps ≠ 0 ∨ windowBase < va + size
        ∨ !(s.pagesIn tag va size).isEmpty then .fail 4
    else match s.mapPlace tag ps size attr (c.arg 5) with
      | .error st => .fail st
      | .ok pa =>
        let put := fun (s : State) => (List.range (size / pageBytes ps)).foldl (fun (s : State) i =>
          s.setPage tag (va + i * pageBytes ps) ps
            (leafWord (pa + i * pageBytes ps) ps (decide (attr % 2 = 1)) (decide (attr / 2 % 2 = 1)) (decide (attr / 4 % 2 = 1)) false)) s
        if !out then .done (put s) [(0, BitVec.ofNat 64 pa)]
        else c.reading s (c.arg 6) 32 (fun s bs =>
          match exportList bs with
          | none => .fail 4
          | some ds => match s.exportOffset size with
            | none => .fail 3
            | some o =>
              .done (put { s with exports := s.exports ++ [{ off := o, tag := tag, va := va, pa := pa, len := size, devices := ds }] })
                [(0, BitVec.ofNat 64 pa), (1, BitVec.ofNat 64 o)])) c s

/-- A command on a range: page boundaries and the paged space (R428). -/
def rangeOk (va len : Nat) : Bool := decide (va % 4096 = 0) && decide (len % 4096 = 0) && decide (len ≠ 0) && decide (va + len ≤ windowBase)

/-- UNMAP (R409, R538): entries and exports go; the invalidation ends the command. A page under migration is awaited. -/
def execUnmap (c : CmdSrc) (s : State) : Outcome State Fault Refusal :=
  runCommand 0x07 0 (fun _ c => c.own (c.arg 0)) (fun s c =>
    let tag := c.arg 0
    let va := c.arg 1
    let len := c.arg 2
    let ps := s.pagesIn tag va len
    if !rangeOk va len || !wholePages ps va len then .fail 4
    else if migrating ps then .wait s
    else
      let s1 := ps.foldl (fun (s : State) p => s.setPage tag p.1 p.2.1 0) s
      .inval { s1 with exports := s1.exports.flatMap (fun e => if e.tag = tag then e.without va len else [e]) } [(tag, va, va + len)] []) c s

/-- PROTECT (R409, R428): R, W, BP in bits 0 to 2 of the fourth argument; a change that only adds R or W needs no
invalidation. -/
def execProtect (c : CmdSrc) (s : State) : Outcome State Fault Refusal :=
  runCommand 0x08 0 (fun _ c => c.own (c.arg 0)) (fun s c =>
    let tag := c.arg 0
    let va := c.arg 1
    let len := c.arg 2
    let r := decide (c.arg 3 % 2 = 1)
    let w := decide (c.arg 3 / 2 % 2 = 1)
    let bp := decide (c.arg 3 / 4 % 2 = 1)
    let ps := s.pagesIn tag va len
    let denied := fun (p : Nat × Nat × Word) => w && !isPeerWindow (leafPa p.2.2) && !(granulesOf (leafPa p.2.2) (pageBytes p.2.1)).all (s.mayMap tag true)
    if !rangeOk va len || 8 ≤ c.arg 3 || !wholePages ps va len || sumNat (ps.map (fun p => pageBytes p.2.1)) ≠ len || ps.any denied then .fail 4
    else if migrating ps then .wait s
    else
      let narrow := fun (p : Nat × Nat × Word) => (leafR p.2.2 && !r) || (leafW p.2.2 && !w) || (leafBp p.2.2 != bp)
      .inval (ps.foldl (fun (s : State) p => s.setPage tag p.1 p.2.1 (leafWord (leafPa p.2.2) p.2.1 r w bp false)) s)
        ((ps.filter narrow).map (fun p => (tag, p.1, p.1 + pageBytes p.2.1))) []) c s

/-! ## Migration (R412, R413) -/

/-- A page that may be migrated to a die, and the frame that it gets there. -/
def State.migrationPlace (s : State) (p : Nat × Nat × Word) (die : Nat) : Option Nat :=
  let pa := leafPa p.2.2
  let from_ := (granulesOf pa (pageBytes p.2.1)).map s.granule
  let taken := s.pages.flatMap (fun t => s.takenBy t.1) ++ s.migrationFrames
  s.lowestFrame (fun g => decide (g < 0x40000) && decide (granuleDie g = die) && from_.all (fun x => decide (s.granule g = x)))
    taken (pageBytes p.2.1) (pageBytes p.2.1)

/-- Step 1 of R412: MIG is set and the page invalidated. -/
def State.startMigration (s : State) (tag : Nat) (p : Nat × Nat × Word) (dst die : Nat) (command : Option (Nat × Bool)) : State :=
  let (s1, id) := s.fresh
  let pa := leafPa p.2.2
  let m : Migration := { id := id, tag := tag, va := p.1, bytes := pageBytes p.2.1, src := pa, dst := dst, command := command, copying := false }
  let s2 := ({ s1 with migrations := s1.migrations ++ [m] } : State).setPage tag p.1 p.2.1
    (leafWord pa p.2.1 (leafR p.2.2) (leafW p.2.2) (leafBp p.2.2) true)
  (s2.modPart (s.tenant tag).part (fun q => { q with migrations := q.migrations + 1 })).startInval die [(tag, p.1, p.1 + pageBytes p.2.1)] (.copy id)

def migratable (p : Nat × Nat × Word) : Bool := decide (p.2.1 ≤ 5) && isHbm (leafPa p.2.2) && !leafMig p.2.2

/-- MIGRATE (R412): tag, VA, target die. -/
def execMigrate (c : CmdSrc) (s : State) : Outcome State Fault Refusal :=
  runCommand 0x09 0 (fun _ c => c.own (c.arg 0)) (fun s c =>
    let tag := c.arg 0
    let die := c.arg 2
    match s.pagesIn tag (c.arg 1) 1 with
    | [] => .fail 4
    | p :: _ =>
      if 3 < die ∨ !(s.die die).announced ∨ 5 < p.2.1 ∨ !isHbm (leafPa p.2.2) then .fail 4
      else if leafMig p.2.2 then .wait s
      else if leafPa p.2.2 / 2 ^ 37 = die then .done s []
      else match s.migrationPlace p die with
        | none => .fail 3
        | some dst => .held (s.startMigration tag p dst c.die (some (c.id, c.direct)))) c s

/-- The tenant and page that a physical page of a die belongs to. -/
def State.pageAt (s : State) (pa : Nat) : Option (Nat × (Nat × Nat × Word)) :=
  s.pages.findSome? (fun t => ((s.pagesOf t.1).find? (fun p => decide (leafPa p.2.2 ≤ pa) && decide (pa < leafPa p.2.2 + pageBytes p.2.1))).map
    (fun p => (t.1, p)))

/-- MIGRATION_MONITOR_INTERVAL (R412): each 1 ms (250,000 ticks) the counts start again; which of the counted pages
Gelesque moves, if any, is its own policy: a free value (log 33). It moves to the die that used it most. -/
def execMigrationMonitorInterval (die : Fin 4) (s : State) : Outcome State Fault Refusal :=
  let d := s.die die.val
  if !s.complexRuns die.val ∨ d.timebase.toNat < d.monAt + 250000 then .next s
  else
    let s1 := s.modDie die.val (fun x => { x with monitor := [], monAt := x.monAt + 250000 })
    let pages := (d.monitor.map (fun p => p.1 / 4)).eraseDups
    match pages[(s.freeWord 6).toNat]? with
    | none => .next s1
    | some g =>
      match maxBy (fun k => Sparse.get 0 d.monitor (4 * g + k)) [0, 1, 2, 3], s1.pageAt (4096 * g) with
      | some target, some (tag, p) =>
        if !migratable p || decide (leafPa p.2.2 / 2 ^ 37 = target) then .next s1
        else (match s1.migrationPlace p target with
          | none => .next s1
          | some dst => .next (s1.startMigration tag p dst die.val none))
      | _, _ => .next s1

/-- An address of the old frame in the new one. -/
def Migration.moved (m : Migration) (pa : Nat) : Nat := if m.src ≤ pa ∧ pa < m.src + m.bytes then pa - m.src + m.dst else pa

/-- MIGRATION_COPY_COMPLETE (R412 steps 2, 3): the bytes stand in the new frame, the leaf names it with MIG = 0, and a
second invalidation follows. The undo log and the export table name the new frame. -/
def execMigrationCopyComplete (id : Nat) (s : State) : Outcome State Fault Refusal :=
  match s.migrations.find? (fun m => decide (m.id = id)) with
  | none => .next s
  | some m =>
    match s.leafOf m.tag m.va with
    | none => .next s
    | some (e, ps) =>
      if !m.copying then .next s
      else
        let inFrame := fun (pa : Nat) (l : Line) => decide (pa ≤ 128 * l.line) && decide (128 * l.line < pa + m.bytes)
        let s1 := (s.flushLines (inFrame m.src)).discardLines (inFrame m.dst)
        let cells := s1.mem.filter (fun c => decide (m.src ≤ c.1) && decide (c.1 < m.src + m.bytes))
        let mem := cells.foldl (fun (w : List Host.Cell) c => Sparse.set 0#8 c.2 w (m.moved c.1)) (Sparse.clear s1.mem m.dst (m.dst + m.bytes))
        let s2 := ({ s1 with
          mem := mem,
          exports := s1.exports.map (fun x => if x.tag = m.tag then { x with pa := m.moved x.pa } else x),
          migrations := s1.migrations.map (fun n => if n.id = id then { n with copying := false } else n),
          rects := Sparse.mapAll (fun _ x => { x with undo := x.undo.map (fun u => { u with addr := m.moved u.addr }) }) s1.rects } : State).setPage
            m.tag m.va ps (leafWord m.dst ps (leafR e) (leafW e) (leafBp e) false)
        .next (s2.startInval (s.dieOfPart (s.tenant m.tag).part) [(m.tag, m.va, m.va + m.bytes)] (.release id))

end Sys2Proof.Machine
end

