-- ==== Sys2Proof/Machine/Services.lean ====
section
/-! DEFINITION. Gelesque commands over queues, slices, ways, attestation, capabilities, wear, firmware and resets (17
R404, 18 R422 to R425, R428, R429, R435, 20 R454 to R457, 21 R485). -/

namespace Sys2Proof.Machine

open Host (Outcome)

/-! ## Work queues (R435) -/

/-- A draw of the entropy source. -/
def State.draw (s : State) : State × Nat := let (s1, n) := s.fresh; (s1, scalarOf (Config.entropy n))

/-- ASCII bytes. -/
def ascii4 (a b c d : Nat) : List Byte := [a, b, c, d].map (BitVec.ofNat 8)

/-- The key of a queue and the reply, for a peer's public key (R435); none for one that is no point. -/
def State.agree (s : State) (id : Nat) (qp : List Byte) : Option (State × List Byte × List Byte) :=
  let x := bigEndian (qp.take 48)
  let y := bigEndian (qp.drop 48)
  if !onCurve x y then none
  else
    let (s1, de) := s.draw
    let qe := pointBytes (scalarMul de g384)
    let z := ((scalarMul de (x, y)).map (·.1)).getD 0
    let key := hmac384 (bigBytes 48 z) (ascii4 0x43 0x56 0x4B 0x51 ++ splitBytes 4 id)
    let (s2, sig) := s1.sign (splitBytes 4 id ++ qe ++ qp)
    some (s2, key, qe ++ sig)

/-- Agreement for the key at an address; the reply stands after the key, at the address that is the result (log 34). -/
def Cmd.agreed (c : Cmd) (s : State) (id va : Nat) (k : State → List Byte → List (Nat × Word) → CmdRes) (slot : Nat) : CmdRes :=
  c.reading s va 96 (fun s qp =>
    match s.agree id qp with
    | none => .fail 4
    | some (s1, key, reply) => c.writing s1 (va + 96) reply (fun s2 => k s2 key [(slot, BitVec.ofNat 64 (va + 96))]))

/-- QUEUE_CREATE (R433, R435): tag, ring, log₂ entries, completion area, address of the peer's key. -/
def execQueueCreate (c : CmdSrc) (s : State) : Outcome State Fault Refusal :=
  runCommand 0x0A 0 (fun _ c => c.own (c.arg 0)) (fun s c =>
    let n := c.arg 2
    if n < 4 ∨ 16 < n ∨ windowBase ≤ c.arg 1 ∨ windowBase ≤ c.arg 3 then .fail 4
    else if 4095 ≤ (s.queues.filter (fun q => !q.2.stopped)).length then .fail 3
    else match (List.range (s.queues.length + 1)).find? (fun i => (Sparse.look s.queues i).isNone) with
      | none => .fail 3
      | some id =>
        c.agreed s id (c.arg 4) (fun s key rs =>
          let q : WorkQueue := { tag := c.arg 0, ring := BitVec.ofNat 64 (c.arg 1), logn := n, comp := BitVec.ofNat 64 (c.arg 3), key := key,
                                 old := none, seq := 0, vt := 0, head := 0, tail := 0, drops := 0, done := 0, fails := [],
                                 quarantined := false, stopped := false }
          .done { s with queues := Sparse.put q s.queues id } ((0, BitVec.ofNat 64 id) :: rs)) 1) c s

/-- The queue of a command, if the caller's tenant created it. -/
def State.ownQueue (s : State) (c : Cmd) : Bool := match Sparse.look s.queues (c.arg 0) with
  | some q => c.own q.tag && !q.stopped
  | none => false

/-- QUEUE_KEY (R435, R438): the old key is accepted for 1 ms (250,000 ticks) more; quarantine ends. -/
def execQueueKey (c : CmdSrc) (s : State) : Outcome State Fault Refusal :=
  runCommand 0x0B 0 State.ownQueue (fun s c =>
    match Sparse.look s.queues (c.arg 0) with
    | none => .fail 2
    | some q =>
      c.agreed s (c.arg 0) (c.arg 1) (fun s key rs =>
        let until_ := BitVec.ofNat 64 (s.partTime (s.tenant q.tag).part + 250000)
        .done { s with queues := Sparse.put { q with key := key, old := some (q.key, until_), quarantined := false } s.queues (c.arg 0) } rs) 0) c s

/-- QUEUE_DESTROY (R435): the queue stops at once; entries already read continue. -/
def execQueueDestroy (c : CmdSrc) (s : State) : Outcome State Fault Refusal :=
  runCommand 0x0C 0 State.ownQueue (fun s c =>
    match Sparse.look s.queues (c.arg 0) with
    | none => .fail 2
    | some q => .done { s with queues := Sparse.put { q with stopped := true } s.queues (c.arg 0) } []) c s

/-! ## Slices and ways (R404, R454 to R459) -/

/-- Entries of a tenant map (R455). -/
def mapEntries (bs : List Byte) (n : Nat) : List Nat := (List.range n).map (fun i => recBytes bs (2 * i) 2)

/-- R456: a map that SLICE_DOMAIN refuses. -/
def State.mapOdd (s : State) (part : Nat) (es : List Nat) : Bool :=
  es.any (fun e => decide (8192 ≤ e) || (Sparse.look s.tenants (e % 4096)).isNone || decide ((s.tenant (e % 4096)).part ≠ part))
    || (es.map (· % 4096)).eraseDups.length != es.length

/-- Slices of a half of a partition under a layout. -/
def State.halfSlices (s : State) (part layout dom : Nat) : List Nat :=
  (List.range 256).filter (fun p => s.coreEnabled p && decide (partOf s.mode p = part) && inDomain s.mode (Fin.ofNat 3 layout) dom p)

/-- Phases 2 to 5 of R457: every line written back and invalidated, the new domains, the next epoch. -/
def State.switchDomains (s : State) (part layout hm0 hm1 : Nat) (es : List Nat) : State :=
  let s1 := s.flushLines (fun l => decide (partOf s.mode l.slice = part))
  ({ s1 with tenants := Sparse.mapAll (fun k t =>
      if t.part = part then { t with domain := ((es.find? (fun e => decide (e % 4096 = k))).map (· / 4096)).getD 0 } else t) s1.tenants } : State).modPart part
    (fun p => { p with layout := Fin.ofNat 3 layout, hm0 := BitVec.ofNat 41 hm0, hm1 := BitVec.ofNat 41 hm1, epoch := p.epoch + 1 })

/-- SLICE_DOMAIN (R454 to R457). -/
def execSliceDomain (c : CmdSrc) (s : State) : Outcome State Fault Refusal :=
  runCommand 0x0D 0 (fun s c => s.holdsPart c (c.arg 0)) (fun s c =>
    let part := c.arg 0
    let layout := c.arg 1
    let n := c.arg 5
    let two := decide (layout ≠ 0)
    if 3 ≤ layout ∨ 2 ^ 41 ≤ c.arg 2 ∨ 2 ^ 41 ≤ c.arg 3 ∨ c.arg 2 = 0 ∨ (two ∧ c.arg 3 = 0) ∨ (!two ∧ c.arg 3 ≠ 0)
        ∨ c.arg 4 % 2 ≠ 0 ∨ 64 < n ∨ (!two ∧ n ≠ 0) ∨ c.arg 6 ≠ 0 ∨ (s.halfSlices part layout 0).isEmpty
        ∨ (two ∧ (s.halfSlices part layout 1).isEmpty) then .fail 4
    else
      c.reading s (c.arg 4) (2 * n) (fun s bs =>
        let es := mapEntries bs n
        if s.mapOdd part es then .fail 4
        else if 256 < (s.lines.filter (fun l => l.dirty && decide (partOf s.mode l.slice = part))).length then .fail 1
        else .done (s.switchDomains part layout (c.arg 2) (c.arg 3) es) [])) c s

/-- WAYMASK_SET (R260, R404): lines in removed ways are written back and invalidated. -/
def execWaymaskSet (c : CmdSrc) (s : State) : Outcome State Fault Refusal :=
  runCommand 0x0E 0 (fun s c => s.holdsTag c (c.arg 0)) (fun s c =>
    let tag := c.arg 0
    if 2 ^ 16 ≤ c.arg 1 then .fail 4
    else
      let new := BitVec.ofNat 16 (c.arg 1)
      let gone := (s.tenant tag).ways &&& ~~~new
      .done ((s.flushLines (fun l => decide (l.tag = tag) && gone.getLsbD l.way)).modTenant tag (fun t => { t with ways := new })) []) c s

/-! ## Reports (R424, R425, R485) -/

/-- Bytes 0 to 223 of a report (Table 18.2). -/
def State.report (s : State) (nonce : List Byte) (tag part : Nat) : List Byte :=
  let d := s.die (s.primary.getD 0)
  let failed := sumNat ((List.range 4).map (fun k => if (s.die k).announced && (s.die k).stagedFailed then 2 ^ k else 0))
  nonce ++ bigBytes 48 d.m0.toNat ++ bigBytes 48 d.m1.toNat ++ splitBytes 8 d.version.toNat ++ splitBytes 8 s.minVersion.toNat
    ++ splitBytes 8 s.capSignature.toNat ++ splitBytes 8 d.timebase.toNat
    ++ splitBytes 8 (s.mode + 256 * s.runningMask + 4096 * failed) ++ splitBytes 2 tag ++ splitBytes 1 part ++ splitBytes 37 0

/-- ATTEST (R424). -/
def execAttest (c : CmdSrc) (s : State) : Outcome State Fault Refusal :=
  runCommand 0x0F 0 (fun _ _ => true) (fun s c =>
    c.reading s (c.arg 0) 48 (fun s nonce =>
      let body := s.report nonce c.tag c.part
      let (s1, sig) := s.sign body
      c.writing s1 (c.arg 1) (body ++ sig) (fun s2 => .done s2 []))) c s

/-- CAP_READ (R425). -/
def execCapRead (c : CmdSrc) (s : State) : Outcome State Fault Refusal :=
  runCommand 0x10 0 (fun _ _ => true) (fun s c => .done s [(0, s.capWord (BitVec.ofNat 64 (c.arg 0)))]) c s

/-- The prediction for a unit: what made a core unsafe, else what its monitor reads. -/
def State.wearOf (s : State) (unit : Nat) : Nat := (Sparse.look s.wear unit).getD (Config.wearHours unit s.steps).toNat

/-- The core that monitor `m` of a die measures (R485). -/
def monitorCore (die m : Nat) : Nat := 16 * (8 * (die / 2) + (m - 1) / 8) + 8 * (die % 2) + (m - 1) % 8

/-- Units of the device with their selectors. -/
def State.wearUnits (s : State) : List (Nat × Nat) :=
  (List.range 4).flatMap (fun d => if (s.die d).announced then (List.range 64).map (fun i => (monitorCore d (i + 1), i + 1)) else [])
    ++ (List.range 32).map (fun i => (256 + (65 + i), 65 + i))

/-- The least prediction and its selector. -/
def State.leastWear (s : State) : Nat × Nat :=
  s.wearUnits.foldl (fun m u => if s.wearOf u.1 < m.1 then (s.wearOf u.1, u.2) else m) (2 ^ 64 - 1, 0)

/-- WEAR_READ (R485): monitors of the die that serves the caller's partition. -/
def execWearRead (c : CmdSrc) (s : State) : Outcome State Fault Refusal :=
  runCommand 0x11 0 (fun _ _ => true) (fun s c =>
    let n := c.arg 0
    if 96 < n then .fail 4
    else
      let v := if n = 0 then s.leastWear.1 else if n ≤ 64 then s.wearOf (monitorCore (s.dieOfPart c.part) n) else s.wearOf (256 + n)
      .done s [(0, BitVec.ofNat 64 v)]) c s

/-! ## Firmware (R422) -/

/-- Size of the firmware store. -/
def storeBytes : Nat := 2 ^ 19

/-- The image that the store holds. -/
def State.storeImage (s : State) : List Byte := cellBytes s.store 0 storeBytes

/-- FW_STAGE (R422): chunk address, offset, length. -/
def execFwStage (c : CmdSrc) (s : State) : Outcome State Fault Refusal :=
  runCommand 0x12 0 (fun _ c => match c.issuer with
    | .owner => true
    | _ => false) (fun s c =>
    if storeBytes < c.arg 1 + c.arg 2 then .fail 3
    else c.reading s (c.arg 0) (c.arg 2) (fun s bs => .done { s with store := setCells s.store (c.arg 1) bs } [])) c s

/-- The version of an image that boots: its signature verifies and it is not below the fused minimum (R420). -/
def State.bootable (s : State) : Option Word :=
  match Config.imageVersion s.storeImage with
  | some v => if s.minVersion ≤ v then some v else none
  | none => none

/-- FW_COMMIT (R422): the image runs at the next module reset. -/
def execFwCommit (c : CmdSrc) (s : State) : Outcome State Fault Refusal :=
  runCommand 0x13 0 (fun _ c => match c.issuer with
    | .owner => true
    | _ => false) (fun s _ =>
    match s.bootable with
    | some v => .done { s with staged := true } [(0, v)]
    | none => .fail 4) c s

/-! ## RESET_PARTITION (R429) -/

/-- A rectangle stops on the reset of its partition; its completion has status 2, and what that gives as reason and
detail is a free value. -/
def Rect.reset (x : Rect) (reason detail : Nat) : Rect :=
  { x with phase := if x.phase = .swapped then .swapped else .stopped, moving := none, soft := none, reload := none, retiring := false,
           verdict := some (2, reason, detail) }

/-- RESET_PARTITION: rectangles stop and their launches are discarded; the command ends once they have completed. -/
def execResetPartition (c : CmdSrc) (s : State) : Outcome State Fault Refusal :=
  runCommand 0x14 0 (fun s c => match c.issuer with
    | .owner => true
    | .supervisor p => decide (p = c.arg 0) && (s.part p).sup
    | .tenant _ => false) (fun s c =>
    let part := c.arg 0
    if 2 ^ s.mode ≤ part then .fail 4
    else
      let mine := s.rects.filter (fun p => decide (p.2.part = part))
      if mine.isEmpty then .done s []
      else if mine.all (fun p => (p.2.verdict.map (·.1)) == some 2) then .wait s
      else
        let theirs := fun (l : Launch) => mine.any (fun p => l.src.ofRect p.1) || (decide (l.part = part) && (match l.src with
          | .replica _ => true
          | _ => false))
        let s1 := { s with
          rects := Sparse.mapAll (fun _ x => if x.part = part then
            x.reset ((s.freeWord 7).toNat % 2 ^ 16) ((s.freeWord 8).toNat % 2 ^ 32) else x) s.rects,
          launches := s.launches.filter (fun l => !theirs l) }
        .held (s1.modPart part (fun p => { p with
          chosen := p.chosen.filter (fun i => s1.launches.any (fun l => decide (l.id = i))) }))) c s

end Sys2Proof.Machine
end

