-- ==== Sys2Proof/Machine/Peers.lean ====
section
/-! DEFINITION. Peers: notify writes, doorbells, entries of work queues, the export table, links (18 R431 to R439,
R538). -/

namespace Sys2Proof.Machine

open Host (Outcome)

/-! ## Notify writes (R436 to R438) -/

/-- tag′ of R437. -/
def notifyTag (key : List Byte) (id t : Nat) (q : Nat) : List Byte :=
  (hmac384 key (ascii4 0x43 0x56 0x4E 0x54 ++ splitBytes 4 id ++ splitBytes 4 t ++ splitBytes 8 q)).take 12

/-- Keys under which a tag is accepted (R435). -/
def WorkQueue.keys (q : WorkQueue) (now : Nat) : List (List Byte) :=
  q.key :: (match q.old with
    | some (k, t) => if now < t.toNat then [k] else []
    | none => [])

/-- Entries from VT up to a new tail. -/
def WorkQueue.added (q : WorkQueue) (t : Nat) : Nat := (t + 2 ^ 32 - q.vt % 2 ^ 32) % 2 ^ 32

/-- R437: every condition of acceptance. -/
def WorkQueue.accepts (k : WorkQueue) (id t q : Nat) (tag : List Byte) (now : Nat) : Bool :=
  !k.quarantined && (k.keys now).any (fun key => decide (notifyTag key id t q = tag)) && decide (k.seq.toNat < q)
    && decide (k.added t ≤ 2 ^ k.logn - (k.vt - k.head))

/-- R437, R438: a failure is counted; the 16th within 250,000,000 ticks of the one 15 before it quarantines. -/
def WorkQueue.failed (k : WorkQueue) (now : Nat) : WorkQueue :=
  let fs := (BitVec.ofNat 64 now :: k.fails).take 16
  { k with drops := k.drops + 1, fails := fs,
           quarantined := k.quarantined || (match fs[15]? with
             | some t => decide (now ≤ t.toNat + 250000000)
             | none => false) }

/-- The header's words of a queue that its interface writes: head and the count of dropped notifies (R433, R434). -/
def State.queueHeader (s : State) (id q : Nat) (k : WorkQueue) : State :=
  match s.tenantWrite id (s.tenant k.tag).part k.tag k.comp.toNat (splitBytes 8 k.head ++ splitBytes 8 k.drops) with
  | .ok s1 _ => { s1 with queues := Sparse.put k s1.queues q }
  | .wait s1 => { s1 with queues := Sparse.put k s1.queues q }
  | .fault s1 _ _ => ({ s1 with queues := Sparse.put k s1.queues q } : State).modPart (s.tenant k.tag).part (fun p => { p with refusals := p.refusals + 1 })

/-- NOTIFY_WRITE (R436, R437): a write to the notify page. -/
def execNotifyWrite (sender offset : Nat) (ordered : Bool) (bytes : List Byte) (s : State) : Outcome State Fault Refusal :=
  let _ := sender
  if offset < 0x1FFFFF000 ∨ 0x200000000 ≤ offset then .next s
  else if bytes.length ≠ 32 ∨ offset % 32 ≠ 0 ∨ recBytes bytes 28 4 ≠ 0 ∨ !ordered then .next { s with notifyDrops := s.notifyDrops + 1 }
  else
    let id := recBytes bytes 0 4
    match Sparse.look s.queues id with
    | none => .next { s with notifyDrops := s.notifyDrops + 1 }
    | some k =>
      let now := s.partTime (s.tenant k.tag).part
      let t := recBytes bytes 4 4
      let q := recBytes bytes 8 8
      if k.stopped then .next { s with notifyDrops := s.notifyDrops + 1 }
      else if k.accepts id t q ((bytes.drop 16).take 12) now then
        let k1 := { k with seq := BitVec.ofNat 64 q, vt := k.vt + k.added t }
        .next { s with queues := Sparse.put k1 s.queues id, doorbell := s.doorbell ++ [(id, k1.vt)] }
      else .next (s.queueHeader 0 id (k.failed now))

/-- QUEUE_OLD_KEY_EXPIRY (R435). -/
def execQueueOldKeyExpiry (queue : Nat) (s : State) : Outcome State Fault Refusal :=
  match Sparse.look s.queues queue with
  | none => .next s
  | some k =>
    match k.old with
    | some (_, t) =>
      if t.toNat ≤ s.partTime (s.tenant k.tag).part then .next { s with queues := Sparse.put { k with old := none } s.queues queue } else .next s
    | none => .next s

/-! ## Doorbells and entries (R433, R439) -/

/-- R439: the admitted tail of a queue rises to a value, never back. -/
def State.admitTail (s : State) (queue tail : Nat) : State :=
  match Sparse.look s.queues queue with
  | none => s
  | some k => { s with queues := Sparse.put { k with tail := max k.tail tail } s.queues queue }

/-- The die that serves a queue. -/
def State.queueDie (s : State) (queue : Nat) : Nat := match Sparse.look s.queues queue with
  | some k => s.dieOfPart (s.tenant k.tag).part
  | none => 0

/-- DOORBELL_PROCESS (R439): the admitted tail is journalled, then written. -/
def execDoorbellProcess (die : Fin 4) (s : State) : Outcome State Fault Refusal :=
  if !s.complexRuns die.val then .next s
  else match s.doorbell.find? (fun d => decide (s.queueDie d.1 = die.val)) with
    | none => .next s
    | some d =>
      let (s1, n) := s.fresh
      .next (({ s1 with
        doorbell := s1.doorbell.erase d,
        journal := s1.journal ++ [{ id := n, die := die.val, code := 0, args := [BitVec.ofNat 64 d.1, BitVec.ofNat 64 d.2], done := true }] } : State).admitTail
          d.1 d.2)

/-- WORK_QUEUE_ENTRY_READ (R344, R433): the next entry up to the admitted tail, while the admission unit has room; the
record is read before the head passes it. -/
def execWorkQueueEntryRead (queue : Nat) (s : State) : Outcome State Fault Refusal :=
  match Sparse.look s.queues queue with
  | none => .next s
  | some k =>
    let part := (s.tenant k.tag).part
    let addr := k.ring.toNat + 64 * (k.head % 2 ^ k.logn)
    if k.tail ≤ k.head || k.stopped || !s.freeEntry part then .next s
    else
      let take := fun (s : State) (bs : List Byte) =>
        let (s1, id) := s.fresh
        let l : Launch := { id := id, part := part, tag := k.tag, src := .queue queue k.head, addr := BitVec.ofNat 64 addr, cut := 0, phase := .submitted,
                            lrec := bs, frames := [], arrival := id, head := none, boost := 0, copies := 1, stage := none }
        ({ s1 with launches := s1.launches ++ [l] } : State).queueHeader 0 queue { k with head := k.head + 1 }
      match s.tenantRead 0 part k.tag addr 64 with
      | .wait s1 => .next s1
      | .fault s1 _ _ => .next (take s1 [])
      | .ok s1 bs => .next (take s1 bs)

/-! ## The export table (R538) -/

/-- Bytes that an incoming access reaches. -/
def PeerOp_bytes : PeerOp → Nat
  | .read n => n
  | .write bs => bs.length
  | .add n _ => n
  | .swap n _ => n
  | .cas n _ _ => n

/-- Link profiles (Table 18.5): accesses of 1 to 256 bytes, atomics of 4 or 8, aligned. -/
def peerOpOk (op : PeerOp) (pa : Nat) : Bool :=
  let n := PeerOp_bytes op
  match op with
  | .read _ | .write _ => decide (1 ≤ n) && decide (n ≤ 256)
  | _ => (decide (n = 4) || decide (n = 8)) && decide (pa % n = 0)

/-- Every granule of a range passes a tag. -/
def State.rangePass (s : State) (tag pa n : Nat) (write : Bool) : Bool :=
  s.granulePass tag pa write && s.granulePass tag (pa + n - 1) write && !(write && isWeightStore pa)

/-- EXPORT_ACCESS (R538, R398): looked up by its offset and its sender, then checked at the channel with the tenant's
tag. What a read returns leaves the device. -/
def execExportAccess (sender offset : Nat) (op : PeerOp) (s : State) : Outcome State Fault Refusal :=
  let n := PeerOp_bytes op
  match s.exports.find? (fun e => decide (e.off ≤ offset) && decide (offset + n ≤ e.off + e.len) && e.devices.contains sender) with
  | none => .next s
  | some e =>
    let pa := e.pa + (offset - e.off)
    let write := match op with
      | .read _ => false
      | _ => true
    if !peerOpOk op pa || isPeerWindow pa || !s.rangePass e.tag pa n write then .next s
    else
      let (s1, bs) := State.readPhys e.tag .bypass (pieces pa n) s pa n
      let old := joinBytes bs
      let put := fun (v : Nat) => State.writePhys e.tag .bypass (pieces pa n) s1 pa (splitBytes n v)
      match op with
      | .read _ => .next s1
      | .write ds => .next (State.writePhys e.tag .bypass (pieces pa n) s pa ds)
      | .add _ v => .next (put ((old + v.toNat) % 2 ^ (8 * n)))
      | .swap _ v => .next (put (v.toNat % 2 ^ (8 * n)))
      | .cas _ x v => .next (if old = x.toNat % 2 ^ (8 * n) then put (v.toNat % 2 ^ (8 * n)) else s1)

/-! ## Links (R431, Table 18.5) -/

/-- Options that a link offers. -/
def linkOffers (k : LinkKind) (o : LinkOption) : Bool :=
  match k, o with
  | .ualink, .lanes200x4 | .ualink, .reads | .ualink, .writes | .ualink, .atomics => true
  | .ultraEthernet, .port800 | .ultraEthernet, .uet | .ultraEthernet, .unordered | .ultraEthernet, .orderedNotify
  | .ultraEthernet, .spraying | .ultraEthernet, .reads | .ultraEthernet, .writes | .ultraEthernet, .atomics => true
  | _, _ => false

/-- LINK_CONNECTION_REQUEST (R431): a peer that asks for an option not offered is refused; UALink joins the devices of
one pod (R31). -/
def execLinkConnectionRequest (device : Nat) (kind : LinkKind) (opts : List LinkOption) (s : State) : Outcome State Fault Refusal :=
  let pod := match kind with
    | .ualink => decide (device / 1024 = Config.deviceNumber.toNat / 1024)
    | .ultraEthernet => true
  if opts.all (linkOffers kind) && pod && decide (device < 2 ^ 18) && s.dies.any (fun d => d.2.announced) then
    .next { s with links := s.links.filter (fun l => !(decide (l.device = device) && decide (l.kind = kind)))
                              ++ [{ device := device, kind := kind, opts := opts }] }
  else .next s

end Sys2Proof.Machine
end

