-- ==== Sys2Proof/Machine/Boot.lean ====
section
/-! DEFINITION. Boot, election, failover, wear, supplies, cooling, resets and the decisions of the partition
supervisor (01 R13, R14, R17, 18 R420 to R422, R440 to R444, 21 R486, 25 R526 to R531). -/

namespace Sys2Proof.Machine

open Host (Outcome)

/-! ## Boot and election (R420 to R422) -/

/-- A measurement register that held zero, extended by a measurement (log 5). -/
def extended (m : BitVec 384) : BitVec 384 := BitVec.ofNat 384 (bigEndian (sha384 (bigBytes 48 0 ++ bigBytes 48 m.toNat)))

/-- R422: the fused minimum rises once an image of a higher version has booted on every die. -/
def State.raiseMinimum (s : State) (v : Word) : State :=
  if s.minVersion < v ∧ (List.range 4).all (fun d => (s.die d).announced && decide ((s.die d).version = v)) then { s with minVersion := v } else s

/-- DIE_BOOT (R420): measurement, the staged image if it passes, else the baseline one; the die's cores, granule maps and
Crock are clear; it announces itself. -/
def execDieBoot (die : Fin 4) (imageVersion : Option Word) (s : State) : Outcome State Fault Refusal :=
  let d := die.val
  let seen := if s.staged then Config.imageVersion s.storeImage else none
  if !s.house.main || decide (s.house.stage < 3) || s.house.ready || (s.die d).announced then .next s
  else if seen = imageVersion then
    let good := if s.staged then s.bootable else none
    let measure := if good.isSome then Config.imageMeasure s.storeImage else Config.imageMeasure []
    let v := good.getD Config.baselineVersion
    let s1 := s.modDie d (fun x => { x with
      announced := true, version := v, stagedFailed := s.staged && good.isNone, m0 := extended Config.romMeasure, m1 := extended measure,
      active := 0, failed := 0, adopter := none })
    let s2 := { s1 with
      granules := s1.granules.filter (fun g => decide (granuleDie g.1 ≠ d)),
      house := { s1.house with stage := max 4 s1.house.stage } }
    .next (if good.isSome then s2.raiseMinimum v else s2)
  else .next s

/-- Dies that have announced themselves, in order. -/
def State.announcedDies (s : State) : List Nat := (List.range 4).filter (fun d => (s.die d).announced)

/-- ELECTION (R421): the primary is the lowest die with the version of die 0, or of the lowest running one; dies of
another version are held; partition supervisors serve from now on (log 28). -/
def execElection (s : State) : Outcome State Fault Refusal :=
  match s.announcedDies with
  | [] => .next s
  | d0 :: ds =>
    if s.house.ready then .next s
    else
      let v := (s.die d0).version
      let s1 := (d0 :: ds).foldl (fun (s : State) d => s.modDie d (fun x => { x with held := decide (x.version ≠ v) })) s
      let now := (s.die d0).timebase.toNat
      .next { s1 with
        primary := some d0, timeDie := some d0,
        parts := Sparse.mapAll (fun p x => { x with sup := Config.supervisor p, lastQ := now }) s1.parts,
        house := { s1.house with ready := true, stage := 5 } }

/-- TIME_BROADCAST_RECEIVE (R13, R14): a die that is ahead holds until the broadcast reaches it; one that is behind adopts
its value. -/
def execTimeBroadcastReceive (die : Fin 4) (s : State) : Outcome State Fault Refusal :=
  match s.timeDie with
  | none => .next s
  | some t =>
    let v := (s.die t).timebase
    if die.val = t ∨ !(s.die die.val).announced ∨ (s.die t).failed = 3#2 then .next s
    else .next (s.modDie die.val (fun x => if v < x.timebase then { x with hold := true } else { x with timebase := v, hold := false }))

/-! ## Failover and adoption (R440 to R442) -/

/-- The standby reads VT of every queue of a die and sets its admitted tail to it (R440). -/
def State.replayQueues (s : State) (die : Nat) : State :=
  s.queues.foldl (fun (s : State) q => if s.queueDie q.1 = die then s.admitTail q.1 q.2.vt else s) s

/-- R421: a primary whose pairs have both failed is followed by the lowest die whose complex runs. -/
def State.follow (s : State) (d : Nat) : State :=
  let next := (List.range 4).find? (fun k => (s.die k).announced && (s.die k).failed != 3#2)
  { s with primary := if s.primary = some d then next else s.primary, timeDie := if s.timeDie = some d then next else s.timeDie }

/-- R440: the active pair stops; the standby, if it has not failed, becomes active and replays the journal: every record
that is not done sets state to values that stand already. -/
def State.failover (s : State) (d : Nat) : State :=
  let x := s.die d
  if !x.announced || decide (x.failed = 3#2) then s
  else
    let failed := x.failed ||| (1#2 <<< x.active.val)
    if failed = 3#2 then (s.modDie d (fun x => { x with failed := failed })).follow d
    else (s.modDie d (fun x => { x with failed := failed, active := if x.active = 0 then 1 else 0 })).replayQueues d

/-- LOCKSTEP_MISMATCH (R417, R440). -/
def execLockstepMismatch (die : Fin 4) (s : State) : Outcome State Fault Refusal := .next (s.failover die.val)
/-- HEARTBEAT_TIMEOUT (R440). -/
def execHeartbeatTimeout (die : Fin 4) (s : State) : Outcome State Fault Refusal := .next (s.failover die.val)
/-- DOUBLE_FAULT (R440). -/
def execDoubleFault (die : Fin 4) (s : State) : Outcome State Fault Refusal := .next (s.failover die.val)

/-- Dies across a seam. -/
def dieNeighbours (d : Nat) : List Nat := (List.range 4).filter (fun k => seamDies.contains (d, k) || seamDies.contains (k, d))

/-- R442: a rectangle that stands on a die that no neighbour reaches stops for good. -/
def State.strand (s : State) (d : Nat) : State :=
  let rs := (s.rects.filter (fun p => p.2.phase.live && p.2.block.any (fun c => decide (dieOf c = d)))).map (·.1)
  let s1 := rs.foldl (fun (s : State) r => s.unrecoverable r 4) s
  { s1 with disabled := (s1.disabled ++ (List.range 256).filter (fun p => decide (dieOf p = d))).eraseDups }

/-- DIE_ADOPTION (R442): the lowest neighbour whose complex runs adopts the die and replays its journal. -/
def execDieAdoption (die : Fin 4) (s : State) : Outcome State Fault Refusal :=
  let d := die.val
  let x := s.die d
  if !x.announced || decide (x.failed ≠ 3#2) || x.adopter.isSome then .next s
  else match (dieNeighbours d).find? (fun k => (s.die k).announced && (s.die k).failed != 3#2) with
    | some k => .next ((s.modDie d (fun x => { x with adopter := some k })).replayQueues d)
    | none => .next (s.strand d)

/-- FAILED_PAIR_TEST_COMPLETE (R440): a failed pair that passes is standby again. -/
def execFailedPairTestComplete (die : Fin 4) (pass : Bool) (s : State) : Outcome State Fault Refusal :=
  let x := s.die die.val
  if x.announced && pass && decide (x.failed ≠ 3#2) then .next (s.modDie die.val (fun x => { x with failed := 0 })) else .next s

/-! ## Wear (R17, R425, R485, R486) -/

/-- The die whose time base the device's own intervals follow. -/
def State.deviceTime (s : State) : Nat := (s.die (s.primary.getD 0)).timebase.toNat

/-- WEAR_REFRESH (R425, Table 18.3): each 1 ms (250,000 ticks). -/
def execWearRefresh (s : State) : Outcome State Fault Refusal :=
  if s.house.ready ∧ s.wearAt + 250000 ≤ s.deviceTime then .next { s with wearEntry := s.leastWear, wearAt := s.wearAt + 250000 } else .next s

/-- CORE_UNSAFE (R486, R17): a core whose prediction falls below 720 hours is unsafe; once nothing occupies it, it is
disabled, and its slice leaves the domain. -/
def execCoreUnsafe (core hours : Nat) (s : State) : Outcome State Fault Refusal :=
  if 256 ≤ core ∨ s.disabled.contains core ∨ !(s.die (dieOf core)).announced then .next s
  else if s.worn.contains core then
    (if s.rects.any (fun p => p.2.holds.contains core) then .next s
     else
      let part := partOf s.mode core
      .next { s.flushLines (fun l => decide (partOf s.mode l.slice = part)) with
        worn := s.worn.filter (fun k => decide (k ≠ core)), disabled := s.disabled ++ [core] })
  else if hours < 720 then .next { s with worn := s.worn ++ [core], wear := Sparse.put hours s.wear core }
  else .next s

/-! ## Power and cooling (R526 to R529) -/

/-- A power cap as it is stored (R529). -/
def clampCap (v : Word) : Nat := min 2400 (max 600 (v.toNat % 65536))

/-- PWRCAP_WRITE (R529): the block answers whenever AUX is good; the cap applies from the next window. -/
def execPwrcapWrite (v : Word) (s : State) : Outcome State Fault Refusal :=
  if s.house.aux then .next { s with house := { s.house with cap := clampCap v } } else .next s

/-- HOUSEKEEPING_REGISTER_WRITE (R528, Table 25.3): PFAIL is cleared by writing one; the other registers are read-only or
have rows of their own. -/
def execHousekeepingRegisterWrite (addr : Nat) (v : Word) (s : State) : Outcome State Fault Refusal :=
  if s.house.aux ∧ addr = 8 ∧ v.getLsbD 5 then .next { s with house := { s.house with pfail := false } } else .next s

/-- POWER_WINDOW (R529): advance cycles are withheld while the power exceeds the cap, until it falls to 97 % of it. -/
def execPowerWindow (watts : Nat) (s : State) : Outcome State Fault Refusal :=
  if !s.house.main then .next s
  else .next { s with house := { s.house with
    now := watts % 65536, capped := decide (s.house.cap < watts % 65536) || (s.house.capped && decide (97 * s.house.cap < 100 * (watts % 65536))) } }

/-- THERMAL_THROTTLE (R527). -/
def execThermalThrottle (die : Fin 4) (temp : Nat) (s : State) : Outcome State Fault Refusal :=
  if s.house.main ∧ 100 ≤ temp ∧ temp < 110 then .next (s.modDie die.val (fun x => { x with temp := temp, throttled := true })) else .next s

/-- THERMAL_THROTTLE_END (R527). -/
def execThermalThrottleEnd (die : Fin 4) (temp : Nat) (s : State) : Outcome State Fault Refusal :=
  if s.house.main ∧ temp < 95 ∧ (s.die die.val).throttled then .next (s.modDie die.val (fun x => { x with temp := temp, throttled := false }))
  else .next s

/-- MSTAT as it reads (Table 25.3). -/
def State.mstat (s : State) : Word :=
  let throttle := s.house.capped || s.dies.any (fun d => d.2.throttled)
  BitVec.ofNat 64 (512 * s.runningMask + (if s.house.ready then 256 else 0) + (if throttle then 128 else 0)
    + (if s.dies.any (fun d => decide (100 ≤ d.2.temp)) then 64 else 0) + (if s.house.pfail then 32 else 0) + s.house.stage)

/-- TEMPMAX as it reads (Table 25.2). -/
def State.tempMax (s : State) : Word :=
  match maxBy (fun d => (s.die d).temp) [0, 1, 2, 3] with
  | some d => BitVec.ofNat 64 (d * 256 + (s.die d).temp % 256)
  | none => 0

/-! ## Resets and supplies (R526, R530, R531) -/

/-- Everything outside fuses and housekeeping block is lost. -/
def State.lost (s : State) : State :=
  { State.reset with agenda := s.agenda, steps := s.steps, minVersion := s.minVersion, peer := s.peer, dies := [], house := s.house }

/-- Cells as memory holds them, in HBM. -/
def canonHbm (cs : List Host.Cell) : List Host.Cell :=
  (cs.filter (fun c => isHbm c.1)).foldl (fun m c => Sparse.set 0#8 c.2 m c.1) []

/-- R530: a module reset: HBM contents become unspecified; fuses and firmware store stay; the sequence goes on at step 3. -/
def State.moduleReset (s : State) : State :=
  { s.lost with
    mem := canonHbm (Config.hbmAfterReset s.steps), store := s.store, staged := s.staged, dies := freshDies,
    house := { s.house with stage := 3, ready := false, capped := false } }

/-- MRESET_WRITE (R528, R530): other values are ignored. -/
def execMresetWrite (v : Word) (s : State) : Outcome State Fault Refusal :=
  if s.house.aux ∧ s.house.main ∧ v = 0x52455345#64 then .next s.moduleReset else .next s

/-- RESET_N (R530). -/
def execResetN (s : State) : Outcome State Fault Refusal := if s.house.main then .next s.moduleReset else .next s

/-- R526: MAIN is lost: the sequence is back before step 2. -/
def State.mainLost (s : State) : State :=
  { s.lost with house := { s.house with main := false, pfail := true, ready := false, capped := false, now := 0,
                                        stage := if s.house.aux then 1 else 0 } }

/-- MAIN_LOSS (R526). -/
def execMainLoss (s : State) : Outcome State Fault Refusal := if s.house.main then .next s.mainLost else .next s

/-- THERMAL_SHUTDOWN (R527): MAIN is removed from all four dies. -/
def execThermalShutdown (die : Fin 4) (temp : Nat) (s : State) : Outcome State Fault Refusal :=
  let _ := die
  if s.house.main ∧ 110 ≤ temp then .next s.mainLost else .next s

/-- AUX_LOSS (R526): the block stops answering. -/
def execAuxLoss (s : State) : Outcome State Fault Refusal :=
  if s.house.aux then .next { s with house := { s.house with aux := false, stage := if s.house.main then s.house.stage else 0 } } else .next s

/-- AUX_GOOD (R531 step 1): the block answers, its registers at their reset values. -/
def execAuxGood (s : State) : Outcome State Fault Refusal :=
  if s.house.aux then .next s
  else .next { s with house := { s.house with aux := true, cap := 0x960, pfail := false, stage := if s.house.main then s.house.stage else 1 } }

/-- MAIN_GOOD (R531 steps 2, 3): clocks lock and the time base starts at zero. -/
def execMainGood (s : State) : Outcome State Fault Refusal :=
  if s.house.aux ∧ !s.house.main then .next { s with dies := freshDies, house := { s.house with main := true, stage := 3 } } else .next s

/-! ## Decisions on a cause (R443, R444) -/

/-- The rectangle ends: status 1, reason 0x10 + cause; the detail is a free value. -/
def State.endFor (s : State) (r cause : Nat) : State :=
  s.modRect r (fun x => { x with phase := .stopped, verdict := some (1, 0x10 + cause, (s.freeWord 9).toNat % 2 ^ 32) })

/-- R444: the origin of a cause resumes, with the registers that the supervisor set. -/
def State.resumeCause (s : State) (r : Nat) (q : QCause) (regs : List (Nat × Word)) : State :=
  let s1 := s.modBody r (fun b => { b with atSup := b.atSup.drop 1 })
  if q.fabric then s1.modBody r Body.resumeFabric
  else s1.modTask ⟨r, q.core, q.slot⟩ (fun x =>
    let y := regs.foldl (fun (t : Task) p => if p.1 < 64 then t.write (Fin.ofNat 64 p.1) p.2 else t) x
    { y with held := false, pc := x.tpc, wait := none })

/-- PARTITION_SUPERVISOR_DECISION (R443, R444): on the first cause that reached the supervisor. Without one, or when the
cause passes on, Gelesque ends the rectangle; GATE and FIREWALL always end it. -/
def execPartitionSupervisorDecision (rect : Nat) (d : Decision) (s : State) : Outcome State Fault Refusal :=
  let x := s.rect rect
  match x.body.atSup with
  | [] => .next s
  | q :: _ =>
    if !x.phase.issues || x.soft.isSome || !s.complexRuns (s.dieOfPart x.part) then .next s
    else match d with
      | .resume regs =>
        if (s.part x.part).sup ∧ !(q.fabric ∧ (q.cause = 6 ∨ q.cause = 7)) then .next (s.resumeCause rect q regs)
        else .next (s.endFor rect q.cause)
      | .endRect | .pass => .next (s.endFor rect q.cause)

end Sys2Proof.Machine
end

