-- ==== Sys2Proof/Machine/Scalar.lean ====
section
/-! DEFINITION. Sequencer arithmetic, predicates and control flow (05): integer, floating point,
comparisons, bit fields and immediates. -/

namespace Sys2Proof.Machine

open Host (Outcome)

/-- NOP (R153): only the loop-end step. -/
def execNop (g : Guard) (s : State) : Outcome State Fault Refusal := issueT g [] id s

/-! ## Integer arithmetic and logic (R136, R138, R139) -/

/-- ADD (R136). -/
def execAdd (g : Guard) (wd : Width) (d : Reg) (a b : Src) (s : State) : Outcome State Fault Refusal :=
  alu2 g d a b (aluAdd wd) s

/-- SUB (R136). -/
def execSub (g : Guard) (wd : Width) (d : Reg) (a b : Src) (s : State) : Outcome State Fault Refusal :=
  alu2 g d a b (aluSub wd) s

/-- MUL (R136). -/
def execMul (g : Guard) (wd : Width) (d : Reg) (a b : Src) (s : State) : Outcome State Fault Refusal :=
  alu2 g d a b (aluMul wd) s

/-- MULH (R136). -/
def execMulh (g : Guard) (wd : Width) (d : Reg) (a b : Src) (s : State) : Outcome State Fault Refusal :=
  alu2 g d a b (aluMulh wd) s

/-- MULHU (R136). -/
def execMulhu (g : Guard) (wd : Width) (d : Reg) (a b : Src) (s : State) : Outcome State Fault Refusal :=
  alu2 g d a b (aluMulhu wd) s

/-- AND (R136). -/
def execAnd (g : Guard) (wd : Width) (d : Reg) (a b : Src) (s : State) : Outcome State Fault Refusal :=
  alu2 g d a b (aluAnd wd) s

/-- OR (R136). -/
def execOr (g : Guard) (wd : Width) (d : Reg) (a b : Src) (s : State) : Outcome State Fault Refusal :=
  alu2 g d a b (aluOr wd) s

/-- XOR (R136). -/
def execXor (g : Guard) (wd : Width) (d : Reg) (a b : Src) (s : State) : Outcome State Fault Refusal :=
  alu2 g d a b (aluXor wd) s

/-- ANDN (R136). -/
def execAndn (g : Guard) (wd : Width) (d : Reg) (a b : Src) (s : State) : Outcome State Fault Refusal :=
  alu2 g d a b (aluAndn wd) s

/-- SHL (R138). -/
def execShl (g : Guard) (wd : Width) (d : Reg) (a b : Src) (s : State) : Outcome State Fault Refusal :=
  alu2 g d a b (aluShl wd) s

/-- SHR (R138). -/
def execShr (g : Guard) (wd : Width) (d : Reg) (a b : Src) (s : State) : Outcome State Fault Refusal :=
  alu2 g d a b (aluShr wd) s

/-- SRA (R138). -/
def execSra (g : Guard) (wd : Width) (d : Reg) (a b : Src) (s : State) : Outcome State Fault Refusal :=
  alu2 g d a b (aluSra wd) s

/-- MIN (R136). -/
def execMin (g : Guard) (wd : Width) (d : Reg) (a b : Src) (s : State) : Outcome State Fault Refusal :=
  alu2 g d a b (aluMin wd) s

/-- MAX (R136). -/
def execMax (g : Guard) (wd : Width) (d : Reg) (a b : Src) (s : State) : Outcome State Fault Refusal :=
  alu2 g d a b (aluMax wd) s

/-- MINU (R136). -/
def execMinu (g : Guard) (wd : Width) (d : Reg) (a b : Src) (s : State) : Outcome State Fault Refusal :=
  alu2 g d a b (aluMinu wd) s

/-- MAXU (R136). -/
def execMaxu (g : Guard) (wd : Width) (d : Reg) (a b : Src) (s : State) : Outcome State Fault Refusal :=
  alu2 g d a b (aluMaxu wd) s

/-- ADDI (R136): 64 bits, the immediate sign-extended. -/
def execAddi (g : Guard) (d : Reg) (a : Src) (imm : W32) (s : State) : Outcome State Fault Refusal :=
  alu1 g d a (fun x => x + sextImm imm) s

/-- ANDI (R136): 64 bits, the immediate sign-extended. -/
def execAndi (g : Guard) (d : Reg) (a : Src) (imm : W32) (s : State) : Outcome State Fault Refusal :=
  alu1 g d a (fun x => x &&& sextImm imm) s

/-- ORI (R136): 64 bits, the immediate sign-extended. -/
def execOri (g : Guard) (d : Reg) (a : Src) (imm : W32) (s : State) : Outcome State Fault Refusal :=
  alu1 g d a (fun x => x ||| sextImm imm) s

/-- XORI (R136): 64 bits, the immediate sign-extended. -/
def execXori (g : Guard) (d : Reg) (a : Src) (imm : W32) (s : State) : Outcome State Fault Refusal :=
  alu1 g d a (fun x => x ^^^ sextImm imm) s

/-- SHLI (R138): 64 bits. -/
def execShli (g : Guard) (d : Reg) (a : Src) (n : Fin 64) (s : State) : Outcome State Fault Refusal :=
  alu1 g d a (fun x => x <<< n.val) s

/-- SHRI (R138): 64 bits. -/
def execShri (g : Guard) (d : Reg) (a : Src) (n : Fin 64) (s : State) : Outcome State Fault Refusal :=
  alu1 g d a (fun x => x >>> n.val) s

/-- SRAI (R138): 64 bits. -/
def execSrai (g : Guard) (d : Reg) (a : Src) (n : Fin 64) (s : State) : Outcome State Fault Refusal :=
  alu1 g d a (fun x => x.sshiftRight n.val) s

/-- DIV (R137): a zero divisor sets STATUS.DZ. -/
def execDiv (g : Guard) (wd : Width) (d : Reg) (a b : Src) (s : State) : Outcome State Fault Refusal :=
  issueT g [srcNeed a, srcNeed b, .dst d] (fun t =>
    (t.setDz (divByZero wd (t.reg b.r))).write d (aluDiv wd (t.reg a.r) (t.reg b.r))) s

/-- DIVU (R137): a zero divisor sets STATUS.DZ. -/
def execDivu (g : Guard) (wd : Width) (d : Reg) (a b : Src) (s : State) : Outcome State Fault Refusal :=
  issueT g [srcNeed a, srcNeed b, .dst d] (fun t =>
    (t.setDz (divByZero wd (t.reg b.r))).write d (aluDivu wd (t.reg a.r) (t.reg b.r))) s

/-- REM (R137): a zero divisor sets STATUS.DZ. -/
def execRem (g : Guard) (wd : Width) (d : Reg) (a b : Src) (s : State) : Outcome State Fault Refusal :=
  issueT g [srcNeed a, srcNeed b, .dst d] (fun t =>
    (t.setDz (divByZero wd (t.reg b.r))).write d (aluRem wd (t.reg a.r) (t.reg b.r))) s

/-- REMU (R137): a zero divisor sets STATUS.DZ. -/
def execRemu (g : Guard) (wd : Width) (d : Reg) (a b : Src) (s : State) : Outcome State Fault Refusal :=
  issueT g [srcNeed a, srcNeed b, .dst d] (fun t =>
    (t.setDz (divByZero wd (t.reg b.r))).write d (aluRemu wd (t.reg a.r) (t.reg b.r))) s

/-- CLZ (R139). -/
def execClz (g : Guard) (wd : Width) (d : Reg) (a : Src) (s : State) : Outcome State Fault Refusal :=
  alu1 g d a (aluClz wd) s

/-- CTZ (R139). -/
def execCtz (g : Guard) (wd : Width) (d : Reg) (a : Src) (s : State) : Outcome State Fault Refusal :=
  alu1 g d a (aluCtz wd) s

/-- POPC (R139). -/
def execPopc (g : Guard) (wd : Width) (d : Reg) (a : Src) (s : State) : Outcome State Fault Refusal :=
  alu1 g d a (aluPopc wd) s

/-- BREV (R139). -/
def execBrev (g : Guard) (d : Reg) (a : Src) (n : Nat) (s : State) : Outcome State Fault Refusal :=
  alu1 g d a (aluBrev n) s

/-! ## Floating point (R140 to R146) -/

/-- FADD (R141). -/
def execFadd (g : Guard) (ty : FWidth) (rm : Rm) (d : Reg) (a b : Src) (s : State) :
    Outcome State Fault Refusal :=
  fpu2 g d a b (fpuAdd ty rm) s

/-- FSUB (R141). -/
def execFsub (g : Guard) (ty : FWidth) (rm : Rm) (d : Reg) (a b : Src) (s : State) :
    Outcome State Fault Refusal :=
  fpu2 g d a b (fpuSub ty rm) s

/-- FMUL (R141). -/
def execFmul (g : Guard) (ty : FWidth) (rm : Rm) (d : Reg) (a b : Src) (s : State) :
    Outcome State Fault Refusal :=
  fpu2 g d a b (fpuMul ty rm) s

/-- FDIV (R141). -/
def execFdiv (g : Guard) (ty : FWidth) (rm : Rm) (d : Reg) (a b : Src) (s : State) :
    Outcome State Fault Refusal :=
  fpu2 g d a b (fpuDiv ty rm) s

/-- FMA (R141): register c blocks when empty. -/
def execFma (g : Guard) (ty : FWidth) (rm : Rm) (d : Reg) (a b : Src) (c : Reg) (s : State) :
    Outcome State Fault Refusal :=
  issueT g [srcNeed a, srcNeed b, .src c false, .dst d] (fun t =>
    let r := fpuFma ty rm (t.reg a.r) (t.reg b.r) (t.reg c)
    (t.flags r.2).write d r.1) s

/-- FSQRT (R141). -/
def execFsqrt (g : Guard) (ty : FWidth) (rm : Rm) (d : Reg) (a : Src) (s : State) :
    Outcome State Fault Refusal :=
  fpu1 g d a (fpuSqrt ty rm) s

/-- FMIN (R142). -/
def execFmin (g : Guard) (ty : FWidth) (d : Reg) (a b : Src) (s : State) : Outcome State Fault Refusal :=
  fpu2 g d a b (fpuMin ty) s

/-- FMAX (R142). -/
def execFmax (g : Guard) (ty : FWidth) (d : Reg) (a b : Src) (s : State) : Outcome State Fault Refusal :=
  fpu2 g d a b (fpuMax ty) s

/-- FSGN (R143): no flag. -/
def execFsgn (g : Guard) (op : SgnOp) (ty : FWidth) (d : Reg) (a b : Src) (s : State) :
    Outcome State Fault Refusal :=
  alu2 g d a b (fpuSgn op ty) s

/-- FCVT (R146): DITH takes the phase of FPMODE and advances it (R119). -/
def execFcvt (g : Guard) (dst src : NumTy) (rm : Rm) (d : Reg) (a : Src) (s : State) :
    Outcome State Fault Refusal :=
  issueT g [srcNeed a, .dst d] (fun t =>
    let r := fpuCvt dst src rm (t.fpmode >>> 4).toNat (t.reg a.r)
    ((if rm = .dith then t.advancePhase else t).flags r.2).write d r.1) s

/-- FCLASS (R144): no flag. -/
def execFclass (g : Guard) (ty : FWidth) (d : Reg) (a : Src) (s : State) : Outcome State Fault Refusal :=
  alu1 g d a (fpuClass ty) s

/-- FCMP (R145). -/
def execFcmp (g : Guard) (c : FCond) (ty : FWidth) (p : Fin 8) (a b : Src) (s : State) :
    Outcome State Fault Refusal :=
  issueT g [srcNeed a, srcNeed b] (fun t =>
    let r := fpuCmp c ty (t.reg a.r) (t.reg b.r)
    (t.flags r.2).setPred p r.1) s

/-! ## Predicates, selection, bit fields and immediates (R147 to R152) -/

/-- CMP (R147). -/
def execCmp (g : Guard) (c : ICond) (wd : Width) (p : Fin 8) (a b : Src) (s : State) :
    Outcome State Fault Refusal :=
  issueT g [srcNeed a, srcNeed b] (fun t => t.setPred p (cmpCond c wd (t.reg a.r) (t.reg b.r))) s

/-- CMPI (R147): 64 bits against the sign-extended immediate. -/
def execCmpi (g : Guard) (c : ICond) (p : Fin 8) (a : Src) (imm : W32) (s : State) :
    Outcome State Fault Refusal :=
  issueT g [srcNeed a] (fun t => t.setPred p (cmpCond c .d (t.reg a.r) (sextImm imm))) s

/-- PLOG (R148). -/
def execPlog (g : Guard) (tt : Fin 16) (p pa pb : Fin 8) (s : State) : Outcome State Fault Refusal :=
  issueT g [] (fun t => t.setPred p (plogBit tt (t.pred pa) (t.pred pb))) s

/-- SEL (R149): all three sources are read. -/
def execSel (g : Guard) (d : Reg) (a b : Src) (c : Reg) (s : State) : Outcome State Fault Refusal :=
  issueT g [srcNeed a, srcNeed b, .src c false, .dst d] (fun t =>
    t.write d (if t.reg c ≠ 0 then t.reg a.r else t.reg b.r)) s

/-- BFX (R150). -/
def execBfx (g : Guard) (d : Reg) (a : Src) (lsb : Fin 64) (width : Nat) (s : State) :
    Outcome State Fault Refusal :=
  alu1 g d a (fun x => aluBfx x lsb.val width) s

/-- BFI (R150): it also reads s[d], which blocks. -/
def execBfi (g : Guard) (d : Reg) (a : Src) (lsb : Fin 64) (width : Nat) (s : State) :
    Outcome State Fault Refusal :=
  issueT g [srcNeed a, .src d false] (fun t => t.write d (aluBfi (t.reg d) (t.reg a.r) lsb.val width)) s

/-- EXT (R151). -/
def execExt (g : Guard) (sx : Bool) (d : Reg) (a : Src) (width : Nat) (s : State) :
    Outcome State Fault Refusal :=
  alu1 g d a (fun x => aluExt sx x width) s

/-- LI (R152). -/
def execLi (g : Guard) (d : Reg) (imm : W32) (s : State) : Outcome State Fault Refusal :=
  issueT g [.dst d] (fun t => t.write d (sextImm imm)) s

/-- LIH (R152): it reads s[d], which blocks. -/
def execLih (g : Guard) (d : Reg) (imm : W32) (s : State) : Outcome State Fault Refusal :=
  issueT g [.src d false] (fun t => t.write d (aluLih (t.reg d) imm)) s

/-! ## Branches, calls, hardware loops and the end of a task (R154 to R157) -/

/-- A branch target: an instruction index from 0 to 4,095 (R154). -/
def branchTarget (x : Int) : Option (BitVec 12) :=
  if 0 ≤ x ∧ x ≤ 4095 then some (BitVec.ofInt 12 x) else none

/-- A branch with its link register, if it has one; a target outside the store traps ILLEGAL with the
low 32 bits of the word, which are X (R73, R154). -/
def branchFlow (target : Int) (x : W32) (f : Task → Task) (s : State) : Flow :=
  match branchTarget target with
  | none => .trap 0x01 (x.setWidth 64)
  | some pc => .jump (s.modTask s.cur f) pc

/-- The index that CALL and JR link: i + 1 (R154). -/
def Task.linkValue (t : Task) : Word := BitVec.ofNat 64 (t.pc.toNat + 1)

/-- BR (R154). -/
def execBr (g : Guard) (off : W32) (s : State) : Outcome State Fault Refusal :=
  issue g [] (fun s => branchFlow ((s.me.pc.toNat : Int) + off.toInt) off id s) s

/-- CALL (R154). -/
def execCall (g : Guard) (d : Reg) (off : W32) (s : State) : Outcome State Fault Refusal :=
  issue g [.dst d] (fun s => branchFlow ((s.me.pc.toNat : Int) + off.toInt) off
    (fun t => t.write d t.linkValue) s) s

/-- JR (R154): the target is computed from the source before the link is written. -/
def execJr (g : Guard) (d : Reg) (a : Src) (off : W32) (s : State) : Outcome State Fault Refusal :=
  issue g [srcNeed a, .dst d] (fun s =>
    branchFlow ((s.me.reg a.r).toNat + off.toInt) off (fun t => t.write d t.linkValue) s) s

/-- The registers of one loop level (R155). -/
def Task.setLoop (t : Task) (level : Fin 2) (cnt : W32) (first last : BitVec 12) : Task :=
  if level = 0 then { t with cnt0 := cnt, start0 := first, end0 := last }
  else { t with cnt1 := cnt, start1 := first, end1 := last }

/-- LOOP (R155); a zero count is a taken branch past the body (R537). -/
def execLoop (g : Guard) (level : Fin 2) (a : Src) (off : W32) (s : State) : Outcome State Fault Refusal :=
  issue g [srcNeed a] (fun s =>
    let i := s.me.pc
    let cnt := (s.me.reg a.r).setWidth 32
    if off.toInt < 1 ∨ 4095 < (i.toNat : Int) + off.toInt then .trap 0x01 (off.setWidth 64)
    else
      let last := i + off.setWidth 12
      let s' := s.modTask s.cur (fun t => t.setLoop level cnt (i + 1) last)
      if cnt = 0 then .jump s' (last + 1) else .go s') s

/-- TEND (R157): waits for the pending producers, then frees the slot. -/
def execTend (g : Guard) (s : State) : Outcome State Fault Refusal :=
  issue g [] (fun s =>
    if s.me.pending.isEmpty then .done (s.modCore s.cur.coreRef (fun c => c.freeSlot s.cur.slot))
    else .wait s .producers) s

end Sys2Proof.Machine
end

