-- ==== Sys2Proof/Machine/Dispatch.lean ====
section
/-! DEFINITION. The dispatch of an instruction to its meaning. -/

namespace Sys2Proof.Machine

def exec (i : Instr) (s : State) : Host.Outcome State Fault Refusal :=
  match i with
  | .nop g => Sys2Proof.Machine.execNop g s
  | .add g wd d a b => Sys2Proof.Machine.execAdd g wd d a b s
  | .sub g wd d a b => Sys2Proof.Machine.execSub g wd d a b s
  | .addi g d a imm => Sys2Proof.Machine.execAddi g d a imm s
  | .mul g wd d a b => Sys2Proof.Machine.execMul g wd d a b s
  | .mulh g wd d a b => Sys2Proof.Machine.execMulh g wd d a b s
  | .mulhu g wd d a b => Sys2Proof.Machine.execMulhu g wd d a b s
  | .div g wd d a b => Sys2Proof.Machine.execDiv g wd d a b s
  | .divu g wd d a b => Sys2Proof.Machine.execDivu g wd d a b s
  | .rem g wd d a b => Sys2Proof.Machine.execRem g wd d a b s
  | .remu g wd d a b => Sys2Proof.Machine.execRemu g wd d a b s
  | .and g wd d a b => Sys2Proof.Machine.execAnd g wd d a b s
  | .or g wd d a b => Sys2Proof.Machine.execOr g wd d a b s
  | .xor g wd d a b => Sys2Proof.Machine.execXor g wd d a b s
  | .andn g wd d a b => Sys2Proof.Machine.execAndn g wd d a b s
  | .andi g d a imm => Sys2Proof.Machine.execAndi g d a imm s
  | .ori g d a imm => Sys2Proof.Machine.execOri g d a imm s
  | .xori g d a imm => Sys2Proof.Machine.execXori g d a imm s
  | .shl g wd d a b => Sys2Proof.Machine.execShl g wd d a b s
  | .shr g wd d a b => Sys2Proof.Machine.execShr g wd d a b s
  | .sra g wd d a b => Sys2Proof.Machine.execSra g wd d a b s
  | .shli g d a n => Sys2Proof.Machine.execShli g d a n s
  | .shri g d a n => Sys2Proof.Machine.execShri g d a n s
  | .srai g d a n => Sys2Proof.Machine.execSrai g d a n s
  | .min g wd d a b => Sys2Proof.Machine.execMin g wd d a b s
  | .max g wd d a b => Sys2Proof.Machine.execMax g wd d a b s
  | .minu g wd d a b => Sys2Proof.Machine.execMinu g wd d a b s
  | .maxu g wd d a b => Sys2Proof.Machine.execMaxu g wd d a b s
  | .clz g wd d a => Sys2Proof.Machine.execClz g wd d a s
  | .ctz g wd d a => Sys2Proof.Machine.execCtz g wd d a s
  | .popc g wd d a => Sys2Proof.Machine.execPopc g wd d a s
  | .brev g d a n => Sys2Proof.Machine.execBrev g d a n s
  | .fadd g ty rm d a b => Sys2Proof.Machine.execFadd g ty rm d a b s
  | .fsub g ty rm d a b => Sys2Proof.Machine.execFsub g ty rm d a b s
  | .fmul g ty rm d a b => Sys2Proof.Machine.execFmul g ty rm d a b s
  | .fdiv g ty rm d a b => Sys2Proof.Machine.execFdiv g ty rm d a b s
  | .fma g ty rm d a b c => Sys2Proof.Machine.execFma g ty rm d a b c s
  | .fsqrt g ty rm d a => Sys2Proof.Machine.execFsqrt g ty rm d a s
  | .fmin g ty d a b => Sys2Proof.Machine.execFmin g ty d a b s
  | .fmax g ty d a b => Sys2Proof.Machine.execFmax g ty d a b s
  | .fsgn g op ty d a b => Sys2Proof.Machine.execFsgn g op ty d a b s
  | .fcvt g dst src rm d a => Sys2Proof.Machine.execFcvt g dst src rm d a s
  | .fclass g ty d a => Sys2Proof.Machine.execFclass g ty d a s
  | .fcmp g c ty p a b => Sys2Proof.Machine.execFcmp g c ty p a b s
  | .cmp g c wd p a b => Sys2Proof.Machine.execCmp g c wd p a b s
  | .cmpi g c p a imm => Sys2Proof.Machine.execCmpi g c p a imm s
  | .plog g tt p pa pb => Sys2Proof.Machine.execPlog g tt p pa pb s
  | .sel g d a b c => Sys2Proof.Machine.execSel g d a b c s
  | .bfx g d a lsb width => Sys2Proof.Machine.execBfx g d a lsb width s
  | .bfi g d a lsb width => Sys2Proof.Machine.execBfi g d a lsb width s
  | .ext g sx d a width => Sys2Proof.Machine.execExt g sx d a width s
  | .li g d imm => Sys2Proof.Machine.execLi g d imm s
  | .lih g d imm => Sys2Proof.Machine.execLih g d imm s
  | .br g off => Sys2Proof.Machine.execBr g off s
  | .call g d off => Sys2Proof.Machine.execCall g d off s
  | .jr g d a off => Sys2Proof.Machine.execJr g d a off s
  | .loop g level a off => Sys2Proof.Machine.execLoop g level a off s
  | .tend g => Sys2Proof.Machine.execTend g s
  | .push g a => Sys2Proof.Machine.execPush g a s
  | .pop g d => Sys2Proof.Machine.execPop g d s
  | .ld g sz cp d a off => Sys2Proof.Machine.execLd g sz cp d a off s
  | .ldx g sz cp d a b k => Sys2Proof.Machine.execLdx g sz cp d a b k s
  | .ldacq g sz sc d a off => Sys2Proof.Machine.execLdacq g sz sc d a off s
  | .st g sz cp b a off => Sys2Proof.Machine.execSt g sz cp b a off s
  | .stx g sz cp d a b k => Sys2Proof.Machine.execStx g sz cp d a b k s
  | .strel g sz sc b a off => Sys2Proof.Machine.execStrel g sz sc b a off s
  | .fence g o sc => Sys2Proof.Machine.execFence g o sc s
  | .amo g op sz o sc d b a off => Sys2Proof.Machine.execAmo g op sz o sc d b a off s
  | .cas g sz o sc d b a off => Sys2Proof.Machine.execCas g sz o sc d b a off s
  | .pref g cp a off => Sys2Proof.Machine.execPref g cp a off s
  | .cwb g sc a b => Sys2Proof.Machine.execCwb g sc a b s
  | .cinv g sc a b => Sys2Proof.Machine.execCinv g sc a b s
  | .cwbi g sc a b => Sys2Proof.Machine.execCwbi g sc a b s
  | .feed g f q b tag pkt eok eor eos sx esz => Sys2Proof.Machine.execFeed g f q b tag pkt eok eor eos sx esz s
  | .sink g k q b pkt esz => Sys2Proof.Machine.execSink g k q b pkt esz s
  | .inj g f b tag => Sys2Proof.Machine.execInj g f b tag s
  | .tok g kind f b tag => Sys2Proof.Machine.execTok g kind f b tag s
  | .take g d k => Sys2Proof.Machine.execTake g d k s
  | .portq g d port sink => Sys2Proof.Machine.execPortq g d port sink s
  | .sbar g b => Sys2Proof.Machine.execSbar g b s
  | .accrst g ac b => Sys2Proof.Machine.execAccrst g ac b s
  | .cfgld g q b => Sys2Proof.Machine.execCfgld g q b s
  | .qset g f q a => Sys2Proof.Machine.execQset g f q a s
  | .qld g q a => Sys2Proof.Machine.execQld g q a s
  | .qadv g q a => Sys2Proof.Machine.execQadv g q a s
  | .cpy g esz d qa qb tl => Sys2Proof.Machine.execCpy g esz d qa qb tl s
  | .cpymx g esz d qa qb tl => Sys2Proof.Machine.execCpymx g esz d qa qb tl s
  | .cpyq g bf rm blk fd d qa qb tl => Sys2Proof.Machine.execCpyq g bf rm blk fd d qa qb tl s
  | .gemv g acc fd d qa qb tl qm => Sys2Proof.Machine.execGemv g acc fd d qa qb tl qm s
  | .tlwait g sc tl a => Sys2Proof.Machine.execTlwait g sc tl a s
  | .tlread g d tl => Sys2Proof.Machine.execTlread g d tl s
  | .tlnum g d tl => Sys2Proof.Machine.execTlnum g d tl s
  | .sleept g a => Sys2Proof.Machine.execSleept g a s
  | .sleeptP g a tl b => Sys2Proof.Machine.execSleeptP g a tl b s
  | .time g d => Sys2Proof.Machine.execTime g d s
  | .cyc g d => Sys2Proof.Machine.execCyc g d s
  | .mxcfg g keep t a slot => Sys2Proof.Machine.execMxcfg g keep t a slot s
  | .mxrel g t => Sys2Proof.Machine.execMxrel g t s
  | .mxz g t tl => Sys2Proof.Machine.execMxz g t tl s
  | .mxldt g fmt t q tl => Sys2Proof.Machine.execMxldt g fmt t q tl s
  | .mxmm g acc t srcA srcB k tl => Sys2Proof.Machine.execMxmm g acc t srcA srcB k tl s
  | .mxmms g acc t srcA srcB k tl => Sys2Proof.Machine.execMxmms g acc t srcA srcB k tl s
  | .mxfmt g slot fd rm ph step => Sys2Proof.Machine.execMxfmt g slot fd rm ph step s
  | .mxrt g route t => Sys2Proof.Machine.execMxrt g route t s
  | .mxdrn g ws t tl => Sys2Proof.Machine.execMxdrn g ws t tl s
  | .mxchk g t tl => Sys2Proof.Machine.execMxchk g t tl s
  | .mxst g fmt t q tl => Sys2Proof.Machine.execMxst g fmt t q tl s
  | .twset g inv slot => Sys2Proof.Machine.execTwset g inv slot s
  | .twsetGen g inv t n tl => Sys2Proof.Machine.execTwsetGen g inv t n tl s
  | .bfplan g slot a b => Sys2Proof.Machine.execBfplan g slot a b s
  | .bfrev g bf re t q tl => Sys2Proof.Machine.execBfrev g bf re t q tl s
  | .bfstg g t k tl => Sys2Proof.Machine.execBfstg g t k tl s
  | .bfrun g t tl => Sys2Proof.Machine.execBfrun g t tl s
  | .rktab g recon slot q tl => Sys2Proof.Machine.execRktab g recon slot q tl s
  | .rkcut g slot a => Sys2Proof.Machine.execRkcut g slot a s
  | .rknet g ws t d dst row0 nvm1 tl => Sys2Proof.Machine.execRknet g ws t d dst row0 nvm1 tl s
  | .mxrank g acc t src q row0 nvm1 tl => Sys2Proof.Machine.execMxrank g acc t src q row0 nvm1 tl s
  | .rkval g t src row0 nvm1 tl => Sys2Proof.Machine.execRkval g t src row0 nvm1 tl s
  | .rktrc g t d q row0 nvm1 tl => Sys2Proof.Machine.execRktrc g t d q row0 nvm1 tl s
  | .tspawn g d a entry => Sys2Proof.Machine.execTspawn g d a entry s
  | .tbind g vc => Sys2Proof.Machine.execTbind g vc s
  | .waitv g d vc => Sys2Proof.Machine.execWaitv g d vc s
  | .sendv g a b vc => Sys2Proof.Machine.execSendv g a b vc s
  | .tyield g => Sys2Proof.Machine.execTyield g s
  | .twake g mask => Sys2Proof.Machine.execTwake g mask s
  | .tprio g prio => Sys2Proof.Machine.execTprio g prio s
  | .rbar g id => Sys2Proof.Machine.execRbar g id s
  | .gbar g a b => Sys2Proof.Machine.execGbar g a b s
  | .launch g d a => Sys2Proof.Machine.execLaunch g d a s
  | .lqry g d sel => Sys2Proof.Machine.execLqry g d sel s
  | .stageq g d sel => Sys2Proof.Machine.execStageq g d sel s
  | .ctlr g d idx => Sys2Proof.Machine.execCtlr g d idx s
  | .ctlw g idx a => Sys2Proof.Machine.execCtlw g idx a s
  | .ctls g idx a => Sys2Proof.Machine.execCtls g idx a s
  | .ctlc g idx a => Sys2Proof.Machine.execCtlc g idx a s
  | .svc g code => Sys2Proof.Machine.execSvc g code s
  | .cntr g d n => Sys2Proof.Machine.execCntr g d n s
  | .capr g d a => Sys2Proof.Machine.execCapr g d a s
  | .trap g code => Sys2Proof.Machine.execTrap g code s
  | .rett g => Sys2Proof.Machine.execRett g s
  | .snap g mask => Sys2Proof.Machine.execSnap g mask s
  | .xsave g a slot => Sys2Proof.Machine.execXsave g a slot s
  | .xload g a slot => Sys2Proof.Machine.execXload g a slot s
  | .halt g => Sys2Proof.Machine.execHalt g s
  | .ebrk g code => Sys2Proof.Machine.execEbrk g code s
  | .cutreq g => Sys2Proof.Machine.execCutreq g s
  | .unassignedOpcode word => Sys2Proof.Machine.execUnassignedOpcode word s
  | .delegatedEntry rect => Sys2Proof.Machine.execDelegatedEntry rect s
  | .producerDeliver t reg => Sys2Proof.Machine.execProducerDeliver t reg s
  | .registerMissMicroTrap t reg => Sys2Proof.Machine.execRegisterMissMicroTrap t reg s
  | .backgroundRegisterFetch c => Sys2Proof.Machine.execBackgroundRegisterFetch c s
  | .ceIntegerFire e => Sys2Proof.Machine.execCeIntegerFire e s
  | .ceFloatFire e => Sys2Proof.Machine.execCeFloatFire e s
  | .ceCnt e => Sys2Proof.Machine.execCeCnt e s
  | .ceRunningValue e => Sys2Proof.Machine.execCeRunningValue e s
  | .ceDly e => Sys2Proof.Machine.execCeDly e s
  | .ceConst e => Sys2Proof.Machine.execCeConst e s
  | .ceQnt e => Sys2Proof.Machine.execCeQnt e s
  | .ceDqnt e => Sys2Proof.Machine.execCeDqnt e s
  | .ceSteer e => Sys2Proof.Machine.execCeSteer e s
  | .ceMerge e => Sys2Proof.Machine.execCeMerge e s
  | .ceGate e => Sys2Proof.Machine.execCeGate e s
  | .ceDup e => Sys2Proof.Machine.execCeDup e s
  | .ceTagchk e => Sys2Proof.Machine.execCeTagchk e s
  | .cePrime e => Sys2Proof.Machine.execCePrime e s
  | .ceLimit e => Sys2Proof.Machine.execCeLimit e s
  | .ceSeq e => Sys2Proof.Machine.execCeSeq e s
  | .ceReord e => Sys2Proof.Machine.execCeReord e s
  | .ceBnd e => Sys2Proof.Machine.execCeBnd e s
  | .meRd e => Sys2Proof.Machine.execMeRd e s
  | .meWr e => Sys2Proof.Machine.execMeWr e s
  | .meRmw e => Sys2Proof.Machine.execMeRmw e s
  | .meFifo e => Sys2Proof.Machine.execMeFifo e s
  | .meDelay e => Sys2Proof.Machine.execMeDelay e s
  | .meHist e => Sys2Proof.Machine.execMeHist e s
  | .meFeedmx e => Sys2Proof.Machine.execMeFeedmx e s
  | .meDoneEmit e => Sys2Proof.Machine.execMeDoneEmit e s
  | .agEmit e => Sys2Proof.Machine.execAgEmit e s
  | .matrixBusBeat e => Sys2Proof.Machine.execMatrixBusBeat e s
  | .matrixCommandStart c id => Sys2Proof.Machine.execMatrixCommandStart c id s
  | .matrixBlock c id => Sys2Proof.Machine.execMatrixBlock c id s
  | .matrixCommandComplete c id => Sys2Proof.Machine.execMatrixCommandComplete c id s
  | .rankIndexEmit c id => Sys2Proof.Machine.execRankIndexEmit c id s
  | .portCommandStart c sink n => Sys2Proof.Machine.execPortCommandStart c sink n s
  | .feedWordDeliver c n => Sys2Proof.Machine.execFeedWordDeliver c n s
  | .sinkWordStore c n => Sys2Proof.Machine.execSinkWordStore c n s
  | .sharedClassGrant cls => Sys2Proof.Machine.execSharedClassGrant cls s
  | .engineCommandComplete id => Sys2Proof.Machine.execEngineCommandComplete id s
  | .vcWordArrive c vc pkt => Sys2Proof.Machine.execVcWordArrive c vc pkt s
  | .barrierComplete c id => Sys2Proof.Machine.execBarrierComplete c id s
  | .dynamicPacketHop router out => Sys2Proof.Machine.execDynamicPacketHop router out s
  | .mcstallExpiry e out => Sys2Proof.Machine.execMcstallExpiry e out s
  | .pageWalkComplete id => Sys2Proof.Machine.execPageWalkComplete id s
  | .gelesqueFaultResolve id refuse => Sys2Proof.Machine.execGelesqueFaultResolve id refuse s
  | .invalidationReceive id die => Sys2Proof.Machine.execInvalidationReceive id die s
  | .invalidationAck id die => Sys2Proof.Machine.execInvalidationAck id die s
  | .migrationMonitorInterval die => Sys2Proof.Machine.execMigrationMonitorInterval die s
  | .migrationCopyComplete id => Sys2Proof.Machine.execMigrationCopyComplete id s
  | .weightStoreRefresh die => Sys2Proof.Machine.execWeightStoreRefresh die s
  | .sliceReplayReissue id => Sys2Proof.Machine.execSliceReplayReissue id s
  | .snapintCountReached c n => Sys2Proof.Machine.execSnapintCountReached c n s
  | .cutStart rect => Sys2Proof.Machine.execCutStart rect s
  | .cutComplete rect => Sys2Proof.Machine.execCutComplete rect s
  | .softErrorDetect rect unit core addr len => Sys2Proof.Machine.execSoftErrorDetect rect unit core addr len s
  | .rollback rect => Sys2Proof.Machine.execRollback rect s
  | .admissionReceive id => Sys2Proof.Machine.execAdmissionReceive id s
  | .launchSubmit id => Sys2Proof.Machine.execLaunchSubmit id s
  | .admissionChoice part => Sys2Proof.Machine.execAdmissionChoice part s
  | .launchAgeing part tag proc prio => Sys2Proof.Machine.execLaunchAgeing part tag proc prio s
  | .tenantReserve part tag proc prio => Sys2Proof.Machine.execTenantReserve part tag proc prio s
  | .launchPlace part px py => Sys2Proof.Machine.execLaunchPlace part px py s
  | .rectangleComplete rect => Sys2Proof.Machine.execRectangleComplete rect s
  | .quantumEnd part => Sys2Proof.Machine.execQuantumEnd part s
  | .replicaEvaluate pipe stage => Sys2Proof.Machine.execReplicaEvaluate pipe stage s
  | .replicaRetireEnd rect => Sys2Proof.Machine.execReplicaRetireEnd rect s
  | .cutDrainMove rect px py => Sys2Proof.Machine.execCutDrainMove rect px py s
  | .quiescenceEmpty rect => Sys2Proof.Machine.execQuiescenceEmpty rect s
  | .drainTimeout rect => Sys2Proof.Machine.execDrainTimeout rect s
  | .coreCopyComplete rect => Sys2Proof.Machine.execCoreCopyComplete rect s
  | .rebindRelease rect => Sys2Proof.Machine.execRebindRelease rect s
  | .preempt rect => Sys2Proof.Machine.execPreempt rect s
  | .preemptTimeout rect => Sys2Proof.Machine.execPreemptTimeout rect s
  | .contextSaveComplete rect => Sys2Proof.Machine.execContextSaveComplete rect s
  | .contextRestore rect px py => Sys2Proof.Machine.execContextRestore rect px py s
  | .cfgldDrainTimeout rect => Sys2Proof.Machine.execCfgldDrainTimeout rect s
  | .residueWordEnqueue rect => Sys2Proof.Machine.execResidueWordEnqueue rect s
  | .svcSubmit id => Sys2Proof.Machine.execSvcSubmit id s
  | .svcResult id => Sys2Proof.Machine.execSvcResult id s
  | .partSet c => Sys2Proof.Machine.execPartSet c s
  | .tenantCreate c => Sys2Proof.Machine.execTenantCreate c s
  | .tenantDestroy c => Sys2Proof.Machine.execTenantDestroy c s
  | .leaseSet c => Sys2Proof.Machine.execLeaseSet c s
  | .memGrant c => Sys2Proof.Machine.execMemGrant c s
  | .memRevoke c => Sys2Proof.Machine.execMemRevoke c s
  | .memSetShare c => Sys2Proof.Machine.execMemSetShare c s
  | .memDefineShareSet c => Sys2Proof.Machine.execMemDefineShareSet c s
  | .map c => Sys2Proof.Machine.execMap c s
  | .unmap c => Sys2Proof.Machine.execUnmap c s
  | .protect c => Sys2Proof.Machine.execProtect c s
  | .migrate c => Sys2Proof.Machine.execMigrate c s
  | .queueCreate c => Sys2Proof.Machine.execQueueCreate c s
  | .queueKey c => Sys2Proof.Machine.execQueueKey c s
  | .queueDestroy c => Sys2Proof.Machine.execQueueDestroy c s
  | .sliceDomain c => Sys2Proof.Machine.execSliceDomain c s
  | .waymaskSet c => Sys2Proof.Machine.execWaymaskSet c s
  | .attest c => Sys2Proof.Machine.execAttest c s
  | .capRead c => Sys2Proof.Machine.execCapRead c s
  | .wearRead c => Sys2Proof.Machine.execWearRead c s
  | .fwStage c => Sys2Proof.Machine.execFwStage c s
  | .fwCommit c => Sys2Proof.Machine.execFwCommit c s
  | .resetPartition c => Sys2Proof.Machine.execResetPartition c s
  | .notifyWrite sender offset ordered bytes => Sys2Proof.Machine.execNotifyWrite sender offset ordered bytes s
  | .queueOldKeyExpiry queue => Sys2Proof.Machine.execQueueOldKeyExpiry queue s
  | .doorbellProcess die => Sys2Proof.Machine.execDoorbellProcess die s
  | .workQueueEntryRead queue => Sys2Proof.Machine.execWorkQueueEntryRead queue s
  | .exportAccess sender offset op => Sys2Proof.Machine.execExportAccess sender offset op s
  | .dieBoot die imageVersion => Sys2Proof.Machine.execDieBoot die imageVersion s
  | .election => Sys2Proof.Machine.execElection s
  | .timeBroadcastReceive die => Sys2Proof.Machine.execTimeBroadcastReceive die s
  | .lockstepMismatch die => Sys2Proof.Machine.execLockstepMismatch die s
  | .heartbeatTimeout die => Sys2Proof.Machine.execHeartbeatTimeout die s
  | .doubleFault die => Sys2Proof.Machine.execDoubleFault die s
  | .dieAdoption die => Sys2Proof.Machine.execDieAdoption die s
  | .wearRefresh => Sys2Proof.Machine.execWearRefresh s
  | .coreUnsafe core hours => Sys2Proof.Machine.execCoreUnsafe core hours s
  | .pwrcapWrite v => Sys2Proof.Machine.execPwrcapWrite v s
  | .mresetWrite v => Sys2Proof.Machine.execMresetWrite v s
  | .housekeepingRegisterWrite addr v => Sys2Proof.Machine.execHousekeepingRegisterWrite addr v s
  | .powerWindow watts => Sys2Proof.Machine.execPowerWindow watts s
  | .thermalThrottle die temp => Sys2Proof.Machine.execThermalThrottle die temp s
  | .thermalShutdown die temp => Sys2Proof.Machine.execThermalShutdown die temp s
  | .resetN => Sys2Proof.Machine.execResetN s
  | .mainLoss => Sys2Proof.Machine.execMainLoss s
  | .auxGood => Sys2Proof.Machine.execAuxGood s
  | .mainGood => Sys2Proof.Machine.execMainGood s
  | .accessPerformedAtNode id => Sys2Proof.Machine.execAccessPerformedAtNode id s
  | .remoteWriteAcknowledgment id o => Sys2Proof.Machine.execRemoteWriteAcknowledgment id o s
  | .linkConnectionRequest device kind opts => Sys2Proof.Machine.execLinkConnectionRequest device kind opts s
  | .partitionSupervisorDecision rect d => Sys2Proof.Machine.execPartitionSupervisorDecision rect d s
  | .contextExport rect => Sys2Proof.Machine.execContextExport rect s
  | .contextImport part tag bytes sig => Sys2Proof.Machine.execContextImport part tag bytes sig s
  | .sleepTimeReached t => Sys2Proof.Machine.execSleepTimeReached t s
  | .thermalThrottleEnd die temp => Sys2Proof.Machine.execThermalThrottleEnd die temp s
  | .auxLoss => Sys2Proof.Machine.execAuxLoss s
  | .failedPairTestComplete die pass => Sys2Proof.Machine.execFailedPairTestComplete die pass s

end Sys2Proof.Machine
end

