-- ==== Sys2Proof/Machine/Schedule.lean ====
section
/-! DEFINITION. The moves of agents other than the sequencers that may come next when the agenda is empty, in a fixed
order (log 1): every agent that has something pending is named; a move that is not enabled changes nothing.
What only the outside does (peers, supplies, errors, supervisors) comes by the agenda alone. -/

namespace Sys2Proof.Machine

open Host (Outcome)

/-- A move: the meaning of a step of another agent, its operands given. -/
abbrev Move := State → Outcome State Fault Refusal

/-- Moves of an element (06). -/
def elementMoves (e : SiteRef) : ElemCfg → List Move
  | .empty => []
  | .ce _ => [execCeIntegerFire e, execCeFloatFire e, execCeCnt e, execCeRunningValue e, execCeDly e, execCeConst e, execCeQnt e, execCeDqnt e, execCeSteer e,
              execCeMerge e, execCeGate e, execCeDup e, execCeTagchk e, execCePrime e, execCeLimit e, execCeSeq e, execCeReord e, execCeBnd e]
  | .me _ => [execMeRd e, execMeWr e, execMeRmw e, execMeFifo e, execMeDelay e, execMeHist e, execMeFeedmx e, execMatrixBusBeat e, execMeDoneEmit e]
  | .ag _ => [execAgEmit e]

/-- Moves for a task: deliveries, misses, the end of a sleep. -/
def taskMoves (t : TaskRef) (x : Task) : List Move :=
  x.pres.filterMap (fun p => match p.2 with
    | .empty (.access _) => none
    | .empty _ => some (execProducerDeliver t p.1)
    | .absent => some (execRegisterMissMicroTrap t p.1)
    | _ => none)
  ++ (if x.occupied then [execProducerDeliver t 0] else [])
  ++ (match x.wait with
      | some (.sleep _) => [execSleepTimeReached t]
      | some (.sleepP _ _ _) => [execSleepTimeReached t]
      | _ => [])

/-- Moves of a core. -/
def coreMoves (c : CoreRef) (k : Core) : List Move :=
  k.tasks.flatMap (fun p => taskMoves ⟨c.rect, c.core, p.1⟩ p.2)
  ++ [execBackgroundRegisterFetch c]
  ++ k.sites.flatMap (fun p => elementMoves ⟨c.rect, c.core, p.1⟩ p.2.cfg
      ++ (if p.2.stallX ≠ 0 then [execMcstallExpiry ⟨c.rect, c.core, p.1⟩ 0] else [])
      ++ (if p.2.stallY ≠ 0 then [execMcstallExpiry ⟨c.rect, c.core, p.1⟩ 1] else []))
  ++ k.feeds.flatMap (fun p => [execPortCommandStart c false (Fin.ofNat 16 p.1), execFeedWordDeliver c (Fin.ofNat 16 p.1), execSnapintCountReached c (Fin.ofNat 16 p.1)])
  ++ k.sinks.flatMap (fun p => [execPortCommandStart c true (Fin.ofNat 16 p.1), execSinkWordStore c (Fin.ofNat 16 p.1)])
  ++ k.engine.cmds.flatMap (fun m => [execMatrixCommandStart c m.id, execMatrixBlock c m.id, execRankIndexEmit c m.id, execMatrixCommandComplete c m.id])
  ++ k.barriers.map (fun p => execBarrierComplete c (Fin.ofNat 16 p.1))

/-- Origins of a block on the device. -/
def origins : List (Nat × Nat) := (List.range 16).flatMap (fun y => (List.range 16).map (fun x => (x, y)))

/-- Moves of the packets of a rectangle. -/
def packetMoves (r : Nat) (p : Packet) : List Move :=
  [execDynamicPacketHop p.router .north, execDynamicPacketHop p.router .east, execDynamicPacketHop p.router .south, execDynamicPacketHop p.router .west,
   execDynamicPacketHop p.router .here]
  ++ (match p.payload with
      | .vcWord c v _ _ => [execVcWordArrive ⟨r, c⟩ (Fin.ofNat 16 v) p.id]
      | .fabric _ _ _ => [])

/-- Moves of the Churn and of recovery for a rectangle. -/
def churnMoves (r : Nat) (x : Rect) (compact : Bool) : List Move :=
  [execDelegatedEntry r, execResidueWordEnqueue r, execCfgldDrainTimeout r, execQuiescenceEmpty r, execRollback r, execCutStart r, execCutComplete r,
   execDrainTimeout r, execCoreCopyComplete r, execRebindRelease r, execPreempt r, execPreemptTimeout r, execContextSaveComplete r, execReplicaRetireEnd r,
   execRectangleComplete r]
  ++ (if x.phase = .swapped then origins.map (fun o => execContextRestore r o.1 o.2) else [])
  ++ (if compact && decide (x.phase = .run) then origins.map (fun o => execCutDrainMove r o.1 o.2) else [])

/-- Moves of a rectangle. -/
def rectMoves (s : State) (r : Nat) (x : Rect) : List Move :=
  x.body.cores.flatMap (fun p => coreMoves ⟨r, p.1⟩ p.2)
  ++ x.body.net.flatMap (packetMoves r)
  ++ x.body.eng.map (fun e => execEngineCommandComplete e.id)
  ++ x.remote.map (fun w => execRemoteWriteAcknowledgment w.id .acked)
  ++ churnMoves r x ((s.part x.part).chosen.isSome || s.onUnsafe r)
  ++ (if (s.part x.part).sup then [] else [execPartitionSupervisorDecision r .pass])

/-- The step that executes a submitted call (Table 18.4). -/
def commandMove (c : Call) : List Move :=
  match c.block with
  | none => []
  | some b =>
    let k := CmdSrc.call c.id
    match blockCode b with
    | (0x01, _) => [execPartSet k]
    | (0x02, _) => [execTenantCreate k]
    | (0x03, _) => [execTenantDestroy k]
    | (0x04, _) => [execLeaseSet k]
    | (0x05, 0) => [execMemGrant k]
    | (0x05, 1) => [execMemRevoke k]
    | (0x05, 2) => [execMemSetShare k]
    | (0x05, _) => [execMemDefineShareSet k]
    | (0x06, _) => [execMap k]
    | (0x07, _) => [execUnmap k]
    | (0x08, _) => [execProtect k]
    | (0x09, _) => [execMigrate k]
    | (0x0A, _) => [execQueueCreate k]
    | (0x0B, _) => [execQueueKey k]
    | (0x0C, _) => [execQueueDestroy k]
    | (0x0D, _) => [execSliceDomain k]
    | (0x0E, _) => [execWaymaskSet k]
    | (0x0F, _) => [execAttest k]
    | (0x10, _) => [execCapRead k]
    | (0x11, _) => [execWearRead k]
    | (0x12, _) => [execFwStage k]
    | (0x13, _) => [execFwCommit k]
    | (0x14, _) => [execResetPartition k]
    | _ => []

def fourDies : List (Fin 4) := [0, 1, 2, 3]

/-- Moves of a partition's admission unit. -/
def partMoves (p : Nat) (x : Part) : List Move :=
  [execAdmissionChoice p, execQuantumEnd p] ++ (if x.chosen.isSome then origins.map (fun o => execLaunchPlace p o.1 o.2) else [])

/-- Moves for a launch. -/
def launchMoves (l : Launch) : List Move :=
  [execLaunchSubmit l.id, execAdmissionReceive l.id, execLaunchAgeing l.part l.tag l.proc l.prio, execTenantReserve l.part l.tag l.proc l.prio]

/-- Moves of the memory system. -/
def State.memoryMoves (s : State) : List Move :=
  s.accesses.flatMap (fun a => [execSliceReplayReissue a.id, execAccessPerformedAtNode a.id])
  ++ s.walks.flatMap (fun w => [execPageWalkComplete w.id, execGelesqueFaultResolve w.id true])
  ++ s.invals.flatMap (fun v => fourDies.flatMap (fun d => [execInvalidationReceive v.id d, execInvalidationAck v.id d]))
  ++ s.migrations.map (fun m => execMigrationCopyComplete m.id)
  ++ (if s.engCmds.isEmpty then [] else (List.range 4).map (fun d => execSharedClassGrant (.copy d)) ++ (List.range 8).map (fun h => execSharedClassGrant (.gemv h)))

/-- Moves of the complexes. -/
def State.dieMoves (s : State) : List Move :=
  fourDies.flatMap (fun d =>
    [execDieBoot d (if s.staged then Config.imageVersion s.storeImage else none), execDoorbellProcess d, execDieAdoption d, execTimeBroadcastReceive d,
     execWeightStoreRefresh d, execMigrationMonitorInterval d])
  ++ (if s.announcedDies.length = 4 then [execElection] else [])
  ++ [execWearRefresh] ++ s.worn.map (fun k => execCoreUnsafe k 0)

/-- Every move that may come next. -/
def State.candidates (s : State) : List Move :=
  s.rects.flatMap (fun p => rectMoves s p.1 p.2) ++ s.memoryMoves ++ s.launches.flatMap launchMoves ++ s.parts.flatMap (fun p => partMoves p.1 p.2)
  ++ s.stages.map (fun g => execReplicaEvaluate g.2.part g.1)
  ++ s.calls.flatMap (fun c => [execSvcSubmit c.id, execSvcResult c.id] ++ commandMove c)
  ++ s.queues.flatMap (fun q => [execWorkQueueEntryRead q.1, execQueueOldKeyExpiry q.1]) ++ s.dieMoves

/-- The candidates from the one whose turn it is on. -/
def State.inTurn (s : State) : List Move :=
  let cs := s.candidates
  if cs.isEmpty then [] else cs.drop (s.nextAgent % cs.length) ++ cs.take (s.nextAgent % cs.length)

/-- A task that came to wait at the instruction it stood at has not issued. -/
def stalled (before : State) (t : TaskRef) (after : State) : Bool :=
  (after.task t).wait.isSome && decide ((after.task t).pc = (before.task t).pc)

/-- After the issue of `t`: the choice settles, a launch that it starts is answered (R377), another agent moves next. -/
def issued (before : State) (t : TaskRef) (after : State) : State :=
  let s := settle before t after
  { (if stalled before t after then s else s.announce t) with turn := false }

end Sys2Proof.Machine
end

