-- ==== Sys2Proof/Machine/Step.lean ====
section
/-! DEFINITION. One step of the machine: the head of the agenda; else in turn a task that R339 chooses, on the next core
that has one ready, and a move of another agent that changes something. Fetch, decode faults (R73, R79, R82, R445) and
where a word to be tested is placed. -/

namespace Sys2Proof.Machine

open Host (Outcome)

/-- The task `t` issues: fetch, decode, meaning; a word that decode refuses traps ILLEGAL. -/
def stepTask (s : State) (t : TaskRef) : Outcome State Fault Refusal :=
  let w := s.fetchWord t
  let s1 := { s with cur := t }
  match decode w with
  | .ok i => exec i s1
  | .error e => .next ((s1.modTask t (fun x => { x with wait := none })).raise t 0x01 (decodeTval w e) (s.task t).pc)

/-- What follows every step: time passes. -/
def pass (o : Outcome State Fault Refusal) (f : State → State) : Outcome State Fault Refusal :=
  match o with
  | .next s => .next (f s).passTime
  | .fault r => .fault r
  | .refused r => .refused r

/-- The move of another agent: the first in turn that changes the state. -/
def State.agentMove (s : State) : Option State :=
  (s.inTurn.findSome? (fun m =>
    match m s with
    | .next s' => if s' = s then none else some s'
    | _ => none)).map (fun s' => { s' with turn := true, nextAgent := s.nextAgent + 1 })

/-- A task issues, else an agent moves, else only time passes. -/
def State.issueStep (s : State) : Outcome State Fault Refusal :=
  match s.pick with
  | some (t, s1) => pass (stepTask s1 t) (issued s t)
  | none => .next (s.agentMove.getD s).passTime

/-- One step. -/
def step (s : State) : Outcome State Fault Refusal :=
  match s.agenda with
  | i :: rest => pass (exec i { s with agenda := rest }) id
  | [] =>
    if s.turn then s.issueStep
    else match s.agentMove with
      | some s' => .next s'.passTime
      | none => s.issueStep

/-- `s` with a word at the place the next step fetches from: one running rectangle of one core (log 3). -/
def State.withFetchWord (s : State) (_nbits w : Nat) : State :=
  { s with agenda := [], turn := true, nextCore := 0, rects := Sparse.put (oneCore (BitVec.ofNat 64 w)) s.rects 0 }

end Sys2Proof.Machine
end

