-- ==== Sys2Proof/Safety.lean ====
section
/-! DEFINITION. What a step that goes on is, and the invariant of the machine: claims about runs are stated over
`goesOn` and `memOk`. -/

namespace Sys2Proof.Machine

/-- The step answers a next state: it neither faults nor refuses. -/
def goesOn (s : State) : Prop := ∃ t, step s = .next t

/-- The scratchpad of every core keeps its canonical form: addresses rise strictly and no byte equals what an
unlisted address reads as. -/
def Body.memOk (b : Body) : Prop := ∀ c ∈ b.cores, Sparse.wf 0#8 c.2.scratch = true

/-- So it does in the rectangle and in its records. -/
def Rect.memOk (x : Rect) : Prop :=
  x.body.memOk ∧ (∀ b, x.record = some b → b.memOk) ∧ (∀ g, x.prog = some g → g.body.memOk)

/-- Every memory, the granule maps and the page tables keep their canonical form. -/
def State.memOk (s : State) : Prop :=
  Sparse.wf 0#8 s.mem = true ∧ Sparse.wf 0#8 s.peer = true ∧ Sparse.wf 0#8 s.store = true ∧ Sparse.wf Granule.free s.granules = true
    ∧ (∀ p ∈ s.pages, Sparse.wf 0#64 p.2 = true) ∧ (∀ r ∈ s.rects, r.2.memOk)

end Sys2Proof.Machine
end

