-- ==== Sys2Proof/Certificates/Slice0/Obligations.lean ====
section
/-! DEFINITION. The statements for the provers: what the rules of the spec say that an instruction or the machine does, as
propositions about `decode`, `exec` and `step`. A statement that joins several parts names them in `Sys2Proof.Cert`. -/

section

namespace Sys2Proof.Cert

open Sys2Proof.Machine
open Host (Outcome)

/-! ## When an instruction executes, and what it leaves -/

/-- The guard holds (R69), every source register is full (R45) and no destination is empty (R46). -/
def Executes (s : State) (g : Guard) (srcs dsts : List Reg) : Prop :=
  s.me.guard g = true ∧ (∀ r ∈ srcs, s.me.presence r = .full) ∧ (∀ r ∈ dsts, s.me.isEmpty r = false)

/-- The issuing task raises a precise cause; TPC names the instruction (R464). -/
def traps (s : State) (c : Nat) (v : Word) : State := s.begin.raise s.cur c v s.me.pc

/-- The state after an instruction that changes its own task by `f` and then performs the loop-end
step (R156). -/
def retire (s : State) (f : Task → Task) : State :=
  s.modTask s.cur (fun t => (f t.unwait).loopEnd)

/-- The state after an instruction that changes the state by `f` and then performs the loop-end step. -/
def retireS (s : State) (f : State → State) : State :=
  (f s.begin).modTask s.cur Task.loopEnd

/-- The value of a source. -/
def val (s : State) (a : Src) : Word := s.me.reg a.r

/-- The byte of paged memory, of a peer's window and of a scratchpad at an address. -/
def byteAt (m : List Host.Cell) (a : Nat) : Byte := Sparse.get 0#8 m a

/-- Every byte of memory reads as before: physical memory, peers, and the scratchpad of every core. -/
def SameMemory (s t : State) : Prop :=
  (∀ a, byteAt t.mem a = byteAt s.mem a) ∧ (∀ a, byteAt t.peer a = byteAt s.peer a)
    ∧ (∀ c a, byteAt (t.core c).scratch a = byteAt (s.core c).scratch a)

end Sys2Proof.Cert

open Sys2Proof Sys2Proof.Machine Sys2Proof.Cert

namespace Sys2Proof.Cert

open Sys2Proof.Machine

/-- The fields of a word that every format has (Table 3.1). -/
def opOf (w : Word) : BitVec 8 := w.extractLsb' 56 8
def guardOf (w : Word) : Guard := ⟨w.getLsbD 55, Fin.ofNat 8 (w.extractLsb' 52 3).toNat⟩
def dOf (w : Word) : Reg := Fin.ofNat 64 (w.extractLsb' 46 6).toNat
def aOf (w : Word) : Src := ⟨Fin.ofNat 64 (w.extractLsb' 40 6).toNat, w.getLsbD 33⟩
def bOf (w : Word) : Src := ⟨Fin.ofNat 64 (w.extractLsb' 34 6).toNat, w.getLsbD 32⟩

/-- GN = 1 with GP = 0 (R69, R73). -/
def guardReserved (w : Word) : Prop := w.getLsbD 55 = true ∧ w.extractLsb' 52 3 = 0#3

/-- The task waits for a register with nothing else changed (R45, R46). -/
def blocksOn (s : State) (r : Reg) : State := s.modTask s.cur (fun t => t.waitFor (.reg r.val))

end Sys2Proof.Cert

/-- R153: a word with OP 0x00 is NOP exactly when every field but GN and GP is zero and the guard is not the reserved one,
which traps ILLEGAL; the word of zeros is NOP; a NOP, guarded or not, only takes the loop-end step. -/
def Obligations.NopWords : Prop :=
  (∀ (w : Word), opOf w = 0x00#8 →
    (∀ i, decode w = .ok i ↔ (w.extractLsb' 0 52 = 0#52 ∧ ¬ guardReserved w ∧ i = .nop (guardOf w)))
    ∧ (guardReserved w → ∀ (s : State) (t : TaskRef), s.fetchWord t = w →
        stepTask s t = .next (traps ({ s with cur := t } : State) 0x01 (BitVec.ofNat 64 (w.toNat % 2 ^ 32)))))
  ∧ decode 0x0000000000000000#64 = .ok (.nop ⟨false, 0⟩)
  ∧ (∀ (g : Guard) (s : State), exec (.nop g) s = .next (retire s id))

/-- R152: LI and LIH: their words, with A, B and their policies zero; the sign-extended immediate, and the immediate above
the low half of the old value, for which LIH blocks while the register is not full; and LI of the low half of a value followed
by LIH of its high half leaves the value, whatever its bit 31. -/
def Obligations.LoadImmediates : Prop :=
  (∀ (w : Word) (i : Instr),
    (opOf w = 0x37#8 → (decode w = .ok i ↔ (w.extractLsb' 32 14 = 0#14 ∧ ¬ guardReserved w ∧ i = .li (guardOf w) (dOf w) (w.extractLsb' 0 32))))
    ∧ (opOf w = 0x38#8 → (decode w = .ok i ↔ (w.extractLsb' 32 14 = 0#14 ∧ ¬ guardReserved w ∧ i = .lih (guardOf w) (dOf w) (w.extractLsb' 0 32)))))
  ∧ (∀ (s : State) (g : Guard) (d : Reg) (imm : W32) (e : Word),
    (Executes s g [] [d] → exec (.li g d imm) s = .next (retire s (fun t => t.write d (BitVec.ofInt 64 imm.toInt))))
    ∧ (Executes s g [d] [] → exec (.lih g d imm) s = .next (retire s (fun t => t.write d (imm ++ (s.me.reg d).setWidth 32))))
    ∧ (s.me.guard g = true → s.me.presence d ≠ .full → exec (.lih g d imm) s = .next (blocksOn s d))
    ∧ (Executes s g [] [d] → d ≠ 0 → ∃ t u, exec (.li g d (e.extractLsb' 0 32)) s = .next t
        ∧ exec (.lih g d (e.extractLsb' 32 32)) t = .next u ∧ u.me.reg d = e))

/-- R149: SEL: its words, with TY, RM and the unused bits zero; the value that c selects; it reads all three sources, so it
blocks on each that is not full, c among them; and ADD with s0 under a guard moves its source or does nothing. -/
def Obligations.Selection : Prop :=
  (∀ (w : Word) (i : Instr), opOf w = 0x33#8 →
    (decode w = .ok i ↔ (w.extractLsb' 25 7 = 0#7 ∧ w.extractLsb' 0 19 = 0#19 ∧ ¬ guardReserved w
      ∧ i = .sel (guardOf w) (dOf w) (aOf w) (bOf w) (Fin.ofNat 64 (w.extractLsb' 19 6).toNat))))
  ∧ (∀ (s : State) (g : Guard) (d : Reg) (a b : Src) (c : Reg),
    (Executes s g [a.r, b.r, c] [d] → exec (.sel g d a b c) s = .next (retire s (fun t => t.write d (if s.me.reg c ≠ 0 then val s a else val s b))))
    ∧ (Executes s g [a.r, b.r] [] → s.me.presence c ≠ .full → exec (.sel g d a b c) s = .next (blocksOn s c))
    ∧ (Executes s g [a.r, c] [] → s.me.presence b.r ≠ .full → b.trap = false → exec (.sel g d a b c) s = .next (blocksOn s b.r))
    ∧ (Executes s g [b.r, c] [] → s.me.presence a.r ≠ .full → a.trap = false → exec (.sel g d a b c) s = .next (blocksOn s a.r)))
  ∧ (∀ (s : State) (p : Fin 8) (d : Reg) (a : Src),
    (Executes s ⟨false, p⟩ [a.r] [d] → exec (.add ⟨false, p⟩ .d d a ⟨0, false⟩) s = .next (retire s (fun t => t.write d (val s a))))
    ∧ (s.me.pred p = false → exec (.add ⟨false, p⟩ .d d a ⟨0, false⟩) s = .next (retire s id)))

namespace Sys2Proof.Cert

open Sys2Proof.Machine
open Host (Outcome)

/-! ## Reference values of 05: the operands and results of R135 -/

/-- Width of an integer instruction (R135). -/
def bitsOfWidth : Width → Nat
  | .d => 64
  | .w => 32

/-- x of R136: the operand as an unsigned w-bit value. -/
def uvalue (wd : Width) (x : Word) : Nat :=
  match wd with
  | .d => x.toNat
  | .w => (x.setWidth 32).toNat

/-- sx of R136: the operand as a signed w-bit value. -/
def svalue (wd : Width) (x : Word) : Int :=
  match wd with
  | .d => x.toInt
  | .w => (x.setWidth 32).toInt

/-- sext(v[w−1:0], w). -/
def sextv (wd : Width) (v : Int) : Word :=
  match wd with
  | .d => BitVec.ofInt 64 v
  | .w => (BitVec.ofInt 32 v).signExtend 64

/-- The not of an operand within w bits. -/
def compl (wd : Width) (x : Word) : Nat := 2 ^ bitsOfWidth wd - 1 - uvalue wd x

/-- Quotient and remainder of R137 for a dividend, a divisor and the value whose quotient by −1 does not fit. -/
def quotRem (x y least : Int) : Int × Int :=
  if y = 0 then (0, x) else if x = least ∧ y = -1 then (x, 0) else (x.tdiv y, x - x.tdiv y * y)

/-- The condition of CMP and CMPI (Table 3.5). -/
def condHolds (c : ICond) (wd : Width) (x y : Word) : Prop :=
  match c with
  | .eq => uvalue wd x = uvalue wd y
  | .ne => uvalue wd x ≠ uvalue wd y
  | .lt => svalue wd x < svalue wd y
  | .ge => svalue wd y ≤ svalue wd x
  | .ltu => uvalue wd x < uvalue wd y
  | .geu => uvalue wd y ≤ uvalue wd x

end Sys2Proof.Cert

/-- R136: the value that each two-source form writes, for both widths and all operands; the rest of the state
is as the loop-end step leaves it. -/
def Sys2Proof.Cert.IntegerArithmeticResults : Prop :=
  ∀ (s : State) (g : Guard) (wd : Width) (d : Reg) (a b : Src), Executes s g [a.r, b.r] [d] →
    let x := val s a
    let y := val s b
    let writes := fun (v : Int) => Host.Outcome.next (ρ := Refusal) (φ := Fault) (retire s (fun t => t.write d (sextv wd v)))
    exec (.add g wd d a b) s = writes (uvalue wd x + uvalue wd y)
    ∧ exec (.sub g wd d a b) s = writes ((uvalue wd x : Int) - uvalue wd y)
    ∧ exec (.mul g wd d a b) s = writes (uvalue wd x * uvalue wd y)
    ∧ exec (.mulh g wd d a b) s = writes (svalue wd x * svalue wd y / 2 ^ bitsOfWidth wd)
    ∧ exec (.mulhu g wd d a b) s = writes ((uvalue wd x : Int) * uvalue wd y / 2 ^ bitsOfWidth wd)
    ∧ exec (.and g wd d a b) s = writes (uvalue wd x &&& uvalue wd y : Nat)
    ∧ exec (.or g wd d a b) s = writes (uvalue wd x ||| uvalue wd y : Nat)
    ∧ exec (.xor g wd d a b) s = writes (uvalue wd x ^^^ uvalue wd y : Nat)
    ∧ exec (.andn g wd d a b) s = writes (uvalue wd x &&& compl wd y : Nat)
    ∧ exec (.min g wd d a b) s = writes (min (svalue wd x) (svalue wd y))
    ∧ exec (.max g wd d a b) s = writes (max (svalue wd x) (svalue wd y))
    ∧ exec (.minu g wd d a b) s = writes (min (uvalue wd x) (uvalue wd y) : Nat)
    ∧ exec (.maxu g wd d a b) s = writes (max (uvalue wd x) (uvalue wd y) : Nat)

/-- R136, R135: the forms with an immediate work at 64 bits on the sign-extended immediate. -/
def Sys2Proof.Cert.ImmediateArithmeticResults : Prop :=
  ∀ (s : State) (g : Guard) (d : Reg) (a : Src) (imm : W32), Executes s g [a.r] [d] →
    let x := val s a
    let y : Word := BitVec.ofInt 64 imm.toInt
    let writes := fun (v : Int) => Host.Outcome.next (ρ := Refusal) (φ := Fault) (retire s (fun t => t.write d (sextv .d v)))
    exec (.addi g d a imm) s = writes (uvalue .d x + uvalue .d y)
    ∧ exec (.andi g d a imm) s = writes (uvalue .d x &&& uvalue .d y : Nat)
    ∧ exec (.ori g d a imm) s = writes (uvalue .d x ||| uvalue .d y : Nat)
    ∧ exec (.xori g d a imm) s = writes (uvalue .d x ^^^ uvalue .d y : Nat)

/-- R137: quotients and remainders at both widths; a zero divisor, and it alone, sets STATUS.DZ. -/
def Sys2Proof.Cert.DivisionResults : Prop :=
  ∀ (s : State) (g : Guard) (wd : Width) (d : Reg) (a b : Src), Executes s g [a.r, b.r] [d] →
    let x := val s a
    let y := val s b
    let least : Int := -(2 ^ (bitsOfWidth wd - 1))
    let writes := fun (v : Int) => Host.Outcome.next (ρ := Refusal) (φ := Fault)
      (retire s (fun t => ({ t with dz := t.dz || decide (uvalue wd y = 0) } : Task).write d (sextv wd v)))
    exec (.div g wd d a b) s = writes (quotRem (svalue wd x) (svalue wd y) least).1
    ∧ exec (.rem g wd d a b) s = writes (quotRem (svalue wd x) (svalue wd y) least).2
    ∧ exec (.divu g wd d a b) s = writes (quotRem (uvalue wd x) (uvalue wd y) least).1
    ∧ exec (.remu g wd d a b) s = writes (quotRem (uvalue wd x) (uvalue wd y) least).2

/-- R136: the value that each two-source form writes, for both widths and all operands; the rest of the state is as
the loop-end step leaves it. R136, R135: the forms with an immediate work at 64 bits on the sign-extended immediate.
R137: quotients and remainders at both widths; a zero divisor, and it alone, sets STATUS.DZ. -/
def Obligations.IntegerResults : Prop :=
  Cert.IntegerArithmeticResults ∧ Cert.ImmediateArithmeticResults ∧ Cert.DivisionResults

/-- R138: the shifts, register forms modulo the width and immediate forms at 64 bits. -/
def Sys2Proof.Cert.ShiftResults : Prop :=
  ∀ (s : State) (g : Guard) (wd : Width) (d : Reg) (a b : Src) (n : Fin 64), Executes s g [a.r] [d] →
    let x := val s a
    let c := (val s b).toNat % bitsOfWidth wd
    let writes := fun (wd : Width) (v : Int) => Host.Outcome.next (ρ := Refusal) (φ := Fault) (retire s (fun t => t.write d (sextv wd v)))
    (s.me.presence b.r = .full →
      exec (.shl g wd d a b) s = writes wd (uvalue wd x * 2 ^ c)
      ∧ exec (.shr g wd d a b) s = writes wd ((uvalue wd x : Int) / 2 ^ c)
      ∧ exec (.sra g wd d a b) s = writes wd (svalue wd x / 2 ^ c))
    ∧ exec (.shli g d a n) s = writes .d (uvalue .d x * 2 ^ n.val)
    ∧ exec (.shri g d a n) s = writes .d ((uvalue .d x : Int) / 2 ^ n.val)
    ∧ exec (.srai g d a n) s = writes .d (svalue .d x / 2 ^ n.val)

/-- R139: CLZ, CTZ and POPC count within the low w bits (w for a zero); BREV reverses the low n bits and
clears the others. -/
def Sys2Proof.Cert.BitCountResults : Prop :=
  ∀ (s : State) (g : Guard) (wd : Width) (d : Reg) (a : Src) (n : Nat), Executes s g [a.r] [d] →
    let x := uvalue wd (val s a)
    let w := bitsOfWidth wd
    let writes := fun (v : Word) => Host.Outcome.next (ρ := Refusal) (φ := Fault) (retire s (fun t => t.write d v))
    (∃ k ≤ w, exec (.clz g wd d a) s = writes (BitVec.ofNat 64 k) ∧ x < 2 ^ (w - k) ∧ (k < w → 2 ^ (w - k - 1) ≤ x))
    ∧ (∃ k ≤ w, exec (.ctz g wd d a) s = writes (BitVec.ofNat 64 k) ∧ x % 2 ^ k = 0 ∧ (k = w → x = 0)
        ∧ (k < w → x / 2 ^ k % 2 = 1))
    ∧ exec (.popc g wd d a) s = writes (BitVec.ofNat 64 ((List.range w).countP (fun i => x.testBit i)))
    ∧ (1 ≤ n → n ≤ 64 → ∃ v, exec (.brev g d a n) s = writes v
        ∧ ∀ i < 64, v.getLsbD i = (decide (i < n) && (val s a).getLsbD (n - 1 - i)))

/-- R149 to R152: selection, bit fields, extension and immediates, bit by bit. -/
def Sys2Proof.Cert.FieldAndImmediateResults : Prop :=
  ∀ (s : State) (g : Guard) (d : Reg) (a b : Src) (c : Reg) (lsb : Fin 64) (width : Nat) (sx : Bool) (imm : W32),
    let writes := fun (v : Word) => Host.Outcome.next (ρ := Refusal) (φ := Fault) (retire s (fun t => t.write d v))
    (Executes s g [a.r, b.r, c] [d] →
      exec (.sel g d a b c) s = writes (if s.me.reg c ≠ 0 then val s a else val s b))
    ∧ (Executes s g [a.r] [d] → 1 ≤ width → lsb.val + width ≤ 64 → ∃ v, exec (.bfx g d a lsb width) s = writes v
        ∧ ∀ i < 64, v.getLsbD i = (decide (i < width) && (val s a).getLsbD (lsb.val + i)))
    ∧ (Executes s g [a.r, d] [] → 1 ≤ width → lsb.val + width ≤ 64 → ∃ v, exec (.bfi g d a lsb width) s = writes v
        ∧ ∀ i < 64, v.getLsbD i = if lsb.val ≤ i ∧ i < lsb.val + width then (val s a).getLsbD (i - lsb.val)
            else (s.me.reg d).getLsbD i)
    ∧ (Executes s g [a.r] [d] → 1 ≤ width → width ≤ 64 → ∃ v, exec (.ext g sx d a width) s = writes v
        ∧ ∀ i < 64, v.getLsbD i = if i < width then (val s a).getLsbD i else sx && (val s a).getLsbD (width - 1))
    ∧ (Executes s g [] [d] → exec (.li g d imm) s = writes (BitVec.ofInt 64 imm.toInt))
    ∧ (Executes s g [d] [] → exec (.lih g d imm) s = writes (imm ++ (s.me.reg d).setWidth 32))

/-- R147, R148: the predicate that CMP, CMPI and PLOG write, and nothing else of the task. -/
def Sys2Proof.Cert.PredicateResults : Prop :=
  ∀ (s : State) (g : Guard) (c : ICond) (wd : Width) (p pa pb : Fin 8) (a b : Src) (imm : W32) (tt : Fin 16),
    let sets := fun (v : Bool) => Host.Outcome.next (ρ := Refusal) (φ := Fault) (retire s (fun t => t.setPred p v))
    (Executes s g [a.r, b.r] [] → ∃ v, exec (.cmp g c wd p a b) s = sets v ∧ (v = true ↔ condHolds c wd (val s a) (val s b)))
    ∧ (Executes s g [a.r] [] →
        ∃ v, exec (.cmpi g c p a imm) s = sets v ∧ (v = true ↔ condHolds c .d (val s a) (BitVec.ofInt 64 imm.toInt)))
    ∧ (Executes s g [] [] →
        exec (.plog g tt p pa pb) s = sets (Nat.testBit tt.val (2 * (s.me.pred pa).toNat + (s.me.pred pb).toNat)))

/-- R138: the shifts, register forms modulo the width and immediate forms at 64 bits. R139: CLZ, CTZ and POPC count
within the low w bits (w for a zero); BREV reverses the low n bits and clears the others. R149 to R152: selection, bit
fields, extension and immediates, bit by bit. R147, R148: the predicate that CMP, CMPI and PLOG write, and nothing
else of the task. -/
def Obligations.ShiftFieldAndPredicateResults : Prop :=
  Cert.ShiftResults ∧ Cert.BitCountResults ∧ Cert.FieldAndImmediateResults ∧ Cert.PredicateResults

namespace Sys2Proof.Cert

open Sys2Proof.Machine

/-- Format of a floating-point instruction (R140). -/
def fwMt : FWidth → Narrow
  | .d => fp64
  | .s => fp32

/-- The operand bits (R140): the register, or its low half. -/
def fcode (ty : FWidth) (x : Word) : Nat :=
  match ty with
  | .d => x.toNat
  | .s => x.toNat % 2 ^ 32

/-- The value of an operand. -/
def fval (ty : FWidth) (x : Word) : Val := decodeNum (fwMt ty) (fcode ty x)

/-- Weight of the sign bit. -/
def signPlace : FWidth → Nat
  | .d => 2 ^ 63
  | .s => 2 ^ 31

/-- Sign of an operand. -/
def signOf (ty : FWidth) (x : Word) : Bool :=
  match ty with
  | .d => x.getLsbD 63
  | .s => x.getLsbD 31

/-- The sign that FSGN gives (R143). -/
def newSign : SgnOp → Bool → Bool → Bool
  | .j, _, b => b
  | .jn, _, b => !b
  | .jx, a, b => xor a b

end Sys2Proof.Cert

/-- R140 to R146: each floating-point instruction writes the value that the number rules give for its operands
(04: the exact result rounded once by RM, or the special value), and ORs the flags into FPFLAGS; the ones without
flags set none; FCVT with DITH advances the phase of FPMODE. -/
def Sys2Proof.Cert.FloatingPointResults : Prop :=
  ∀ (s : State) (g : Guard) (ty : FWidth) (rm : Rm) (d : Reg) (a b : Src) (c : Reg) (p : Fin 8) (op : SgnOp) (cond : FCond)
    (dst src : NumTy),
    let f := fwMt ty
    let x := fval ty (val s a)
    let y := fval ty (val s b)
    let writes := fun (r : Nat × Flags) => Host.Outcome.next (ρ := Refusal) (φ := Fault)
      (retire s (fun t => ({ t with fpflags := t.fpflags ||| r.2 } : Task).write d (BitVec.ofNat 64 r.1)))
    (Executes s g [a.r, b.r] [d] →
      exec (.fadd g ty rm d a b) s = writes (deliverNum f rm (addNum rm x y))
      ∧ exec (.fsub g ty rm d a b) s = writes (deliverNum f rm (subNum rm x y))
      ∧ exec (.fmul g ty rm d a b) s = writes (deliverNum f rm (mulNum x y))
      ∧ exec (.fdiv g ty rm d a b) s = writes (deliverNum f rm (divNum x y))
      ∧ exec (.fmin g ty d a b) s = writes (minMaxNum f false (fcode ty (val s a)) (fcode ty (val s b)))
      ∧ exec (.fmax g ty d a b) s = writes (minMaxNum f true (fcode ty (val s a)) (fcode ty (val s b)))
      ∧ exec (.fsgn g op ty d a b) s = Host.Outcome.next (retire s (fun t => t.write d
          (BitVec.ofNat 64 (signNum f op (fcode ty (val s a)) (fcode ty (val s b)))))))
    ∧ (Executes s g [a.r, b.r, c] [d] →
      exec (.fma g ty rm d a b c) s = writes (deliverNum f rm (fmaNum rm x y (fval ty (s.me.reg c)))))
    ∧ (Executes s g [a.r] [d] →
      exec (.fsqrt g ty rm d a) s = writes (deliverNum f rm (sqrtNum x))
      ∧ exec (.fclass g ty d a) s = Host.Outcome.next (retire s (fun t => t.write d (BitVec.ofNat 64 (classNum f (fcode ty (val s a))))))
      ∧ exec (.fcvt g dst src rm d a) s = Host.Outcome.next (retire s (fun t =>
          let r := fpuCvt dst src rm (t.fpmode >>> 4).toNat (val s a)
          ({ (if rm = .dith then t.advancePhase else t) with fpflags := t.fpflags ||| r.2 } : Task).write d r.1)))
    ∧ (Executes s g [a.r, b.r] [] →
      exec (.fcmp g cond ty p a b) s = Host.Outcome.next (retire s (fun t =>
        ({ t with fpflags := t.fpflags ||| (fpuCmp cond ty (val s a) (val s b)).2 } : Task).setPred p
          (fpuCmp cond ty (val s a) (val s b)).1)))

/-- R141 to R145 at the corners, for both types: what NaN operands, signed zeros and a zero divisor give. -/
def Sys2Proof.Cert.FloatingPointCorners : Prop :=
  ∀ (ty : FWidth) (rm : Rm) (x y : Word),
    let f := fwMt ty
    -- FSGN copies the magnitude of a, a NaN too, and takes the sign that the sub-operation names (R143)
    (∀ op, (fpuSgn op ty x y).toNat % signPlace ty = fcode ty x % signPlace ty
      ∧ ((fpuSgn op ty x y).toNat / signPlace ty = 1 ↔ newSign op (signOf ty x) (signOf ty y) = true)
      ∧ (fpuSgn op ty x y).toNat < 2 * signPlace ty)
    -- a NaN makes every comparison but UN false; EQ and UN set NV for a signalling NaN only (R145)
    ∧ ((fval ty x).isNan = true → (fpuCmp .eq ty x y).1 = false ∧ (fpuCmp .lt ty x y) = (false, flagNV)
        ∧ (fpuCmp .le ty x y) = (false, flagNV) ∧ (fpuCmp .un ty x y).1 = true
        ∧ ((fval ty x).isSig = false → (fval ty y).isSig = false → (fpuCmp .eq ty x y).2 = 0 ∧ (fpuCmp .un ty x y).2 = 0))
    -- the square root of −0 is −0 (R141)
    ∧ (fcode ty x = signPlace ty → fpuSqrt ty rm x = (BitVec.ofNat 64 (signPlace ty), 0))
    -- FCLASS writes exactly one of ten bits (R144)
    ∧ (∃ k < 10, fpuClass ty x = BitVec.ofNat 64 (2 ^ k))
    ∧ f.w = (match ty with | .d => 64 | .s => 32)

/-- R140 to R146: each floating-point instruction writes the value that the number rules give for its operands (04:
the exact result rounded once by RM, or the special value), and ORs the flags into FPFLAGS; the ones without flags set
none; FCVT with DITH advances the phase of FPMODE. R141 to R145 at the corners, for both types: what NaN operands,
signed zeros and a zero divisor give. -/
def Obligations.FloatingPointResults : Prop :=
  Cert.FloatingPointResults ∧ Cert.FloatingPointCorners

/-- R154, R155, R537: branches, calls and loops: where the PC goes, what is linked, and the trap of a target
outside 0 to 4,095. -/
def Sys2Proof.Cert.ControlFlowResults : Prop :=
  ∀ (s : State) (g : Guard) (d : Reg) (a : Src) (off : W32) (lv : Fin 2),
    let i : Int := s.me.pc.toNat
    let goes := fun (target : Int) (f : Task → Task) => Host.Outcome.next (ρ := Refusal) (φ := Fault)
      (s.modTask s.cur (fun t => (f t.unwait).goTo (BitVec.ofInt 12 target)))
    let illegal := Host.Outcome.next (ρ := Refusal) (φ := Fault)
      (traps s 0x01 (off.setWidth 64))
    let link := fun (t : Task) => t.write d (BitVec.ofNat 64 (s.me.pc.toNat + 1))
    (Executes s g [] [] → exec (.br g off) s = if 0 ≤ i + off.toInt ∧ i + off.toInt ≤ 4095 then goes (i + off.toInt) id else illegal)
    ∧ (Executes s g [] [d] → exec (.call g d off) s =
        if 0 ≤ i + off.toInt ∧ i + off.toInt ≤ 4095 then goes (i + off.toInt) link else illegal)
    ∧ (Executes s g [a.r] [d] → exec (.jr g d a off) s =
        if 0 ≤ (val s a).toNat + off.toInt ∧ (val s a).toNat + off.toInt ≤ 4095
        then goes ((val s a).toNat + off.toInt) link else illegal)
    ∧ (Executes s g [a.r] [] → exec (.loop g lv a off) s =
        if off.toInt < 1 ∨ 4095 < i + off.toInt then illegal
        else
          let cnt : W32 := BitVec.ofNat 32 (val s a).toNat
          let set := fun (t : Task) =>
            if lv = 0 then ({ t with cnt0 := cnt, start0 := s.me.pc + 1, end0 := BitVec.ofInt 12 (i + off.toInt) } : Task)
            else { t with cnt1 := cnt, start1 := s.me.pc + 1, end1 := BitVec.ofInt 12 (i + off.toInt) }
          if cnt = 0 then goes (i + off.toInt + 1) set else Host.Outcome.next (retire s set))

/-- R156, R537: the loop-end step: what follows an instruction that completes, level 1 before level 0, with
INTRAP suppressing it and the next index taken modulo 4,096. -/
def Sys2Proof.Cert.LoopEndStep : Prop :=
  ∀ (t : Task),
    let atEnd1 := t.cnt1 ≠ 0 ∧ t.pc = t.end1
    let atEnd0 := t.cnt0 ≠ 0 ∧ t.pc = t.end0
    (t.intrap = true → t.loopEnd = { t with pc := t.pc + 1 })
    ∧ (t.intrap = false → ¬ atEnd1 → ¬ atEnd0 → t.loopEnd = { t with pc := t.pc + 1 })
    ∧ (t.intrap = false → atEnd1 → t.cnt1 ≠ 1 → t.loopEnd = { t with cnt1 := t.cnt1 - 1, pc := t.start1 })
    ∧ (t.intrap = false → atEnd1 → t.cnt1 = 1 → ¬ atEnd0 → t.loopEnd = { t with cnt1 := 0, pc := t.pc + 1 })
    ∧ (t.intrap = false → atEnd1 → t.cnt1 = 1 → atEnd0 → t.cnt0 ≠ 1 →
        t.loopEnd = { t with cnt1 := 0, cnt0 := t.cnt0 - 1, pc := t.start0 })
    ∧ (t.intrap = false → atEnd1 → t.cnt1 = 1 → atEnd0 → t.cnt0 = 1 →
        t.loopEnd = { t with cnt1 := 0, cnt0 := 0, pc := t.pc + 1 })
    ∧ (t.intrap = false → ¬ atEnd1 → atEnd0 → t.cnt0 ≠ 1 → t.loopEnd = { t with cnt0 := t.cnt0 - 1, pc := t.start0 })
    ∧ (t.intrap = false → ¬ atEnd1 → atEnd0 → t.cnt0 = 1 → t.loopEnd = { t with cnt0 := 0, pc := t.pc + 1 })

/-- R153, R157, R67: NOP only retires; TEND frees its slot once no producer of the task is pending, with its
channels unbound and their words in place, and else waits for the producers. -/
def Sys2Proof.Cert.NopAndTaskEnd : Prop :=
  ∀ (s : State) (g : Guard), s.me.guard g = true →
    exec (.nop g) s = .next (retire s id)
    ∧ (s.me.pending = [] → ∃ t, exec (.tend g) s = .next t
        ∧ t.task s.cur = Task.free
        ∧ (∀ v, ((t.core s.cur.coreRef).vc v).queue = ((s.core s.cur.coreRef).vc v).queue
            ∧ ((t.core s.cur.coreRef).vc v).holder =
                if ((s.core s.cur.coreRef).vc v).holder = some s.cur.slot then none else ((s.core s.cur.coreRef).vc v).holder)
        ∧ (∀ u, u ≠ s.cur → t.task u = s.task u) ∧ SameMemory s t)
    ∧ (s.me.pending ≠ [] → exec (.tend g) s = .next (s.modTask s.cur (fun t => t.waitFor .producers)))

/-- R154, R155, R537: branches, calls and loops: where the PC goes, what is linked, and the trap of a target outside 0
to 4,095. R156, R537: the loop-end step: what follows an instruction that completes, level 1 before level 0, with
INTRAP suppressing it and the next index taken modulo 4,096. R153, R157, R67: NOP only retires; TEND frees its slot
once no producer of the task is pending, with its channels unbound and their words in place, and else waits for the
producers. -/
def Obligations.ControlFlowResults : Prop :=
  Cert.ControlFlowResults ∧ Cert.LoopEndStep ∧ Cert.NopAndTaskEnd

/-- R158, R159, R65: the carve-out: PUSH stores eight bytes below SP in the task's part and POP loads them back,
SP moving by eight; nothing outside those bytes changes. -/
def Obligations.SpillStackResults : Prop :=
  ∀ (s : State) (g : Guard) (a : Src) (d : Reg),
    let base : Nat := 2 ^ 20 - s.myRect.spill + s.cur.slot * (s.myRect.spill / 8)
    let top : Nat := base + s.myRect.spill / 8
    s.cur.slot < 8 → s.myRect.spill ≤ 2 ^ 20 → s.me.sp.toNat % 8 = 0 →
    Memory.wf s.myCore.scratch = true →
    (Executes s g [a.r] [] → base + 8 ≤ s.me.sp.toNat → s.me.sp.toNat ≤ top → ∃ t, exec (.push g a) s = .next t
      ∧ t.me = (retire s (fun x => { x with sp := x.sp - 8 })).me
      ∧ (∀ k, byteAt t.myCore.scratch k =
          if s.me.sp.toNat - 8 ≤ k ∧ k < s.me.sp.toNat
          then (val s a).extractLsb' (8 * (k - (s.me.sp.toNat - 8))) 8 else byteAt s.myCore.scratch k)
      ∧ t.mem = s.mem ∧ t.peer = s.peer ∧ (∀ c, c ≠ s.cur.coreRef → t.core c = s.core c))
    ∧ (Executes s g [] [d] → base ≤ s.me.sp.toNat → s.me.sp.toNat < top →
        exec (.pop g d) s = .next (retire s (fun x =>
          { x.write d (BitVec.ofNat 64 (joinBytes (cellBytes s.myCore.scratch s.me.sp.toNat 8))) with sp := x.sp + 8 })))
    ∧ (Executes s g [] [d] → top ≤ s.me.sp.toNat → exec (.pop g d) s = .next (traps s 0x0F s.me.sp))

namespace Sys2Proof.Cert

open Sys2Proof.Machine

/-- What a sequencer instruction meets: its guard, its sources in the order of its fields with their empty-read
policies, and its destinations. -/
structure Uses where
  guard : Guard
  srcs : List (Reg × Bool)
  dsts : List Reg

/-- The guard and registers of every sequencer instruction (03 Table 3.6 and the instruction chapters); none for the
steps of other agents. -/
def usesOf : Instr → Option Uses
  | .nop g => some ⟨g, [], []⟩
  | .add g _ d a b => some ⟨g, [(a.r, a.trap), (b.r, b.trap)], [d]⟩
  | .sub g _ d a b => some ⟨g, [(a.r, a.trap), (b.r, b.trap)], [d]⟩
  | .addi g d a _ => some ⟨g, [(a.r, a.trap)], [d]⟩
  | .mul g _ d a b => some ⟨g, [(a.r, a.trap), (b.r, b.trap)], [d]⟩
  | .mulh g _ d a b => some ⟨g, [(a.r, a.trap), (b.r, b.trap)], [d]⟩
  | .mulhu g _ d a b => some ⟨g, [(a.r, a.trap), (b.r, b.trap)], [d]⟩
  | .div g _ d a b => some ⟨g, [(a.r, a.trap), (b.r, b.trap)], [d]⟩
  | .divu g _ d a b => some ⟨g, [(a.r, a.trap), (b.r, b.trap)], [d]⟩
  | .rem g _ d a b => some ⟨g, [(a.r, a.trap), (b.r, b.trap)], [d]⟩
  | .remu g _ d a b => some ⟨g, [(a.r, a.trap), (b.r, b.trap)], [d]⟩
  | .and g _ d a b => some ⟨g, [(a.r, a.trap), (b.r, b.trap)], [d]⟩
  | .or g _ d a b => some ⟨g, [(a.r, a.trap), (b.r, b.trap)], [d]⟩
  | .xor g _ d a b => some ⟨g, [(a.r, a.trap), (b.r, b.trap)], [d]⟩
  | .andn g _ d a b => some ⟨g, [(a.r, a.trap), (b.r, b.trap)], [d]⟩
  | .andi g d a _ => some ⟨g, [(a.r, a.trap)], [d]⟩
  | .ori g d a _ => some ⟨g, [(a.r, a.trap)], [d]⟩
  | .xori g d a _ => some ⟨g, [(a.r, a.trap)], [d]⟩
  | .shl g _ d a b => some ⟨g, [(a.r, a.trap), (b.r, b.trap)], [d]⟩
  | .shr g _ d a b => some ⟨g, [(a.r, a.trap), (b.r, b.trap)], [d]⟩
  | .sra g _ d a b => some ⟨g, [(a.r, a.trap), (b.r, b.trap)], [d]⟩
  | .shli g d a _ => some ⟨g, [(a.r, a.trap)], [d]⟩
  | .shri g d a _ => some ⟨g, [(a.r, a.trap)], [d]⟩
  | .srai g d a _ => some ⟨g, [(a.r, a.trap)], [d]⟩
  | .min g _ d a b => some ⟨g, [(a.r, a.trap), (b.r, b.trap)], [d]⟩
  | .max g _ d a b => some ⟨g, [(a.r, a.trap), (b.r, b.trap)], [d]⟩
  | .minu g _ d a b => some ⟨g, [(a.r, a.trap), (b.r, b.trap)], [d]⟩
  | .maxu g _ d a b => some ⟨g, [(a.r, a.trap), (b.r, b.trap)], [d]⟩
  | .clz g _ d a => some ⟨g, [(a.r, a.trap)], [d]⟩
  | .ctz g _ d a => some ⟨g, [(a.r, a.trap)], [d]⟩
  | .popc g _ d a => some ⟨g, [(a.r, a.trap)], [d]⟩
  | .brev g d a _ => some ⟨g, [(a.r, a.trap)], [d]⟩
  | .fadd g _ _ d a b => some ⟨g, [(a.r, a.trap), (b.r, b.trap)], [d]⟩
  | .fsub g _ _ d a b => some ⟨g, [(a.r, a.trap), (b.r, b.trap)], [d]⟩
  | .fmul g _ _ d a b => some ⟨g, [(a.r, a.trap), (b.r, b.trap)], [d]⟩
  | .fdiv g _ _ d a b => some ⟨g, [(a.r, a.trap), (b.r, b.trap)], [d]⟩
  | .fma g _ _ d a b c => some ⟨g, [(a.r, a.trap), (b.r, b.trap), (c, false)], [d]⟩
  | .fsqrt g _ _ d a => some ⟨g, [(a.r, a.trap)], [d]⟩
  | .fmin g _ d a b => some ⟨g, [(a.r, a.trap), (b.r, b.trap)], [d]⟩
  | .fmax g _ d a b => some ⟨g, [(a.r, a.trap), (b.r, b.trap)], [d]⟩
  | .fsgn g _ _ d a b => some ⟨g, [(a.r, a.trap), (b.r, b.trap)], [d]⟩
  | .fcvt g _ _ _ d a => some ⟨g, [(a.r, a.trap)], [d]⟩
  | .fclass g _ d a => some ⟨g, [(a.r, a.trap)], [d]⟩
  | .fcmp g _ _ _ a b => some ⟨g, [(a.r, a.trap), (b.r, b.trap)], []⟩
  | .cmp g _ _ _ a b => some ⟨g, [(a.r, a.trap), (b.r, b.trap)], []⟩
  | .cmpi g _ _ a _ => some ⟨g, [(a.r, a.trap)], []⟩
  | .plog g _ _ _ _ => some ⟨g, [], []⟩
  | .sel g d a b c => some ⟨g, [(a.r, a.trap), (b.r, b.trap), (c, false)], [d]⟩
  | .bfx g d a _ _ => some ⟨g, [(a.r, a.trap)], [d]⟩
  | .bfi g d a _ _ => some ⟨g, [(a.r, a.trap), (d, false)], []⟩
  | .ext g _ d a _ => some ⟨g, [(a.r, a.trap)], [d]⟩
  | .li g d _ => some ⟨g, [], [d]⟩
  | .lih g d _ => some ⟨g, [(d, false)], []⟩
  | .br g _ => some ⟨g, [], []⟩
  | .call g d _ => some ⟨g, [], [d]⟩
  | .jr g d a _ => some ⟨g, [(a.r, a.trap)], [d]⟩
  | .loop g _ a _ => some ⟨g, [(a.r, a.trap)], []⟩
  | .tend g => some ⟨g, [], []⟩
  | .push g a => some ⟨g, [(a.r, a.trap)], []⟩
  | .pop g d => some ⟨g, [], [d]⟩
  | .ld g _ _ d a _ => some ⟨g, [(a.r, a.trap)], [d]⟩
  | .ldx g _ _ d a b _ => some ⟨g, [(a.r, a.trap), (b.r, b.trap)], [d]⟩
  | .ldacq g _ _ d a _ => some ⟨g, [(a.r, a.trap)], [d]⟩
  | .st g _ _ b a _ => some ⟨g, [(a.r, a.trap), (b.r, b.trap)], []⟩
  | .stx g _ _ d a b _ => some ⟨g, [(a.r, a.trap), (b.r, b.trap), (d, false)], []⟩
  | .strel g _ _ b a _ => some ⟨g, [(a.r, a.trap), (b.r, b.trap)], []⟩
  | .fence g _ _ => some ⟨g, [], []⟩
  | .amo g _ _ _ _ d b a _ => some ⟨g, [(a.r, a.trap), (b.r, b.trap)], [d]⟩
  | .cas g _ _ _ d b a _ => some ⟨g, [(a.r, a.trap), (b.r, b.trap), (d, false)], []⟩
  | .pref g _ a _ => some ⟨g, [(a.r, a.trap)], []⟩
  | .cwb g _ a b => some ⟨g, [(a.r, a.trap), (b.r, b.trap)], []⟩
  | .cinv g _ a b => some ⟨g, [(a.r, a.trap), (b.r, b.trap)], []⟩
  | .cwbi g _ a b => some ⟨g, [(a.r, a.trap), (b.r, b.trap)], []⟩
  | .feed g _ _ b _ _ _ _ _ _ _ => some ⟨g, [(b.r, b.trap)], []⟩
  | .sink g _ _ b _ _ => some ⟨g, [(b.r, b.trap)], []⟩
  | .inj g _ b _ => some ⟨g, [(b.r, b.trap)], []⟩
  | .tok g _ _ b _ => some ⟨g, [(b.r, b.trap)], []⟩
  | .take g d _ => some ⟨g, [], [d]⟩
  | .portq g d _ _ => some ⟨g, [], [d]⟩
  | .sbar g b => some ⟨g, [(b.r, b.trap)], []⟩
  | .accrst g _ b => some ⟨g, [(b.r, b.trap)], []⟩
  | .cfgld g _ b => some ⟨g, [(b.r, b.trap)], []⟩
  | .qset g _ _ a => some ⟨g, [(a.r, a.trap)], []⟩
  | .qld g _ a => some ⟨g, [(a.r, a.trap)], []⟩
  | .qadv g _ a => some ⟨g, [(a.r, a.trap)], []⟩
  | .cpy g _ d _ _ _ => some ⟨g, [], [d]⟩
  | .cpymx g _ d _ _ _ => some ⟨g, [], [d]⟩
  | .cpyq g _ _ _ _ d _ _ _ => some ⟨g, [], [d]⟩
  | .gemv g _ _ d _ _ _ _ => some ⟨g, [], [d]⟩
  | .tlwait g _ _ a => some ⟨g, [(a.r, a.trap)], []⟩
  | .tlread g d _ => some ⟨g, [], [d]⟩
  | .tlnum g d _ => some ⟨g, [], [d]⟩
  | .sleept g a => some ⟨g, [(a.r, a.trap)], []⟩
  | .sleeptP g a _ b => some ⟨g, [(a.r, a.trap), (b.r, b.trap)], []⟩
  | .time g d => some ⟨g, [], [d]⟩
  | .cyc g d => some ⟨g, [], [d]⟩
  | .mxcfg g _ _ a _ => some ⟨g, [(a.r, a.trap)], []⟩
  | .mxrel g _ => some ⟨g, [], []⟩
  | .mxz g _ _ => some ⟨g, [], []⟩
  | .mxldt g _ _ _ _ => some ⟨g, [], []⟩
  | .mxmm g _ _ _ _ _ _ => some ⟨g, [], []⟩
  | .mxmms g _ _ _ _ _ _ => some ⟨g, [], []⟩
  | .mxfmt g _ _ _ _ _ => some ⟨g, [], []⟩
  | .mxrt g _ _ => some ⟨g, [], []⟩
  | .mxdrn g _ _ _ => some ⟨g, [], []⟩
  | .mxchk g _ _ => some ⟨g, [], []⟩
  | .mxst g _ _ _ _ => some ⟨g, [], []⟩
  | .twset g _ _ => some ⟨g, [], []⟩
  | .twsetGen g _ _ _ _ => some ⟨g, [], []⟩
  | .bfplan g _ a b => some ⟨g, [(a.r, a.trap), (b.r, b.trap)], []⟩
  | .bfrev g _ _ _ _ _ => some ⟨g, [], []⟩
  | .bfstg g _ _ _ => some ⟨g, [], []⟩
  | .bfrun g _ _ => some ⟨g, [], []⟩
  | .rktab g _ _ _ _ => some ⟨g, [], []⟩
  | .rkcut g _ a => some ⟨g, [(a.r, a.trap)], []⟩
  | .rknet g _ _ d _ _ _ _ => some ⟨g, [], [d]⟩
  | .mxrank g _ _ _ _ _ _ _ => some ⟨g, [], []⟩
  | .rkval g _ _ _ _ _ => some ⟨g, [], []⟩
  | .rktrc g _ d _ _ _ _ => some ⟨g, [], [d]⟩
  | .tspawn g d a _ => some ⟨g, [(a.r, a.trap)], [d]⟩
  | .tbind g _ => some ⟨g, [], []⟩
  | .waitv g d _ => some ⟨g, [], [d]⟩
  | .sendv g a b _ => some ⟨g, [(a.r, a.trap), (b.r, b.trap)], []⟩
  | .tyield g => some ⟨g, [], []⟩
  | .twake g _ => some ⟨g, [], []⟩
  | .tprio g _ => some ⟨g, [], []⟩
  | .rbar g _ => some ⟨g, [], []⟩
  | .gbar g a b => some ⟨g, [(a.r, a.trap), (b.r, b.trap)], []⟩
  | .launch g d a => some ⟨g, [(a.r, a.trap)], [d]⟩
  | .lqry g d _ => some ⟨g, [], [d]⟩
  | .stageq g d _ => some ⟨g, [], [d]⟩
  | .ctlr g d _ => some ⟨g, [], [d]⟩
  | .ctlw g _ a => some ⟨g, [(a.r, a.trap)], []⟩
  | .ctls g _ a => some ⟨g, [(a.r, a.trap)], []⟩
  | .ctlc g _ a => some ⟨g, [(a.r, a.trap)], []⟩
  | .svc g _ => some ⟨g, [(4, false)], [5]⟩
  | .cntr g d _ => some ⟨g, [], [d]⟩
  | .capr g d a => some ⟨g, [(a.r, a.trap)], [d]⟩
  | .trap g _ => some ⟨g, [], []⟩
  | .rett g => some ⟨g, [], []⟩
  | .snap g _ => some ⟨g, [], []⟩
  | .xsave g a _ => some ⟨g, [(a.r, a.trap)], []⟩
  | .xload g a _ => some ⟨g, [(a.r, a.trap)], []⟩
  | .halt g => some ⟨g, [], []⟩
  | .ebrk g _ => some ⟨g, [], []⟩
  | .cutreq g => some ⟨g, [], []⟩
  | _ => none

/-- The instructions whose mode is checked before their operands (19, 23). -/
def checksMode : Instr → Bool
  | .cfgld .. | .ctlr .. | .ctlw .. | .ctls .. | .ctlc .. | .svc .. | .xsave .. | .xload .. => true
  | _ => false

/-- The first source that is empty while its policy is to trap (R45). -/
def Uses.trapping (u : Uses) (t : Task) : Option Reg :=
  (u.srcs.find? (fun p => p.2 && t.isEmpty p.1)).map (·.1)

/-- The first register to wait for: a source that is not full, or a destination that is empty (R45, R46). -/
def Uses.missing (u : Uses) (t : Task) : Option Reg :=
  match (u.srcs.map (·.1)).find? (fun r => !t.isFull r) with
  | some r => some r
  | none => u.dsts.find? (fun r => t.isEmpty r)

end Sys2Proof.Cert

/-- R69, R44 to R46, R73, for every sequencer instruction: a false guard leaves everything but the loop-end step
undone; else an empty source that traps raises EMPTY with its number before any wait, and a register that is not
there is waited for with nothing else changed. -/
def Obligations.GuardAndPresence : Prop :=
  ∀ (i : Instr) (u : Uses) (s : State), usesOf i = some u →
    (s.me.guard u.guard = false → exec i s = .next (retire s id))
    ∧ (s.me.guard u.guard = true → checksMode i = false → ∀ r, u.trapping s.me = some r →
        exec i s = .next (traps s 0x03 (BitVec.ofNat 64 r.val)))
    ∧ (s.me.guard u.guard = true → checksMode i = false → u.trapping s.me = none → ∀ r, u.missing s.me = some r →
        exec i s = .next (s.modTask s.cur (fun t => t.waitFor (.reg r.val))))

namespace Sys2Proof.Cert

open Sys2Proof.Machine

/-- The instructions that act on their own task only (R134), with the register and the predicate that each writes. -/
def taskWrites : Instr → Option (Option Reg × Option (Fin 8))
  | .nop _ => some (none, none)
  | .add _ _ d _ _ => some (some d, none)
  | .sub _ _ d _ _ => some (some d, none)
  | .addi _ d _ _ => some (some d, none)
  | .mul _ _ d _ _ => some (some d, none)
  | .mulh _ _ d _ _ => some (some d, none)
  | .mulhu _ _ d _ _ => some (some d, none)
  | .div _ _ d _ _ => some (some d, none)
  | .divu _ _ d _ _ => some (some d, none)
  | .rem _ _ d _ _ => some (some d, none)
  | .remu _ _ d _ _ => some (some d, none)
  | .and _ _ d _ _ => some (some d, none)
  | .or _ _ d _ _ => some (some d, none)
  | .xor _ _ d _ _ => some (some d, none)
  | .andn _ _ d _ _ => some (some d, none)
  | .andi _ d _ _ => some (some d, none)
  | .ori _ d _ _ => some (some d, none)
  | .xori _ d _ _ => some (some d, none)
  | .shl _ _ d _ _ => some (some d, none)
  | .shr _ _ d _ _ => some (some d, none)
  | .sra _ _ d _ _ => some (some d, none)
  | .shli _ d _ _ => some (some d, none)
  | .shri _ d _ _ => some (some d, none)
  | .srai _ d _ _ => some (some d, none)
  | .min _ _ d _ _ => some (some d, none)
  | .max _ _ d _ _ => some (some d, none)
  | .minu _ _ d _ _ => some (some d, none)
  | .maxu _ _ d _ _ => some (some d, none)
  | .clz _ _ d _ => some (some d, none)
  | .ctz _ _ d _ => some (some d, none)
  | .popc _ _ d _ => some (some d, none)
  | .brev _ d _ _ => some (some d, none)
  | .fadd _ _ _ d _ _ => some (some d, none)
  | .fsub _ _ _ d _ _ => some (some d, none)
  | .fmul _ _ _ d _ _ => some (some d, none)
  | .fdiv _ _ _ d _ _ => some (some d, none)
  | .fma _ _ _ d _ _ _ => some (some d, none)
  | .fsqrt _ _ _ d _ => some (some d, none)
  | .fmin _ _ d _ _ => some (some d, none)
  | .fmax _ _ d _ _ => some (some d, none)
  | .fsgn _ _ _ d _ _ => some (some d, none)
  | .fcvt _ _ _ _ d _ => some (some d, none)
  | .fclass _ _ d _ => some (some d, none)
  | .fcmp _ _ _ p _ _ => some (none, some p)
  | .cmp _ _ _ p _ _ => some (none, some p)
  | .cmpi _ _ p _ _ => some (none, some p)
  | .plog _ _ p _ _ => some (none, some p)
  | .sel _ d _ _ _ => some (some d, none)
  | .bfx _ d _ _ _ => some (some d, none)
  | .bfi _ d _ _ _ => some (some d, none)
  | .ext _ _ d _ _ => some (some d, none)
  | .li _ d _ => some (some d, none)
  | .lih _ d _ => some (some d, none)
  | .br _ _ => some (none, none)
  | .call _ d _ => some (some d, none)
  | .jr _ d _ _ => some (some d, none)
  | .loop _ _ _ _ => some (none, none)
  | .time _ d => some (some d, none)
  | .cyc _ d => some (some d, none)
  | .tlread _ d _ => some (some d, none)
  | .tlnum _ d _ => some (some d, none)
  | .portq _ d _ _ => some (some d, none)
  | .lqry _ d _ => some (some d, none)
  | .stageq _ d _ => some (some d, none)
  | .cntr _ d _ => some (some d, none)
  | .capr _ d _ => some (some d, none)
  | .tyield _ => some (none, none)
  | .tprio _ _ => some (none, none)
  | _ => none

/-- The instructions that set floating-point flags (R140, R63). -/
def setsFlags : Instr → Bool
  | .fadd .. | .fsub .. | .fmul .. | .fdiv .. | .fma .. | .fsqrt .. | .fmin .. | .fmax .. | .fcvt .. | .fcmp .. => true
  | _ => false

/-- The instructions that set STATUS.DZ (R137). -/
def setsDz : Instr → Bool
  | .div .. | .divu .. | .rem .. | .remu .. => true
  | _ => false

/-- Everything but the issuing task, and the queues that a trap of it may enter (R464), is unchanged. -/
def OnlyTask (s t : State) : Prop :=
  ({ t with rects := s.rects } : State) = s
    ∧ (∀ r, r ≠ s.cur.rect → t.rect r = s.rect r)
    ∧ (∀ c, c ≠ s.cur.coreRef → t.core c = s.core c)
    ∧ (∀ u, u ≠ s.cur → t.task u = s.task u)
    ∧ ({ t.myCore with tasks := s.myCore.tasks } : Core) = s.myCore
    ∧ ({ t.myRect with body := s.myRect.body } : Rect) = s.myRect
    ∧ ({ t.myRect.body with cores := s.myRect.body.cores, dq := s.myRect.body.dq, nseq := s.myRect.body.nseq, atSup := s.myRect.body.atSup } : Body) = s.myRect.body

end Sys2Proof.Cert

/-- R134, the frame of the instructions that act on their own task: no memory, no other task, no port, timeline,
channel or special register of a core or rectangle changes; of the task, only the destination register and predicate,
the flags of the floating-point instructions, DZ of the divisions, the loop level of LOOP, the phase of FCVT, the yield
state and the priority that TYIELD and TPRIO set, and the fields that the loop-end step or trap entry writes. -/
def Obligations.TaskLocalFrame : Prop :=
  ∀ (i : Instr) (s t : State) (d : Option Reg) (p : Option (Fin 8)),
    taskWrites i = some (d, p) → exec i s = .next t →
    OnlyTask s t ∧ SameMemory s t
    ∧ (∀ r, d ≠ some r → t.me.reg r = s.me.reg r ∧ t.me.presence r = s.me.presence r)
    ∧ (∀ k, p ≠ some k → t.me.pred k = s.me.pred k)
    ∧ (setsFlags i = false → t.me.fpflags = s.me.fpflags)
    ∧ (setsDz i = false → t.me.dz = s.me.dz)
    ∧ ((∀ g ds src d a, i ≠ .fcvt g ds src .dith d a) → t.me.fpmode = s.me.fpmode)
    ∧ ((∀ g lv a off, i ≠ .loop g lv a off) →
        (t.me.start0, t.me.end0, t.me.start1, t.me.end1) = (s.me.start0, s.me.end0, s.me.start1, s.me.end1))
    ∧ ((∀ g n, i ≠ .tprio g n) → t.me.prio = s.me.prio)
    ∧ (t.me.tvec, t.me.sp, t.me.ovfptr, t.me.ovflim, t.me.sc, t.me.kmode, t.me.occupied, t.me.handler, t.me.age, t.me.wake)
        = (s.me.tvec, s.me.sp, s.me.ovfptr, s.me.ovflim, s.me.sc, s.me.kmode, s.me.occupied, s.me.handler, s.me.age, s.me.wake)
    ∧ ((∀ g, i ≠ .tyield g) → t.me.yielding = s.me.yielding)
    ∧ (t.me.saved, t.me.parked, t.me.relScope, t.me.relUpto, t.me.relCut, t.me.asked, t.me.behind)
        = (s.me.saved, s.me.parked, s.me.relScope, s.me.relUpto, s.me.relCut, s.me.asked, s.me.behind)
    ∧ ((t.me.held, t.me.intrap, t.me.tcause, t.me.tpc, t.me.tval) = (s.me.held, s.me.intrap, s.me.tcause, s.me.tpc, s.me.tval)
        ∨ (t.me.tpc = s.me.pc ∧ (t.me.tcause.setWidth 8 = 0x01#8 ∨ t.me.tcause.setWidth 8 = 0x03#8
              ∨ t.me.tcause.setWidth 8 = 0x10#8)))

namespace Sys2Proof.Cert

open Sys2Proof.Machine

/-- The cause of task `t` as the delegation queue holds it (R464, R504). -/
def taskCause (t : TaskRef) (c : Nat) (v : Word) (pc : BitVec 12) (seq : Nat) : QCause :=
  { seq := seq, fabric := false, core := t.core, slot := t.slot, cause := c, tval := v, tpc := pc.toNat,
    lx := t.core % 16, ly := t.core / 16 }

/-- TCAUSE of Table 2.8, field by field. -/
def TcauseIs (w : Word) (c slot lx ly : Nat) (dlg f : Bool) : Prop :=
  (w.extractLsb' 0 8).toNat = c ∧ (w.extractLsb' 8 3).toNat = slot ∧ w.getLsbD 11 = dlg ∧ w.getLsbD 12 = f
    ∧ (w.extractLsb' 16 4).toNat = lx ∧ (w.extractLsb' 20 4).toNat = ly ∧ w.toNat < 2 ^ 24

end Sys2Proof.Cert

/-- R464, R465: what taking a precise cause writes and where it goes: TPC, TVAL and TCAUSE of the task, then delegation
to the handler task (a task in mode K is never delegated), local entry, delegation for want of a handler of its own, or
the partition supervisor. -/
def Sys2Proof.Cert.TakingAnException : Prop :=
  ∀ (s : State) (t : TaskRef) (c : Nat) (v : Word) (pc : BitVec 12),
    c < 256 → t.slot < 8 → t.core < 256 →
    let x := s.task t
    let b := (s.rect t.rect).body
    let s' := s.raise t c v pc
    let x' := s'.task t
    let saved := x'.tpc = pc ∧ x'.tval = v ∧ TcauseIs x'.tcause c t.slot (t.core % 16) (t.core / 16) false false
    let queued := x'.held = true ∧ x'.pc = x.pc ∧ x'.intrap = x.intrap
      ∧ (s'.rect t.rect).body.dq = b.dq ++ [taskCause t c v pc b.nseq] ∧ (s'.rect t.rect).body.nseq = (b.nseq + 1) % 2 ^ 32
      ∧ (s'.rect t.rect).body.atSup = b.atSup
    let entered := x'.pc = x.tvec ∧ x'.intrap = true ∧ x'.held = x.held ∧ (s'.rect t.rect).body.dq = b.dq
      ∧ (s'.rect t.rect).body.atSup = b.atSup
    let passed := x'.held = true ∧ x'.pc = x.pc ∧ x'.intrap = x.intrap ∧ (s'.rect t.rect).body.dq = b.dq
      ∧ (s'.rect t.rect).body.atSup = b.atSup ++ [taskCause t c v pc 0]
    saved
    ∧ ((x.kmode = false ∧ b.tdeleg.getLsbD c = true ∧ b.hasHandler = true) → queued)
    ∧ (¬ (x.kmode = false ∧ b.tdeleg.getLsbD c = true ∧ b.hasHandler = true) → x.tvec ≠ 0 → x.intrap = false → entered)
    ∧ (¬ (x.kmode = false ∧ b.tdeleg.getLsbD c = true ∧ b.hasHandler = true) → (x.tvec = 0 ∨ x.intrap = true) →
        x.handler = false ∧ b.hasHandler = true → queued)
    ∧ (¬ (x.kmode = false ∧ b.tdeleg.getLsbD c = true ∧ b.hasHandler = true) → (x.tvec = 0 ∨ x.intrap = true) →
        ¬ (x.handler = false ∧ b.hasHandler = true) → passed)

/-- The frame of trap entry (R464, R133): no register, predicate, flag, loop register, accumulator or memory of the
machine changes, and nothing of any other task. -/
def Sys2Proof.Cert.ExceptionFrame : Prop :=
  ∀ (s : State) (t : TaskRef) (c : Nat) (v : Word) (pc : BitVec 12),
    let s' := s.raise t c v pc
    let x := s.task t
    let x' := s'.task t
    SameMemory s s' ∧ ({ s' with rects := s.rects } : State) = s
    ∧ (∀ u, u ≠ t → s'.task u = s.task u)
    ∧ (∀ k, k ≠ t.coreRef → s'.core k = s.core k)
    ∧ ({ s'.core t.coreRef with tasks := (s.core t.coreRef).tasks } : Core) = s.core t.coreRef
    ∧ ({ x' with tpc := x.tpc, tval := x.tval, tcause := x.tcause, held := x.held, intrap := x.intrap, pc := x.pc } : Task) = x

/-- R464, R465: what taking a precise cause writes and where it goes: TPC, TVAL and TCAUSE of the task, then
delegation to the handler task (a task in mode K is never delegated), local entry, delegation for want of a handler of
its own, or the partition supervisor. The frame of trap entry (R464, R133): no register, predicate, flag, loop
register, accumulator or memory of the machine changes, and nothing of any other task. -/
def Obligations.TakingAnException : Prop :=
  Cert.TakingAnException ∧ Cert.ExceptionFrame

/-- R512: TRAP and EBRK complete with the loop-end step and then raise their cause; TPC names the next instruction, and
TVAL is the code in the place of the word's field. -/
def Sys2Proof.Cert.TrapInstructions : Prop :=
  ∀ (s : State) (g : Guard) (c : BitVec 8) (code : BitVec 16), s.me.guard g = true →
    let s' := retire s id
    exec (.trap g c) s = .next (s'.raise s.cur c.toNat (BitVec.ofNat 64 (c.toNat * 2 ^ 16)) s'.me.pc)
    ∧ exec (.ebrk g code) s = .next (s'.raise s.cur 0x12 (BitVec.ofNat 64 code.toNat) s'.me.pc)

/-- R513: RETT outside a handler traps ILLEGAL; after local entry it goes to TPC with INTRAP clear and changes nothing
else; after a delegated entry for a task it also releases the held origin, which resumes at its own TPC; after one for
the fabric every stopped element, port and engine resumes, except that GATE and FIREWALL pass on to the supervisor. -/
def Sys2Proof.Cert.ReturnFromException : Prop :=
  ∀ (s : State) (g : Guard), s.me.guard g = true →
    let x := s.me
    let back := fun (t : Task) => ({ t with pc := t.tpc, intrap := false, wait := none } : Task)
    let dlg := x.tcause.getLsbD 11
    let fab := x.tcause.getLsbD 12
    let origin : TaskRef := ⟨s.cur.rect, (x.tcause.extractLsb' 16 4).toNat + 16 * (x.tcause.extractLsb' 20 4).toNat,
      (x.tcause.extractLsb' 8 3).toNat⟩
    let cause := (x.tcause.extractLsb' 0 8).toNat
    (x.intrap = false → exec (.rett g) s = .next (traps s 0x01 0))
    ∧ (x.intrap = true → ∃ t, exec (.rett g) s = .next t ∧ SameMemory s t
        ∧ (dlg = false → t = s.modTask s.cur back)
        ∧ (dlg = true → (x.parked.map (·.1) ≠ some x.tpc) → origin ≠ s.cur → t.me = { back x with parked := none })
        ∧ (dlg = true → fab = false → origin ≠ s.cur → (s.task origin).held = true →
            t.task origin = { back (s.task origin) with held := false } ∧ (t.rect s.cur.rect).body.serving = none)
        ∧ (dlg = true → fab = true → cause ≠ 6 → cause ≠ 7 →
            (t.rect s.cur.rect).body.fabricStop = false ∧ (t.rect s.cur.rect).body.serving = none
            ∧ (∀ e ∈ (t.rect s.cur.rect).body.eng, e.fault = false))
        ∧ (dlg = true → fab = true → (cause = 6 ∨ cause = 7) → ∀ q, (s.rect s.cur.rect).body.serving = some q →
            (t.rect s.cur.rect).body.atSup = (s.rect s.cur.rect).body.atSup ++ [q]
            ∧ (t.rect s.cur.rect).body.serving = none))

/-- R466, R467: the handler task takes the head of the delegation queue when it is free: TPC, TVAL, TCAUSE with DLG, the
PC at TVEC, INTRAP set and the trap word of Table 21.2 on vc15; with TVEC 0 the cause goes to the partition supervisor. -/
def Sys2Proof.Cert.DelegatedEntry : Prop :=
  ∀ (s : State) (r : Nat) (q : QCause) (rest : List QCause),
    let b := (s.rect r).body
    let h := b.handler
    b.dq = q :: rest → b.hasHandler = true → h.intrap = false → h.held = false → ((s.rect r).phase = .run ∨ (s.rect r).phase = .boundary) →
    (∀ w ∈ ((b.core 0).vc 15).queue, w.kind ≠ .stat) → q.cause < 256 → q.slot < 8 → q.lx < 16 → q.ly < 16 →
    ∃ t, exec (.delegatedEntry r) s = .next t ∧ (t.rect r).body.dq = rest ∧ SameMemory s t
      ∧ (h.tvec = 0 → (t.rect r).body.atSup = b.atSup ++ [q] ∧ (t.rect r).body.handler = h)
      ∧ (h.tvec ≠ 0 →
          let h' := (t.rect r).body.handler
          h'.tpc = h.pc ∧ h'.tval = q.tval ∧ h'.pc = h.tvec ∧ h'.intrap = true ∧ h'.wait = none
          ∧ TcauseIs h'.tcause q.cause q.slot q.lx q.ly true q.fabric
          ∧ (t.rect r).body.serving = some q
          ∧ (((t.rect r).body.core 0).vc 15).queue = ((b.core 0).vc 15).queue ++ [⟨.stat, q.trapWord⟩])

/-- R513: RETT outside a handler traps ILLEGAL; after local entry it goes to TPC with INTRAP clear and changes nothing
else; after a delegated entry for a task it also releases the held origin, which resumes at its own TPC; after one for
the fabric every stopped element, port and engine resumes, except that GATE and FIREWALL pass on to the supervisor.
R466, R467: the handler task takes the head of the delegation queue when it is free: TPC, TVAL, TCAUSE with DLG, the
PC at TVEC, INTRAP set and the trap word of Table 21.2 on vc15; with TVEC 0 the cause goes to the partition
supervisor. -/
def Obligations.ReturnsAndDelegatedEntry : Prop :=
  Cert.ReturnFromException ∧ Cert.DelegatedEntry

/-- R79, R73: a word whose opcode is unassigned raises ILLEGAL before any guard, with its low 32 bits in TVAL; a word
that decode refuses for another reason does so too, but for an unlisted control register, whose index TVAL takes (R445). -/
def Sys2Proof.Cert.DecodeFaultsTrap : Prop :=
  ∀ (s : State) (w : Word),
    exec (.unassignedOpcode w) s = .next (traps s 0x01 (BitVec.ofNat 64 (w.toNat % 2 ^ 32)))
    ∧ (∀ (t : TaskRef), s.fetchWord t = w →
        let s1 : State := { s with cur := t }
        (decode w = .error .reserved → stepTask s t = .next (traps s1 0x01 (BitVec.ofNat 64 (w.toNat % 2 ^ 32))))
        ∧ (∀ i, decode w = .error (.index i) → stepTask s t = .next (traps s1 0x01 (BitVec.ofNat 64 i.toNat)))
        ∧ (∀ i, decode w = .ok i → stepTask s t = exec i s1))

/-- R512: TRAP and EBRK complete with the loop-end step and then raise their cause; TPC names the next instruction,
and TVAL is the code in the place of the word's field. R79, R73: a word whose opcode is unassigned raises ILLEGAL
before any guard, with its low 32 bits in TVAL; a word that decode refuses for another reason does so too, but for an
unlisted control register, whose index TVAL takes (R445). -/
def Obligations.TrapsOfTheInstructionStream : Prop :=
  Cert.TrapInstructions ∧ Cert.DecodeFaultsTrap

namespace Sys2Proof.Cert

open Sys2Proof.Machine

/-- Bytes of the size codes of loads, stores and atomics (Table 3.4, R80). -/
def bytesOfLd : LdSize → Nat
  | .b | .bz => 1
  | .h | .hz => 2
  | .w | .wz => 4
  | .d => 8
def bytesOfSt : StSize → Nat
  | .b => 1
  | .h => 2
  | .w => 4
  | .d => 8
def bytesOfAt : AtSize → Nat
  | .w => 4
  | .d => 8

/-- A value of `n` bytes read as signed. -/
def signedBytes (n v : Nat) : Int := if 2 ^ (8 * n - 1) ≤ v then (v : Int) - 2 ^ (8 * n) else v

/-- The address of a base and a signed offset (R292). -/
def addrOff (x : Word) (off : Int) : Word := x + BitVec.ofInt 64 off

/-- What the range and translation checks of R292 find for an access of `n` bytes by the issuing task. -/
def reaches (s : State) (ea : Word) (n : Nat) (write : Bool) : Reach :=
  let b := s.begin
  b.reach b.cur.rect (.task b.cur) (coreCache (b.myRect.phys b.cur.core)) (b.dieOfTask b.cur) ea.toNat n write false

/-- The access meets every check of R292 and stands at location `l`; no TAKE that may bring knowledge is pending (R281,
log 36). -/
def Passes (s : State) (ea : Word) (n : Nat) (write : Bool) (l : Loc) (bp : Bool) : Prop :=
  s.begin.uninformed s.cur = false ∧ ea.toNat % n = 0 ∧ ea.toNat < 2 ^ 48 ∧ reaches s ea n write = .at_ l bp

/-- The scope is allowed to the tenant (R290). -/
def ScopeAllowed (s : State) (sc : Scope) : Prop := sc.code ≤ (s.begin.tenant s.begin.myRect.tag).scopeMax

/-- One access was posted with these properties, a register that it fills became empty, and nothing else of memory or of
any other task changed (R278, R294, R295). Writes after a release fence carry its scope and cut (R279). -/
def Posts (s t : State) (reg : Option Reg) (ea : Word) (l : Loc) (kind : AccKind) (pol : Policy) (acq rel : Bool) (sc : Scope)
    (cut : Nat) : Prop :=
  (∃ a, t.accesses = s.accesses ++ [a] ∧ a.id = s.nextId ∧ a.task = s.cur ∧ a.va = ea ∧ a.loc = l ∧ a.kind = kind ∧ a.policy = pol
    ∧ a.acq = acq ∧ a.rel = rel ∧ cut ≤ a.cut ∧ (s.me.relScope ≤ 7 → sc.code ≤ a.scope.code)
    ∧ a.reg = (match reg with | some r => if r = 0 then none else some r.val | none => none)
    ∧ (s.me.relScope = 0 ∨ kind.isLoad = true → a.scope = sc ∧ a.cut = cut))
  ∧ t.nextId = s.nextId + 1
  ∧ t.me = (retire s (fun x => match reg with | some d => x.markEmpty d (.access s.nextId) | none => x)).me
  ∧ SameMemory s t ∧ (∀ u, u ≠ s.cur → t.task u = s.task u)

/-- The scope of a plain access: its own task, which orders nothing for others. -/
def plainScope : Scope := .core

end Sys2Proof.Cert

/-- R292 to R295, R278: loads and stores that meet the checks are posted at their location with their value, policy
(BYPASS where the leaf says so), order and scope; a load empties its register. A release wider than RECT waits for the
next cut (R291). -/
def Sys2Proof.Cert.LoadsAndStoresPost : Prop :=
  ∀ (s : State) (g : Guard) (ls : LdSize) (ss : StSize) (cp : Policy) (sc : Scope) (d : Reg) (a b : Src) (k : Fin 4)
    (off : BitVec 20) (l : Loc) (bp : Bool),
    let n := bytesOfLd ls
    let m := bytesOfSt ss
    let sx := decide (ls = .b ∨ ls = .h ∨ ls = .w)
    let ea := addrOff (val s a) off.toInt
    let ex := val s a + BitVec.ofNat 64 ((val s b).toNat * 2 ^ k.val)
    let pol := fun (p : Policy) => if bp then Policy.bypass else p
    let relCut := if 2 ≤ sc.code then s.myRect.taskCut else 0
    (Executes s g [a.r] [d] → Passes s ea n false l bp →
      (∃ t, exec (.ld g ls cp d a off) s = .next t ∧ Posts s t (some d) ea l (.load n sx) (pol cp) false false plainScope 0)
      ∧ (ScopeAllowed s sc → ∃ t, exec (.ldacq g ls sc d a off) s = .next t
          ∧ Posts s t (some d) ea l (.load n sx) (pol .keep) true false sc 0))
    ∧ (Executes s g [a.r, b.r] [d] → Passes s ex n false l bp →
      ∃ t, exec (.ldx g ls cp d a b k) s = .next t ∧ Posts s t (some d) ex l (.load n sx) (pol cp) false false plainScope 0)
    ∧ (Executes s g [a.r, b.r] [] → Passes s ea m true l bp →
      (∃ t, exec (.st g ss cp b a off) s = .next t ∧ Posts s t none ea l (.store m (val s b)) (pol cp) false false plainScope 0)
      ∧ (ScopeAllowed s sc → ∃ t, exec (.strel g ss sc b a off) s = .next t
          ∧ Posts s t none ea l (.store m (val s b)) (pol .keep) false true sc relCut))
    ∧ (Executes s g [a.r, b.r, d] [] → Passes s ex m true l bp →
      ∃ t, exec (.stx g ss cp d a b k) s = .next t ∧ Posts s t none ex l (.store m (s.me.reg d)) (pol cp) false false plainScope 0)

/-- R297, R298, R291: atomics that meet the checks are posted; to paged memory, or released wider than RECT, they wait
for the next cut. -/
def Sys2Proof.Cert.AtomicsPost : Prop :=
  ∀ (s : State) (g : Guard) (op : AmoOp) (sz : AtSize) (o : Order) (sc : Scope) (d : Reg) (a b : Src) (off : BitVec 16)
    (off' : BitVec 20) (l : Loc) (bp : Bool),
    let n := bytesOfAt sz
    let pol := if bp then Policy.bypass else .keep
    let acq := decide (o = .acq ∨ o = .ar)
    let rel := decide (o = .rel ∨ o = .ar)
    let cut := match l with
      | .window _ _ => if 2 ≤ sc.code then s.myRect.taskCut else 0
      | _ => s.myRect.taskCut
    ScopeAllowed s sc →
    (Executes s g [a.r, b.r] [d] → Passes s (addrOff (val s a) off.toInt) n true l bp →
      ∃ t, exec (.amo g op sz o sc d b a off) s = .next t
        ∧ Posts s t (some d) (addrOff (val s a) off.toInt) l (.amo op n (val s b)) pol acq rel sc cut)
    ∧ (Executes s g [a.r, b.r, d] [] → Passes s (addrOff (val s a) off'.toInt) n true l bp →
      ∃ t, exec (.cas g sz o sc d b a off') s = .next t
        ∧ Posts s t (some d) (addrOff (val s a) off'.toInt) l (.cas n (s.me.reg d) (val s b)) pol acq rel sc cut)

/-- R292 to R295, R278: loads and stores that meet the checks are posted at their location with their value, policy
(BYPASS where the leaf says so), order and scope; a load empties its register. A release wider than RECT waits for the
next cut (R291). R297, R298, R291: atomics that meet the checks are posted; to paged memory, or released wider than
RECT, they wait for the next cut. -/
def Obligations.LoadsStoresAndAtomicsPost : Prop :=
  Cert.LoadsAndStoresPost ∧ Cert.AtomicsPost

/-- R292, R290: the checks in their order: an unaligned address traps MISALIGN, one outside the spaces or the mapping
traps ACCESS, both with the address; a scope above SCOPEMAX traps SCOPE where the tenant is strict; a translation that
misses starts a walk that the task waits for, with no effect of its own. -/
def Obligations.AccessChecks : Prop :=
  ∀ (s : State) (g : Guard) (ls : LdSize) (ss : StSize) (cp : Policy) (sc : Scope) (d : Reg) (a b : Src) (off : BitVec 20),
    let ea := addrOff (val s a) off.toInt
    let n := bytesOfLd ls
    s.begin.uninformed s.cur = false →
    (Executes s g [a.r] [d] →
      (ea.toNat % n ≠ 0 → exec (.ld g ls cp d a off) s = .next (traps s 0x04 ea))
      ∧ (ea.toNat % n = 0 → 2 ^ 48 ≤ ea.toNat → exec (.ld g ls cp d a off) s = .next (traps s 0x05 ea))
      ∧ (ea.toNat % n = 0 → ea.toNat < 2 ^ 48 → reaches s ea n false = .miss →
          ∃ t w, exec (.ld g ls cp d a off) s = .next t ∧ t.me = s.me.waitFor (.access w) ∧ t.accesses = s.accesses
            ∧ SameMemory s t ∧ (∃ k ∈ t.walks, k.id = w ∧ k.who = .task s.cur ∧ k.va / 4096 = ea.toNat / 4096))
      ∧ ((s.begin.tenant s.begin.myRect.tag).scopeMax < sc.code → (s.begin.tenant s.begin.myRect.tag).scopeStrict = true →
          exec (.ldacq g ls sc d a off) s = .next (traps s 0x0E (BitVec.ofNat 64 sc.code))))
    ∧ (Executes s g [a.r, b.r] [] →
      (ea.toNat % bytesOfSt ss ≠ 0 → exec (.st g ss cp b a off) s = .next (traps s 0x04 ea)))

/-- R296, R300, R299: a fence with none of its task's accesses pending orders later writes when it releases; cache
maintenance at CORE or RECT scope acts on the tenant's lines of its range: CWB leaves them clean, CINV drops the clean
ones, CWBI drops them all; PREF of a window address has no effect. -/
def Obligations.FencesAndMaintenance : Prop :=
  ∀ (s : State) (g : Guard) (o : Order) (sc : Scope) (a b : Src) (cp : Policy) (off : BitVec 20),
    sc.code ≤ 1 → ScopeAllowed s sc → s.begin.ownPending s.cur s.nextId false = false →
    let tag := s.begin.myRect.tag
    let inRange := fun l => s.begin.lineInRange tag (val s a).toNat (val s b).toNat l
    let rel := decide (o = .rel ∨ o = .ar)
    (s.me.guard g = true → ∃ t, exec (.fence g o sc) s = .next t ∧ SameMemory s t ∧ t.lines = s.lines
      ∧ t.me = (retire s (fun x => if rel then { x with relScope := sc.code + 1, relUpto := s.nextId, relCut := 0 } else x)).me)
    ∧ (Executes s g [a.r, b.r] [] → (val s a).toNat + (val s b).toNat ≤ 2 ^ 48 →
      (∃ t, exec (.cwb g sc a b) s = .next t ∧ t.me.pc = s.me.loopEnd.pc
        ∧ t.lines = s.lines.map (fun l => if inRange l then { l with dirty := false } else l))
      ∧ (∃ t, exec (.cinv g sc a b) s = .next t ∧ t.me.pc = s.me.loopEnd.pc ∧ SameMemory s t
        ∧ t.lines = s.lines.filter (fun l => l.dirty || !inRange l))
      ∧ (∃ t, exec (.cwbi g sc a b) s = .next t ∧ t.me.pc = s.me.loopEnd.pc ∧ (∀ l ∈ t.lines, l ∈ s.lines)
        ∧ (∀ l ∈ s.lines, inRange l = false → l ∈ t.lines)))
    ∧ (Executes s g [a.r, b.r] [] → 2 ^ 48 < (val s a).toNat + (val s b).toNat →
        exec (.cwb g sc a b) s = .next (traps s 0x05 (val s a)))
    ∧ (Executes s g [a.r] [] → windowBase ≤ (addrOff (val s a) off.toInt).toNat →
        exec (.pref g cp a off) s = .next (retire s id))

namespace Sys2Proof.Cert

open Sys2Proof.Machine

/-- An access that alone stands pending: the memory owes its task nothing before it. -/
structure Alone (s : State) (a : Access) : Prop where
  only : s.accesses = [a]
  behind : (s.task a.task).behind = []
  remote : (s.rect a.task.rect).remote = []
  cut : a.cut ≤ (s.rect a.task.rect).complete
  plain : a.upto = 0 ∧ a.acq = false

end Sys2Proof.Cert

/-- R256, R278, R282, R294, R295, R297, R298: at the scratchpad a pending access is performed at once: a store writes its
bytes, little-endian, and no others; a load leaves its value, extended by its size, ready for its register; an atomic
does both with the old value. -/
def Sys2Proof.Cert.AccessesPerformed : Prop :=
  ∀ (s : State) (a : Access) (c o : Nat), Alone s a → a.loc = .window c o →
    Memory.wf (s.core ⟨a.task.rect, c⟩).scratch = true →
    let m := (s.core ⟨a.task.rect, c⟩).scratch
    let old := fun n => joinBytes (cellBytes m o n)
    let writes := fun (t : State) (n : Nat) (v : Nat) => ∀ k, byteAt (t.core ⟨a.task.rect, c⟩).scratch k =
      if o ≤ k ∧ k < o + n then BitVec.ofNat 8 (v / 256 ^ (k - o)) else byteAt m k
    let ready := fun (t : State) (v : Word) => ∀ r, a.reg = some r →
      Sparse.at .full (s.task a.task).pres r = .empty (.access a.id) →
      ∃ f, Sparse.at .full (t.task a.task).pres r = .empty (.value v f)
    ∃ t, exec (.accessPerformedAtNode a.id) s = .next t ∧ t.accesses = []
      ∧ (∀ x, byteAt t.mem x = byteAt s.mem x) ∧ (∀ x, byteAt t.peer x = byteAt s.peer x)
      ∧ (∀ r k, (r, k) ≠ (a.task.rect, c) → (t.core ⟨r, k⟩).scratch = (s.core ⟨r, k⟩).scratch)
      ∧ (∀ n v, a.kind = .store n v → writes t n v.toNat)
      ∧ (∀ n sx, a.kind = .load n sx → (t.core ⟨a.task.rect, c⟩).scratch = m
          ∧ ready t (if sx then BitVec.ofInt 64 (signedBytes n (old n)) else BitVec.ofNat 64 (old n)))
      ∧ (∀ n y, a.kind = .amo .add n y → writes t n ((old n + y.toNat % 2 ^ (8 * n)) % 2 ^ (8 * n))
          ∧ ready t (BitVec.ofInt 64 (signedBytes n (old n))))
      ∧ (∀ n y, a.kind = .amo .swap n y → writes t n (y.toNat % 2 ^ (8 * n)) ∧ ready t (BitVec.ofInt 64 (signedBytes n (old n))))
      ∧ (∀ n e y, a.kind = .cas n e y → ready t (BitVec.ofInt 64 (signedBytes n (old n)))
          ∧ (old n = e.toNat % 2 ^ (8 * n) → writes t n y.toNat)
          ∧ (old n ≠ e.toNat % 2 ^ (8 * n) → (t.core ⟨a.task.rect, c⟩).scratch = m))

/-- R44, R48, R470, R508, R322: a value that stands ready fills its register; an absent register is fetched with the value
that its context holds, on a miss or in the background; a sleep whose time is reached ends. -/
def Sys2Proof.Cert.RegisterDeliveries : Prop :=
  ∀ (s : State) (t : TaskRef) (r : Reg) (v : Word) (f : Option (BitVec 5)), r ≠ 0 → t.slot < 8 →
    let x := s.task t
    ((s.rect t.rect).phase = .run → Sparse.at .full x.pres r.val = .empty (.value v f) →
      exec (.producerDeliver t r.val) s
        = .next (s.modTask t (fun x => ({ x with fpflags := x.fpflags ||| f.getD 0 } : Task).write r v)))
    ∧ (Sparse.at .full x.pres r.val = .absent → x.wait = some (.reg r.val) →
      ∃ u, exec (.registerMissMicroTrap t r.val) s = .next u ∧ (u.task t).presence r = .full
        ∧ (u.task t).reg r = Sparse.at 0#64 x.saved r.val ∧ (∀ k, k ≠ r → (u.task t).reg k = x.reg k)
        ∧ (∀ w, w ≠ t → u.task w = s.task w) ∧ SameMemory s u)
    ∧ (x.pres = [(r.val, .absent)] → (∀ k, k < t.slot → ((s.core t.coreRef).task k).pres = []) →
      ∃ u, exec (.backgroundRegisterFetch t.coreRef) s = .next u ∧ (u.task t).presence r = .full
        ∧ (u.task t).reg r = Sparse.at 0#64 x.saved r.val ∧ (∀ w, w ≠ t → u.task w = s.task w) ∧ SameMemory s u)
    ∧ (x.wait = some (.sleep v) → v.toNat ≤ (s.timeOf t.coreRef).toNat →
      exec (.sleepTimeReached t) s = .next (s.setTask t x.unwait))

/-- R256, R278, R282, R294, R295, R297, R298: at the scratchpad a pending access is performed at once: a store writes
its bytes, little-endian, and no others; a load leaves its value, extended by its size, ready for its register; an
atomic does both with the old value. R44, R48, R470, R508, R322: a value that stands ready fills its register; an
absent register is fetched with the value that its context holds, on a miss or in the background; a sleep whose time
is reached ends. -/
def Obligations.AccessesAndDeliveries : Prop :=
  Cert.AccessesPerformed ∧ Cert.RegisterDeliveries

namespace Sys2Proof.Cert

open Sys2Proof.Machine

/-- First bit and width of the pattern field that QSET names (Table 2.4, R311). -/
def fieldPlace : QField → Nat × Nat
  | .base => (0, 64)
  | .c0 => (64, 16)
  | .c1 => (80, 16)
  | .c2 => (96, 16)
  | .c3 => (112, 16)
  | .d0 => (128, 32)
  | .d1 => (160, 32)
  | .d2 => (192, 32)
  | .d3 => (224, 32)

/-- A pattern with the bits from `lo` on, `w` of them, taken from a value, and every other bit kept. -/
def FieldSet (p p' : Pattern) (lo w : Nat) (v : Word) : Prop :=
  ∀ i < 256, p'.getLsbD i = if lo ≤ i ∧ i < lo + w then v.getLsbD (i - lo) else p.getLsbD i

/-- The pattern with its base raised (R303). -/
def raised (p : Pattern) (b : Word) (p' : Pattern) : Prop := FieldSet p p' 0 64 (p.setWidth 64 + b)

/-- No access or remote write of the issuing task is pending. -/
def Settled (s : State) : Prop := s.accesses = [] ∧ s.myRect.remote = [] ∧ s.me.behind = []

/-- One command joined a feed port, another a sink port; nothing else changed but the task's own end of the instruction. -/
def JoinsFeed (s t : State) (f : Nat) (cmd : StreamCmd) : Prop :=
  let p := s.myCore.feed f
  t = retireS s (fun s => s.modCore s.cur.coreRef (fun c =>
    c.setFeed f { p with cmds := p.cmds ++ [cmd], issued := p.issued + 1 }))
def JoinsSink (s t : State) (k : Nat) (cmd : StreamCmd) (f : Task → Task) : Prop :=
  let p := s.myCore.sink k
  t = retireS s (fun s => (s.modCore s.cur.coreRef (fun c =>
    c.setSink k { p with cmds := p.cmds ++ [cmd], issued := p.issued + 1 })).modTask s.cur f)

end Sys2Proof.Cert

/-- R52, R311: QSET replaces the field that it names, QADV raises the base, QLD loads the 32 bytes of a settled
scratchpad; every other bit of the register stays. -/
def Sys2Proof.Cert.PatternRegisters : Prop :=
  ∀ (s : State) (g : Guard) (f : QField) (q : Fin 16) (a : Src) (c o : Nat) (bp : Bool), Executes s g [a.r] [] →
    let p := s.myCore.pattern q.val
    let sets := fun (p' : Pattern) => Host.Outcome.next (ρ := Refusal) (φ := Fault)
      (retireS s (fun s => s.modCore s.cur.coreRef (fun c => c.setPattern q.val p')))
    (∃ p', exec (.qset g f q a) s = sets p' ∧ FieldSet p p' (fieldPlace f).1 (fieldPlace f).2 (val s a))
    ∧ (∃ p', exec (.qadv g q a) s = sets p' ∧ raised p (val s a) p')
    ∧ (Settled s → Passes s (val s a) 32 false (.window c o) bp → ∃ t, exec (.qld g q a) s = .next t ∧ SameMemory s t
        ∧ t.myCore.pattern q.val = BitVec.ofNat 256 (joinBytes (cellBytes (s.core ⟨s.cur.rect, c⟩).scratch o 32))
        ∧ t.me = (retire s id).me)

/-- R302 to R306, R44: a command of a bound port whose queue has room joins it as it was captured at issue: the pattern
with its base raised for FEED and SINK, one word for INJ and TOK; TAKE empties its register. -/
def Obligations.PortCommandsJoin : Prop :=
  ∀ (s : State) (g : Guard) (f q tag : Fin 16) (b : Src) (pkt eok eor eos sx : Bool) (esz : EltSize) (kind : TokKind) (d : Reg),
    let tg := BitVec.ofNat 4 tag.val
    let p := s.myCore.pattern q.val
    let sl := s.cur.slot
    ((s.myCore.feed f.val).bind.isSome = true → (s.myCore.feed f.val).waiting < 4 → Executes s g [b.r] [] →
      (∃ t pat, exec (.feed g f q b tag pkt eok eor eos sx esz) s = .next t ∧ raised p (val s b) pat
        ∧ JoinsFeed s t f.val ⟨sl, .feed tg pkt eok eor eos sx esz, pat⟩)
      ∧ (∃ t, exec (.inj g f b tag) s = .next t ∧ JoinsFeed s t f.val ⟨sl, .word ⟨.data, tg, (val s b).setWidth 32⟩, 0⟩)
      ∧ (∃ t k, exec (.tok g kind f b tag) s = .next t ∧ JoinsFeed s t f.val ⟨sl, .word ⟨k, tg, (val s b).setWidth 32⟩, 0⟩
          ∧ k.code = kind.code))
    ∧ ((s.myCore.sink f.val).bind.isSome = true → (s.myCore.sink f.val).waiting < 4 →
      (Executes s g [b.r] [] → ∃ t pat, exec (.sink g f q b pkt esz) s = .next t ∧ raised p (val s b) pat
        ∧ JoinsSink s t f.val ⟨sl, .sink pkt esz, pat⟩ id)
      ∧ (Executes s g [] [d] → ∃ t, exec (.take g d f) s = .next t
        ∧ JoinsSink s t f.val ⟨sl, .take d.val, 0⟩ (fun t => t.markEmpty d (.take f.val))))
    ∧ ((s.myCore.feed f.val).bind = none → Executes s g [b.r] [] →
      exec (.feed g f q b tag pkt eok eor eos sx esz) s = .next (traps s 0x10 (BitVec.ofNat 64 f.val)))

/-- R307 to R309, R56: PORTQ reads whether a bound port is active, its commands, words and position; SBAR goes on when no
command of the task stands at the ports of its mask; ACCRST sets the running value at once between streams, and of an
accumulator that no element is bound to it does nothing. -/
def Sys2Proof.Cert.PortStatus : Prop :=
  ∀ (s : State) (g : Guard) (d : Reg) (n : Fin 16) (b : Src) (ac : Fin 8),
    let c := s.myCore
    let word := fun (active : Bool) (queued held position : Nat) =>
      BitVec.ofNat 64 (active.toNat * 2 ^ 56 + queued % 8 * 2 ^ 53 + held % 32 * 2 ^ 48 + position % 2 ^ 48)
    (Executes s g [] [d] →
      ((c.feed n.val).bind.isSome = true → exec (.portq g d n false) s = .next (retire s (fun t =>
        t.write d (word (c.feed n.val).active (c.feed n.val).waiting 0 (c.feed n.val).position))))
      ∧ ((c.sink n.val).bind.isSome = true → exec (.portq g d n true) s = .next (retire s (fun t =>
        t.write d (word (c.sink n.val).active (c.sink n.val).waiting (c.sink n.val).queue.length (c.sink n.val).position)))))
    ∧ (Executes s g [b.r] [] →
      ((∀ i < 16, (val s b).getLsbD i = true → (c.feed i).bind.isSome = true ∧ (c.feed i).cmds = []) →
        (∀ i < 16, (val s b).getLsbD (16 + i) = true → (c.sink i).bind.isSome = true ∧ (c.sink i).cmds = []) →
        exec (.sbar g b) s = .next (retire s id))
      ∧ (c.acSite ac.val = none → exec (.accrst g ac b) s = .next (retire s id))
      ∧ (∀ m, c.acSite ac.val = some m → (c.site m).st.atStart = true → (∀ q ∈ (c.site m).queues, q = []) →
          ∃ t, exec (.accrst g ac b) s = .next t ∧ (t.myCore.site m).st.v = (val s b).setWidth 32
            ∧ (∀ k, k ≠ m → t.myCore.site k = c.site k) ∧ t.me = (retire s id).me))

/-- R52, R311: QSET replaces the field that it names, QADV raises the base, QLD loads the 32 bytes of a settled
scratchpad; every other bit of the register stays. R307 to R309, R56: PORTQ reads whether a bound port is active, its
commands, words and position; SBAR goes on when no command of the task stands at the ports of its mask; ACCRST sets
the running value at once between streams, and of an accumulator that no element is bound to it does nothing. -/
def Obligations.PatternRegistersAndPortStatus : Prop :=
  Cert.PatternRegisters ∧ Cert.PortStatus

/-- R310: CFGLD, in mode K only, reads the frames of its pattern, holds the feed ports and waits for the rectangle to
drain; when nothing of the rectangle is on its way the configuration is replaced, a cut is asked for and the instruction
retires; when the limit of cycles has passed first, the residue is kept and the task traps DRAIN. -/
def Sys2Proof.Cert.ConfigurationLoad : Prop :=
  ∀ (s : State) (g : Guard) (q : Fin 16) (b : Src) (c o : Nat) (bp : Bool), Executes s g [b.r] [] →
    let pat := s.myCore.pattern q.val
    let frame : BitVec 256 := BitVec.ofNat 256 (joinBytes (cellBytes (s.core ⟨s.cur.rect, c⟩).scratch o 32))
    (s.me.kmode = false → exec (.cfgld g q b) s = .next (traps s 0x02 0))
    ∧ (s.me.kmode = true → Settled s → patTotal pat = 1 → Passes s (patAddr pat 0) 32 false (.window c o) bp →
        s.begin.reloadFault s.cur.rect [frame] = none →
        ∃ t rl, exec (.cfgld g q b) s = .next t ∧ t.myRect.reload = some rl ∧ rl.task = s.cur ∧ rl.frames = [frame]
          ∧ t.me = s.me.waitFor .drain ∧ SameMemory s t)

/-- R310, R510, R490: the two ends of a CFGLD, and the residue words that software reads on vc15 after the second. -/
def Sys2Proof.Cert.ConfigurationLoadEnds : Prop :=
  ∀ (s : State) (r : Nat) (rl : Reload), (s.rect r).reload = some rl → rl.task.rect = r → (s.rect r).phase = .run →
    (s.quiescent r = true → (s.rect r).prog = none →
      ∃ t, exec (.quiescenceEmpty r) s = .next t ∧ (t.rect r).reload = none ∧ (t.rect r).requested = true
        ∧ (t.task rl.task).wait = none)
    ∧ (s.quiescent r = false → rl.stores ≤ (s.die (s.dieOfTask rl.task)).cycles.toNat →
      ∃ t, exec (.cfgldDrainTimeout r) s = .next t ∧ (t.rect r).reload = none
        ∧ (t.task rl.task).tcause.setWidth 8 = 0x15#8
        ∧ (t.rect r).body.residue = ((s.rect r).body.residueWords).take 64)
    ∧ (∀ w rest, (s.rect r).body.residue = w :: rest → (((s.rect r).body.core 0).vc 15).queue.length < 8 →
      ∃ t, exec (.residueWordEnqueue r) s = .next t ∧ (t.rect r).body.residue = rest
        ∧ (((t.rect r).body.core 0).vc 15).queue = (((s.rect r).body.core 0).vc 15).queue ++ [⟨.stat, w⟩])

/-- R310: CFGLD, in mode K only, reads the frames of its pattern, holds the feed ports and waits for the rectangle to
drain; when nothing of the rectangle is on its way the configuration is replaced, a cut is asked for and the
instruction retires; when the limit of cycles has passed first, the residue is kept and the task traps DRAIN. R310,
R510, R490: the two ends of a CFGLD, and the residue words that software reads on vc15 after the second. -/
def Obligations.ConfigurationLoad : Prop :=
  Cert.ConfigurationLoad ∧ Cert.ConfigurationLoadEnds

/-- R302, R303, R472: a queued command of an idle port starts, with the one word of an INJ or TOK ready; a word ready at a
feed port enters the queue of its element when it has a free slot, and the position counts it; a MARK that is due goes
first and is not counted; a port that has delivered SNAPINT words since the last MARK asks for a cut. -/
def Sys2Proof.Cert.FeedPortSteps : Prop :=
  ∀ (s : State) (c : CoreRef) (n : Fin 16) (w : FWord) (cmd : StreamCmd) (cmds : List StreamCmd) (rest : List FWord) (e q : Nat),
    let p := (s.core c).feed n.val
    let x := s.rect c.rect
    let queue := fun (s : State) => ((s.core c).site e).queues.getD q []
    x.phase = .run →
    (p.cmds = cmd :: cmds → p.active = false → cmd.op = .word w →
      exec (.portCommandStart c false n) s
        = .next (s.modCore c (fun k => k.setFeed n.val { p with active := true, at_ := 0, stage := [w] })))
    ∧ (p.bind = some (e, q) → q < ((s.core c).site e).queues.length → (queue s).length < 4 →
      (p.markDue = false → x.reload = none → p.active = true → p.fault = false → x.body.snapint = 0 → p.stage = w :: rest →
        ∃ t, exec (.feedWordDeliver c n) s = .next t ∧ queue t = queue s ++ [w]
          ∧ ((t.core c).feed n.val).position = p.position + 1 ∧ ((t.core c).feed n.val).sinceMark = p.sinceMark + 1
          ∧ ((t.core c).feed n.val).stage = rest ∧ SameMemory s t
          ∧ (rest = [] → cmd.op = .word w → p.cmds = cmd :: cmds →
              ((t.core c).feed n.val).cmds = cmds ∧ ((t.core c).feed n.val).active = false))
      ∧ (p.markDue = true → ∃ t, exec (.feedWordDeliver c n) s = .next t ∧ queue t = queue s ++ [⟨.mark, 0, 0⟩]
          ∧ ((t.core c).feed n.val) = { p with markDue := false, sinceMark := 0 } ∧ SameMemory s t))
    ∧ (x.body.snapint ≠ 0 → x.body.snapint.toNat ≤ p.sinceMark → x.prog = none →
      ∃ t, exec (.snapintCountReached c n) s = .next t ∧ (t.rect c.rect).requested = true)

/-- R303, R301, R52: an element of a FEED is read at its address of the pattern, extended by its size, and delivered as
DATA with the command's tag, followed by the delimiters that its flags ask for. -/
def Sys2Proof.Cert.FeedReadsMemory : Prop :=
  ∀ (s : State) (c : CoreRef) (n : Fin 16) (cmd : StreamCmd) (cmds : List StreamCmd) (e q k o : Nat) (tag : BitVec 4) (sx : Bool),
    let p := (s.core c).feed n.val
    let x := s.rect c.rect
    let queue := fun (s : State) => ((s.core c).site e).queues.getD q []
    let va := patAddr cmd.pat p.at_
    x.phase = .run → p.bind = some (e, q) → q < ((s.core c).site e).queues.length → (queue s).length < 4 →
    p.markDue = false → x.reload = none → p.active = true → p.fault = false → x.body.snapint = 0 → p.stage = [] →
    p.cmds = cmd :: cmds → cmd.op = .feed tag false false false false sx .b → p.at_ < patTotal cmd.pat →
    va.toNat < 2 ^ 48 → windowBase ≤ va.toNat → x.windowLoc va.toNat 1 = some (.window k o) →
    let v := (byteAt (s.core ⟨c.rect, k⟩).scratch o)
    let v32 : W32 := if sx then v.signExtend 32 else v.setWidth 32
    ∃ t, exec (.feedWordDeliver c n) s = .next t ∧ queue t = queue s ++ [⟨.data, tag, v32⟩] ∧ SameMemory s t
      ∧ (p.at_ + 1 < patTotal cmd.pat → ((t.core c).feed n.val).at_ = p.at_ + 1 ∧ ((t.core c).feed n.val).cmds = p.cmds)
      ∧ (p.at_ + 1 = patTotal cmd.pat → ((t.core c).feed n.val).cmds = cmds ∧ ((t.core c).feed n.val).active = false)

/-- R304, R306: the executing SINK stores the low bytes of a DATA word at its address and no others, drops any other kind
but EOS, which ends it; the executing TAKE gives its register the word at the head of the queue. -/
def Sys2Proof.Cert.SinkPortSteps : Prop :=
  ∀ (s : State) (c : CoreRef) (n : Fin 16) (cmd : StreamCmd) (cmds : List StreamCmd) (w : FWord) (rest : List FWord) (k o : Nat)
    (d : Reg),
    let p := (s.core c).sink n.val
    let x := s.rect c.rect
    let va := patAddr cmd.pat p.at_
    let m := (s.core ⟨c.rect, k⟩).scratch
    x.phase = .run → x.prog = none → p.cmds = cmd :: cmds → p.active = true → p.fault = false → p.queue = w :: rest →
    (cmd.op = .sink false .w → w.kind = .data → va.toNat % 4 = 0 → va.toNat < 2 ^ 48 → windowBase ≤ va.toNat →
      x.windowLoc va.toNat 4 = some (.window k o) → Memory.wf m = true →
      ∃ t, exec (.sinkWordStore c n) s = .next t ∧ ((t.core c).sink n.val).queue = rest
        ∧ (∀ i, byteAt (t.core ⟨c.rect, k⟩).scratch i
            = if o ≤ i ∧ i < o + 4 then w.data.extractLsb' (8 * (i - o)) 8 else byteAt m i)
        ∧ (∀ j, j ≠ (⟨c.rect, k⟩ : CoreRef) → (t.core j).scratch = (s.core j).scratch) ∧ t.mem = s.mem ∧ t.peer = s.peer)
    ∧ (cmd.op = .sink false .w → w.kind = .eos → ∃ t, exec (.sinkWordStore c n) s = .next t ∧ SameMemory s t
        ∧ ((t.core c).sink n.val).queue = rest ∧ ((t.core c).sink n.val).cmds = cmds ∧ ((t.core c).sink n.val).active = false)
    ∧ (cmd.op = .sink false .w → w.kind = .eor → ∃ t, exec (.sinkWordStore c n) s = .next t ∧ SameMemory s t
        ∧ ((t.core c).sink n.val).queue = rest ∧ ((t.core c).sink n.val).cmds = p.cmds)
    ∧ (d ≠ 0 → cmd.op = .take d.val → cmd.slot < 8 →
        Sparse.at .full (s.task ⟨c.rect, c.core, cmd.slot⟩).pres d.val = .empty (.take n.val) →
        ∃ t, exec (.producerDeliver ⟨c.rect, c.core, cmd.slot⟩ d.val) s = .next t ∧ SameMemory s t
          ∧ (t.task ⟨c.rect, c.core, cmd.slot⟩) = (s.task ⟨c.rect, c.core, cmd.slot⟩).write d w.toWord
          ∧ ((t.core c).sink n.val).queue = rest ∧ ((t.core c).sink n.val).cmds = cmds)

/-- R302, R303, R472: a queued command of an idle port starts, with the one word of an INJ or TOK ready; a word ready
at a feed port enters the queue of its element when it has a free slot, and the position counts it; a MARK that is due
goes first and is not counted; a port that has delivered SNAPINT words since the last MARK asks for a cut. R303, R301,
R52: an element of a FEED is read at its address of the pattern, extended by its size, and delivered as DATA with the
command's tag, followed by the delimiters that its flags ask for. R304, R306: the executing SINK stores the low bytes
of a DATA word at its address and no others, drops any other kind but EOS, which ends it; the executing TAKE gives its
register the word at the head of the queue. -/
def Obligations.PortSteps : Prop :=
  Cert.FeedPortSteps ∧ Cert.FeedReadsMemory ∧ Cert.SinkPortSteps

/-- R361 to R363, R373, R392, R394: a packet crosses the output that its dimension order gives, one router at a step; a
locked gate refuses it, drops it and stops the fabric of its rectangle; at its router a word of a virtual channel enters
the channel, and a fabric word the queue of its input. -/
def Sys2Proof.Cert.NetworkSteps : Prop :=
  ∀ (s : State) (r : Nat) (x : Rect) (p : Packet) (out : HopOut),
    s.rects = [(r, x)] → x.phase = .run → x.body.net = [p] → x.prog = none →
    let goal := x.packetGoal p
    routeStep p.yFirst p.router goal = out →
    (out ≠ .here → s.edgeRefusal p.router (hopNext out p.router) out = none →
      ∃ t, exec (.dynamicPacketHop p.router out) s = .next t ∧ (t.rect r).body.net = [{ p with router := hopNext out p.router }]
        ∧ SameMemory s t)
    ∧ (out ≠ .here → ∀ c v, s.edgeRefusal p.router (hopNext out p.router) out = some (c, v) → x.fabricBusy = false →
      ∃ t, exec (.dynamicPacketHop p.router out) s = .next t ∧ (t.rect r).body.net = [] ∧ (t.rect r).body.fabricStop = true
        ∧ (t.part x.part).refusals = (s.part x.part).refusals + 1)
    ∧ (out = .here → ∀ d w u, p.payload = .fabric d w u →
      (d.queue < (((x.body.core d.core)).site d.site).queues.length ∨ (d.queue = 0 ∧ (d.site = 7 ∨ d.site = 23))) →
      ∃ t, exec (.dynamicPacketHop p.router .here) s = .next t ∧ (t.rect r).body.net = []
        ∧ ((t.rect r).body.core d.core).inQueue d.site d.queue = (x.body.core d.core).inQueue d.site d.queue ++ [w])
    ∧ (∀ k (v : Fin 16) w u, p.payload = .vcWord k v.val w u → p.router = x.phys k →
      ∃ t, exec (.vcWordArrive ⟨r, k⟩ v p.id) s = .next t ∧ (t.rect r).body.net = []
        ∧ (((t.rect r).body.core k).vc v.val).queue = ((x.body.core k).vc v.val).queue ++ [w]
        ∧ (((t.rect r).body.core k).vc v.val).holder = ((x.body.core k).vc v.val).holder)

/-- The dimension order of R361: the X dimension first unless the packet drew Y first; a packet at its goal goes to the
local delivery. -/
def Sys2Proof.Cert.DimensionOrder : Prop :=
  ∀ (at_ goal : Nat), at_ < 256 → goal < 256 →
    let sx := if at_ % 16 < goal % 16 then some HopOut.east else if goal % 16 < at_ % 16 then some HopOut.west else none
    let sy := if at_ / 16 < goal / 16 then some HopOut.south else if goal / 16 < at_ / 16 then some HopOut.north else none
    (at_ = goal → ∀ y, routeStep y at_ goal = .here)
    ∧ (at_ ≠ goal → ∀ y, routeStep y at_ goal ≠ .here ∧ hopNext (routeStep y at_ goal) at_ < 256)
    ∧ (∀ o, sx = some o → routeStep false at_ goal = o)
    ∧ (∀ o, sy = some o → routeStep true at_ goal = o)
    ∧ (sx = none → ∀ o, sy = some o → routeStep false at_ goal = o)

/-- R361 to R363, R373, R392, R394: a packet crosses the output that its dimension order gives, one router at a step;
a locked gate refuses it, drops it and stops the fabric of its rectangle; at its router a word of a virtual channel
enters the channel, and a fabric word the queue of its input. The dimension order of R361: the X dimension first
unless the packet drew Y first; a packet at its goal goes to the local delivery. -/
def Obligations.NetworkSteps : Prop :=
  Cert.NetworkSteps ∧ Cert.DimensionOrder

namespace Sys2Proof.Cert

open Sys2Proof.Machine

/-- A sink port of the element's core that alone consumes an output and has a free slot. -/
def OnlySink (s : State) (e : SiteRef) (out n : Nat) : Prop :=
  s.placesOf e out = [.sink e.core n] ∧ ((s.core e.coreRef).sink n).queue.length < 16

/-- The element fired as `r` says (R161): the heads that the firing reads are consumed, the state is the new one, the first
words left for the sink ports `n0` and `n1` of x and y, what follows stands ready, what waits for a release is held, and the
element's bytes changed at the store alone. -/
def FiredAs (s t : State) (e : SiteRef) (r : Fire) (n0 n1 : Nat) : Prop :=
  let y := s.site e
  let z := t.site e
  let old := (s.core e.coreRef).scratch
  let queue := fun (s : State) (n : Nat) => ((s.core e.coreRef).sink n).queue
  let first := fun (f : Emission → Option FWord) => (r.out.head?.bind f).toList
  (∀ q < 4, z.queues.getD q [] = if q ∈ r.take then (y.queues.getD q []).tail else y.queues.getD q [])
    ∧ ({ z.st with pend := [], held := [] } : ElemState) = { r.st with pend := [], held := [] }
    ∧ (r.out ≠ [] → z.st.pend = r.out.tail)
    ∧ z.st.held.map (fun h => (h.word, h.onX)) = r.st.held.map (fun h => (h.word, h.onX)) ++ r.hold
    ∧ queue t n0 = queue s n0 ++ first Emission.x ∧ queue t n1 = queue s n1 ++ first Emission.y
    ∧ (t.rect e.rect).body.rstat = (s.rect e.rect).body.rstat ||| r.flags.setWidth 64
    ∧ (∀ i, byteAt (t.core e.coreRef).scratch i = match r.store with
        | some (o, n, v) => if meOrigin e.site + o ≤ i ∧ i < meOrigin e.site + o + n then BitVec.ofNat 8 (v / 256 ^ (i - (meOrigin e.site + o)))
            else byteAt old i
        | none => byteAt old i)
    ∧ t.mem = s.mem ∧ t.peer = s.peer

/-- An element that may fire: its rectangle runs, it holds no word of an earlier firing, no MARK stands at an input, and its
outputs lead to two sink ports. -/
structure MayFire (s : State) (e : SiteRef) (n0 n1 : Nat) : Prop where
  fires : (s.rect e.rect).fires = true
  idle : (s.site e).st.pend = [] ∧ (s.site e).st.held = []
  four : (s.site e).queues.length = 4
  noMark : ∀ q ∈ (s.site e).cfg.ins, ((qhead (s.site e).queues q).map (·.kind)) ≠ some .mark
  noBuf : s.fullCutBuf e 0 = none ∧ s.fullCutBuf e 1 = none
  resets : (s.core e.coreRef).acReset = []
  x : OnlySink s e 0 n0
  y : OnlySink s e 1 n1
  two : n0 ≠ n1
  bytes : Memory.wf (s.core e.coreRef).scratch = true

end Sys2Proof.Cert

/-- R161, R162, R170 to R194: every element fires by its own step when its operation's rule gives a firing and its outputs
have room: of the operations of the CE by opcode, of the ME by mode, and of the AG that serves no stream unit; a DONE that
waited leaves on y once nothing is before it (R191). -/
def Sys2Proof.Cert.ElementFiring : Prop :=
  ∀ (s : State) (e : SiteRef) (n0 n1 : Nat), MayFire s e n0 n1 →
    (∀ r, s.fireFn e [] (s.site e).st (s.site e).queues = .fire r → r.mark = false →
      (∀ m, r.out.head? = some m → (∀ w, m.x = some w → w.kind ≠ .mark) ∧ (∀ w, m.y = some w → w.kind ≠ .mark)) →
      let step := fun (i : Instr) => ∃ t, exec i s = .next t ∧ FiredAs s t e r n0 n1
      match (s.site e).cfg with
      | .ce c =>
        (c.opc ≤ 0x12 → step (.ceIntegerFire e)) ∧ (0x20 ≤ c.opc → c.opc ≤ 0x2A → step (.ceFloatFire e))
        ∧ (c.opc = 0x13 → step (.ceCnt e)) ∧ (c.opc = 0x14 ∨ c.opc = 0x2B ∨ c.opc = 0x2C → step (.ceRunningValue e))
        ∧ (c.opc = 0x15 → step (.ceDly e)) ∧ (c.opc = 0x16 → step (.ceConst e)) ∧ (c.opc = 0x2D → step (.ceQnt e))
        ∧ (c.opc = 0x2E → step (.ceDqnt e)) ∧ (c.opc = 0x40 → step (.ceSteer e)) ∧ (c.opc = 0x41 → step (.ceMerge e))
        ∧ (c.opc = 0x42 → step (.ceGate e)) ∧ (c.opc = 0x43 → step (.ceDup e)) ∧ (c.opc = 0x44 ∨ c.opc = 0x45 → step (.ceTagchk e))
        ∧ (c.opc = 0x46 → step (.cePrime e)) ∧ (c.opc = 0x47 → step (.ceLimit e)) ∧ (c.opc = 0x48 → step (.ceSeq e))
        ∧ (c.opc = 0x49 → step (.ceReord e)) ∧ (c.opc = 0x4A → step (.ceBnd e))
      | .me c =>
        (c.mode = 0 → step (.meRd e)) ∧ (c.mode = 1 → step (.meWr e)) ∧ (c.mode = 2 → step (.meRmw e)) ∧ (c.mode = 3 → step (.meFifo e))
        ∧ (c.mode = 4 → step (.meDelay e)) ∧ (c.mode = 5 → step (.meHist e)) ∧ (c.mode = 6 → step (.meFeedmx e))
      | .ag g => g.tgtsu = false → step (.agEmit e)
      | .empty => True)

/-- R187, R191, R475: the first word that a BND or an ME holds leaves once its cut is complete and nothing that it follows is
pending; DONE on y, a word of BND on x. -/
def Sys2Proof.Cert.HeldWordsLeave : Prop :=
  ∀ (s : State) (e : SiteRef) (n : Nat) (h : HeldWord) (rest : List HeldWord),
    let x := s.rect e.rect
    let y := s.site e
    let queue := fun (s : State) => ((s.core e.coreRef).sink n).queue
    x.fires = true → y.st.pend = [] → y.st.held = h :: rest → h.cut ≤ x.complete → s.accesses = [] → x.remote = [] → s.lines = [] →
    h.word.kind ≠ .mark → OnlySink s e (if h.onX then 0 else 1) n →
    let leaves := fun (i : Instr) => ∃ t, exec i s = .next t ∧ queue t = queue s ++ [h.word] ∧ (t.site e).st = { y.st with held := rest }
      ∧ (t.site e).queues = y.queues ∧ SameMemory s t
    (∀ c, y.cfg = .me c → leaves (.meDoneEmit e)) ∧ (∀ c, y.cfg = .ce c → c.opc = 0x4A → leaves (.ceBnd e))

/-- R161, R162, R170 to R194: every element fires by its own step when its operation's rule gives a firing and its
outputs have room: of the operations of the CE by opcode, of the ME by mode, and of the AG that serves no stream unit;
a DONE that waited leaves on y once nothing is before it (R191). R187, R191, R475: the first word that a BND or an ME
holds leaves once its cut is complete and nothing that it follows is pending; DONE on y, a word of BND on x. -/
def Obligations.ElementFiring : Prop :=
  Cert.ElementFiring ∧ Cert.HeldWordsLeave

/-- R169 to R173, R178 to R185, R188 to R194: what a firing on DATA words gives, operation by operation: the words with their
tags, the words consumed and the new state. -/
def Obligations.ElementResults : Prop :=
  ∀ (c : CeCfg) (m : MeCfg) (g : AgCfg) (st : ElemState) (rd : Nat → Nat → Nat) (ta tb tc : BitVec 4) (a b z pl : W32)
    (ra rb rc rd' : List FWord),
    let data := fun (t : BitVec 4) (v : W32) => (⟨.data, t, v⟩ : FWord)
    let one := [data ta a :: ra, rb, rc, rd']
    let two := [data ta a :: ra, data tb b :: rb, rc, rd']
    let three := [data ta a :: ra, data tb b :: rb, data tc z :: rc, rd']
    let both := fun (w : FWord) => (⟨some w, some w⟩ : Emission)
    let onlyX := fun (w : FWord) => (⟨some w, none⟩ : Emission)
    let onlyY := fun (w : FWord) => (⟨none, some w⟩ : Emission)
    let fire := fun (st : ElemState) (take : List Nat) (out : List Emission) => FireRes.fire { st := st, take := take, out := out }
    -- whole words, no constants
    (c.lane = 0 → c.kb = false → c.kc = false →
      (c.ins = [0, 1] →
        (c.opc = 0x01 → fireInteger c [] st two = fire st [0, 1] [both (data c.tag (a + b))])
        ∧ (c.opc = 0x02 → fireInteger c [] st two = fire st [0, 1] [both (data c.tag (a - b))])
        ∧ (c.opc = 0x05 → fireInteger c [] st two = fire st [0, 1] [both (data c.tag (a * b))])
        ∧ (c.opc = 0x0D → fireInteger c [] st two = fire st [0, 1] [both (data c.tag (a ^^^ b))]))
      ∧ (c.ins = [0, 1, 2] → c.opc = 0x12 → fireInteger c [] st three = fire st [0, 1, 2] [both (data c.tag (if z = 0 then b else a))])
      ∧ (c.ins = [0] → c.opc = 0x14 → c.sat = false →
          fireRunning c [] st one = fire { st with v := st.v + a, atStart := false } [0] []))
    -- counting, delay, constants
    ∧ (c.md = 0 → c.enabled 0 = false → st.stopped = false → st.bound = none → st.mode = 0 → st.i1 < st.n1 → st.i0 < st.n0 →
        fireCnt c [] st one pl = fire { st with i0 := st.i0 + 1 } [] [both (data c.tag (BitVec.ofNat 32 (st.i1 % 65536 * 65536 + st.i0 % 65536)))])
    ∧ (c.ins = [0] → ∀ v l, st.line = v :: l → fireDly c [] st one = fire { st with line := l ++ [a] } [0] [both (data c.tag v)])
    ∧ (c.enabled 0 = false → fireConst c [] st one = fire st [] [both (data c.tag c.k0)])
    -- routing
    ∧ (c.ins = [0, 1] → st.mode = 0 →
        fireSteer c [] st two = fire st [0, 1] [if condInt c.cond 32 b.toNat c.k0.toNat then onlyX (data ta a) else onlyY (data ta a)])
    ∧ (c.ins = [0, 1, 2] → fireMerge c [] st three = fire st
        (if condInt c.cond 32 z.toNat c.k0.toNat then [1, 2] else [0, 2])
        [onlyX (if condInt c.cond 32 z.toNat c.k0.toNat then data tb b else data ta a)])
    ∧ (c.ins = [0, 1] → st.mode = 0 →
        let pass := condInt c.cond 32 b.toNat c.k0.toNat
        fireGate c [] st two = fire { st with mode := if pass then 1 else 2 } [0, 1] (if pass then [onlyX (data ta a)] else []))
    ∧ (c.ins = [0] → fireDup c [] st one = fire st [0] (both (data ta a) :: List.replicate (c.k0.toNat % 65536) (onlyX (data ta a))))
    ∧ (c.ins = [0] → c.opc = 0x44 → ta ≠ BitVec.ofNat 4 (c.k0.toNat + st.count % (c.k1.toNat % 16 + 1)) →
        fireTag c [] st one = .fault .lanetag .data 0)
    ∧ (st.count ≠ 0 → firePrime c [] st one = fire { st with count := st.count - 1 } [] [onlyX (data 0 c.k0)])
    ∧ (c.ins = [0] → st.count = 0 → firePrime c [] st one = fire st [0] [onlyX (data ta a)])
    ∧ (rb = [] → st.count < c.k0.toNat → fireLimit c [] st one = fire { st with count := st.count + 1 } [0] [onlyX (data ta a)])
    ∧ (rb = [] → c.k0.toNat ≤ st.count → fireLimit c [] st one = .wait)
    ∧ (st.mode = 0 → fireSeq c [] st one = fire { st with mode := 1, item := st.item + 1 } [0] [onlyX ⟨.seqn, 0, st.item⟩, onlyX (data ta a)])
    -- memory elements: the element at an index below the count, ELEMENT beyond
    ∧ (m.ew = 0 → m.mode = 0 →
        (4 * a.toNat + 4 ≤ m.lenm1 + 1 → m.modex.getLsbD 0 = false →
          fireRd m rd [] st one = fire st [0] [onlyX (data 0 (BitVec.ofNat 32 (rd (m.base + a.toNat * 4) 4)))])
        ∧ (m.lenm1 + 1 < 4 * a.toNat + 4 → fireRd m rd [] st one = .fault .element .data 0))
    ∧ (m.ew = 0 → m.mode = 1 → 4 * a.toNat + 4 ≤ m.lenm1 + 1 →
        fireWr m [] st two = .fire { st := { st with writes := st.writes + 1 }, take := [0, 1],
                                     store := some (m.base + a.toNat * 4, 4, b.toNat) })
    -- address generators: LIN
    ∧ (g.mode = 0 → st.mode ≠ 1 → st.i0 + 1 < g.c 0 →
        agNext g st pl = ({ st with i0 := st.i0 + 1, mode := 0 },
          [⟨data 0 (BitVec.ofInt 32 (g.base + st.i0 * g.d 0)), BitVec.ofInt 64 (g.base + st.i0 * g.d 0)⟩]))

namespace Sys2Proof.Cert

open Sys2Proof.Machine

/-- Bytes of an element of CPY and CPYMX (Table 3.4). -/
def bytesOfCpy : CpySize → Nat
  | .b => 1
  | .h => 2
  | .w => 4
  | .d => 8
  | .e32 => 32
  | .e128 => 128

/-- The command that an engine instruction makes (R314): its patterns as they stand, the next number of its timeline, the
engines of its die. -/
def commandOf (s : State) (op : EngOp) (tl : Fin 8) (qa qb qm : Fin 16) : EngCmd :=
  { id := s.nextId, core := s.cur.core, slot := s.cur.slot, op := op, patA := s.myCore.pattern qa.val, patB := s.myCore.pattern qb.val,
    patM := s.myCore.pattern qm.val, tl := tl.val, num := (s.myCore.tline tl.val).i + 1, die := s.dieOfTask s.cur, src := [], started := false,
    at_ := 0, off := 0, finished := false, fault := false }

/-- The command joined its engines: it is the last of its rectangle, its timeline has counted it, its register holds the
promise, and the instruction has retired with the change `f` of its task; memory is as before. -/
def QueuesCommand (s t : State) (d : Reg) (e : EngCmd) (f : Task → Task) : Prop :=
  t.myRect.body.eng = s.myRect.body.eng ++ [{ e with finished := decide (e.units = 0) }]
    ∧ t.myCore.tline e.tl = { s.myCore.tline e.tl with i := e.num }
    ∧ (∀ k, k ≠ e.tl → t.myCore.tline k = s.myCore.tline k)
    ∧ t.me = (retire s (fun x => f (x.write d (s.begin.promise e)))).me
    ∧ t.nextId = s.nextId + 1 ∧ SameMemory s t

end Sys2Proof.Cert

/-- R314 to R319: a command whose counts agree and whose destination is not sealed joins its engines with the next number
of its timeline, and its register holds its deadline; counts that differ trap CONFIG with the count, a sealed destination
SEAL with its address. CPYMX gates the matrix commands that follow it; CPYQ takes the dither phases of its rows from
FPMODE. -/
def Sys2Proof.Cert.EngineCommands : Prop :=
  ∀ (s : State) (g : Guard) (esz : CpySize) (d : Reg) (qa qb qm : Fin 16) (tl : Fin 8) (bf acc : Bool) (rm : Rm) (blk : Blk)
    (fd : BitVec 16), Executes s g [] [d] → s.outstanding s.cur.coreRef < 32 →
    let copy := commandOf s (.cpy (bytesOfCpy esz)) tl qa qb 0
    let ph := s.me.fpmode.toNat / 16
    let st := s.me.fpmode.toNat % 16
    let quant := commandOf s (.cpyq bf rm blk.code fd ph st) tl qa qb 0
    let mul := commandOf s (.gemv acc fd) tl qa qb qm
    let rows := patCount mul.patM 0
    (patTotal copy.patA = patTotal copy.patB → s.begin.sealHit copy = none →
      (∃ t, exec (.cpy g esz d qa qb tl) s = .next t ∧ QueuesCommand s t d copy id)
      ∧ (∃ t, exec (.cpymx g esz d qa qb tl) s = .next t ∧ QueuesCommand s t d copy id
          ∧ t.myCore.engine.gates = s.myCore.engine.gates ++ [(copy.id, s.nextId + 1)]))
    ∧ (patTotal copy.patA ≠ patTotal copy.patB →
        exec (.cpy g esz d qa qb tl) s = .next (traps s 0x10 (BitVec.ofNat 64 (patTotal copy.patB))))
    ∧ (patTotal copy.patA = patTotal copy.patB → ∀ a, s.begin.sealHit copy = some a →
        exec (.cpy g esz d qa qb tl) s = .next (traps s 0x16 a))
    ∧ (patTotal quant.patA = quant.units → s.begin.sealHit quant = none →
        ∃ t, exec (.cpyq g bf rm blk fd d qa qb tl) s = .next t ∧ QueuesCommand s t d quant (fun x =>
          { x with fpmode := BitVec.ofNat 8 ((ph + quant.units * st) % 16 * 16 + st) }))
    ∧ (patTotal mul.patA = rows → patCount mul.patM 1 = 1 → patCount mul.patM 2 = 1 → patCount mul.patM 3 = 1 →
        ∃ t, exec (.gemv g acc fd d qa qb tl qm) s = .next t ∧ QueuesCommand s t d mul id)

/-- R356, R357, R316, R53: the only backlogged copy is granted its last byte, which is written at its address; a finished
command whose writes have been acknowledged leaves its engines and completes its number, for which a cut is asked. -/
def Sys2Proof.Cert.EngineSteps : Prop :=
  ∀ (s : State) (r : Nat) (x : Rect) (e : EngCmd), s.rects = [(r, x)] → x.body.eng = [e] →
    (e.op = .cpy 1 → e.finished = false → e.fault = false → e.off = 0 → e.at_ + 1 = patTotal e.patB → e.src.length = patTotal e.patB →
      e.die < 4 → s.arbiters = [] → s.walks = [] → x.phase ≠ .ended → x.soft = none → 1 ≤ (s.part x.part).weight → 1 ≤ (s.tenant x.tag).wt →
      x.part < 256 → x.tag < 2 ^ 16 →
      ∀ k o, let va := (patAddr e.patA e.at_).toNat
      windowBase ≤ va → va < 2 ^ 48 → x.windowLoc va 1 = some (.window k o) → Memory.wf (s.core ⟨r, k⟩).scratch = true →
      ∃ t, exec (.sharedClassGrant (.copy e.die)) s = .next t
        ∧ (t.rect r).body.eng = [{ e with started := true, at_ := patTotal e.patB, finished := true }]
        ∧ (∀ i, byteAt (t.core ⟨r, k⟩).scratch i = if i = o then e.src.getD e.at_ 0 else byteAt (s.core ⟨r, k⟩).scratch i)
        ∧ t.mem = s.mem ∧ t.peer = s.peer)
    ∧ (e.finished = true → (∀ w ∈ x.remote, w.task ≠ none) →
      let cut := x.cutAfter true
      ∃ t, exec (.engineCommandComplete e.id) s = .next t ∧ (t.rect r).body.eng = []
        ∧ ((t.core ⟨r, e.core⟩).tline e.tl).done = ((s.core ⟨r, e.core⟩).tline e.tl).done ++ [(e.num, cut)]
        ∧ (x.started < cut → (t.rect r).requested = true) ∧ SameMemory s t)

/-- R314 to R319: a command whose counts agree and whose destination is not sealed joins its engines with the next
number of its timeline, and its register holds its deadline; counts that differ trap CONFIG with the count, a sealed
destination SEAL with its address. CPYMX gates the matrix commands that follow it; CPYQ takes the dither phases of its
rows from FPMODE. R356, R357, R316, R53: the only backlogged copy is granted its last byte, which is written at its
address; a finished command whose writes have been acknowledged leaves its engines and completes its number, for which
a cut is asked. -/
def Obligations.EngineCommands : Prop :=
  Cert.EngineCommands ∧ Cert.EngineSteps

/-- R287, R321 to R323, R369: the instructions on timelines and time: TLREAD gives C and TLNUM the last number issued;
TLWAIT and SLEEPT.P go on when C has reached the number, SLEEPT when the time is reached; a wake ends a sleep and is spent;
a deadline that passes first traps DEADLINE with the number; else the task waits. -/
def Obligations.TimelinesAndTime : Prop :=
  ∀ (s : State) (g : Guard) (d : Reg) (a b : Src) (tl : Fin 8) (sc : Option Scope),
    let line := s.myCore.tline tl.val
    let now := s.timeOf s.cur.coreRef
    let v := val s a
    let writes := fun (w : Word) => Host.Outcome.next (ρ := Refusal) (φ := Fault) (retire s (fun t => t.write d w))
    let waits := fun (w : Wait) => Host.Outcome.next (ρ := Refusal) (φ := Fault) (s.modTask s.cur (fun t => t.waitFor w))
    let goesOn := fun (t : State) => t.me = (retire s id).me ∧ SameMemory s t
    let woken := Host.Outcome.next (ρ := Refusal) (φ := Fault) (retire s (fun t => { t with wake := false }))
    (Executes s g [] [d] →
      exec (.tlread g d tl) s = writes (BitVec.ofNat 64 line.c) ∧ exec (.tlnum g d tl) s = writes (BitVec.ofNat 64 line.i)
      ∧ exec (.time g d) s = writes now ∧ exec (.cyc g d) s = writes (s.die (s.dieOfTask s.cur)).cycles)
    ∧ (Executes s g [a.r] [] → (∀ c, sc = some c → ScopeAllowed s c) →
      (v = 0 → exec (.tlwait g sc tl a) s = .next (retire s id))
      ∧ (v ≠ 0 → v.toNat ≤ line.c → ∃ t, exec (.tlwait g sc tl a) s = .next t ∧ goesOn t)
      ∧ (line.c < v.toNat → exec (.tlwait g sc tl a) s = waits (.timeline tl.val v.toNat none)))
    ∧ (Executes s g [a.r] [] →
      (s.me.wake = true → exec (.sleept g a) s = woken)
      ∧ (s.me.wake = false → v.toNat ≤ now.toNat → exec (.sleept g a) s = .next (retire s id))
      ∧ (s.me.wake = false → now.toNat < v.toNat → exec (.sleept g a) s = waits (.sleep v)))
    ∧ (Executes s g [a.r, b.r] [] →
      let n := (val s b).toNat
      (s.me.wake = true → exec (.sleeptP g a tl b) s = woken)
      ∧ (s.me.wake = false → n ≤ line.c → ∃ t, exec (.sleeptP g a tl b) s = .next t ∧ goesOn t)
      ∧ (s.me.wake = false → line.c < n → v.toNat ≤ now.toNat → exec (.sleeptP g a tl b) s = .next (traps s 0x08 (BitVec.ofNat 64 n)))
      ∧ (s.me.wake = false → line.c < n → now.toNat < v.toNat → exec (.sleeptP g a tl b) s = waits (.sleepP v tl.val n)))

namespace Sys2Proof.Cert

open Sys2Proof.Machine

/-- A matrix command joined the queue with a copy of configuration slot `k` and of its patterns, and took the next number of
its timeline; the other parts of the engine and memory are as before; the task retired with the change `f` (R207). -/
def QueuesMatrix (s t : State) (k tile : Nat) (op : MxOp) (pa pb : Pattern) (tl : Fin 8) (f : Task → Task) : Prop :=
  let e := s.myCore.engine
  (∃ m, t.myCore.engine.cmds = e.cmds ++ [m] ∧ m.id = s.nextId ∧ m.op = op ∧ m.tile = tile ∧ m.tl = tl.val
      ∧ m.num = (s.myCore.tline tl.val).i + 1 ∧ m.slotTask = s.cur.slot ∧ m.cfg = e.slot k ∧ m.patA = pa ∧ m.patB = pb
      ∧ m.route = some (e.tile tile).route ∧ m.phase = .queued ∧ m.staged = [])
    ∧ t.myCore.tline tl.val = { s.myCore.tline tl.val with i := (s.myCore.tline tl.val).i + 1 }
    ∧ (∀ n, t.myCore.engine.tile n = e.tile n) ∧ t.nextId = s.nextId + 1
    ∧ t.me = (retire s f).me ∧ SameMemory s t

/-- Pattern of an operand source: none for a bus. -/
def patOf (s : State) : MxSrc → Pattern
  | .bus => 0
  | .direct q => s.myCore.pattern q.val

/-- Pattern of an index source. -/
def patIdx (s : State) : IdxSrc → Pattern
  | .idx => 0
  | .direct q => s.myCore.pattern q.val

/-- Pattern of a rank destination. -/
def patDst (s : State) : RankDst → Pattern
  | .drain => 0
  | .direct q => s.myCore.pattern q.val

end Sys2Proof.Cert

/-- R207, R217 to R219, R222 to R224, R239 to R249: a command on a tile that a slot owns joins a queue with room, with the
slot, patterns and route as they stand at issue; MXDRN moves the slot's phase on; RKNET and RKTRC empty their register; a
tile without owner traps CONFIG with its number, and a full queue is waited for. -/
def Obligations.MatrixCommandsQueue : Prop :=
  ∀ (s : State) (g : Guard) (t : Fin 4) (tl : Fin 8) (k : Fin 4) (fmt : TileFmt) (q : Fin 16) (acc inv ws bf re recon : Bool)
    (srcA srcB : MxSrc) (kk : BitVec 16) (n : Nat) (src : IdxSrc) (dst : RankDst) (row0 nvm1 : Fin 128) (d : Reg),
    let e := s.myCore.engine
    let cfg := e.slot k.val
    let nv := nvm1.val + 1
    let pat := s.myCore.pattern q.val
    let joins := fun (i : Instr) (op : MxOp) (pa pb : Pattern) (f : Task → Task) =>
      ∃ u, exec i s = .next u ∧ QueuesMatrix s u k.val t.val op pa pb tl f ∧ (∀ j, u.myCore.engine.slot j = e.slot j)
    let fits := row0.val + nv * ((cfg.vm1 + 128) / 128) ≤ 128
    ((e.tile t.val).owner = some k → e.cmds.length < 16 → s.me.guard g = true →
      joins (.mxz g t tl) .z 0 0 id
      ∧ joins (.mxldt g fmt t q tl) (.ldt fmt) pat 0 id
      ∧ joins (.mxmm g acc t srcA srcB kk tl) (.mm false acc srcA srcB kk.toNat) (patOf s srcA) (patOf s srcB) id
      ∧ joins (.mxmms g acc t srcA srcB kk tl) (.mm true acc srcA srcB kk.toNat) (patOf s srcA) (patOf s srcB) id
      ∧ (∃ u, exec (.mxdrn g ws t tl) s = .next u ∧ QueuesMatrix s u k.val t.val (.drn ws) 0 0 tl id
          ∧ u.myCore.engine.slot k.val = { cfg with phase := (cfg.phase + cfg.step * (cfg.mm1 + 1)) % 16 }
          ∧ (∀ j, j ≠ k.val → u.myCore.engine.slot j = e.slot j))
      ∧ joins (.mxchk g t tl) .chk 0 0 id
      ∧ joins (.mxst g fmt t q tl) (.st fmt) pat 0 id
      ∧ joins (.twsetGen g inv t n tl) (.gen inv n) 0 0 id
      ∧ (cfg.rads ≠ [] → joins (.bfrev g bf re t q tl) (.rev bf re) pat 0 id ∧ joins (.bfrun g t tl) .run 0 0 id)
      ∧ (n < cfg.rads.length → joins (.bfstg g t n tl) (.stg n) 0 0 id)
      ∧ joins (.mxrank g acc t src q row0 nvm1 tl) (.rank acc src row0.val nv) (patIdx s src) pat id
      ∧ (fits → joins (.rkval g t src row0 nvm1 tl) (.val src row0.val nv) (patIdx s src) 0 id
          ∧ (s.me.isEmpty d = false →
            joins (.rknet g ws t d dst row0 nvm1 tl) (.net ws dst row0.val nv s.cur.slot d.val) (patDst s dst) 0
              (fun x => x.markEmpty d (.rank s.nextId))
            ∧ joins (.rktrc g t d q row0 nvm1 tl) (.trc row0.val nv s.cur.slot d.val) pat 0 (fun x => x.markEmpty d (.rank s.nextId)))))
    ∧ (e.cmds.length < 16 → s.me.guard g = true →
      ∃ u, exec (.rktab g recon k q tl) s = .next u ∧ QueuesMatrix s u k.val 0 (.tab recon k) pat 0 tl id)
    ∧ ((e.tile t.val).owner = none → s.me.guard g = true → exec (.mxz g t tl) s = .next (traps s 0x10 (BitVec.ofNat 64 t.val)))
    ∧ ((e.tile t.val).owner = some k → 16 ≤ e.cmds.length → s.me.guard g = true →
        exec (.mxz g t tl) s = .next (s.modTask s.cur (fun x => x.waitFor .mxQueue)))

/-- R196, R197, R215, R216, R220, R221, R229, R240, R241, R244: the matrix instructions that act at issue. MXCFG gives an
idle tile to a slot, zeroed unless the slot had it, and loads the slot's fields unless KEEP; MXREL takes an idle tile from
its slot; a tile in use or named by a command traps TILEBUSY with its bit. The others write their fields of the slot, and
traps CONFIG what is no plan or no rank word. -/
def Obligations.MatrixSlotsAndTiles : Prop :=
  ∀ (s : State) (g : Guard) (keep inv : Bool) (t slot : Fin 4) (a b : Src) (fd : BitVec 16) (rm : Rm) (ph step : Fin 16) (route : Route),
    let e := s.myCore.engine
    let idle := fun (k : Nat) => e.armed k = false ∧ (e.tile k).inUse = false
    let v := val s a
    let w := val s b
    let does := fun (i : Instr) (p : Engine → Prop) => ∃ u, exec i s = .next u ∧ p u.myCore.engine ∧ u.me = (retire s id).me ∧ SameMemory s u
    let sets := fun (i : Instr) (m : MxSlot) => does i (fun e' => e'.slot slot.val = m ∧ (∀ j, j ≠ slot.val → e'.slot j = e.slot j)
      ∧ ∀ k, e'.tile k = e.tile k)
    let cfg := e.slot slot.val
    (Executes s g [a.r] [] →
      (idle t.val → (∀ k : Fin 4, keep = false → (e.tile k.val).owner = some slot → idle k.val) →
        does (.mxcfg g keep t a slot) (fun e' =>
          (e'.tile t.val).owner = some slot
          ∧ ((e.tile t.val).owner = some slot → e'.tile t.val = e.tile t.val)
          ∧ ((e.tile t.val).owner ≠ some slot → (e'.tile t.val).vals = [] ∧ (e'.tile t.val).c = [] ∧ (e'.tile t.val).r = [])
          ∧ (∀ k, k ≠ t.val → e'.tile k = e.tile k)
          ∧ (keep = true → ∀ j, e'.slot j = e.slot j)
          ∧ (keep = false → (∀ j, j ≠ slot.val → e'.slot j = e.slot j) ∧ e'.slot slot.val =
              { cfg with rowid := (v.extractLsb' 56 8).toNat, colid := (v.extractLsb' 48 8).toNat, fda := v.extractLsb' 32 16,
                         fdb := v.extractLsb' 16 16, blk := (v.extractLsb' 14 2).toNat, mm1 := (v.extractLsb' 7 7).toNat,
                         nm1 := (v.extractLsb' 0 7).toNat })))
      ∧ (¬ idle t.val → (∀ k : Fin 4, k ≠ t → (e.tile k.val).owner ≠ some slot) →
          exec (.mxcfg g keep t a slot) s = .next (traps s 0x09 (BitVec.ofNat 64 (2 ^ t.val))))
      ∧ (let theta := v.extractLsb' 32 32
         let k := (v.extractLsb' 0 9).toNat
         (1 ≤ k → k ≤ 256 → (decodeNum fp32 theta.toNat).isNan = false → v.extractLsb' 26 5 = 0 → v.extractLsb' 9 7 = 0 →
            sets (.rkcut g slot a) { cfg with theta := theta, th := v.getLsbD 31, vm1 := (v.extractLsb' 16 10).toNat, k := k })
         ∧ (k = 0 ∨ 256 < k ∨ v.extractLsb' 26 5 ≠ 0 → exec (.rkcut g slot a) s = .next (traps s 0x10 v))))
    ∧ (Executes s g [a.r, b.r] [] →
      (planBad v = false → planBadB v w = false → ∃ n, 1 ≤ n ∧ n ≤ 13
        ∧ sets (.bfplan g slot a b) { cfg with
            rads := (List.range n).map (fun k => radixOf (v.extractLsb' (3 * k) 3).toNat),
            shs := (List.range n).map (fun k => (w.extractLsb' (3 * k) 3).toNat), bm1 := (w.extractLsb' 52 12).toNat })
      ∧ (planBad v = true → exec (.bfplan g slot a b) s = .next (traps s 0x10 v)))
    ∧ (s.me.guard g = true →
      (idle t.val → does (.mxrel g t) (fun e' => (e'.tile t.val).owner = none ∧ (e'.tile t.val).vals = []
        ∧ (∀ k, k ≠ t.val → e'.tile k = e.tile k) ∧ ∀ j, e'.slot j = e.slot j))
      ∧ (¬ idle t.val → exec (.mxrel g t) s = .next (traps s 0x09 (BitVec.ofNat 64 (2 ^ t.val))))
      ∧ sets (.mxfmt g slot fd rm ph step) { cfg with fdo := fd, rm := rm.code, phase := ph.val, step := step.val }
      ∧ sets (.twset g inv slot) { cfg with inv := inv }
      ∧ ((e.tile t.val).owner ≠ none → does (.mxrt g route t) (fun e' => e'.tile t.val = { e.tile t.val with route := route }
          ∧ (∀ k, k ≠ t.val → e'.tile k = e.tile k) ∧ ∀ j, e'.slot j = e.slot j))
      ∧ ((e.tile t.val).owner = none → exec (.mxrt g route t) s = .next (traps s 0x10 (BitVec.ofNat 64 t.val))))

/-- R198 to R200, R207, R208, R217, R237, R246, R249: the steps of a matrix engine: what an ME drives reaches every engine
of its row or column that takes its destination; a lone MXZ starts and zeroes its tile; an index of a stream is taken; an
index that RKNET stores to memory is written at its address; a command that is done leaves the queue and completes. -/
def Obligations.MatrixEngineSteps : Prop :=
  ∀ (s : State) (c : CoreRef) (m : MxCmd),
    let x := s.rect c.rect
    let e := (s.core c).engine
    x.fires = true → s.walks = [] →
    (∀ (site dest : Nat) (cfg : MeCfg) (ws : List W32), ((s.core c).site site).cfg = .me cfg →
      ((s.core c).site site).st.busOut = some (.beat dest ws) →
      let column := cfg.modex.getLsbD 8
      let n := meIndex site % 16 + (if column then 16 else 0)
      let group := fun (s : State) (k : Nat) => (s.core ⟨c.rect, k⟩).engine.group n
      let takers := x.busCores c.core column dest
      takers.Nodup → (∀ k ∈ takers, (group s k).length < 4) →
      ∃ t, exec (.matrixBusBeat ⟨c.rect, c.core, site⟩) s = .next t ∧ ((t.core c).site site).st.busOut = none ∧ SameMemory s t
        ∧ ∀ k, group t k = if k ∈ takers then group s k ++ [.beat dest ws] else group s k)
    ∧ (e.cmds = [m] →
      (m.phase = .queued → m.op = .z → e.noStart = false → e.gates = [] → x.phase ≠ .boundary →
        ∃ t, exec (.matrixCommandStart c m.id) s = .next t ∧ ((t.core c).engine.tile m.tile).vals = []
          ∧ (t.core c).engine.cmds = [{ m with phase := .finished }] ∧ SameMemory s t)
      ∧ (∀ row0 nv w rest, m.phase = .running → m.op = .val .idx row0 nv → e.index = w :: rest → w.kind = .data →
        m.vecs.length ≤ nv → (m.vecs.getLastD []).length < m.cfg.k → w.data.toNat ≤ m.cfg.vm1 →
        ∃ t, exec (.matrixBlock c m.id) s = .next t ∧ (t.core c).engine.index = rest ∧ SameMemory s t
          ∧ (t.core c).engine.cmds = [{ m with vecs := m.vecs.dropLast ++ [m.vecs.getLastD [] ++ [w.data.toNat]], emitted := m.emitted + 1 }])
      ∧ (∀ ws q row0 nv st reg w rest k o, m.phase = .running → m.op = .net ws (.direct q) row0 nv st reg →
        m.staged = (0, ⟨.data, 0, w⟩) :: rest →
        let va := (patAddr m.patA m.block).toNat
        let old := (s.core ⟨c.rect, k⟩).scratch
        va % 4 = 0 → va < 2 ^ 48 → windowBase ≤ va → x.windowLoc va 4 = some (.window k o) → Memory.wf old = true →
        ∃ t, exec (.rankIndexEmit c m.id) s = .next t
          ∧ (t.core c).engine.cmds = [{ m with staged := rest, block := m.block + 1, emitted := m.emitted + 1 }]
          ∧ (∀ i, byteAt (t.core ⟨c.rect, k⟩).scratch i = if o ≤ i ∧ i < o + 4 then w.extractLsb' (8 * (i - o)) 8 else byteAt old i)
          ∧ t.mem = s.mem ∧ t.peer = s.peer)
      ∧ (m.phase = .finished → (∀ ws dst a b d f, m.op ≠ .net ws dst a b d f) → (∀ a b d f, m.op ≠ .trc a b d f) →
        ∃ t, exec (.matrixCommandComplete c m.id) s = .next t ∧ (t.core c).engine.cmds = [] ∧ SameMemory s t
          ∧ ((t.core c).tline m.tl).done = ((s.core c).tline m.tl).done ++ [(m.num, x.cutAfter true)]
          ∧ ((t.core c).engine.tile m.tile).inUse = (if m.op.clears then false else (e.tile m.tile).inUse)))

namespace Sys2Proof.Cert

open Sys2Proof.Machine

/-- No TAKE that may bring knowledge is pending (R281, log 36). -/
def Informed (s : State) : Prop := s.begin.uninformed s.cur = false

/-- Only the issuing task and the part `f` of its core changed. -/
def CoreChange (s t : State) (f : Core → Core) (g : Task → Task) : Prop :=
  t = retireS s (fun s => (s.modCore s.cur.coreRef f).modTask s.cur g)

end Sys2Proof.Cert

/-- R367 to R373: TSPAWN starts a task in the lowest free slot of its core with its argument in s1 and SP at the top of its
part, or answers all ones; TYIELD, TPRIO and TWAKE set the yield state, the priority and the wake flags of occupied slots;
TBIND moves a channel to the slot with its words; WAITV of a channel that the slot holds empties its register and claims a
word, of another traps CONFIG; SENDV puts a DATA word on its way to a core of the rectangle, and traps ACCESS outside. -/
def Obligations.TaskInstructions : Prop :=
  ∀ (s : State) (g : Guard) (d : Reg) (a b : Src) (entry : BitVec 12) (vc : Fin 16) (mask : BitVec 8) (prio : Fin 4),
    let c := s.myCore
    let kept := fun (k : Nat) => k = 7 ∧ s.cur.core = 0 ∧ s.myRect.handlerDef = true
    let free := fun (k : Nat) => k < 8 ∧ (c.task k).occupied = false ∧ ¬ kept k
    let spill := s.myRect.spill
    s.me.occupied = true →
    (Executes s g [a.r] [d] → Informed s →
      ((∀ k, ¬ free k) → exec (.tspawn g d a entry) s = .next (retire s (fun t => t.write d (BitVec.allOnes 64))))
      ∧ (∀ k, free k → (∀ j, j < k → ¬ free j) → ∃ u, exec (.tspawn g d a entry) s = .next u
          ∧ (let n := u.task { s.cur with slot := k }
             n.occupied = true ∧ n.pc = entry ∧ n.reg 1 = val s a ∧ (∀ r, r ≠ 1 → n.reg r = 0) ∧ n.wait = none ∧ n.kmode = false
             ∧ n.sp = BitVec.ofNat 64 (2 ^ 20 - spill + (k + 1) * (spill / 8)))
          ∧ u.me = (retire s (fun t => t.write d (BitVec.ofNat 64 k))).me ∧ SameMemory s u))
    ∧ (s.me.guard g = true →
      exec (.tyield g) s = .next (retire s (fun t => { t with yielding := true }))
      ∧ exec (.tprio g prio) s = .next (retire s (fun t => { t with prio := BitVec.ofNat 2 prio.val }))
      ∧ (∃ u, exec (.twake g mask) s = .next u ∧ SameMemory s u ∧ u.me.pc = s.me.loopEnd.pc
          ∧ ∀ k < 8, (u.myCore.task k).wake = ((c.task k).wake || (mask.getLsbD k && (c.task k).occupied)))
      ∧ (∃ u, exec (.tbind g vc) s = .next u
          ∧ CoreChange s u (fun c => c.setVc vc.val { c.vc vc.val with holder := some s.cur.slot }) id))
    ∧ (Executes s g [] [d] →
      ((c.vc vc.val).holder = some s.cur.slot → ∃ u, exec (.waitv g d vc) s = .next u
          ∧ CoreChange s u (fun c => c.setVc vc.val { c.vc vc.val with claims := (c.vc vc.val).claims ++ [(s.cur.slot, d.val)] })
              (fun t => t.markEmpty d (.waitv vc.val)))
      ∧ ((c.vc vc.val).holder ≠ some s.cur.slot → exec (.waitv g d vc) s = .next (traps s 0x10 (BitVec.ofNat 64 vc.val))))
    ∧ (Executes s g [a.r, b.r] [] →
      let v := (val s a).toNat
      let x := v % 256
      let y := v / 256
      (y < 256 → x < s.myRect.w → y < s.myRect.h → s.myRect.body.vcRoom (16 * y + x) vc.val = true →
        ∃ u p, exec (.sendv g a b vc) s = .next u ∧ u.myRect.body.net = s.myRect.body.net ++ [p]
          ∧ p.router = s.myRect.phys s.cur.core
          ∧ p.payload = .vcWord (16 * y + x) vc.val ⟨.data, val s b⟩ (8 * s.cur.core + s.cur.slot)
          ∧ u.me = (retire s id).me ∧ SameMemory s u)
      ∧ (65536 ≤ v ∨ s.myRect.w ≤ x ∨ s.myRect.h ≤ y % 256 → exec (.sendv g a b vc) s = .next (traps s 0x05 (val s a))))

/-- R374 to R376, R365: RBAR arrives for the whole rectangle, GBAR for its block of a power-of-two shape, and the task waits
past the instruction; when every core of the block has arrived and what the arrivers wrote is performed, all of them go on
together; an operand of no block traps CONFIG. A fan-out that has stalled for MCSTALL cycles raises MCSTUCK. -/
def Obligations.BarriersAndStalls : Prop :=
  ∀ (s : State) (g : Guard) (a b : Src) (id : Fin 16),
    let bar := s.myCore.barrier id.val
    let arrives := fun (i : Instr) (x y w h : Nat) => ∃ u, exec i s = .next u ∧ SameMemory s u
      ∧ u.me = s.me.unwait.loopEnd.waitFor (.barrier id.val bar.gen)
      ∧ u.myCore.barrier id.val = { bar with arrivals := [⟨bar.gen, s.cur.slot, x, y, w, h⟩] }
    (s.me.guard g = true → Informed s → bar.arrivals = [] → arrives (.rbar g id) 0 0 s.myRect.w s.myRect.h)
    ∧ (Executes s g [a.r, b.r] [] → Informed s → bar.arrivals = [] →
      let va := (val s a).toNat
      let vb := (val s b).toNat
      let x := va % 256
      let y := va / 256
      let w := vb % 256
      let h := vb / 256 % 256
      let cx := s.cur.core % 16
      let cy := s.cur.core / 16
      vb / 65536 = id.val → y < 256 →
      (w ∈ [1, 2, 4, 8, 16] → h ∈ [1, 2, 4, 8, 16] → x % w = 0 → y % h = 0 → x + w ≤ s.myRect.w → y + h ≤ s.myRect.h → x ≤ cx → cx < x + w →
        y ≤ cy → cy < y + h → arrives (.gbar g a b) x y w h)
      ∧ (w ∉ [1, 2, 4, 8, 16] ∨ s.myRect.w < x + w ∨ cx < x →
          exec (.gbar g a b) s = .next (traps s 0x10 (BitVec.ofNat 64 (vb % 2 ^ 20 * 2 ^ 32 + va % 65536)))))
    ∧ (∀ (c : CoreRef) (ar : Arrival), (s.rect c.rect).phase = .run → s.accesses = [] → (s.rect c.rect).remote = [] →
        let one := (s.core c).barrier id.val
        one.arrivals = [ar] → ar.gen = one.gen → ar.x = c.core % 16 → ar.y = c.core / 16 → ar.w = 1 → ar.h = 1 →
        ∃ u, exec (.barrierComplete c id) s = .next u ∧ (u.core c).barrier id.val = ⟨one.gen + 1, []⟩ ∧ SameMemory s u)
    ∧ (∀ (e : SiteRef) (m : Emission) (rest : List Emission) (w : FWord) (p q : Place),
        let x := s.rect e.rect
        x.phase = .run → x.body.fabricStop = false → x.fabricBusy = false → x.body.mcstall ≠ 0 → (s.site e).st.pend = m :: rest →
        m.x = some w → s.placesOf e 0 = [p, q] → s.hasRoom e.rect p w = false → s.hasRoom e.rect q w = true →
        x.body.mcstall.toNat < (s.site e).stallX →
        ∃ u, exec (.mcstallExpiry e 0) s = .next u ∧ (u.rect e.rect).body.rstat.getLsbD 9 = true ∧ (u.site e).stallX = 1
          ∧ (∃ k ∈ (u.rect e.rect).body.dq ++ (u.rect e.rect).body.atSup, k.fabric = true ∧ k.cause = 0x0D) ∧ SameMemory s u)

/-- R377, R380: LAUNCH reads its record, reserves an entry, takes the number of the timeline that the record names, asks for a
cut and empties its register; LQRY and STAGEQ answer at once: Table 15.4, and of a rectangle that is no replica Table 15.5. -/
def Obligations.LaunchAndQueries : Prop :=
  ∀ (s : State) (g : Guard) (d : Reg) (a : Src) (c o : Nat) (bp : Bool),
    let writes := fun (n : Nat) => Host.Outcome.next (ρ := Refusal) (φ := Fault) (retire s (fun t => t.write d (BitVec.ofNat 64 n)))
    let x := s.myRect
    let t := s.tenant x.tag
    (Executes s g [a.r] [d] → s.accesses = [] → x.remote = [] → s.me.behind = [] → Passes s (val s a) 64 false (.window c o) bp → s.begin.freeEntry x.part = true →
      let rec_ := cellBytes (s.core ⟨s.cur.rect, c⟩).scratch o 64
      (joinBytes ((rec_.drop 10).take 2)) % 2 = 0 →
      let tl := joinBytes ((rec_.drop 24).take 8) % 8
      ∃ u e, exec (.launch g d a) s = .next u ∧ u.launches = s.launches ++ [e] ∧ e.id = s.nextId ∧ e.addr = val s a ∧ e.phase = .reserved
        ∧ e.part = x.part ∧ e.tag = x.tag ∧ e.cut = x.taskCut ∧ e.src = .local s.cur d.val tl ((s.myCore.tline tl).i + 1)
        ∧ (u.myCore.tline tl).i = (s.myCore.tline tl).i + 1 ∧ (x.started < x.taskCut → u.myRect.requested = true)
        ∧ u.me = (retire s (fun t => t.markEmpty d (.launch s.nextId))).me ∧ SameMemory s u)
    ∧ (Executes s g [] [d] →
      exec (.lqry g d 0) s = writes t.lease
      ∧ exec (.lqry g d 2) s = writes (s.usable x.part)
      ∧ exec (.lqry g d 5) s = writes (x.part + 256 * s.mode)
      ∧ exec (.lqry g d 7) s = writes (t.wt + 256 * (s.part x.part).weight)
      ∧ (∀ sel, ∃ n, exec (.lqry g d sel) s = writes n)
      ∧ (x.stage = none → exec (.stageq g d 0) s = writes 0 ∧ exec (.stageq g d 1) s = writes 1 ∧ exec (.stageq g d 2) s = writes 65537
          ∧ (∀ sel : Fin 7, 3 ≤ sel.val → exec (.stageq g d sel) s = writes 0)))

namespace Sys2Proof.Cert

open Sys2Proof.Machine

/-- A bit of a control register after CTLW, CTLS or CTLC (R446, Table 19.3), by the kind of its bit. -/
def writtenBit (op : CtlOp) (rw w1c old v : Bool) : Bool :=
  match op with
  | .w => if rw then v else if w1c then old && !v else old
  | .s => if rw then old || v else old
  | .c => if rw || w1c then old && !v else old

/-- The instruction of each write. -/
def ctlInstr (op : CtlOp) (g : Guard) (idx : BitVec 12) (a : Src) : Instr :=
  match op with
  | .w => .ctlw g idx a
  | .s => .ctls g idx a
  | .c => .ctlc g idx a

/-- The 1,024 bytes of a task record at an address that meet the checks of R515 within one page. -/
def RecordAt (s : State) (ea : Word) (write : Bool) (l : Loc) (bp : Bool) : Prop :=
  s.begin.uninformed s.cur = false ∧ ea.toNat % 64 = 0 ∧ ea.toNat < 2 ^ 48 ∧ ea.toNat % 4096 ≤ 3072 ∧ reaches s ea 1024 write = .at_ l bp

end Sys2Proof.Cert

/-- R58 to R66, R445 to R447: control registers. CTLR gives the register's value and 0 for its reserved bits; the three writes
change the bits that are writable in the mode as Table 19.3 says and no other bit of any register; an index from 0x800 on,
or a write to a register that has no writable field in the mode, traps PRIV with the index. -/
def Obligations.ControlRegisters : Prop :=
  ∀ (s : State) (g : Guard) (d : Reg) (idx : BitVec 12) (a : Src) (op : CtlOp),
    let x := s.me
    let n := idx.toNat
    let reads := fun (v : Word) => exec (.ctlr g d idx) s = .next (retire s (fun t => t.write d v))
    let priv := Host.Outcome.next (ρ := Refusal) (φ := Fault) (traps s 0x02 (idx.setWidth 64))
    (Executes s g [] [d] →
      (n = 0x000 → ∃ v, reads v ∧ v.extractLsb' 6 2 = x.prio ∧ v.getLsbD 3 = x.intrap ∧ v.getLsbD 2 = x.dz ∧ v.getLsbD 1 = x.sc ∧ v.getLsbD 0 = x.kmode)
      ∧ (n = 0x002 → reads (x.fpmode.setWidth 64))
      ∧ (n = 0x003 → s.begin.faddPending s.cur = none → reads (x.fpflags.setWidth 64))
      ∧ (n = 0x008 → reads (x.tvec.setWidth 64)) ∧ (n = 0x009 → reads x.tcause) ∧ (n = 0x00A → reads (x.tpc.setWidth 64)) ∧ (n = 0x00B → reads x.tval)
      ∧ (n = 0x010 → reads x.sp) ∧ (n = 0x011 → reads (BitVec.ofNat 64 (2 ^ 20 - s.myRect.spill + s.cur.slot * (s.myRect.spill / 8))))
      ∧ (n = 0x012 → reads x.ovfptr) ∧ (n = 0x013 → reads x.ovflim) ∧ (n = 0x018 → reads (x.cnt0.setWidth 64)) ∧ (n = 0x01A → reads (x.cnt1.setWidth 64))
      ∧ (n = 0x019 → reads (BitVec.ofNat 64 (x.end0.toNat * 65536 + x.start0.toNat)))
      ∧ (n = 0x01B → reads (BitVec.ofNat 64 (x.end1.toNat * 65536 + x.start1.toNat)))
      ∧ (n = 0x101 → reads (BitVec.ofNat 64 (s.myRect.w + 256 * s.myRect.h))) ∧ (n = 0x103 → reads (BitVec.ofNat 64 s.myRect.tag))
      ∧ (n = 0x120 → reads s.myRect.body.tdeleg) ∧ (n = 0x128 → reads (s.myRect.body.mcstall.setWidth 64))
      ∧ (n = 0x129 → reads (s.myRect.body.snapint.setWidth 64)) ∧ (n = 0x12A → reads s.myRect.body.rstat)
      ∧ (n < 0x800 → n ≠ 0x003 → reads (s.ctlRead s.cur n)))
    ∧ (Executes s g [a.r] [] → n < 0x800 → ctlWritable x.kmode n = true → ¬ (0x130 ≤ n ∧ n ≤ 0x137) →
        ∃ u, exec (ctlInstr op g idx a) s = .next (u.modTask s.cur Task.loopEnd) ∧ SameMemory s u
          ∧ (∀ i < 64, (u.ctlRead s.cur n).getLsbD i
              = writtenBit op ((ctlRw x.kmode n).getLsbD i) ((ctlW1c x.kmode n).getLsbD i) ((s.ctlRead s.cur n).getLsbD i) ((val s a).getLsbD i))
          ∧ (∀ j, j ≠ n → u.ctlRead s.cur j = s.ctlRead s.cur j)
          ∧ (∀ r, u.me.reg r = x.reg r ∧ u.me.presence r = x.presence r) ∧ (∀ p, u.me.pred p = x.pred p))
    ∧ (∀ k : Fin 8, n = 0x130 + k.val → Executes s g [a.r] [] →
        let old := s.myCore.sel k.val
        let v := val s a
        ∃ u, exec (.ctlw g idx a) s = .next u ∧ SameMemory s u ∧ (u.myCore.sel k.val).setWidth 17 = v.setWidth 17
          ∧ (v.setWidth 16 ≠ old.setWidth 16 → u.myCore.counter k.val = 0 ∧ (u.myCore.sel k.val).getLsbD 17 = false)
          ∧ (v.setWidth 16 = old.setWidth 16 → u.myCore.counter k.val = s.myCore.counter k.val
              ∧ (u.myCore.sel k.val).getLsbD 17 = (old.getLsbD 17 && !v.getLsbD 17)))
    ∧ (s.me.guard g = true → 0x800 ≤ n → exec (.ctlr g d idx) s = priv ∧ exec (ctlInstr op g idx a) s = priv)
    ∧ (s.me.guard g = true → n ∈ [0x001, 0x011, 0x100, 0x101, 0x102, 0x103, 0x108, 0x110, 0x111, 0x118, 0x140, 0x147] → exec (ctlInstr op g idx a) s = priv)
    ∧ (s.me.guard g = true → x.kmode = false → n ∈ [0x009, 0x00A, 0x00B, 0x012, 0x013, 0x120, 0x128, 0x129, 0x12A] → exec (ctlInstr op g idx a) s = priv)

/-- R449 to R452, R514, R519: SVC, in mode K only, empties s5 and asks for the cut after which its block is submitted; a block
that is not aligned traps MISALIGN. CNTR and CAPR read; SNAP asks for a cut once the ports of its mask have delivered, or
notes what it waits for, and traps CONFIG for a port that is not bound; CUTREQ and HALT ask for a cut and wait past the
instruction for it. -/
def Obligations.SystemCalls : Prop :=
  ∀ (s : State) (g : Guard) (d : Reg) (a : Src) (code : Fin 2) (n : Fin 8) (mask : BitVec 16) (l : Loc) (bp : Bool),
    let x := s.myRect
    let feed := fun (k : Nat) => s.myCore.feed k
    let cutWait := fun (u : State) => u.me = s.me.unwait.loopEnd.waitFor (.cut x.taskCut) ∧ (x.started < x.taskCut → u.myRect.requested = true) ∧ SameMemory s u
    (Executes s g [4] [5] → s.me.kmode = true →
      (Passes s (s.me.reg 4) 64 false l bp → (s.me.reg 4).toNat < windowBase →
        ∃ u c, exec (.svc g code) s = .next u ∧ u.calls = s.calls ++ [c] ∧ c.id = s.nextId ∧ c.task = s.cur ∧ c.addr = s.me.reg 4 ∧ c.cut = x.taskCut
          ∧ c.submitted = false ∧ c.status = none ∧ (c.sup = true ↔ code = 1) ∧ u.me.presence 5 = .empty (.svc s.nextId)
          ∧ (x.started < x.taskCut → u.myRect.requested = true) ∧ SameMemory s u)
      ∧ ((s.me.reg 4).toNat % 64 ≠ 0 → exec (.svc g code) s = .next (traps s 0x04 (s.me.reg 4))))
    ∧ (s.me.guard g = true → s.me.kmode = false → exec (.svc g code) s = .next (traps s 0x02 0))
    ∧ (Executes s g [] [d] → exec (.cntr g d n) s = .next (retire s (fun t => t.write d ((s.myCore.counter n.val).setWidth 64))))
    ∧ (Executes s g [a.r] [d] →
      (((val s a).toNat % 8 ≠ 0 ∨ 4096 ≤ (val s a).toNat) → exec (.capr g d a) s = .next (retire s (fun t => t.write d 0)))
      ∧ (val s a = 0 → ∃ v, exec (.capr g d a) s = .next (retire s (fun t => t.write d v)) ∧ v.toNat % 2 ^ 16 = 1 ∧ v.toNat / 2 ^ 24 % 2 ^ 8 = 6)
      ∧ (∃ v, exec (.capr g d a) s = .next (retire s (fun t => t.write d v))))
    ∧ (s.me.guard g = true →
      ((∀ k < 16, mask.getLsbD k = true → (feed k).bind.isSome = true ∧ (feed k).cmds = []) →
        ∃ u, exec (.snap g mask) s = .next u ∧ u.myRect.requested = true ∧ u.me = (retire s id).me ∧ SameMemory s u)
      ∧ ((∀ k < 16, mask.getLsbD k = true → (feed k).bind.isSome = true) → (∃ k < 16, mask.getLsbD k = true ∧ (feed k).cmds ≠ []) →
        ∃ u p, exec (.snap g mask) s = .next u ∧ u.myRect.body.snaps = x.body.snaps ++ [(s.cur.core, p)] ∧ u.me = (retire s id).me
          ∧ ∀ k, (k, (feed k).issued) ∈ p ↔ k < 16 ∧ mask.getLsbD k = true)
      ∧ (∀ k < 16, mask.getLsbD k = true → (feed k).bind = none → (∀ j < k, mask.getLsbD j = true → (feed j).bind.isSome = true) →
        exec (.snap g mask) s = .next (traps s 0x10 (BitVec.ofNat 64 k)))
      ∧ (∃ u, exec (.cutreq g) s = .next u ∧ cutWait u)
      ∧ (x.halting = none → ∃ u, exec (.halt g) s = .next u ∧ cutWait u ∧ u.myRect.halting = some (x.taskCut, s.cur.core, s.cur.slot))
      ∧ (x.halting ≠ none → exec (.halt g) s = .next (retire s id)))

/-- R515 to R517: XSAVE writes the record of another slot of its core to the scratchpad and waits for it: zeros for a free
slot, else the registers in order, the PC and the flags; XLOAD of a record of a free slot frees the slot, of an occupied one
starts it at the record's PC with its registers to be fetched; both trap PRIV in mode U and ILLEGAL for their own slot. -/
def Obligations.TaskRecords : Prop :=
  ∀ (s : State) (g : Guard) (a : Src) (slot : Fin 8) (c o : Nat) (bp : Bool),
    let x := s.myRect
    let y := s.myCore.task slot.val
    let m := (s.core ⟨s.cur.rect, c⟩).scratch
    let bs := cellBytes m o 1024
    let field := fun (off n : Nat) => joinBytes ((bs.drop off).take n)
    (s.me.guard g = true → s.me.kmode = false →
      exec (.xsave g a slot) s = .next (traps s 0x02 0) ∧ exec (.xload g a slot) s = .next (traps s 0x02 0))
    ∧ (Executes s g [a.r] [] → s.me.kmode = true → slot.val = s.cur.slot →
      exec (.xsave g a slot) s = .next (traps s 0x01 (BitVec.ofNat 64 slot.val)) ∧ exec (.xload g a slot) s = .next (traps s 0x01 (BitVec.ofNat 64 slot.val)))
    ∧ (Executes s g [a.r] [] → s.me.kmode = true → slot.val ≠ s.cur.slot → y.pending = [] → s.accesses = [] → x.remote = [] → s.me.behind = [] →
      (RecordAt s (val s a) true (.window c o) bp → x.undo.length + 34 ≤ 1024 * x.area → Memory.wf m = true →
        ∃ u, exec (.xsave g a slot) s = .next u ∧ u.me = s.me.unwait.loopEnd.waitFor (.accesses s.nextId true)
          ∧ u.mem = s.mem ∧ u.peer = s.peer
          ∧ (let byte := fun k => byteAt (u.core ⟨s.cur.rect, c⟩).scratch (o + k)
             (∀ k, (k < o ∨ o + 1024 ≤ k) → byteAt (u.core ⟨s.cur.rect, c⟩).scratch k = byteAt m k)
             ∧ (y.occupied = false → ∀ k < 1024, byte k = 0)
             ∧ (y.occupied = true → y.pres = [] →
                (∀ r : Reg, ∀ j < 8, byte (8 * r.val + j) = (y.reg r).extractLsb' (8 * j) 8)
                ∧ (∀ j < 2, byte (530 + j) = (y.pc.setWidth 16).extractLsb' (8 * j) 8) ∧ (byte 529).getLsbD 0 = true)))
      ∧ (RecordAt s (val s a) false (.window c o) bp → (y.occupied = true → y.held = true) → badRecord s.myCore bs = false →
        (field 529 1 % 2 = 0 → ∃ u, exec (.xload g a slot) s = .next u ∧ (u.myCore.task slot.val).occupied = false ∧ SameMemory s u)
        ∧ (field 529 1 % 2 = 1 → ∃ u, exec (.xload g a slot) s = .next u ∧ SameMemory s u
            ∧ (let z := u.myCore.task slot.val
               z.occupied = true ∧ z.pc.toNat = field 530 2 ∧ z.handler = false ∧ z.kmode = false
               ∧ ∀ r : Reg, r ≠ 0 → recPres bs r.val ≠ 1 → z.presence r = .absent ∧ Sparse.at 0#64 z.saved r.val = BitVec.ofNat 64 (field (8 * r.val) 8)))))

/-- R269, R270, R405, R406: a walk that finds a leaf that allows its access ends, and the requester's translation of every
address of the page hits from then on; one that finds none stalls as a miss; Gelesque refuses a stalled access or lets it
walk again. R284, R267: a sent remote write that is acknowledged stands at the peer; a refused one raises ACCESS with its
address. R264, R458: refresh windows and reissued requests are counted. -/
def Sys2Proof.Cert.WalksAndAcknowledgments : Prop :=
  ∀ (s : State),
    (∀ (w : Walk) (e : Word), s.walks = [w] → w.faulted = false → s.tlb1 = [] → s.tlb2 = [] → s.refused = [] → w.va < 2 ^ 48 →
      let ps := (e.extractLsb' 8 4).toNat
      let frame := (e.extractLsb' 12 40).toNat * 4096
      let size := 2 ^ (12 + 2 * ps)
      (s.pages = [(w.tag, [(w.va / 4096, e)])] → e.extractLsb' 0 2 = 3#2 → e.extractLsb' 52 12 = 0 → e.extractLsb' 6 2 = 0 → ps ≤ 4 → frame % size = 0 →
        (w.write = true → e.getLsbD 3 = true ∧ e.getLsbD 5 = false) → (w.write = false → e.getLsbD 2 = true) →
        ∃ t, exec (.pageWalkComplete w.id) s = .next t ∧ t.walks = [] ∧ SameMemory s t
          ∧ ∀ who cache va, va / size = w.va / size → t.translate who cache w.die w.tag va w.write = .hit (frame + va % size) (e.getLsbD 4))
      ∧ (s.pages = [] → exec (.pageWalkComplete w.id) s = .next { s with walks := [{ w with faulted := true }] }))
    ∧ (∀ (w : Walk), s.walks = [w] → w.faulted = true → s.pages = [] →
      exec (.gelesqueFaultResolve w.id true) s = .next { s with walks := [], refused := s.refused ++ [w] }
      ∧ exec (.gelesqueFaultResolve w.id false) s = .next { s with walks := [] })
    ∧ (∀ (r : Nat) (x : Rect) (w : RemoteWrite), s.rects = [(r, x)] → x.remote = [w] → w.sent = true →
      (Memory.wf s.peer = true → ∃ t, exec (.remoteWriteAcknowledgment w.id .acked) s = .next t ∧ (t.rect r).remote = [] ∧ t.mem = s.mem
        ∧ ∀ k, byteAt t.peer k = if w.pa ≤ k ∧ k < w.pa + w.bytes.length then w.bytes.getD (k - w.pa) 0 else byteAt s.peer k)
      ∧ (x.fabricBusy = false → ∃ t, exec (.remoteWriteAcknowledgment w.id .refused) s = .next t ∧ (t.rect r).remote = [] ∧ SameMemory s t
        ∧ ∃ q ∈ (t.rect r).body.dq ++ (t.rect r).body.atSup, q.fabric = true ∧ q.cause = 0x05 ∧ q.tval = w.va))
    ∧ (∀ (d : Fin 4), (s.die d.val).announced = true → (s.die d.val).refreshes < (s.die d.val).timebase.toNat / 500 →
      exec (.weightStoreRefresh d) s = .next (s.modDie d.val (fun x => { x with refreshes := (s.die d.val).timebase.toNat / 500 })))
    ∧ (∀ (a : Access), s.accesses = [a] → a.epoch < (s.part (s.rect a.task.rect).part).epoch →
      ∃ t, exec (.sliceReplayReissue a.id) s = .next t ∧ t.accesses = [{ a with epoch := (s.part (s.rect a.task.rect).part).epoch }]
        ∧ (t.part (s.rect a.task.rect).part).replays = (s.part (s.rect a.task.rect).part).replays + 1 ∧ SameMemory s t)

namespace Sys2Proof.Cert

open Sys2Proof.Machine

/-- A cached translation meets a range (R410). -/
def Meets (e : TlbEntry) (ranges : List (Nat × Nat × Nat)) : Prop :=
  ∃ r ∈ ranges, e.tag = r.1 ∧ r.2.1 < e.base + 2 ^ (12 + 2 * e.ps) ∧ e.base < r.2.2

end Sys2Proof.Cert

/-- R409, R410: a running die that receives an invalidation has no translation of its ranges left in a cache of its own,
and every other one; an acknowledgment waits for the accesses marked; the fourth ends the invalidation, and with it the
command. -/
def Sys2Proof.Cert.Invalidations : Prop :=
  ∀ (s : State) (v : Inval) (d : Fin 4), s.invals = [v] →
    (v.received.contains d.val = false → (s.die d.val).announced = true →
      ∃ t v', exec (.invalidationReceive v.id d) s = .next t ∧ t.invals = [v'] ∧ v'.received = v.received ++ [d.val] ∧ v'.acked = v.acked
        ∧ (∀ e ∈ t.tlb1, e ∈ s.tlb1 ∧ ((e.cache < 256 ∧ dieOf e.cache = d.val) ∨ e.cache = 256 + d.val → ¬ Meets e v.ranges))
        ∧ (∀ e ∈ s.tlb1, ¬ Meets e v.ranges → e ∈ t.tlb1)
        ∧ (∀ e ∈ t.tlb2, e ∈ s.tlb2 ∧ (e.cache = d.val → ¬ Meets e v.ranges)) ∧ (∀ e ∈ s.tlb2, ¬ Meets e v.ranges → e ∈ t.tlb2)
        ∧ SameMemory s t)
    ∧ (v.received.contains d.val = true → v.acked.contains d.val = false →
      (v.acked.length < 3 → s.accesses = [] → s.rects = [] →
        exec (.invalidationAck v.id d) s = .next { s with invals := [{ v with acked := v.acked ++ [d.val] }] })
      ∧ (∀ a, s.accesses = [a] → v.marked = [4 * a.id + d.val] → exec (.invalidationAck v.id d) s = .next s)
      ∧ (∀ id rs, v.acked.length = 3 → s.accesses = [] → s.rects = [] → v.after = .command id true rs →
        ∃ t, exec (.invalidationAck v.id d) s = .next t ∧ t.invals = [] ∧ t.reply = (0, rs) ∧ SameMemory s t))

/-- R269, R270, R405, R406: a walk that finds a leaf that allows its access ends, and the requester's translation of
every address of the page hits from then on; one that finds none stalls as a miss; Gelesque refuses a stalled access
or lets it walk again. R284, R267: a sent remote write that is acknowledged stands at the peer; a refused one raises
ACCESS with its address. R264, R458: refresh windows and reissued requests are counted. R409, R410: a running die that
receives an invalidation has no translation of its ranges left in a cache of its own, and every other one; an
acknowledgment waits for the accesses marked; the fourth ends the invalidation, and with it the command. -/
def Obligations.TranslationsAndInvalidations : Prop :=
  Cert.WalksAndAcknowledgments ∧ Cert.Invalidations

/-- R471 to R475, R53: a cut that is asked for starts once nothing is to be delivered first: tasks are recorded as they
stand, and every bound feed port owes a MARK; it is complete when every agent has recorded: then it is the last complete
one, RSTAT.CUT is set, and timelines pass what waited for it. -/
def Obligations.CutsStartAndComplete : Prop :=
  ∀ (s : State) (r : Nat),
    let x := s.rect r
    x.soft = none →
    ((x.phase = .run ∨ x.phase = .boundary) → x.requested = true → x.prog = none → x.reload = none → s.accesses = [] → x.body.net = [] →
      (∀ c ∈ x.body.cores, ∀ t ∈ c.2.tasks, t.2.pres = []) →
      ∃ t g, exec (.cutStart r) s = .next t ∧ (t.rect r).started = x.started + 1 ∧ (t.rect r).requested = false
        ∧ (t.rect r).prog = some g ∧ g.n = x.started + 1 ∧ SameMemory s t ∧ (∀ u, t.task u = s.task u)
        ∧ (∀ c k, (g.body.core c).task k = (x.body.core c).task k ∧ (g.body.core c).scratch = (x.body.core c).scratch)
        ∧ (∀ c n, ((x.body.core c).feed n).bind.isSome = true → (((t.rect r).body.core c).feed n).markDue = true))
    ∧ (∀ g, x.prog = some g → g.elems = [] → g.sinks = [] → (x.phase = .run ∨ x.phase = .boundary ∨ x.phase = .drain) → x.halting = none →
      ∃ t, exec (.cutComplete r) s = .next t ∧ (t.rect r).complete = g.n ∧ (t.rect r).prog = none ∧ (t.rect r).repeats = 0
        ∧ (t.rect r).body.rstat.getLsbD 8 = true ∧ SameMemory s t ∧ (∀ u, t.task u = s.task u)
        ∧ (∀ w ∈ (t.rect r).remote, w.cut ≤ g.n → w.sent = true)
        ∧ (∃ b, (t.rect r).record = some b ∧ ∀ c k, (b.core c).task k = (g.body.core c).task k)
        ∧ (∀ c n m, ((x.body.core c).tline n).done = [(((x.body.core c).tline n).c + 1, m)] → m ≤ g.n →
            (((t.rect r).body.core c).tline n).c = ((x.body.core c).tline n).c + 1 ∧ (((t.rect r).body.core c).tline n).done = []))

/-- R477 to R482: an uncorrectable error stops the rectangle's consumers; the rollback restores the bytes that the undo log
holds, and the logical state to the record of the last complete cut, registers absent; the third repeat of a fault after one cut, or a
cut 0 that cannot be restored, stops the rectangle with the detail record at its supervisor. -/
def Obligations.RollingFaults : Prop :=
  ∀ (s : State) (r : Nat) (unit : FaultUnit) (core addr len : Nat),
    let x := s.rect r
    (x.phase = .run → x.soft = none →
      exec (.softErrorDetect r unit core addr len) s = .next (s.setRect r { x with soft := some (unit, core, addr, len) }))
    ∧ (x.phase = .run → x.soft = some (unit, core, addr, len) → x.repeats < 3 → ∀ b, x.record = some b → s.lines = [] → s.accesses = [] →
      ∃ t, exec (.rollback r) s = .next t ∧ (t.rect r).soft = none ∧ (t.rect r).started = x.complete ∧ (t.rect r).complete = x.complete
        ∧ (t.rect r).prog = none ∧ (t.rect r).repeats = x.repeats + 1 ∧ t.accesses = [] ∧ t.peer = s.peer
        ∧ (∀ c, ((t.rect r).body.core c).scratch = (b.core c).scratch)
        ∧ (∀ c k, ((b.core c).task k).occupied = true →
            let u := ((t.rect r).body.core c).task k
            u.pc = ((b.core c).task k).pc ∧ ∀ q : Reg, q ≠ 0 → ((b.core c).task k).presence q = .full →
              u.presence q = .absent ∧ Sparse.at 0#64 u.saved q.val = ((b.core c).task k).reg q)
        ∧ (x.undo = [] → t.mem = s.mem)
        ∧ (∀ u, x.undo = [u] → x.complete ≤ u.seg → Memory.wf s.mem = true → (∀ i < 32, s.sliceFor x.tag (u.addr + i) .keep = none) →
            ∀ k, byteAt t.mem k = if u.addr ≤ k ∧ k < u.addr + 32 ∧ u.mask.getLsbD (k - u.addr) = true
              then u.old.extractLsb' (8 * (k - u.addr)) 8 else byteAt s.mem k))
    ∧ (x.phase = .run → x.soft ≠ none → (3 ≤ x.repeats ∨ (x.record = none ∧ s.cutZero r = none)) →
      ∃ t, exec (.rollback r) s = .next t ∧ (t.rect r).phase = .stopped ∧ (∃ d, (t.rect r).verdict = some (1, 0x24, d)) ∧ SameMemory s t
        ∧ (Sparse.at [] t.mailbox x.part).length = 64)

/-- R377, R378, R434: a reserved launch whose cut is complete and whose task owes no write is submitted; a submitted one whose
record and image read and pass every check of Table 15.3 is pending, with the copies that it asks for; the first failing
check refuses it, and the register of its LAUNCH gets the reason and the detail with bit 63 set. -/
def Sys2Proof.Cert.LaunchesReceived : Prop :=
  ∀ (s : State) (l : Launch), s.launches = [l] →
    (∀ t reg tl num, l.src = .local t reg tl num → l.phase = .reserved → l.cut ≤ (s.rect t.rect).complete → s.accesses = [] →
      exec (.launchSubmit l.id) s = .next { s with launches := [{ l with phase := .submitted }] })
    ∧ (∀ (s1 s2 s3 : State) (rec_ hb bs : List Byte), l.phase = .submitted → l.lrec = [] → s.tenantRead l.id l.part l.tag l.addr.toNat 64 = .ok s1 rec_ →
      s1.tenantRead l.id l.part l.tag (joinBytes (rec_.take 8)) 32 = .ok s2 hb →
      let hd : Frame := BitVec.ofNat 256 (joinBytes hb)
      (s2.recordFault l.tag rec_ hd = none → s2.tenantRead l.id l.part l.tag (joinBytes (rec_.take 8)) (32 * max 1 (imageCount hd)) = .ok s3 bs →
        imageFault (s3.tenant l.tag).scopeMax (s3.tenant l.tag).scopeStrict (4096 * (rec_.getD 32 0).toNat) (framesOf (max 1 (imageCount hd)) bs) = none →
        s3.launches = s.launches →
        ∃ t n, exec (.admissionReceive l.id) s = .next t ∧ t.launches = [{ l with
            phase := .pending, lrec := rec_, frames := framesOf (max 1 (imageCount hd)) bs, arrival := n, head := some (s3.partTime l.part),
            copies := joinBytes ((rec_.drop 12).take 2) }]
          ∧ t.mem = s3.mem ∧ t.peer = s3.peer)
      ∧ (∀ reason detail t reg tl num y, s2.recordFault l.tag rec_ hd = some (reason, detail) → l.src = .local t reg tl num → s2.launches = s.launches →
        Sparse.look s2.rects t.rect = some y → y.tag = l.tag → reg ≠ 0 → Sparse.at .full (s2.task t).pres reg = .empty (.launch l.id) →
        ∃ u, exec (.admissionReceive l.id) s = .next u ∧ u.launches = []
          ∧ Sparse.at .full (u.task t).pres reg = .empty (.value (BitVec.ofNat 64 (2 ^ 63 + reason * 2 ^ 32 + detail % 2 ^ 32)) none)))
    ∧ (∀ rec_ hd tag, let f := fun (o n : Nat) => joinBytes ((rec_.drop o).take n)
      (f 8 1 = 0 ∨ 16 < f 8 1 ∨ f 9 1 = 0 ∨ 16 < f 9 1 ∨ f 8 1 ≠ imageW hd ∨ f 9 1 ≠ imageH hd →
        s.recordFault tag rec_ hd = some (0x01, f 8 1 * 256 + f 9 1))
      ∧ (1 ≤ f 8 1 → f 8 1 ≤ 16 → 1 ≤ f 9 1 → f 9 1 ≤ 16 → f 8 1 = imageW hd → f 9 1 = imageH hd → (s.tenant tag).lease < f 8 1 * f 9 1 * f 12 2 →
        s.recordFault tag rec_ hd = some (0x02, f 8 1 * f 9 1 * f 12 2)))

/-- R345 to R347: the sole admissible head is chosen, and its tenant's turn grows by its area over the weight; a head gains a
level for each 1 ms, up to three; one that is not admissible after 100 µs reserves its tenant. -/
def Sys2Proof.Cert.AdmissionChoice : Prop :=
  ∀ (s : State) (l : Launch) (t : Nat), s.launches = [l] → l.phase = .pending →
    ((s.part l.part).chosen = none → s.tenantsOf l.part = [l.tag] → (s.tenant l.tag).reserved = none → l.w * l.h * l.rmin ≤ s.freeArea l.tag →
      s.runs l.tag = true →
      ∃ u, exec (.admissionChoice l.part) s = .next u ∧ u.launches = [{ l with phase := .chosen }] ∧ (u.part l.part).chosen = some l.id
        ∧ (u.tenant l.tag).vt = (s.tenant l.tag).vt.add (Q.div (Q.ofInt ((l.w * l.h * l.rmin : Nat) : Int)) (Q.ofInt (((s.tenant l.tag).wt : Nat) : Int)))
        ∧ SameMemory s u)
    ∧ (l.head = some t → l.boost < 3 → t + 250000 * (l.boost + 1) ≤ s.partTime l.part →
      exec (.launchAgeing l.part l.tag l.proc l.prio) s = .next { s with launches := [{ l with boost := l.boost + 1 }] })
    ∧ (l.head = some t → (s.tenant l.tag).reserved = none → s.freeArea l.tag < l.w * l.h * l.rmin → t + 25000 ≤ s.partTime l.part →
      exec (.tenantReserve l.part l.tag l.proc l.prio) s = .next (s.modTenant l.tag (fun x => { x with reserved := some l.id })))

/-- R377, R378, R434: a reserved launch whose cut is complete and whose task owes no write is submitted; a submitted
one whose record and image read and pass every check of Table 15.3 is pending, with the copies that it asks for; the
first failing check refuses it, and the register of its LAUNCH gets the reason and the detail with bit 63 set. R345 to
R347: the sole admissible head is chosen, and its tenant's turn grows by its area over the weight; a head gains a
level for each 1 ms, up to three; one that is not admissible after 100 µs reserves its tenant. -/
def Obligations.LaunchesReceivedAndChosen : Prop :=
  Cert.LaunchesReceived ∧ Cert.AdmissionChoice

/-- R348, R342, R66, R379, R403, R53: the chosen launch is placed on a free block: its rectangle runs there from its image with
its tag on the switch boxes; at its end the rectangle asks for a cut, and after it leaves its cores and completes the
number of its LAUNCH. -/
def Obligations.RectanglesStartAndEnd : Prop :=
  ∀ (s : State),
    (∀ (part px py : Nat) (l : Launch), s.launches = [l] → (s.part part).chosen = some l.id → s.freeBlock part 0 px py l.w l.h = true →
      let body := launchBody (s.tenant l.tag).scopeMax l.frames (BitVec.ofNat 64 (l.field 16 8)) (4096 * l.field 32 1)
      seamClash body.cores px py l.w l.h = false → framesBind l.frames = false → l.copies ≤ 1 → l.stage = none → l.rmax ≤ 1 → s.boxTags = [] → l.tag ≠ 0 →
      ∃ t, exec (.launchPlace part px py) s = .next t ∧ t.launches = [] ∧ (t.part part).chosen = none ∧ (t.tenant l.tag).resident = true
        ∧ (let x := t.rect s.nextId
           x.phase = .run ∧ x.tag = l.tag ∧ x.part = l.part ∧ x.w = l.w ∧ x.h = l.h ∧ x.px = px ∧ x.py = py ∧ x.body = body ∧ x.launch = l.id
           ∧ x.src = l.src ∧ x.complete = 0 ∧ x.record = none)
        ∧ (∀ i j, i < l.w → j < l.h → Sparse.get 0 t.boxTags (16 * (py + j) + (px + i)) = l.tag)
        ∧ t.mem = s.mem ∧ t.peer = s.peer ∧ (∀ r, r ≠ s.nextId → t.rect r = s.rect r))
    ∧ (∀ (r : Nat), let x := s.rect r
      x.verdict = none → (x.phase = .run ∨ x.phase = .boundary) → x.soft = none → x.retiring = false →
      x.body.eng = [] → (∀ a ∈ s.accesses, a.task.rect ≠ r) →
      (∀ c ∈ x.body.cores, (∀ t ∈ c.2.tasks, t.2.occupied = false) ∧ (∀ p ∈ c.2.feeds, p.2.cmds = []) ∧ (∀ p ∈ c.2.sinks, p.2.cmds = [])
        ∧ c.2.engine.cmds = []) →
      (x.ending = none → ∃ t, exec (.rectangleComplete r) s = .next t ∧ (t.rect r).ending = some (x.started + 1) ∧ (t.rect r).requested = true
        ∧ SameMemory s t)
      ∧ (∀ n u reg tl num y, x.ending = some n → n ≤ x.complete → x.remote = [] → x.stage = none → (recBytes x.lrec 10 2) % 2 = 0 → x.announced = true →
        x.src = .local u reg tl num → u.rect ≠ r → Sparse.look s.rects u.rect = some y →
        ∃ t, exec (.rectangleComplete r) s = .next t ∧ Sparse.look t.rects r = none ∧ t.mem = s.mem ∧ t.peer = s.peer
          ∧ ((t.core u.coreRef).tline tl).done = ((s.core u.coreRef).tline tl).done ++ [(num, y.cutAfter true)]))

/-- R350, R353 to R355: at a quantum's end the turn of a resident tenant grows by one over its weight; the pipeline unit may
add one replica to a stage that has room, or retire its last above the minimum; a retired one leaves once every item has
left. What the queues' occupancy shows is a free value (log 26). -/
def Obligations.QuantaAndReplicas : Prop :=
  ∀ (s : State),
    (∀ (part k : Nat) (p : Part), Sparse.look s.parts part = some p → p.lastQ + s.quantum * 250000 ≤ s.partTime part → s.tenantsOf part = [k] →
      (s.tenant k).resident = true → s.oversubscribed part = false →
      ∃ t, exec (.quantumEnd part) s = .next t ∧ (t.part part).lastQ = p.lastQ + s.quantum * 250000
        ∧ (t.tenant k).vs = (s.tenant k).vs.add (Q.div (Q.ofInt 1) (Q.ofInt (((s.tenant k).wt : Nat) : Int))) ∧ (t.tenant k).quanta = (s.tenant k).quanta + 1
        ∧ SameMemory s t)
    ∧ (∀ (stage : Nat) (g : Stage), Sparse.look s.stages stage = some g → (s.tenant g.tag).part = g.part → s.runs g.tag = true →
      (∀ p ∈ s.rects, p.2.moving = none) →
      let n := g.rects.length
      (n < g.rmax → n ≤ g.rmin → recBytes g.lrec 8 1 * recBytes g.lrec 9 1 ≤ s.freeArea g.tag → g.changed.toNat + 2000 ≤ s.partTime g.part →
        (s.part g.part).chosen = none →
        ∃ t, exec (.replicaEvaluate g.part stage) s = .next t ∧ ((s.freeWord 4).getLsbD 0 = false → t = s)
          ∧ ((s.freeWord 4).getLsbD 0 = true → (t.part g.part).chosen = some s.nextId ∧ ∃ l, t.launches = s.launches ++ [l] ∧ l.id = s.nextId
              ∧ l.src = .replica stage ∧ l.phase = .chosen ∧ l.tag = g.tag ∧ l.lrec = g.lrec ∧ l.copies = 1))
      ∧ (∀ r, g.rects.getLast? = some r → g.rmax ≤ n → g.rmin < n → g.changed.toNat + 16000 ≤ s.partTime g.part → (s.rect r).retiring = false →
        (s.rect r).phase = .run →
        ∃ t, exec (.replicaEvaluate g.part stage) s = .next t ∧ (t.rect r).retiring = (s.freeWord 4).getLsbD 1 ∧ SameMemory s t))
    ∧ (∀ (r : Nat), (s.rect r).retiring = true → (s.rect r).phase = .run → (s.rect r).moving = none →
      ∃ t, exec (.replicaRetireEnd r) s = .next t ∧ t.mem = s.mem ∧ t.peer = s.peer
        ∧ ((s.freeWord 5).getLsbD 0 = true → Sparse.look t.rects r = none) ∧ ((s.freeWord 5).getLsbD 0 = false → t = s))

namespace Sys2Proof.Cert

open Sys2Proof.Machine

/-- No part of a rectangle is under way outside its cores: no packets and no accesses past translation (R494). -/
def Still (s : State) (r : Nat) : Prop := (s.rect r).body.net = [] ∧ ∀ a ∈ s.accesses, a.task.rect ≠ r

end Sys2Proof.Cert

/-- R487, R493 to R496, R500: a move to a free block of the shape drains the rectangle, or freezes it when 18,800 cycles pass
first; it is copied, rebound and released at its new place with its logical state as it was, and a cut is asked for. -/
def Obligations.MovesOfRectangles : Prop :=
  ∀ (s : State) (r px py : Nat),
    let x := s.rect r
    (x.phase = .run → x.moving = none → x.reload = none → x.soft = none → px ≠ x.px → s.onUnsafe r = true ∨ ((s.part x.part).chosen.isSome = true ∧
        (s.part x.part).moved.contains r = false) → s.freeBlock x.part r px py x.w x.h = true → seamClash x.body.cores px py x.w x.h = false →
      ∃ t, exec (.cutDrainMove r px py) s = .next t ∧ (t.rect r).phase = .drain ∧ (t.rect r).moving = some (.move px py) ∧ (t.rect r).body = x.body
        ∧ (t.rect r).px = x.px ∧ (t.rect r).py = x.py ∧ SameMemory s t)
    ∧ (x.phase = .drain → x.reload = none → s.quiescent r = true → (∀ c ∈ x.body.cores, ∀ m ∈ c.2.engine.cmds, m.phase = .queued) →
        exec (.quiescenceEmpty r) s = .next (s.setRect r { x with phase := .copy }))
    ∧ (x.phase = .drain → x.clock + 18800 ≤ (s.die (dieOf (x.phys 0))).cycles.toNat →
        exec (.drainTimeout r) s = .next (s.setRect r { x with phase := .freeze, frozen := true }))
    ∧ (x.phase = .copy → exec (.coreCopyComplete r) s = .next (s.setRect r { x with phase := .rebind }))
    ∧ (x.phase = .freeze → x.moving = some (.move px py) → Still s r →
        ∃ t, exec (.coreCopyComplete r) s = .next t ∧ t.rect r = { x with phase := .rebind } ∧ SameMemory s t)
    ∧ (x.phase = .rebind → x.moving = some (.move px py) → x.tag ≠ 0 → s.boxTags = [] → px + x.w ≤ 16 →
      ∃ t, exec (.rebindRelease r) s = .next t ∧ t.rect r = { x with px := px, py := py, phase := .run, moving := none, requested := true }
        ∧ (∀ i j, i < x.w → j < x.h → Sparse.get 0 t.boxTags (16 * (py + j) + (px + i)) = x.tag) ∧ SameMemory s t ∧ (∀ u, t.task u = s.task u))

/-- R502 to R504, R507 to R509: pre-emption waits for the tile-task boundary, at most 18,800 cycles, then freezes; the context
saved is the record of a complete cut; it is restored onto a free block, registers absent, if the capability signature
is the device's, else its launch completes with reason 0x24; a context is exported with a signature. What verifies an
imported context is a free value (log 5, 29). -/
def Obligations.ContextsSwapAndTravel : Prop :=
  ∀ (s : State) (r : Nat),
    let x := s.rect r
    (x.phase = .run → x.reload = none → x.soft = none → x.moving = some .preempt →
      ∃ t, exec (.preempt r) s = .next t ∧ (t.rect r).phase = .boundary ∧ (t.rect r).body = x.body ∧ SameMemory s t)
    ∧ (x.phase = .boundary → (∀ c ∈ x.body.cores, c.2.engine.cmds = []) →
      exec (.preempt r) s = .next (s.setRect r { x with phase := .freeze, frozen := true, bound := true }))
    ∧ (x.phase = .boundary → x.clock + 18800 ≤ (s.die (dieOf (x.phys 0))).cycles.toNat →
      exec (.preemptTimeout r) s = .next (s.setRect r { x with phase := .freeze, frozen := true }))
    ∧ (x.phase = .freeze → x.moving = some .preempt → Still s r → x.prog = none → x.halting = none →
      ∃ t, exec (.contextSaveComplete r) s = .next t ∧ (t.rect r).phase = .swapped ∧ (t.rect r).moving = none
        ∧ (t.rect r).complete = x.started + 1 ∧ (t.rect r).capsig = s.capSignature ∧ (∃ b, (t.rect r).record = some b) ∧ SameMemory s t
        ∧ (∀ u k, (t.task u).reg k = (s.task u).reg k ∧ (t.task u).pc = (s.task u).pc))
    ∧ (∀ px py, x.phase = .swapped → x.verdict = none → s.runs x.tag = true →
      (x.capsig = s.capSignature → s.freeBlock x.part r px py x.w x.h = true → seamClash x.body.cores px py x.w x.h = false →
        ∃ t, exec (.contextRestore r px py) s = .next t ∧ (t.rect r).phase = .run ∧ (t.rect r).px = px ∧ (t.rect r).py = py ∧ SameMemory s t
          ∧ ∀ c k q, ((x.body.core c).task k).occupied = true → q ≠ 0 → ((x.body.core c).task k).presence q = .full →
              let u := ((t.rect r).body.core c).task k
              u.pc = ((x.body.core c).task k).pc ∧ u.presence q = .absent ∧ Sparse.at 0#64 u.saved q.val = ((x.body.core c).task k).reg q)
      ∧ (x.capsig ≠ s.capSignature →
        ∃ t d, exec (.contextRestore r px py) s = .next t ∧ (t.rect r).phase = .swapped ∧ (t.rect r).verdict = some (1, 0x24, d) ∧ SameMemory s t))
    ∧ (x.phase = .swapped → x.verdict = none → s.accesses = [] → x.body.eng = [] → x.remote = [] → x.body.atSup = [] →
      ∃ t sig, exec (.contextExport r) s = .next t ∧ Sparse.at [] t.mailbox x.part = s.contextOf r ++ sig ∧ sig.length = 96 ∧ t.rect r = x
        ∧ SameMemory s t)
    ∧ (∀ part tag bytes sig tn, Sparse.look s.tenants tag = some tn → tn.part = part →
      ∃ t, exec (.contextImport part tag bytes sig) s = .next t ∧ t.mem = s.mem ∧ t.peer = s.peer ∧ (genuine bytes sig = false → t = s)
        ∧ (∀ b, genuine bytes sig = true → s.headerFits bytes = true → s.crockRoom tag = true →
            bodyFrom bytes (recBytes bytes 6 1) (recBytes bytes 7 1) = some b →
            ∃ n, s.nextId ≤ n ∧ (t.rect n).phase = .swapped ∧ (t.rect n).tag = tag ∧ (t.rect n).part = part ∧ (t.rect n).body = b))

namespace Sys2Proof.Cert

open Sys2Proof.Machine
open Host (Outcome)

/-- A die takes commands that are handed in directly (R427): the module is ready and a pair of its complex runs. -/
def Takes (s : State) (die : Nat) : Prop := s.house.ready = true ∧ s.complexRuns die = true

/-- A command goes on and its receiver has the status and the result words (R427). -/
def Answers (i : Instr) (s : State) (st : Nat) (rs : List (Nat × Word)) (p : State → Prop) : Prop :=
  ∃ t, exec i s = .next t ∧ t.reply = (st, rs) ∧ p t

/-- A command goes on and waits for the invalidation of ranges before its status OK (R409). -/
def Invalidates (i : Instr) (s : State) (ranges : List (Nat × Nat × Nat)) (rs : List (Nat × Word)) (p : State → Prop) : Prop :=
  ∃ t v, exec i s = .next t ∧ t.invals = s.invals ++ [v] ∧ v.ranges = ranges ∧ v.after = .command s.nextId true rs ∧ v.acked = [] ∧ p t

/-- An argument of a command as a number. -/
def arg (args : List Word) (k : Nat) : Nat := (args.getD k 0).toNat

/-- A command on a partition handed in by its authority (Table 18.1): its supervisor, or the owner where none serves it. -/
def Authority (s : State) (by_ : Issuer) (p : Nat) : Prop :=
  (by_ = .owner ∧ (s.part p).sup = false) ∨ (by_ = .supervisor p ∧ (s.part p).sup = true)

end Sys2Proof.Cert

/-- R392, R395, R396, R399, R427, R428: PART_SET by the owner of a module without launches sets the mode, the quantum and fresh
partitions; TENANT_CREATE takes the lowest free tag; LEASE_SET changes lease and weights, not below what the tenant uses;
TENANT_DESTROY of an idle tenant clears what it held and ends with an invalidation of its whole space. A command is BUSY
before the module is ready, and DENIED to an issuer without the authority. -/
def Obligations.PartitionAndTenantCommands : Prop :=
  ∀ (s : State) (die : Nat) (by_ : Issuer) (args : List Word),
    let a := arg args
    let cmd := CmdSrc.direct die by_ args
    (s.house.ready = false → Answers (.partSet cmd) s 1 [] (fun t => t.mode = s.mode) ∧ Answers (.tenantCreate cmd) s 1 [] (fun t => t.tenants = s.tenants))
    ∧ (Takes s die →
      (by_ = .owner → a 0 ≤ 6 → 1 ≤ a 1 → a 1 ≤ 100 → a 2 = 0 → s.rects = [] → s.launches = [] → s.tenants = [] →
        Answers (.partSet cmd) s 0 [] (fun t => t.mode = a 0 ∧ t.quantum = a 1 ∧ (∀ p, p < 2 ^ a 0 → (t.part p).weight = 1 ∧ (t.part p).layout = 0)
          ∧ (∀ p, p < 256 → Sparse.get 0#4 t.gates p = gateMask (a 0) p)))
      ∧ (by_ ≠ .owner →
          Answers (.partSet cmd) s 2 [] (fun t => t.mode = s.mode ∧ t.parts = s.parts))
      ∧ (Authority s by_ (a 0) → a 0 < 2 ^ s.mode → 1 ≤ a 1 → a 1 ≤ partW s.mode * partH s.mode → a 2 < 2 ^ 16 → a 3 ≤ 6 → a 4 ≤ 1 → 1 ≤ a 5 → a 5 ≤ 255 →
          (s.tenantsOf (a 0)).length < 64 → s.tenants.length < 256 →
          ∀ tag, 1 ≤ tag → tag < 4096 → s.tagFree tag = true → (∀ k, 1 ≤ k → k < tag → s.tagFree k = false) →
          Answers (.tenantCreate cmd) s 0 [(0, BitVec.ofNat 64 tag), (1, BitVec.ofNat 64 s.nextLease)] (fun t =>
            (let n := t.tenant tag
             n.part = a 0 ∧ n.lease = a 1 ∧ n.ways = BitVec.ofNat 16 (a 2) ∧ n.scopeMax = a 3 ∧ n.scopeStrict = decide (a 4 = 1) ∧ n.wt = a 5
             ∧ n.leaseNo = s.nextLease ∧ n.domain = 0)
            ∧ t.nextLease = s.nextLease + 1 ∧ ∀ k, k ≠ tag → t.tenant k = s.tenant k))
      ∧ (Authority s by_ (s.tenant (a 0)).part → (Sparse.look s.tenants (a 0)).isSome = true →
        (1 ≤ a 1 → a 1 ≤ partW s.mode * partH s.mode → 1 ≤ a 2 → a 2 ≤ 255 → a 3 ≤ 15 → 1 ≤ a 4 → a 4 ≤ 255 → s.usedArea (a 0) ≤ a 1 →
          Answers (.leaseSet cmd) s 0 [] (fun t => (t.tenant (a 0)).lease = a 1 ∧ (t.tenant (a 0)).wt = a 2
            ∧ Sparse.at (1 : Nat) (t.tenant (a 0)).wps (a 3) = a 4 ∧ ∀ k, k ≠ a 0 → t.tenant k = s.tenant k))
        ∧ (s.rects = [] → s.launches = [] → s.calls = [] → s.migrations = [] →
          Invalidates (.tenantDestroy cmd) s [(a 0, 0, 2 ^ 48)] [] (fun t => Sparse.look t.tenants (a 0) = none ∧ Sparse.look t.pages (a 0) = none
            ∧ (∀ l ∈ t.lines, l.tag ≠ a 0) ∧ (∀ e ∈ t.exports, e.tag ≠ a 0) ∧ (∀ set, a 0 ∉ Sparse.at [] t.shareSets set) ∧ t.mem = s.mem))))

/-- R397 to R399, R428, R538: the four operations of MEM_GRANT: unowned granules become the tenant's, zeroed; granules that it
owns and nothing maps become unowned; a share set is attached to granules that it owns; the members of a share set are
replaced. -/
def Obligations.GranuleCommands : Prop :=
  ∀ (s : State) (die : Nat) (by_ : Issuer) (args : List Word),
    let a := arg args
    let cmd := CmdSrc.direct die by_ args
    let inside := fun (g : Nat) => a 2 ≤ g ∧ g < a 2 + a 3
    Takes s die → Authority s by_ (s.tenant (a 0)).part → (Sparse.look s.tenants (a 0)).isSome = true → a 0 ≠ 0 →
    (1 ≤ a 3 → a 2 + a 3 ≤ 0x40400 → Sparse.wf Granule.free s.granules = true →
      (a 1 = 0 → (∀ g, inside g → (s.granule g).owner = 0 ∧ (s.die (granuleDie g)).announced = true) → Memory.wf s.mem = true →
        Answers (.memGrant cmd) s 0 [(0, args.getD 2 0)] (fun t =>
          (∀ g, t.granule g = if inside g then { owner := a 0, sset := 0, sro := false } else s.granule g)
          ∧ (∀ g i, inside g → i < 2 ^ 21 → byteAt t.mem (granuleBase g + i) = 0)
          ∧ (∀ k, (∀ g, inside g → k < granuleBase g ∨ granuleBase g + 2 ^ 21 ≤ k) → byteAt t.mem k = byteAt s.mem k)))
      ∧ (a 1 = 0 → (∃ g, inside g ∧ (s.granule g).owner ≠ 0) → Answers (.memGrant cmd) s 3 [] (fun t => t.granules = s.granules ∧ SameMemory s t))
      ∧ ((∀ g, inside g → (s.granule g).owner = a 0) →
        (a 1 = 1 → s.pages = [] → Answers (.memRevoke cmd) s 0 [(0, args.getD 2 0)] (fun t =>
          (∀ g, t.granule g = if inside g then Granule.free else s.granule g) ∧ SameMemory s t))
        ∧ (a 1 = 2 → a 4 < 512 → Answers (.memSetShare cmd) s 0 [(0, args.getD 2 0)] (fun t =>
          (∀ g, t.granule g = if inside g then { owner := a 0, sset := a 4 % 256, sro := decide (256 ≤ a 4) } else s.granule g) ∧ SameMemory s t))))
    ∧ (a 1 = 3 → 1 ≤ a 2 → a 2 ≤ 255 → a 3 < 2 ^ 48 → a 4 < 2 ^ 48 → Sparse.look s.shareSets (a 2) = none →
      (∀ t ∈ memberTags (a 3) (a 4), (Sparse.look s.tenants t).isSome = true ∧ (s.tenant t).part = (s.tenant (a 0)).part) →
      Answers (.memDefineShareSet cmd) s 0 [(0, args.getD 2 0)] (fun t => Sparse.at [] t.shareSets (a 2) = memberTags (a 3) (a 4) ∧ SameMemory s t))

/-- R405, R406, R409, R411, R428, R538: MAP by the tenant puts its pages over the named granules or the lowest free frames and
answers with the physical address, a page of 4 KiB with exactly the leaf of Table 17.3; UNMAP and a narrowing PROTECT clear
or change the leaves and end with an invalidation; a widening PROTECT ends at once. -/
def Obligations.MappingCommands : Prop :=
  ∀ (s : State) (die tag : Nat) (args : List Word),
    let a := arg args
    let cmd := CmdSrc.direct die (.tenant tag) args
    let table := fun (t : State) => Sparse.at [] t.pages tag
    let bit := fun (n k : Nat) => decide (n / 2 ^ k % 2 = 1)
    Takes s die → (Sparse.look s.tenants tag).isSome = true → a 0 = tag → Sparse.wf 0#64 (table s) = true →
    (∀ pa, a 2 = 0 → a 3 = 4096 → a 4 < 16 → a 6 = 0 → a 1 % 4096 = 0 → a 1 + 4096 ≤ windowBase → s.pagesIn tag (a 1) 4096 = [] →
      s.mapPlace tag 0 4096 (a 4) (a 5) = .ok pa →
      Answers (.map cmd) s 0 [(0, BitVec.ofNat 64 pa)] (fun t =>
        (∀ k, Sparse.get 0#64 (table t) k = if k = a 1 / 4096 then leafWord pa 0 (bit (a 4) 0) (bit (a 4) 1) (bit (a 4) 2) false else Sparse.get 0#64 (table s) k)
        ∧ SameMemory s t))
    ∧ (a 2 ≤ 11 → 0 < a 3 → a 3 % 2 ^ (12 + 2 * a 2) = 0 → a 4 < 16 → a 6 = 0 → a 1 % 2 ^ (12 + 2 * a 2) = 0 → a 1 + a 3 ≤ windowBase →
      s.pagesIn tag (a 1) (a 3) = [] → (∀ pa, s.mapPlace tag (a 2) (a 3) (a 4) (a 5) = .ok pa → Answers (.map cmd) s 0 [(0, BitVec.ofNat 64 pa)] (SameMemory s))
        ∧ (∀ e, s.mapPlace tag (a 2) (a 3) (a 4) (a 5) = .error e → Answers (.map cmd) s e [] (fun t => t.pages = s.pages)))
    ∧ (32 ≤ a 4 → Answers (.map cmd) s 4 [] (fun t => t.pages = s.pages))
    ∧ (∀ leaf, a 1 % 4096 = 0 → a 2 = 4096 → a 1 + 4096 ≤ windowBase → s.pagesIn tag (a 1) 4096 = [(a 1, 0, leaf)] → leafMig leaf = false → leafPs leaf = 0 →
      (Invalidates (.unmap cmd) s [(tag, a 1, a 1 + 4096)] [] (fun t =>
        (∀ k, Sparse.get 0#64 (table t) k = if k = a 1 / 4096 then 0#64 else Sparse.get 0#64 (table s) k) ∧ SameMemory s t))
      ∧ (a 3 < 8 → (bit (a 3) 1 = false ∨ isPeerWindow (leafPa leaf) = true ∨ (granulesOf (leafPa leaf) 4096).all (s.mayMap tag true) = true) →
        let leaf' := leafWord (leafPa leaf) 0 (bit (a 3) 0) (bit (a 3) 1) (bit (a 3) 2) false
        let changes := fun (t : State) => (∀ k, Sparse.get 0#64 (table t) k = if k = a 1 / 4096 then leaf' else Sparse.get 0#64 (table s) k) ∧ SameMemory s t
        let narrows := (leafR leaf && !bit (a 3) 0) || (leafW leaf && !bit (a 3) 1) || (leafBp leaf != bit (a 3) 2)
        (narrows = false → Answers (.protect cmd) s 0 [] changes)
        ∧ (narrows = true → Invalidates (.protect cmd) s [(tag, a 1, a 1 + 4096)] [] changes)))

/-- R412, R413: MIGRATE of a page that lies on its target die is done at once; of another, and of the monitor's choice, MIG is
set and the page invalidated; the copy gives the new frame the bytes of the old one, the leaf names it with MIG clear, and
a second invalidation follows. The monitor's counts start again each 250,000 ticks. -/
def Obligations.MigrationSteps : Prop :=
  ∀ (s : State) (die tag : Nat) (args : List Word),
    let a := arg args
    let cmd := CmdSrc.direct die (.tenant tag) args
    (Takes s die → (Sparse.look s.tenants tag).isSome = true → a 0 = tag → a 2 ≤ 3 → (s.die (a 2)).announced = true →
      ∀ p rest, s.pagesIn tag (a 1) 1 = p :: rest → p.2.1 ≤ 5 → isHbm (leafPa p.2.2) = true → leafMig p.2.2 = false →
      (leafPa p.2.2 / 2 ^ 37 = a 2 → Answers (.migrate cmd) s 0 [] (SameMemory s))
      ∧ (∀ dst, leafPa p.2.2 / 2 ^ 37 ≠ a 2 → s.migrationPlace p (a 2) = some dst →
        ∃ t m v, exec (.migrate cmd) s = .next t ∧ t.migrations = s.migrations ++ [m] ∧ m.tag = tag ∧ m.va = p.1 ∧ m.src = leafPa p.2.2 ∧ m.dst = dst
          ∧ m.bytes = 2 ^ (12 + 2 * p.2.1) ∧ m.copying = false ∧ m.command = some (s.nextId, true)
          ∧ t.invals = s.invals ++ [v] ∧ v.ranges = [(tag, p.1, p.1 + 2 ^ (12 + 2 * p.2.1))] ∧ v.after = .copy m.id ∧ SameMemory s t))
    ∧ (∀ d : Fin 4, s.complexRuns d.val = true → (s.die d.val).monAt + 250000 ≤ (s.die d.val).timebase.toNat →
        ∃ t, exec (.migrationMonitorInterval d) s = .next t ∧ (t.die d.val).monitor = [] ∧ (t.die d.val).monAt = (s.die d.val).monAt + 250000 ∧ SameMemory s t)
    ∧ (∀ (m : Migration) (e : Word), s.migrations = [m] → m.copying = true → s.leafOf m.tag m.va = some (e, 0) → m.bytes = 4096 → s.lines = [] →
        m.src % 4096 = 0 → m.dst % 4096 = 0 → m.src ≠ m.dst → Memory.wf s.mem = true →
        Sparse.wf 0#64 (Sparse.at [] s.pages m.tag) = true →
        ∃ t v, exec (.migrationCopyComplete m.id) s = .next t ∧ t.migrations = [{ m with copying := false }]
          ∧ (∀ i, i < 4096 → byteAt t.mem (m.dst + i) = byteAt s.mem (m.src + i))
          ∧ (∀ k, (k < m.dst ∨ m.dst + 4096 ≤ k) → byteAt t.mem k = byteAt s.mem k) ∧ t.peer = s.peer
          ∧ Sparse.get 0#64 (Sparse.at [] t.pages m.tag) (m.va / 4096) = leafWord m.dst 0 (leafR e) (leafW e) (leafBp e) false
          ∧ t.invals = s.invals ++ [v] ∧ v.ranges = [(m.tag, m.va, m.va + 4096)] ∧ v.after = .release m.id)

namespace Sys2Proof.Cert

open Sys2Proof.Machine

/-- The state in which a direct command of a tenant has its effect: its number taken and its record journalled (R430). -/
def inCommand (s : State) (c : Cmd) (code : Nat) : State := s.fresh.1.journaled c code

/-- A direct command of a tenant. -/
def tenantCmd (s : State) (die tag : Nat) (args : List Word) : Cmd :=
  { id := s.nextId, direct := true, issuer := .tenant tag, tag := tag, part := (s.tenant tag).part, die := die, args := args }

end Sys2Proof.Cert

/-- R433, R435: QUEUE_CREATE by the tenant for a peer's key on the curve takes the lowest free number, agrees on a key and
writes the reply after the peer's key (log 34); QUEUE_KEY changes the key, keeps the old one for 250,000 ticks and ends
quarantine; QUEUE_DESTROY stops the queue; a key that is no point of the curve is BADARG. -/
def Obligations.QueueCommands : Prop :=
  ∀ (s : State) (die tag : Nat) (args : List Word),
    let a := arg args
    let cmd := CmdSrc.direct die (.tenant tag) args
    let c := tenantCmd s die tag args
    Takes s die → (Sparse.look s.tenants tag).isSome = true →
    (a 0 = tag → 4 ≤ a 2 → a 2 ≤ 16 → a 1 < windowBase → a 3 < windowBase → s.queues = [] →
      ∀ s1 qp, c.read (inCommand s c 0x0A) (a 4) 96 = .ok s1 qp →
      (onCurve (bigEndian (qp.take 48)) (bigEndian (qp.drop 48)) = true →
        ∀ s2 key reply s3, s1.agree 0 qp = some (s2, key, reply) → c.write s2 (a 4 + 96) reply = .ok s3 () → s3.queues = [] →
        Answers (.queueCreate cmd) s 0 [(0, 0), (1, BitVec.ofNat 64 (a 4 + 96))] (fun t => ∃ q, Sparse.look t.queues 0 = some q ∧ q.tag = tag
          ∧ q.ring = args.getD 1 0 ∧ q.logn = a 2 ∧ q.comp = args.getD 3 0 ∧ q.key = key ∧ q.old = none ∧ q.seq = 0 ∧ q.head = 0 ∧ q.tail = 0 ∧ q.vt = 0
          ∧ q.stopped = false ∧ q.quarantined = false))
      ∧ (onCurve (bigEndian (qp.take 48)) (bigEndian (qp.drop 48)) = false → Answers (.queueCreate cmd) s 4 [] (fun t => t.queues = [])))
    ∧ (∀ q, Sparse.look s.queues (a 0) = some q → q.tag = tag → q.stopped = false →
      (∀ s1 qp s2 key reply s3, c.read (inCommand s c 0x0B) (a 1) 96 = .ok s1 qp → s1.agree (a 0) qp = some (s2, key, reply) →
        c.write s2 (a 1 + 96) reply = .ok s3 () →
        Answers (.queueKey cmd) s 0 [(0, BitVec.ofNat 64 (a 1 + 96))] (fun t => ∃ k, Sparse.look t.queues (a 0) = some k ∧ k.key = key
          ∧ k.old = some (q.key, BitVec.ofNat 64 (s3.partTime (s3.tenant tag).part + 250000)) ∧ k.quarantined = false ∧ k.seq = q.seq ∧ k.vt = q.vt ∧ k.head = q.head))
      ∧ Answers (.queueDestroy cmd) s 0 [] (fun t => Sparse.look t.queues (a 0) = some { q with stopped := true } ∧ SameMemory s t))

/-- R260, R404, R454 to R459: SLICE_DOMAIN gives the partition its layout, fold masks and next epoch, and its tenants the
domains of the map; WAYMASK_SET gives a tenant its ways, and no line of it stands in a removed way. -/
def Sys2Proof.Cert.SliceCommands : Prop :=
  ∀ (s : State) (die : Nat) (by_ : Issuer) (args : List Word),
    let a := arg args
    let cmd := CmdSrc.direct die by_ args
    Takes s die →
    (Authority s by_ (a 0) → a 1 ≤ 2 → 1 ≤ a 2 → a 2 < 2 ^ 41 → a 3 < 2 ^ 41 → (a 1 = 0 ↔ a 3 = 0) → a 4 % 2 = 0 → a 5 = 0 → a 6 = 0 →
      s.halfSlices (a 0) (a 1) 0 ≠ [] → (a 1 ≠ 0 → s.halfSlices (a 0) (a 1) 1 ≠ []) → s.lines = [] →
      Answers (.sliceDomain cmd) s 0 [] (fun t => (t.part (a 0)).layout.val = a 1 ∧ (t.part (a 0)).hm0.toNat = a 2 ∧ (t.part (a 0)).hm1.toNat = a 3
        ∧ (t.part (a 0)).epoch = (s.part (a 0)).epoch + 1 ∧ (∀ k, k ≠ a 0 → t.part k = s.part k)
        ∧ (∀ k, (s.tenant k).part = a 0 → Sparse.look s.tenants k ≠ none → (t.tenant k).domain = 0) ∧ SameMemory s t))
    ∧ (Authority s by_ (a 0) → 3 ≤ a 1 → Answers (.sliceDomain cmd) s 4 [] (fun t => t.parts = s.parts))
    ∧ (Authority s by_ (s.tenant (a 0)).part → (Sparse.look s.tenants (a 0)).isSome = true → a 1 < 2 ^ 16 →
      Answers (.waymaskSet cmd) s 0 [] (fun t => (t.tenant (a 0)).ways = BitVec.ofNat 16 (a 1)
        ∧ (∀ l ∈ t.lines, l.tag = a 0 → (s.tenant (a 0)).ways.getLsbD l.way = true → (a 1).testBit l.way = true)
        ∧ (∀ l ∈ s.lines, l.tag ≠ a 0 → l ∈ t.lines)))

/-- R419, R422, R424, R425, R429, R452, R485: ATTEST writes a report that begins with the nonce, CAP_READ the word that CAPR
reads, WEAR_READ the hours of a unit; FW_STAGE stores a chunk of an image and FW_COMMIT marks a good one to run at the next
module reset; RESET_PARTITION stops every rectangle of the partition with status 2, and ends once they have completed. -/
def Sys2Proof.Cert.ReportsFirmwareAndReset : Prop :=
  ∀ (s : State) (die : Nat) (args : List Word),
    let a := arg args
    let cmd := CmdSrc.direct die .owner args
    Takes s die →
    (s.lines = [] → Memory.wf s.mem = true → Answers (.attest cmd) s 0 [] (fun t =>
        (∀ i, i < 48 → byteAt t.mem (a 1 + i) = byteAt s.mem (a 0 + i)) ∧ (∀ k, (k < a 1 ∨ a 1 + 320 ≤ k) → byteAt t.mem k = byteAt s.mem k)))
    ∧ Answers (.capRead cmd) s 0 [(0, s.capWord (args.getD 0 0))] (SameMemory s)
    ∧ (a 0 ≤ 96 → ∃ v, Answers (.wearRead cmd) s 0 [(0, v)] (SameMemory s) ∧ (∀ h, 65 ≤ a 0 → Sparse.look s.wear (256 + a 0) = some h → v = BitVec.ofNat 64 h)
        ∧ (∀ h, 1 ≤ a 0 → a 0 ≤ 64 → Sparse.look s.wear (monitorCore (s.dieOfPart 0) (a 0)) = some h → v = BitVec.ofNat 64 h))
    ∧ (96 < a 0 → Answers (.wearRead cmd) s 4 [] (SameMemory s))
    ∧ (a 1 + a 2 ≤ 2 ^ 19 → s.lines = [] → Memory.wf s.store = true → Answers (.fwStage cmd) s 0 [] (fun t =>
        (∀ k, byteAt t.store k = if a 1 ≤ k ∧ k < a 1 + a 2 then byteAt s.mem (a 0 + (k - a 1)) else byteAt s.store k) ∧ SameMemory s t))
    ∧ (∀ v, s.bootable = some v → Answers (.fwCommit cmd) s 0 [(0, v)] (fun t => t.staged = true))
    ∧ (s.bootable = none → Answers (.fwCommit cmd) s 4 [] (fun t => t.staged = s.staged))
    ∧ (a 0 < 2 ^ s.mode →
      ((∀ p ∈ s.rects, p.2.part ≠ a 0) → Answers (.resetPartition cmd) s 0 [] (fun t => t.rects = s.rects))
      ∧ (∀ r x, s.rects = [(r, x)] → x.part = a 0 → x.verdict = none → x.phase ≠ .swapped →
        ∃ t reason detail, exec (.resetPartition cmd) s = .next t ∧ (t.rect r).phase = .stopped ∧ (t.rect r).verdict = some (2, reason, detail) ∧ SameMemory s t))

/-- R260, R404, R454 to R459: SLICE_DOMAIN gives the partition its layout, fold masks and next epoch, and its tenants
the domains of the map; WAYMASK_SET gives a tenant its ways, and no line of it stands in a removed way. R419, R422,
R424, R425, R429, R452, R485: ATTEST writes a report that begins with the nonce, CAP_READ the word that CAPR reads,
WEAR_READ the hours of a unit; FW_STAGE stores a chunk of an image and FW_COMMIT marks a good one to run at the next
module reset; RESET_PARTITION stops every rectangle of the partition with status 2, and ends once they have completed.
-/
def Obligations.SliceReportAndResetCommands : Prop :=
  Cert.SliceCommands ∧ Cert.ReportsFirmwareAndReset

/-- R427, R449, R450: a call whose cut is complete and whose task owes no write is submitted with its block as it reads; a block
with a code of no command is BADARG; the result goes into the block and s5 gets the status. -/
def Obligations.SupervisorCalls : Prop :=
  ∀ (s : State) (c : Call), s.calls = [c] →
    (c.submitted = false → c.cut ≤ (s.rect c.task.rect).complete → s.accesses = [] → s.complexRuns (s.dieOfPart c.part) = true → c.sup = false →
      ∀ s1 b, s.tenantRead c.id c.part c.tag c.addr.toNat 64 = .ok s1 b → s1.calls = s.calls →
      let code := recBytes b 0 2
      (1 ≤ code → code ≤ 20 → code ≠ 5 → recBytes b 2 2 = 0 →
        ∃ t, exec (.svcSubmit c.id) s = .next t ∧ t.calls = [{ c with submitted := true, block := some b, status := none }] ∧ t.mem = s1.mem)
      ∧ (code = 0 ∨ 20 < code ∨ recBytes b 2 2 ≠ 0 →
        ∃ t, exec (.svcSubmit c.id) s = .next t ∧ t.calls = [{ c with submitted := true, block := some b, status := some 4 }] ∧ t.mem = s1.mem))
    ∧ (∀ st, c.status = some st → ((s.rect c.task.rect).phase = .run ∨ (s.rect c.task.rect).phase = .boundary) → (Sparse.look s.rects c.task.rect).isSome = true →
      Sparse.at .full (s.task c.task).pres 5 = .empty (.svc c.id) →
      (c.block = none → ∃ t, exec (.svcResult c.id) s = .next t ∧ t.calls = [] ∧ (t.task c.task).presence 5 = .full
        ∧ (t.task c.task).reg 5 = BitVec.ofNat 64 (st % 2 ^ 16))
      ∧ (∀ b s1, c.block = some b → s.tenantWrite c.id c.part c.tag c.addr.toNat (blockResult b st c.results) = .ok s1 () → s1.rects = s.rects →
          s1.calls = s.calls →
        ∃ t, exec (.svcResult c.id) s = .next t ∧ t.calls = [] ∧ (t.task c.task).reg 5 = BitVec.ofNat 64 (st % 2 ^ 16)))

/-- R433 to R439: a notify with a good tag and a higher sequence number moves the verified tail and enters the doorbell queue;
one with a bad tag is counted, and the 16th in a second quarantines the queue; Gelesque journals and raises the admitted
tail; the admission unit reads the next entry and its record; an old key ends when its time has passed. -/
def Obligations.WorkQueues : Prop :=
  ∀ (s : State) (id : Nat) (k : WorkQueue), s.queues = [(id, k)] →
    let part := (s.tenant k.tag).part
    let now := s.partTime part
    (∀ sender (bytes : List (BitVec 8)) (offset : Nat), bytes.length = 32 → offset % 32 = 0 → 0x1FFFFF000 ≤ offset → offset < 0x200000000 →
      let f := recBytes bytes
      f 0 4 = id → f 28 4 = 0 → k.stopped = false → k.quarantined = false →
      let added := (f 4 4 + 2 ^ 32 - k.vt % 2 ^ 32) % 2 ^ 32
      (notifyTag k.key id (f 4 4) (f 8 8) = (bytes.drop 16).take 12 → k.seq.toNat < f 8 8 → added ≤ 2 ^ k.logn - (k.vt - k.head) →
        exec (.notifyWrite sender offset true bytes) s = .next { s with
          queues := [(id, { k with seq := BitVec.ofNat 64 (f 8 8), vt := k.vt + added })], doorbell := s.doorbell ++ [(id, k.vt + added)] })
      ∧ (k.old = none → notifyTag k.key id (f 4 4) (f 8 8) ≠ (bytes.drop 16).take 12 →
        ∃ t k', exec (.notifyWrite sender offset true bytes) s = .next t ∧ t.queues = [(id, k')] ∧ k'.drops = k.drops + 1 ∧ k'.vt = k.vt ∧ k'.seq = k.seq
          ∧ t.doorbell = s.doorbell ∧ (k.fails.length < 15 → k'.quarantined = false)
          ∧ (∀ old, k.fails[14]? = some old → (k'.quarantined = true ↔ now ≤ old.toNat + 250000000)))
      ∧ exec (.notifyWrite sender offset false bytes) s = .next { s with notifyDrops := s.notifyDrops + 1 })
    ∧ (∀ key t, k.old = some (key, t) → t.toNat ≤ now → exec (.queueOldKeyExpiry id) s = .next { s with queues := [(id, { k with old := none })] })
    ∧ (∀ (die : Fin 4) vt, s.doorbell = [(id, vt)] → s.complexRuns die.val = true → s.dieOfPart part = die.val →
        ∃ u j, exec (.doorbellProcess die) s = .next u ∧ u.doorbell = [] ∧ u.queues = [(id, { k with tail := max k.tail vt })] ∧ u.journal = s.journal ++ [j]
          ∧ j.code = 0 ∧ j.args = [BitVec.ofNat 64 id, BitVec.ofNat 64 vt] ∧ j.done = true)
    ∧ (∀ s1 bs, k.head < k.tail → k.stopped = false → s.freeEntry part = true →
        s.tenantRead 0 part k.tag (k.ring.toNat + 64 * (k.head % 2 ^ k.logn)) 64 = .ok s1 bs → s1.launches = s.launches → s1.queues = s.queues →
        ∃ t l, exec (.workQueueEntryRead id) s = .next t ∧ t.launches = s.launches ++ [l] ∧ l.phase = .submitted ∧ l.src = .queue id k.head ∧ l.tag = k.tag
          ∧ l.part = part ∧ l.lrec = bs ∧ t.queues = [(id, { k with head := k.head + 1 })])

/-- R398, R431, R432, R538: a peer that an export permits reads, writes and updates the exported bytes within its range, and no
others; an access that no export permits has no effect; a link with an option not offered is refused, and one whose options
are offered is recorded. -/
def Obligations.PeerAccesses : Prop :=
  ∀ (s : State) (sender offset : Nat) (e : Exported), s.exports = [e] → s.lines = [] → Memory.wf s.mem = true →
    let allowed := fun (n : Nat) => e.off ≤ offset ∧ offset + n ≤ e.off + e.len ∧ sender ∈ e.devices
    let pa := e.pa + (offset - e.off)
    let passes := fun (n : Nat) (w : Bool) => isPeerWindow pa = false ∧ s.rangePass e.tag pa n w = true
    let writes := fun (t : State) (n v : Nat) => (∀ k, byteAt t.mem k = if pa ≤ k ∧ k < pa + n then BitVec.ofNat 8 (v / 256 ^ (k - pa)) else byteAt s.mem k)
      ∧ t.peer = s.peer
    (∀ n, 1 ≤ n → n ≤ 256 → allowed n → passes n false → ∃ t, exec (.exportAccess sender offset (.read n)) s = .next t ∧ SameMemory s t)
    ∧ (∀ ds : List (BitVec 8), 1 ≤ ds.length → ds.length ≤ 256 → allowed ds.length → passes ds.length true →
        ∃ t, exec (.exportAccess sender offset (.write ds)) s = .next t ∧ writes t ds.length (joinBytes ds))
    ∧ (∀ n (v x : Word), (n = 4 ∨ n = 8) → pa % n = 0 → allowed n → passes n true →
        let old := joinBytes (cellBytes s.mem pa n)
        (∃ t, exec (.exportAccess sender offset (.add n v)) s = .next t ∧ writes t n ((old + v.toNat) % 2 ^ (8 * n)))
        ∧ (∃ t, exec (.exportAccess sender offset (.swap n v)) s = .next t ∧ writes t n (v.toNat % 2 ^ (8 * n)))
        ∧ (∃ t, exec (.exportAccess sender offset (.cas n x v)) s = .next t
            ∧ writes t n (if old = x.toNat % 2 ^ (8 * n) then v.toNat % 2 ^ (8 * n) else old)))
    ∧ (∀ op, sender ∉ e.devices → exec (.exportAccess sender offset op) s = .next s)
    ∧ (∀ device opts, device < 2 ^ 18 → (s.dies.any (fun d => d.2.announced)) = true →
        ((∀ o ∈ opts, o ∈ [.port800, .uet, .unordered, .orderedNotify, .spraying, .reads, .writes, .atomics]) →
          ∃ t, exec (.linkConnectionRequest device .ultraEthernet opts) s = .next t ∧ { device := device, kind := .ultraEthernet, opts := opts } ∈ t.links
            ∧ SameMemory s t)
        ∧ (.other ∈ opts → exec (.linkConnectionRequest device .ultraEthernet opts) s = .next s))

/-- R420, R421, R13, R14: without a staged image a die boots the baseline one and announces itself with clear granules; the
election takes the lowest announced die as primary and holds dies of another version; a die ahead of the broadcast holds
its time base, and one behind takes its value. -/
def Sys2Proof.Cert.BootAndElection : Prop :=
  ∀ (s : State) (d : Fin 4),
    (s.house.main = true → 3 ≤ s.house.stage → s.house.ready = false → (s.die d.val).announced = false → s.staged = false →
      ∃ t, exec (.dieBoot d none) s = .next t ∧ (t.die d.val).announced = true ∧ (t.die d.val).version = Config.baselineVersion ∧ (t.die d.val).failed = 0
        ∧ (t.die d.val).stagedFailed = false ∧ (∀ g ∈ t.granules, granuleDie g.1 ≠ d.val) ∧ 4 ≤ t.house.stage ∧ (∀ k, k ≠ d.val → t.die k = s.die k) ∧ SameMemory s t)
    ∧ (s.house.ready = false → (s.die d.val).announced = true → (∀ k, k < d.val → (s.die k).announced = false) →
      ∃ t, exec .election s = .next t ∧ t.primary = some d.val ∧ t.timeDie = some d.val ∧ t.house.ready = true ∧ t.house.stage = 5
        ∧ (∀ k, k < 4 → (s.die k).announced = true → (t.die k).held = decide ((s.die k).version ≠ (s.die d.val).version)) ∧ SameMemory s t)
    ∧ (∀ p, s.timeDie = some p → p ≠ d.val → (s.die d.val).announced = true → (s.die p).failed ≠ 3#2 →
      ((s.die p).timebase < (s.die d.val).timebase →
        exec (.timeBroadcastReceive d) s = .next (s.modDie d.val (fun x => { x with hold := true })))
      ∧ (¬ (s.die p).timebase < (s.die d.val).timebase →
        exec (.timeBroadcastReceive d) s = .next (s.modDie d.val (fun x => { x with timebase := (s.die p).timebase, hold := false }))))

/-- R440 to R444: each of the three failover events stops the active pair and makes the standby active, whose queues reach the
verified tail; a die both of whose pairs have failed is adopted by its lowest running neighbour; a failed pair that passes
its test is standby again; a cause at the partition supervisor resumes its origin, or ends the rectangle with 0x10 plus the
cause as reason. -/
def Sys2Proof.Cert.FailoverAndDecisions : Prop :=
  ∀ (s : State) (d : Fin 4),
    let x := s.die d.val
    (x.announced = true → x.failed = 0 →
      ∀ i ∈ [Instr.lockstepMismatch d, Instr.heartbeatTimeout d, Instr.doubleFault d], ∃ t, exec i s = .next t
        ∧ t.die d.val = { x with failed := 1#2 <<< x.active.val, active := if x.active = 0 then 1 else 0 } ∧ t.rects = s.rects ∧ SameMemory s t
        ∧ (∀ q k, s.queues = [(q, k)] → s.dieOfPart (s.tenant k.tag).part = d.val → t.queues = [(q, { k with tail := max k.tail k.vt })]))
    ∧ (x.announced = true → x.failed = 3#2 → x.adopter = none → ∀ k, k ∈ dieNeighbours d.val → (s.die k).announced = true → (s.die k).failed ≠ 3#2 →
      (∀ j, j ∈ dieNeighbours d.val → j < k → (s.die j).announced = false ∨ (s.die j).failed = 3#2) →
      ∃ t, exec (.dieAdoption d) s = .next t ∧ t.die d.val = { x with adopter := some k } ∧ t.rects = s.rects ∧ SameMemory s t)
    ∧ (x.announced = true → x.failed ≠ 3#2 → exec (.failedPairTestComplete d true) s = .next (s.modDie d.val (fun x => { x with failed := 0 })))
    ∧ (∀ (r : Nat) (q : QCause) (rest : List QCause),
      let y := s.rect r
      (y.phase = .run ∨ y.phase = .boundary) → y.soft = none → y.body.atSup = q :: rest → s.complexRuns (s.dieOfPart y.part) = true →
      (∀ (n : Reg) (v : Word), (s.part y.part).sup = true → q.fabric = false → n ≠ 0 →
        ∃ t, exec (.partitionSupervisorDecision r (.resume [(n.val, v)])) s = .next t ∧ (t.rect r).body.atSup = rest ∧ SameMemory s t
          ∧ (let z := t.task ⟨r, q.core, q.slot⟩
             z.held = false ∧ z.pc = (s.task ⟨r, q.core, q.slot⟩).tpc ∧ z.wait = none ∧ z.reg n = v ∧ z.presence n = .full
             ∧ ∀ m, m ≠ n → z.reg m = (s.task ⟨r, q.core, q.slot⟩).reg m))
      ∧ (∀ dec, (dec = .endRect ∨ dec = .pass ∨ (s.part y.part).sup = false ∨ (q.fabric = true ∧ (q.cause = 6 ∨ q.cause = 7))) →
        ∃ t detail, exec (.partitionSupervisorDecision r dec) s = .next t ∧ (t.rect r).phase = .stopped
          ∧ (t.rect r).verdict = some (1, 0x10 + q.cause, detail) ∧ SameMemory s t))

/-- R420, R421, R13, R14: without a staged image a die boots the baseline one and announces itself with clear
granules; the election takes the lowest announced die as primary and holds dies of another version; a die ahead of the
broadcast holds its time base, and one behind takes its value. R440 to R444: each of the three failover events stops
the active pair and makes the standby active, whose queues reach the verified tail; a die both of whose pairs have
failed is adopted by its lowest running neighbour; a failed pair that passes its test is standby again; a cause at the
partition supervisor resumes its origin, or ends the rectangle with 0x10 plus the cause as reason. -/
def Obligations.BootElectionAndFailover : Prop :=
  Cert.BootAndElection ∧ Cert.FailoverAndDecisions

/-- R17, R425, R485, R486, R526 to R531: wear, cooling, power and resets: an unsafe core is marked, and disabled once nothing
holds it; the power cap is kept within 600 to 2,400 W; a die throttles from 100 °C and loses MAIN at 110 °C; a module reset
leaves fuses and firmware store; the block's registers return at AUX good, and the time base starts at MAIN good. -/
def Obligations.WearPowerAndResets : Prop :=
  ∀ (s : State) (d : Fin 4) (v : Word) (temp core hours watts : Nat),
    let h := s.house
    let off := fun (t : State) => t.house.main = false ∧ t.house.pfail = true ∧ t.house.ready = false ∧ t.rects = [] ∧ t.mem = [] ∧ t.minVersion = s.minVersion
    let fresh := fun (t : State) => t.house.stage = 3 ∧ t.house.ready = false ∧ t.rects = [] ∧ t.tenants = [] ∧ t.launches = [] ∧ t.store = s.store
      ∧ t.staged = s.staged ∧ t.minVersion = s.minVersion ∧ t.house.cap = h.cap ∧ (∀ k, (t.die k).announced = false ∧ (t.die k).timebase = 0)
    (h.ready = true → s.wearAt + 250000 ≤ s.deviceTime → exec .wearRefresh s = .next { s with wearEntry := s.leastWear, wearAt := s.wearAt + 250000 })
    ∧ (core < 256 → s.disabled.contains core = false → (s.die (dieOf core)).announced = true →
      (s.worn.contains core = false → hours < 720 → exec (.coreUnsafe core hours) s = .next { s with worn := s.worn ++ [core], wear := Sparse.put hours s.wear core })
      ∧ (s.worn.contains core = true → s.rects = [] → ∃ t, exec (.coreUnsafe core hours) s = .next t ∧ core ∈ t.disabled ∧ core ∉ t.worn))
    ∧ (h.aux = true →
      (∃ c, exec (.pwrcapWrite v) s = .next { s with house := { h with cap := c } } ∧ 600 ≤ c ∧ c ≤ 2400
        ∧ (600 ≤ v.toNat % 65536 → v.toNat % 65536 ≤ 2400 → c = v.toNat % 65536))
      ∧ (v.getLsbD 5 = true → exec (.housekeepingRegisterWrite 8 v) s = .next { s with house := { h with pfail := false } })
      ∧ (∃ t, exec .auxLoss s = .next t ∧ t.house.aux = false ∧ SameMemory s t)
      ∧ (h.main = true → ∃ t, exec (.mresetWrite 0x52455345#64) s = .next t ∧ fresh t)
      ∧ (v ≠ 0x52455345#64 → exec (.mresetWrite v) s = .next s)
      ∧ (h.main = false → ∃ t, exec .mainGood s = .next t ∧ t.house.main = true ∧ t.house.stage = 3 ∧ ∀ k, (t.die k).timebase = 0))
    ∧ (h.aux = false → ∃ t, exec .auxGood s = .next t ∧ t.house.aux = true ∧ t.house.cap = 2400 ∧ t.house.pfail = false ∧ SameMemory s t)
    ∧ (h.main = true →
      (∃ t, exec (.powerWindow watts) s = .next t ∧ t.house.now = watts % 65536 ∧ (h.cap < watts % 65536 → t.house.capped = true)
        ∧ (100 * (watts % 65536) ≤ 97 * h.cap → t.house.capped = false) ∧ SameMemory s t)
      ∧ (100 ≤ temp → temp < 110 → exec (.thermalThrottle d temp) s = .next (s.modDie d.val (fun x => { x with temp := temp, throttled := true })))
      ∧ (temp < 95 → (s.die d.val).throttled = true → exec (.thermalThrottleEnd d temp) s = .next (s.modDie d.val (fun x => { x with temp := temp, throttled := false })))
      ∧ (110 ≤ temp → ∃ t, exec (.thermalShutdown d temp) s = .next t ∧ off t)
      ∧ (∃ t, exec .mainLoss s = .next t ∧ off t)
      ∧ (∃ t, exec .resetN s = .next t ∧ fresh t))

/-- R68, R82, R339: a step whose turn it is to issue runs the task that R339 chooses: it fetches the word at the task's
index, decodes it and runs the instruction, and after it the choice settles and time passes; a step of the agenda runs
that step alone; a word placed for a test is the one that the next step runs. -/
def Obligations.StepRunsDecoded : Prop :=
  ∀ (s s1 : State) (t : TaskRef) (i : Instr),
    (s.agenda = [] → s.turn = true → s.pick = some (t, s1) → decode (s1.fetchWord t) = .ok i → step s = pass (exec i { s1 with cur := t }) (issued s t))
    ∧ (∀ rest, s.agenda = i :: rest → step s = pass (exec i { s with agenda := rest }) id)
    ∧ s.fetchWord t = Sparse.at 0x3D00000000000000#64 (s.core t.coreRef).istore (s.task t).pc.toNat
    ∧ (∀ n w, decode (BitVec.ofNat 64 w) = .ok i → ∃ s2, (State.reset.withFetchWord n w).pick = some (⟨0, 0, 0⟩, s2)
        ∧ step (State.reset.withFetchWord n w) = pass (exec i { s2 with cur := ⟨0, 0, 0⟩ }) (issued (State.reset.withFetchWord n w) ⟨0, 0, 0⟩))

/-- R68 to R80 on words written out from Tables 3.1 to 3.6, and words that a rule refuses. -/
def Obligations.DecodeWords : Prop :=
  decode 0x0000000000000000#64 = .ok (.nop ⟨false, 0⟩)
  ∧ decode 0x0100C10810000000#64 = .ok (.add ⟨false, 0⟩ .w 3 ⟨1, false⟩ ⟨2, false⟩)
  ∧ decode 0x03A14602FFFFFFFF#64 = .ok (.addi ⟨true, 2⟩ 5 ⟨6, true⟩ 0xFFFFFFFF#32)
  ∧ decode 0x2300420C14200000#64 = .ok (.fma ⟨false, 0⟩ .s .rup 1 ⟨2, false⟩ ⟨3, false⟩ 4)
  ∧ decode 0x3009010800000000#64 = .ok (.cmp ⟨false, 0⟩ .ltu .d 4 ⟨1, false⟩ ⟨2, false⟩)
  ∧ decode 0x4001C800302FFFFC#64 = .ok (.ld ⟨false, 0⟩ .hz .stream 7 ⟨8, false⟩ 0xFFFFC#20)
  ∧ decode 0x470043084D880008#64 = .ok (.amo ⟨false, 0⟩ .swap .w .ar .sys 1 ⟨2, false⟩ ⟨3, false⟩ 8#16)
  ∧ decode 0xC000420000000123#64 = .ok (.tspawn ⟨false, 0⟩ 1 ⟨2, false⟩ 0x123#12)
  ∧ decode 0xE00040000000012A#64 = .ok (.ctlr ⟨false, 0⟩ 1 0x12A#12)
  ∧ decode 0xF000000000400000#64 = .ok (.trap ⟨false, 0⟩ 0x40#8)
  ∧ decode 0x3D00000000000000#64 = .ok (.tend ⟨false, 0⟩)
  -- an unassigned opcode, a reserved guard, a reserved rounding mode, a nonzero unused field, an unlisted control register
  ∧ decode 0x2C00000000000001#64 = .ok (.unassignedOpcode 0x2C00000000000001#64)
  ∧ decode 0x0080000000000000#64 = .error .reserved
  ∧ decode 0x200042040C000000#64 = .error .reserved
  ∧ decode 0x0000000000000001#64 = .error .reserved
  ∧ decode 0xE000400000000004#64 = .error (.index 0x004#12)

/-- R68 to R81: for every well-formed sequencer instruction the encoder gives a word and the decoder gives the instruction
back, every operand at every value; and a word that decodes to a sequencer instruction is the word of that instruction, which
is well formed. -/
def Obligations.DecodeEncode : Prop :=
  (∀ (i : Instr), i.wf = true → i.encodable = true → ∃ w, encode i = some w ∧ decode w = .ok i)
  ∧ (∀ (w : Word) (i : Instr), decode w = .ok i → (∀ v, i ≠ .unassignedOpcode v) → i.wf = true ∧ encode i = some w)

/-- R530, R531, R13, R420, R529, Tables 25.2 and 25.3: what a module reset leaves: no die has announced itself, the time base
stands at zero, no rectangle runs, no tenant holds a lease, the block's registers hold their reset values; and the
memories are in canonical form. -/
def Obligations.ResetState : Prop :=
  (∀ d, (State.reset.die d).announced = false ∧ (State.reset.die d).timebase = 0 ∧ (State.reset.die d).failed = 0)
  ∧ State.reset.rects = [] ∧ State.reset.launches = [] ∧ State.reset.tenants = [] ∧ State.reset.queues = [] ∧ State.reset.accesses = []
  ∧ State.reset.tlb1 = [] ∧ State.reset.tlb2 = [] ∧ State.reset.lines = [] ∧ State.reset.exports = [] ∧ State.reset.primary = none
  ∧ (∀ g, State.reset.granule g = Granule.free)
  ∧ State.reset.house.ready = false ∧ State.reset.house.pfail = false ∧ State.reset.house.cap = 0x960 ∧ State.reset.house.now = 0
  ∧ State.reset.house.capped = false ∧ State.reset.mstat = 3 ∧ State.reset.tempMax = 0
  ∧ State.reset.memOk

/-- The memories, the granule maps and the page tables keep their canonical form through every step of the machine, from every
state in which they have it: a byte, an entry or a leaf is held at one place, and one that reads as an unlisted one does is
not held. -/
def Obligations.StepKeepsMemory : Prop :=
  ∀ (s t : State), s.memOk → step s = .next t → t.memOk

/-- Every instruction and every event goes on from every state: each cause of Table 21.1 is taken as an exception of the machine
and stops no step. -/
def Obligations.EveryStepGoesOn : Prop :=
  (∀ (i : Instr) (s : State), ∃ t, exec i s = .next t) ∧ (∀ s : State, goesOn s)

end
end

