-- ==== Sys2Proof/Laws/Sparse.lean ====
section
/-! SUPPORT. The laws of sparse tables and of memory: what a read finds after a write, and that every
operation keeps the canonical form. -/

namespace Sys2Proof.Machine

/-! ## Tables with listed entries (look, put, at, mapAll) -/

@[simp] theorem Sparse.look_nil {β : Type} (k : Nat) : Sparse.look ([] : Sparse β) k = none := rfl

@[simp] theorem Sparse.at_nil {β : Type} (d : β) (k : Nat) : Sparse.at d ([] : Sparse β) k = d := rfl

theorem Sparse.look_put_same {β : Type} (v : β) (m : Sparse β) (k : Nat) : (Sparse.put v m k).look k = some v := by
  induction m with
  | nil => simp [Sparse.put, Sparse.look]
  | cons p m ih =>
    obtain ⟨j, u⟩ := p
    simp only [Sparse.put]
    split
    · simp [Sparse.look]
    · split
      · simp [Sparse.look]
      · next h _ => simp [Sparse.look, h, ih]

theorem Sparse.look_put_ne {β : Type} (v : β) (m : Sparse β) {k k' : Nat} (h : k' ≠ k) :
    (Sparse.put v m k).look k' = m.look k' := by
  induction m with
  | nil => simp [Sparse.put, Sparse.look, h]
  | cons p m ih =>
    obtain ⟨j, u⟩ := p
    simp only [Sparse.put]
    split
    · next e => subst e; simp [Sparse.look, h]
    · split
      · simp [Sparse.look, h]
      · simp [Sparse.look, ih]

@[simp] theorem Sparse.at_put_same {β : Type} (d v : β) (m : Sparse β) (k : Nat) : (Sparse.put v m k).at d k = v := by
  simp [Sparse.at, Sparse.look_put_same]

theorem Sparse.at_put_ne {β : Type} (d v : β) (m : Sparse β) {k k' : Nat} (h : k' ≠ k) :
    (Sparse.put v m k).at d k' = m.at d k' := by
  simp [Sparse.at, Sparse.look_put_ne v m h]

theorem Sparse.at_put {β : Type} (d v : β) (m : Sparse β) (k k' : Nat) :
    (Sparse.put v m k).at d k' = if k' = k then v else m.at d k' := by
  split
  · next h => subst h; simp
  · next h => exact Sparse.at_put_ne d v m h

@[simp] theorem Sparse.put_put {β : Type} (v w : β) (m : Sparse β) (k : Nat) :
    Sparse.put w (Sparse.put v m k) k = Sparse.put w m k := by
  induction m with
  | nil => simp [Sparse.put]
  | cons p m ih =>
    obtain ⟨j, u⟩ := p
    simp only [Sparse.put]
    split
    · simp [Sparse.put]
    · split
      · simp [Sparse.put]
      · next h1 h2 => simp [Sparse.put, h1, h2, ih]

theorem Sparse.look_mapAll {β : Type} (f : Nat → β → β) (m : Sparse β) (k : Nat) :
    (Sparse.mapAll f m).look k = (m.look k).map (f k) := by
  induction m with
  | nil => rfl
  | cons p m ih =>
    obtain ⟨j, u⟩ := p
    simp only [Sparse.mapAll, List.map_cons, Sparse.look]
    split
    · next h => subst h; rfl
    · simpa [Sparse.mapAll] using ih

/-! ## The canonical form (get, set) -/

theorem Sparse.wfFrom_mono {β : Type} [DecidableEq β] {d : β} {lo lo' : Nat} {m : Sparse β}
    (h : lo' ≤ lo) (hm : Sparse.wfFrom d lo m = true) : Sparse.wfFrom d lo' m = true := by
  cases m with
  | nil => rfl
  | cons p m =>
    obtain ⟨j, u⟩ := p
    simp only [Sparse.wfFrom, Bool.and_eq_true, decide_eq_true_eq] at hm ⊢
    exact ⟨⟨by omega, hm.1.2⟩, hm.2⟩

theorem Sparse.get_below {β : Type} [DecidableEq β] {d : β} {lo k : Nat} {m : Sparse β}
    (hm : Sparse.wfFrom d lo m = true) (h : k < lo) : Sparse.get d m k = d := by
  cases m with
  | nil => rfl
  | cons p m =>
    obtain ⟨j, u⟩ := p
    simp only [Sparse.wfFrom, Bool.and_eq_true, decide_eq_true_eq] at hm
    rw [Sparse.get, if_neg (by omega), if_pos (by omega)]

theorem Sparse.wfFrom_set {β : Type} [DecidableEq β] {d v : β} {lo k : Nat} {m : Sparse β}
    (hm : Sparse.wfFrom d lo m = true) (h : lo ≤ k) : Sparse.wfFrom d lo (Sparse.set d v m k) = true := by
  induction m generalizing lo with
  | nil =>
    simp only [Sparse.set]
    split
    · rfl
    · next hv => simp [Sparse.wfFrom, h, hv]
  | cons p m ih =>
    obtain ⟨j, u⟩ := p
    have hm' := hm
    simp only [Sparse.wfFrom, Bool.and_eq_true, decide_eq_true_eq] at hm
    simp only [Sparse.set]
    split
    · next e =>
      subst e
      split
      · exact Sparse.wfFrom_mono (by omega) hm.2
      · next hv => simp [Sparse.wfFrom, h, hv, hm.2]
    · next e =>
      split
      · next hlt =>
        split
        · exact hm'
        · next hv =>
          simp only [Sparse.wfFrom, Bool.and_eq_true, decide_eq_true_eq]
          exact ⟨⟨h, hv⟩, ⟨by omega, hm.1.2⟩, hm.2⟩
      · simp only [Sparse.wfFrom, Bool.and_eq_true, decide_eq_true_eq]
        exact ⟨hm.1, ih hm.2 (by omega)⟩

/-- Writing one key keeps the canonical form. -/
theorem Sparse.wf_set {β : Type} [DecidableEq β] {d : β} {m : Sparse β} (v : β) (k : Nat)
    (hm : Sparse.wf d m = true) : Sparse.wf d (Sparse.set d v m k) = true := Sparse.wfFrom_set hm (Nat.zero_le k)

/-- A read after a write: the value at the written key, the old value anywhere else. -/
theorem Sparse.get_set_from {β : Type} [DecidableEq β] {d v : β} {lo k k' : Nat} {m : Sparse β}
    (hm : Sparse.wfFrom d lo m = true) :
    Sparse.get d (Sparse.set d v m k) k' = if k' = k then v else Sparse.get d m k' := by
  induction m generalizing lo with
  | nil =>
    simp only [Sparse.set]
    by_cases hk : k' = k <;> by_cases hv : v = d <;> simp [Sparse.get, hk, hv]
  | cons p m ih =>
    obtain ⟨j, u⟩ := p
    simp only [Sparse.wfFrom, Bool.and_eq_true, decide_eq_true_eq] at hm
    simp only [Sparse.set]
    split
    · next e =>
      subst e
      by_cases hv : v = d
      · simp only [hv, if_true]
        by_cases hk : k' = k
        · simp only [hk, if_true]
          exact Sparse.get_below hm.2 (by omega)
        · simp only [hk, if_false, Sparse.get]
          split
          · exact Sparse.get_below hm.2 (by omega)
          · rfl
      · simp only [hv, if_false, Sparse.get]
        by_cases hk : k' = k <;> simp [hk]
    · next e =>
      split
      · next hlt =>
        by_cases hv : v = d
        · simp only [hv, if_true]
          by_cases hk : k' = k
          · simp [hk, Sparse.get, e, hlt]
          · simp [hk]
        · simp only [hv, if_false]
          by_cases hk : k' = k
          · simp [hk, Sparse.get]
          · by_cases hlt' : k' < k
            · have h1 : ¬ k' = j := by omega
              have h2 : k' < j := by omega
              simp [hk, Sparse.get, hlt', h1, h2]
            · simp [hk, Sparse.get, hlt']
      · next hlt =>
        simp only [Sparse.get, ih hm.2]
        by_cases hk : k' = k
        · subst hk; simp [e, hlt]
        · simp [hk]

theorem Sparse.get_set {β : Type} [DecidableEq β] {d : β} {m : Sparse β} (hm : Sparse.wf d m = true) (v : β)
    (k k' : Nat) : Sparse.get d (Sparse.set d v m k) k' = if k' = k then v else Sparse.get d m k' :=
  Sparse.get_set_from hm

/-- Writing consecutive keys keeps the canonical form. -/
theorem Sparse.wf_setList {β : Type} [DecidableEq β] {d : β} (vs : List β) :
    ∀ {m : Sparse β} (k : Nat), Sparse.wf d m = true → Sparse.wf d (Sparse.setList d m k vs) = true := by
  induction vs with
  | nil => exact fun _ h => h
  | cons v vs ih => exact fun k h => ih (k + 1) (Sparse.wf_set v k h)

/-- What a read finds after consecutive keys were written. -/
theorem Sparse.get_setList {β : Type} [DecidableEq β] {d : β} (vs : List β) :
    ∀ {m : Sparse β} (k k' : Nat), Sparse.wf d m = true →
      Sparse.get d (Sparse.setList d m k vs) k' =
        if k ≤ k' ∧ k' < k + vs.length then vs.getD (k' - k) d else Sparse.get d m k' := by
  induction vs with
  | nil =>
    intro m k k' _
    rw [if_neg (by simp)]
    rfl
  | cons v vs ih =>
    intro m k k' h
    simp only [Sparse.setList]
    rw [ih (k + 1) k' (Sparse.wf_set v k h), Sparse.get_set h]
    by_cases e : k' = k
    · subst e
      simp
    · by_cases e2 : k + 1 ≤ k' ∧ k' < k + 1 + vs.length
      · rw [if_pos e2, if_pos (by simp only [List.length_cons]; omega)]
        obtain ⟨n, rfl⟩ : ∃ n, k' = k + 1 + n := ⟨k' - (k + 1), by omega⟩
        have h1 : k + 1 + n - (k + 1) = n := by omega
        have h2 : k + 1 + n - k = n + 1 := by omega
        simp [h1, h2]
      · rw [if_neg e2, if_neg e, if_neg (by simp only [List.length_cons]; omega)]

theorem Sparse.wfFrom_filter {β : Type} [DecidableEq β] {d : β} (p : Nat × β → Bool) {lo : Nat} {m : Sparse β}
    (hm : Sparse.wfFrom d lo m = true) : Sparse.wfFrom d lo (m.filter p) = true := by
  induction m generalizing lo with
  | nil => rfl
  | cons q m ih =>
    obtain ⟨j, u⟩ := q
    simp only [Sparse.wfFrom, Bool.and_eq_true, decide_eq_true_eq] at hm
    simp only [List.filter_cons]
    split
    · simp only [Sparse.wfFrom, Bool.and_eq_true, decide_eq_true_eq]
      exact ⟨hm.1, ih hm.2⟩
    · exact Sparse.wfFrom_mono (by omega) (ih hm.2)

/-- Clearing a range keeps the canonical form. -/
theorem Sparse.wf_clear {β : Type} [DecidableEq β] {d : β} {m : Sparse β} (lo hi : Nat)
    (hm : Sparse.wf d m = true) : Sparse.wf d (Sparse.clear m lo hi) = true := Sparse.wfFrom_filter _ hm

theorem Sparse.get_clear {β : Type} [DecidableEq β] {d : β} {m : Sparse β} (lo hi k : Nat)
    (hm : Sparse.wf d m = true) :
    Sparse.get d (Sparse.clear m lo hi) k = if lo ≤ k ∧ k < hi then d else Sparse.get d m k := by
  suffices H : ∀ (m : Sparse β) (b : Nat), Sparse.wfFrom d b m = true →
      Sparse.get d (Sparse.clear m lo hi) k = if lo ≤ k ∧ k < hi then d else Sparse.get d m k from H m 0 hm
  intro m
  induction m with
  | nil => intro b _; simp [Sparse.clear, Sparse.get]
  | cons q m ih =>
    intro b hm
    obtain ⟨j, u⟩ := q
    simp only [Sparse.wfFrom, Bool.and_eq_true, decide_eq_true_eq] at hm
    have ihm := ih (j + 1) hm.2
    simp only [Sparse.clear] at ihm
    simp only [Sparse.clear, List.filter_cons, Sparse.get]
    split
    · next hp =>
      simp only [Bool.or_eq_true, decide_eq_true_eq] at hp
      simp only [Sparse.get, ihm]
      by_cases e : k = j
      · subst e; simp; omega
      · by_cases e2 : k < j <;> simp [e, e2]
    · next hp =>
      simp only [Bool.or_eq_true, decide_eq_true_eq, not_or] at hp
      rw [ihm]
      by_cases e : k = j
      · subst e; rw [if_pos (by omega), if_pos (by omega)]
      · by_cases e2 : k < j
        · simp only [e, e2, if_true, if_false]
          rw [Sparse.get_below hm.2 (by omega)]
        · simp [e, e2]

/-! ## Memory -/

theorem Memory.wf_empty : Memory.wf [] = true := rfl

/-- Writing bytes keeps the canonical form. -/
theorem Memory.wf_setCells {m : List Host.Cell} (a : Nat) (bs : List Byte) (h : Memory.wf m = true) :
    Memory.wf (setCells m a bs) = true := Sparse.wf_setList bs a h

/-- Clearing a range keeps the canonical form. -/
theorem Memory.wf_clear {m : List Host.Cell} (lo hi : Nat) (h : Memory.wf m = true) :
    Memory.wf (Sparse.clear m lo hi) = true := Sparse.wf_clear lo hi h

/-- Writing one byte keeps the canonical form. -/
theorem Memory.wf_set {m : List Host.Cell} (v : Byte) (a : Nat) (h : Memory.wf m = true) :
    Memory.wf (Sparse.set 0#8 v m a) = true := Sparse.wf_set v a h

/-- A byte after bytes were written: the byte written there, else the byte before. -/
theorem Memory.byte_setCells {m : List Host.Cell} (h : Memory.wf m = true) (a k : Nat) (bs : List Byte) :
    Memory.byte (setCells m a bs) k = if a ≤ k ∧ k < a + bs.length then bs.getD (k - a) 0 else Memory.byte m k :=
  Sparse.get_setList bs a k h

@[simp] theorem splitBytes_length (n v : Nat) : (splitBytes n v).length = n := by
  induction n generalizing v with
  | zero => rfl
  | succ n ih => simp [splitBytes, ih]

/-- R3: the bytes of a value, joined, are the value. -/
theorem joinBytes_splitBytes (n v : Nat) : joinBytes (splitBytes n v) = v % 256 ^ n := by
  induction n generalizing v with
  | zero => simp [splitBytes, joinBytes, Nat.mod_one]
  | succ n ih =>
    simp only [splitBytes, joinBytes, ih, BitVec.toNat_ofNat]
    have e := Nat.mod_mul (x := v) (a := 256) (b := 256 ^ n)
    rw [show 256 ^ (n + 1) = 256 * 256 ^ n from Nat.pow_succ', e]

/-- What a read of bytes just written finds. -/
theorem cellBytes_setCells {m : List Host.Cell} (h : Memory.wf m = true) (a : Nat) (bs : List Byte) :
    cellBytes (setCells m a bs) a bs.length = bs := by
  apply List.ext_getElem
  · simp [cellBytes, Sparse.getList]
  · intro i h1 h2
    simp only [cellBytes, Sparse.getList, List.getElem_map, List.getElem_range]
    have hb := Memory.byte_setCells h a (a + i) bs
    simp only [Memory.byte] at hb
    rw [hb]
    simp [h2]

end Sys2Proof.Machine
end

