-- ==== Sys2Proof/Laws/State.lean ====
section
/-! SUPPORT. What each named update leaves of the state, field by field, and what a cell reads as after it
was written. -/

namespace Sys2Proof.Machine

/-! ## Fields of the state -/

@[simp] theorem State.setRect_agenda (s : State) (r : Nat) (x : Rect) : (s.setRect r x).agenda = s.agenda := rfl
@[simp] theorem State.setRect_turn (s : State) (r : Nat) (x : Rect) : (s.setRect r x).turn = s.turn := rfl
@[simp] theorem State.setRect_nextCore (s : State) (r : Nat) (x : Rect) : (s.setRect r x).nextCore = s.nextCore := rfl
@[simp] theorem State.setRect_nextAgent (s : State) (r : Nat) (x : Rect) : (s.setRect r x).nextAgent = s.nextAgent := rfl
@[simp] theorem State.setRect_steps (s : State) (r : Nat) (x : Rect) : (s.setRect r x).steps = s.steps := rfl
@[simp] theorem State.setRect_cur (s : State) (r : Nat) (x : Rect) : (s.setRect r x).cur = s.cur := rfl
@[simp] theorem State.setRect_nextId (s : State) (r : Nat) (x : Rect) : (s.setRect r x).nextId = s.nextId := rfl
@[simp] theorem State.setRect_worn (s : State) (r : Nat) (x : Rect) : (s.setRect r x).worn = s.worn := rfl
@[simp] theorem State.setRect_disabled (s : State) (r : Nat) (x : Rect) : (s.setRect r x).disabled = s.disabled := rfl
@[simp] theorem State.setRect_boxTags (s : State) (r : Nat) (x : Rect) : (s.setRect r x).boxTags = s.boxTags := rfl
@[simp] theorem State.setRect_edgeMasks (s : State) (r : Nat) (x : Rect) : (s.setRect r x).edgeMasks = s.edgeMasks := rfl
@[simp] theorem State.setRect_gates (s : State) (r : Nat) (x : Rect) : (s.setRect r x).gates = s.gates := rfl
@[simp] theorem State.setRect_accesses (s : State) (r : Nat) (x : Rect) : (s.setRect r x).accesses = s.accesses := rfl
@[simp] theorem State.setRect_walks (s : State) (r : Nat) (x : Rect) : (s.setRect r x).walks = s.walks := rfl
@[simp] theorem State.setRect_refused (s : State) (r : Nat) (x : Rect) : (s.setRect r x).refused = s.refused := rfl
@[simp] theorem State.setRect_tlb1 (s : State) (r : Nat) (x : Rect) : (s.setRect r x).tlb1 = s.tlb1 := rfl
@[simp] theorem State.setRect_tlb2 (s : State) (r : Nat) (x : Rect) : (s.setRect r x).tlb2 = s.tlb2 := rfl
@[simp] theorem State.setRect_lines (s : State) (r : Nat) (x : Rect) : (s.setRect r x).lines = s.lines := rfl
@[simp] theorem State.setRect_mem (s : State) (r : Nat) (x : Rect) : (s.setRect r x).mem = s.mem := rfl
@[simp] theorem State.setRect_peer (s : State) (r : Nat) (x : Rect) : (s.setRect r x).peer = s.peer := rfl
@[simp] theorem State.setRect_pages (s : State) (r : Nat) (x : Rect) : (s.setRect r x).pages = s.pages := rfl
@[simp] theorem State.setRect_granules (s : State) (r : Nat) (x : Rect) : (s.setRect r x).granules = s.granules := rfl
@[simp] theorem State.setRect_shareSets (s : State) (r : Nat) (x : Rect) : (s.setRect r x).shareSets = s.shareSets := rfl
@[simp] theorem State.setRect_exports (s : State) (r : Nat) (x : Rect) : (s.setRect r x).exports = s.exports := rfl
@[simp] theorem State.setRect_invals (s : State) (r : Nat) (x : Rect) : (s.setRect r x).invals = s.invals := rfl
@[simp] theorem State.setRect_migrations (s : State) (r : Nat) (x : Rect) : (s.setRect r x).migrations = s.migrations := rfl
@[simp] theorem State.setRect_mode (s : State) (r : Nat) (x : Rect) : (s.setRect r x).mode = s.mode := rfl
@[simp] theorem State.setRect_quantum (s : State) (r : Nat) (x : Rect) : (s.setRect r x).quantum = s.quantum := rfl
@[simp] theorem State.setRect_parts (s : State) (r : Nat) (x : Rect) : (s.setRect r x).parts = s.parts := rfl
@[simp] theorem State.setRect_tenants (s : State) (r : Nat) (x : Rect) : (s.setRect r x).tenants = s.tenants := rfl
@[simp] theorem State.setRect_nextLease (s : State) (r : Nat) (x : Rect) : (s.setRect r x).nextLease = s.nextLease := rfl
@[simp] theorem State.setRect_launches (s : State) (r : Nat) (x : Rect) : (s.setRect r x).launches = s.launches := rfl
@[simp] theorem State.setRect_stages (s : State) (r : Nat) (x : Rect) : (s.setRect r x).stages = s.stages := rfl
@[simp] theorem State.setRect_arbiters (s : State) (r : Nat) (x : Rect) : (s.setRect r x).arbiters = s.arbiters := rfl
@[simp] theorem State.setRect_dies (s : State) (r : Nat) (x : Rect) : (s.setRect r x).dies = s.dies := rfl
@[simp] theorem State.setRect_primary (s : State) (r : Nat) (x : Rect) : (s.setRect r x).primary = s.primary := rfl
@[simp] theorem State.setRect_timeDie (s : State) (r : Nat) (x : Rect) : (s.setRect r x).timeDie = s.timeDie := rfl
@[simp] theorem State.setRect_store (s : State) (r : Nat) (x : Rect) : (s.setRect r x).store = s.store := rfl
@[simp] theorem State.setRect_staged (s : State) (r : Nat) (x : Rect) : (s.setRect r x).staged = s.staged := rfl
@[simp] theorem State.setRect_minVersion (s : State) (r : Nat) (x : Rect) : (s.setRect r x).minVersion = s.minVersion := rfl
@[simp] theorem State.setRect_calls (s : State) (r : Nat) (x : Rect) : (s.setRect r x).calls = s.calls := rfl
@[simp] theorem State.setRect_journal (s : State) (r : Nat) (x : Rect) : (s.setRect r x).journal = s.journal := rfl
@[simp] theorem State.setRect_queues (s : State) (r : Nat) (x : Rect) : (s.setRect r x).queues = s.queues := rfl
@[simp] theorem State.setRect_doorbell (s : State) (r : Nat) (x : Rect) : (s.setRect r x).doorbell = s.doorbell := rfl
@[simp] theorem State.setRect_notifyDrops (s : State) (r : Nat) (x : Rect) : (s.setRect r x).notifyDrops = s.notifyDrops := rfl
@[simp] theorem State.setRect_links (s : State) (r : Nat) (x : Rect) : (s.setRect r x).links = s.links := rfl
@[simp] theorem State.setRect_wear (s : State) (r : Nat) (x : Rect) : (s.setRect r x).wear = s.wear := rfl
@[simp] theorem State.setRect_wearEntry (s : State) (r : Nat) (x : Rect) : (s.setRect r x).wearEntry = s.wearEntry := rfl
@[simp] theorem State.setRect_wearAt (s : State) (r : Nat) (x : Rect) : (s.setRect r x).wearAt = s.wearAt := rfl
@[simp] theorem State.setRect_reply (s : State) (r : Nat) (x : Rect) : (s.setRect r x).reply = s.reply := rfl
@[simp] theorem State.setRect_mailbox (s : State) (r : Nat) (x : Rect) : (s.setRect r x).mailbox = s.mailbox := rfl
@[simp] theorem State.setRect_house (s : State) (r : Nat) (x : Rect) : (s.setRect r x).house = s.house := rfl
@[simp] theorem State.modRect_agenda (s : State) (r : Nat) (f : Rect → Rect) : (s.modRect r f).agenda = s.agenda := rfl
@[simp] theorem State.modRect_turn (s : State) (r : Nat) (f : Rect → Rect) : (s.modRect r f).turn = s.turn := rfl
@[simp] theorem State.modRect_nextCore (s : State) (r : Nat) (f : Rect → Rect) : (s.modRect r f).nextCore = s.nextCore := rfl
@[simp] theorem State.modRect_nextAgent (s : State) (r : Nat) (f : Rect → Rect) : (s.modRect r f).nextAgent = s.nextAgent := rfl
@[simp] theorem State.modRect_steps (s : State) (r : Nat) (f : Rect → Rect) : (s.modRect r f).steps = s.steps := rfl
@[simp] theorem State.modRect_cur (s : State) (r : Nat) (f : Rect → Rect) : (s.modRect r f).cur = s.cur := rfl
@[simp] theorem State.modRect_nextId (s : State) (r : Nat) (f : Rect → Rect) : (s.modRect r f).nextId = s.nextId := rfl
@[simp] theorem State.modRect_worn (s : State) (r : Nat) (f : Rect → Rect) : (s.modRect r f).worn = s.worn := rfl
@[simp] theorem State.modRect_disabled (s : State) (r : Nat) (f : Rect → Rect) : (s.modRect r f).disabled = s.disabled := rfl
@[simp] theorem State.modRect_boxTags (s : State) (r : Nat) (f : Rect → Rect) : (s.modRect r f).boxTags = s.boxTags := rfl
@[simp] theorem State.modRect_edgeMasks (s : State) (r : Nat) (f : Rect → Rect) : (s.modRect r f).edgeMasks = s.edgeMasks := rfl
@[simp] theorem State.modRect_gates (s : State) (r : Nat) (f : Rect → Rect) : (s.modRect r f).gates = s.gates := rfl
@[simp] theorem State.modRect_accesses (s : State) (r : Nat) (f : Rect → Rect) : (s.modRect r f).accesses = s.accesses := rfl
@[simp] theorem State.modRect_walks (s : State) (r : Nat) (f : Rect → Rect) : (s.modRect r f).walks = s.walks := rfl
@[simp] theorem State.modRect_refused (s : State) (r : Nat) (f : Rect → Rect) : (s.modRect r f).refused = s.refused := rfl
@[simp] theorem State.modRect_tlb1 (s : State) (r : Nat) (f : Rect → Rect) : (s.modRect r f).tlb1 = s.tlb1 := rfl
@[simp] theorem State.modRect_tlb2 (s : State) (r : Nat) (f : Rect → Rect) : (s.modRect r f).tlb2 = s.tlb2 := rfl
@[simp] theorem State.modRect_lines (s : State) (r : Nat) (f : Rect → Rect) : (s.modRect r f).lines = s.lines := rfl
@[simp] theorem State.modRect_mem (s : State) (r : Nat) (f : Rect → Rect) : (s.modRect r f).mem = s.mem := rfl
@[simp] theorem State.modRect_peer (s : State) (r : Nat) (f : Rect → Rect) : (s.modRect r f).peer = s.peer := rfl
@[simp] theorem State.modRect_pages (s : State) (r : Nat) (f : Rect → Rect) : (s.modRect r f).pages = s.pages := rfl
@[simp] theorem State.modRect_granules (s : State) (r : Nat) (f : Rect → Rect) : (s.modRect r f).granules = s.granules := rfl
@[simp] theorem State.modRect_shareSets (s : State) (r : Nat) (f : Rect → Rect) : (s.modRect r f).shareSets = s.shareSets := rfl
@[simp] theorem State.modRect_exports (s : State) (r : Nat) (f : Rect → Rect) : (s.modRect r f).exports = s.exports := rfl
@[simp] theorem State.modRect_invals (s : State) (r : Nat) (f : Rect → Rect) : (s.modRect r f).invals = s.invals := rfl
@[simp] theorem State.modRect_migrations (s : State) (r : Nat) (f : Rect → Rect) : (s.modRect r f).migrations = s.migrations := rfl
@[simp] theorem State.modRect_mode (s : State) (r : Nat) (f : Rect → Rect) : (s.modRect r f).mode = s.mode := rfl
@[simp] theorem State.modRect_quantum (s : State) (r : Nat) (f : Rect → Rect) : (s.modRect r f).quantum = s.quantum := rfl
@[simp] theorem State.modRect_parts (s : State) (r : Nat) (f : Rect → Rect) : (s.modRect r f).parts = s.parts := rfl
@[simp] theorem State.modRect_tenants (s : State) (r : Nat) (f : Rect → Rect) : (s.modRect r f).tenants = s.tenants := rfl
@[simp] theorem State.modRect_nextLease (s : State) (r : Nat) (f : Rect → Rect) : (s.modRect r f).nextLease = s.nextLease := rfl
@[simp] theorem State.modRect_launches (s : State) (r : Nat) (f : Rect → Rect) : (s.modRect r f).launches = s.launches := rfl
@[simp] theorem State.modRect_stages (s : State) (r : Nat) (f : Rect → Rect) : (s.modRect r f).stages = s.stages := rfl
@[simp] theorem State.modRect_arbiters (s : State) (r : Nat) (f : Rect → Rect) : (s.modRect r f).arbiters = s.arbiters := rfl
@[simp] theorem State.modRect_dies (s : State) (r : Nat) (f : Rect → Rect) : (s.modRect r f).dies = s.dies := rfl
@[simp] theorem State.modRect_primary (s : State) (r : Nat) (f : Rect → Rect) : (s.modRect r f).primary = s.primary := rfl
@[simp] theorem State.modRect_timeDie (s : State) (r : Nat) (f : Rect → Rect) : (s.modRect r f).timeDie = s.timeDie := rfl
@[simp] theorem State.modRect_store (s : State) (r : Nat) (f : Rect → Rect) : (s.modRect r f).store = s.store := rfl
@[simp] theorem State.modRect_staged (s : State) (r : Nat) (f : Rect → Rect) : (s.modRect r f).staged = s.staged := rfl
@[simp] theorem State.modRect_minVersion (s : State) (r : Nat) (f : Rect → Rect) : (s.modRect r f).minVersion = s.minVersion := rfl
@[simp] theorem State.modRect_calls (s : State) (r : Nat) (f : Rect → Rect) : (s.modRect r f).calls = s.calls := rfl
@[simp] theorem State.modRect_journal (s : State) (r : Nat) (f : Rect → Rect) : (s.modRect r f).journal = s.journal := rfl
@[simp] theorem State.modRect_queues (s : State) (r : Nat) (f : Rect → Rect) : (s.modRect r f).queues = s.queues := rfl
@[simp] theorem State.modRect_doorbell (s : State) (r : Nat) (f : Rect → Rect) : (s.modRect r f).doorbell = s.doorbell := rfl
@[simp] theorem State.modRect_notifyDrops (s : State) (r : Nat) (f : Rect → Rect) : (s.modRect r f).notifyDrops = s.notifyDrops := rfl
@[simp] theorem State.modRect_links (s : State) (r : Nat) (f : Rect → Rect) : (s.modRect r f).links = s.links := rfl
@[simp] theorem State.modRect_wear (s : State) (r : Nat) (f : Rect → Rect) : (s.modRect r f).wear = s.wear := rfl
@[simp] theorem State.modRect_wearEntry (s : State) (r : Nat) (f : Rect → Rect) : (s.modRect r f).wearEntry = s.wearEntry := rfl
@[simp] theorem State.modRect_wearAt (s : State) (r : Nat) (f : Rect → Rect) : (s.modRect r f).wearAt = s.wearAt := rfl
@[simp] theorem State.modRect_reply (s : State) (r : Nat) (f : Rect → Rect) : (s.modRect r f).reply = s.reply := rfl
@[simp] theorem State.modRect_mailbox (s : State) (r : Nat) (f : Rect → Rect) : (s.modRect r f).mailbox = s.mailbox := rfl
@[simp] theorem State.modRect_house (s : State) (r : Nat) (f : Rect → Rect) : (s.modRect r f).house = s.house := rfl
@[simp] theorem State.modBody_agenda (s : State) (r : Nat) (f : Body → Body) : (s.modBody r f).agenda = s.agenda := rfl
@[simp] theorem State.modBody_turn (s : State) (r : Nat) (f : Body → Body) : (s.modBody r f).turn = s.turn := rfl
@[simp] theorem State.modBody_nextCore (s : State) (r : Nat) (f : Body → Body) : (s.modBody r f).nextCore = s.nextCore := rfl
@[simp] theorem State.modBody_nextAgent (s : State) (r : Nat) (f : Body → Body) : (s.modBody r f).nextAgent = s.nextAgent := rfl
@[simp] theorem State.modBody_steps (s : State) (r : Nat) (f : Body → Body) : (s.modBody r f).steps = s.steps := rfl
@[simp] theorem State.modBody_cur (s : State) (r : Nat) (f : Body → Body) : (s.modBody r f).cur = s.cur := rfl
@[simp] theorem State.modBody_nextId (s : State) (r : Nat) (f : Body → Body) : (s.modBody r f).nextId = s.nextId := rfl
@[simp] theorem State.modBody_worn (s : State) (r : Nat) (f : Body → Body) : (s.modBody r f).worn = s.worn := rfl
@[simp] theorem State.modBody_disabled (s : State) (r : Nat) (f : Body → Body) : (s.modBody r f).disabled = s.disabled := rfl
@[simp] theorem State.modBody_boxTags (s : State) (r : Nat) (f : Body → Body) : (s.modBody r f).boxTags = s.boxTags := rfl
@[simp] theorem State.modBody_edgeMasks (s : State) (r : Nat) (f : Body → Body) : (s.modBody r f).edgeMasks = s.edgeMasks := rfl
@[simp] theorem State.modBody_gates (s : State) (r : Nat) (f : Body → Body) : (s.modBody r f).gates = s.gates := rfl
@[simp] theorem State.modBody_accesses (s : State) (r : Nat) (f : Body → Body) : (s.modBody r f).accesses = s.accesses := rfl
@[simp] theorem State.modBody_walks (s : State) (r : Nat) (f : Body → Body) : (s.modBody r f).walks = s.walks := rfl
@[simp] theorem State.modBody_refused (s : State) (r : Nat) (f : Body → Body) : (s.modBody r f).refused = s.refused := rfl
@[simp] theorem State.modBody_tlb1 (s : State) (r : Nat) (f : Body → Body) : (s.modBody r f).tlb1 = s.tlb1 := rfl
@[simp] theorem State.modBody_tlb2 (s : State) (r : Nat) (f : Body → Body) : (s.modBody r f).tlb2 = s.tlb2 := rfl
@[simp] theorem State.modBody_lines (s : State) (r : Nat) (f : Body → Body) : (s.modBody r f).lines = s.lines := rfl
@[simp] theorem State.modBody_mem (s : State) (r : Nat) (f : Body → Body) : (s.modBody r f).mem = s.mem := rfl
@[simp] theorem State.modBody_peer (s : State) (r : Nat) (f : Body → Body) : (s.modBody r f).peer = s.peer := rfl
@[simp] theorem State.modBody_pages (s : State) (r : Nat) (f : Body → Body) : (s.modBody r f).pages = s.pages := rfl
@[simp] theorem State.modBody_granules (s : State) (r : Nat) (f : Body → Body) : (s.modBody r f).granules = s.granules := rfl
@[simp] theorem State.modBody_shareSets (s : State) (r : Nat) (f : Body → Body) : (s.modBody r f).shareSets = s.shareSets := rfl
@[simp] theorem State.modBody_exports (s : State) (r : Nat) (f : Body → Body) : (s.modBody r f).exports = s.exports := rfl
@[simp] theorem State.modBody_invals (s : State) (r : Nat) (f : Body → Body) : (s.modBody r f).invals = s.invals := rfl
@[simp] theorem State.modBody_migrations (s : State) (r : Nat) (f : Body → Body) : (s.modBody r f).migrations = s.migrations := rfl
@[simp] theorem State.modBody_mode (s : State) (r : Nat) (f : Body → Body) : (s.modBody r f).mode = s.mode := rfl
@[simp] theorem State.modBody_quantum (s : State) (r : Nat) (f : Body → Body) : (s.modBody r f).quantum = s.quantum := rfl
@[simp] theorem State.modBody_parts (s : State) (r : Nat) (f : Body → Body) : (s.modBody r f).parts = s.parts := rfl
@[simp] theorem State.modBody_tenants (s : State) (r : Nat) (f : Body → Body) : (s.modBody r f).tenants = s.tenants := rfl
@[simp] theorem State.modBody_nextLease (s : State) (r : Nat) (f : Body → Body) : (s.modBody r f).nextLease = s.nextLease := rfl
@[simp] theorem State.modBody_launches (s : State) (r : Nat) (f : Body → Body) : (s.modBody r f).launches = s.launches := rfl
@[simp] theorem State.modBody_stages (s : State) (r : Nat) (f : Body → Body) : (s.modBody r f).stages = s.stages := rfl
@[simp] theorem State.modBody_arbiters (s : State) (r : Nat) (f : Body → Body) : (s.modBody r f).arbiters = s.arbiters := rfl
@[simp] theorem State.modBody_dies (s : State) (r : Nat) (f : Body → Body) : (s.modBody r f).dies = s.dies := rfl
@[simp] theorem State.modBody_primary (s : State) (r : Nat) (f : Body → Body) : (s.modBody r f).primary = s.primary := rfl
@[simp] theorem State.modBody_timeDie (s : State) (r : Nat) (f : Body → Body) : (s.modBody r f).timeDie = s.timeDie := rfl
@[simp] theorem State.modBody_store (s : State) (r : Nat) (f : Body → Body) : (s.modBody r f).store = s.store := rfl
@[simp] theorem State.modBody_staged (s : State) (r : Nat) (f : Body → Body) : (s.modBody r f).staged = s.staged := rfl
@[simp] theorem State.modBody_minVersion (s : State) (r : Nat) (f : Body → Body) : (s.modBody r f).minVersion = s.minVersion := rfl
@[simp] theorem State.modBody_calls (s : State) (r : Nat) (f : Body → Body) : (s.modBody r f).calls = s.calls := rfl
@[simp] theorem State.modBody_journal (s : State) (r : Nat) (f : Body → Body) : (s.modBody r f).journal = s.journal := rfl
@[simp] theorem State.modBody_queues (s : State) (r : Nat) (f : Body → Body) : (s.modBody r f).queues = s.queues := rfl
@[simp] theorem State.modBody_doorbell (s : State) (r : Nat) (f : Body → Body) : (s.modBody r f).doorbell = s.doorbell := rfl
@[simp] theorem State.modBody_notifyDrops (s : State) (r : Nat) (f : Body → Body) : (s.modBody r f).notifyDrops = s.notifyDrops := rfl
@[simp] theorem State.modBody_links (s : State) (r : Nat) (f : Body → Body) : (s.modBody r f).links = s.links := rfl
@[simp] theorem State.modBody_wear (s : State) (r : Nat) (f : Body → Body) : (s.modBody r f).wear = s.wear := rfl
@[simp] theorem State.modBody_wearEntry (s : State) (r : Nat) (f : Body → Body) : (s.modBody r f).wearEntry = s.wearEntry := rfl
@[simp] theorem State.modBody_wearAt (s : State) (r : Nat) (f : Body → Body) : (s.modBody r f).wearAt = s.wearAt := rfl
@[simp] theorem State.modBody_reply (s : State) (r : Nat) (f : Body → Body) : (s.modBody r f).reply = s.reply := rfl
@[simp] theorem State.modBody_mailbox (s : State) (r : Nat) (f : Body → Body) : (s.modBody r f).mailbox = s.mailbox := rfl
@[simp] theorem State.modBody_house (s : State) (r : Nat) (f : Body → Body) : (s.modBody r f).house = s.house := rfl
@[simp] theorem State.setCore_agenda (s : State) (c : CoreRef) (x : Core) : (s.setCore c x).agenda = s.agenda := rfl
@[simp] theorem State.setCore_turn (s : State) (c : CoreRef) (x : Core) : (s.setCore c x).turn = s.turn := rfl
@[simp] theorem State.setCore_nextCore (s : State) (c : CoreRef) (x : Core) : (s.setCore c x).nextCore = s.nextCore := rfl
@[simp] theorem State.setCore_nextAgent (s : State) (c : CoreRef) (x : Core) : (s.setCore c x).nextAgent = s.nextAgent := rfl
@[simp] theorem State.setCore_steps (s : State) (c : CoreRef) (x : Core) : (s.setCore c x).steps = s.steps := rfl
@[simp] theorem State.setCore_cur (s : State) (c : CoreRef) (x : Core) : (s.setCore c x).cur = s.cur := rfl
@[simp] theorem State.setCore_nextId (s : State) (c : CoreRef) (x : Core) : (s.setCore c x).nextId = s.nextId := rfl
@[simp] theorem State.setCore_worn (s : State) (c : CoreRef) (x : Core) : (s.setCore c x).worn = s.worn := rfl
@[simp] theorem State.setCore_disabled (s : State) (c : CoreRef) (x : Core) : (s.setCore c x).disabled = s.disabled := rfl
@[simp] theorem State.setCore_boxTags (s : State) (c : CoreRef) (x : Core) : (s.setCore c x).boxTags = s.boxTags := rfl
@[simp] theorem State.setCore_edgeMasks (s : State) (c : CoreRef) (x : Core) : (s.setCore c x).edgeMasks = s.edgeMasks := rfl
@[simp] theorem State.setCore_gates (s : State) (c : CoreRef) (x : Core) : (s.setCore c x).gates = s.gates := rfl
@[simp] theorem State.setCore_accesses (s : State) (c : CoreRef) (x : Core) : (s.setCore c x).accesses = s.accesses := rfl
@[simp] theorem State.setCore_walks (s : State) (c : CoreRef) (x : Core) : (s.setCore c x).walks = s.walks := rfl
@[simp] theorem State.setCore_refused (s : State) (c : CoreRef) (x : Core) : (s.setCore c x).refused = s.refused := rfl
@[simp] theorem State.setCore_tlb1 (s : State) (c : CoreRef) (x : Core) : (s.setCore c x).tlb1 = s.tlb1 := rfl
@[simp] theorem State.setCore_tlb2 (s : State) (c : CoreRef) (x : Core) : (s.setCore c x).tlb2 = s.tlb2 := rfl
@[simp] theorem State.setCore_lines (s : State) (c : CoreRef) (x : Core) : (s.setCore c x).lines = s.lines := rfl
@[simp] theorem State.setCore_mem (s : State) (c : CoreRef) (x : Core) : (s.setCore c x).mem = s.mem := rfl
@[simp] theorem State.setCore_peer (s : State) (c : CoreRef) (x : Core) : (s.setCore c x).peer = s.peer := rfl
@[simp] theorem State.setCore_pages (s : State) (c : CoreRef) (x : Core) : (s.setCore c x).pages = s.pages := rfl
@[simp] theorem State.setCore_granules (s : State) (c : CoreRef) (x : Core) : (s.setCore c x).granules = s.granules := rfl
@[simp] theorem State.setCore_shareSets (s : State) (c : CoreRef) (x : Core) : (s.setCore c x).shareSets = s.shareSets := rfl
@[simp] theorem State.setCore_exports (s : State) (c : CoreRef) (x : Core) : (s.setCore c x).exports = s.exports := rfl
@[simp] theorem State.setCore_invals (s : State) (c : CoreRef) (x : Core) : (s.setCore c x).invals = s.invals := rfl
@[simp] theorem State.setCore_migrations (s : State) (c : CoreRef) (x : Core) : (s.setCore c x).migrations = s.migrations := rfl
@[simp] theorem State.setCore_mode (s : State) (c : CoreRef) (x : Core) : (s.setCore c x).mode = s.mode := rfl
@[simp] theorem State.setCore_quantum (s : State) (c : CoreRef) (x : Core) : (s.setCore c x).quantum = s.quantum := rfl
@[simp] theorem State.setCore_parts (s : State) (c : CoreRef) (x : Core) : (s.setCore c x).parts = s.parts := rfl
@[simp] theorem State.setCore_tenants (s : State) (c : CoreRef) (x : Core) : (s.setCore c x).tenants = s.tenants := rfl
@[simp] theorem State.setCore_nextLease (s : State) (c : CoreRef) (x : Core) : (s.setCore c x).nextLease = s.nextLease := rfl
@[simp] theorem State.setCore_launches (s : State) (c : CoreRef) (x : Core) : (s.setCore c x).launches = s.launches := rfl
@[simp] theorem State.setCore_stages (s : State) (c : CoreRef) (x : Core) : (s.setCore c x).stages = s.stages := rfl
@[simp] theorem State.setCore_arbiters (s : State) (c : CoreRef) (x : Core) : (s.setCore c x).arbiters = s.arbiters := rfl
@[simp] theorem State.setCore_dies (s : State) (c : CoreRef) (x : Core) : (s.setCore c x).dies = s.dies := rfl
@[simp] theorem State.setCore_primary (s : State) (c : CoreRef) (x : Core) : (s.setCore c x).primary = s.primary := rfl
@[simp] theorem State.setCore_timeDie (s : State) (c : CoreRef) (x : Core) : (s.setCore c x).timeDie = s.timeDie := rfl
@[simp] theorem State.setCore_store (s : State) (c : CoreRef) (x : Core) : (s.setCore c x).store = s.store := rfl
@[simp] theorem State.setCore_staged (s : State) (c : CoreRef) (x : Core) : (s.setCore c x).staged = s.staged := rfl
@[simp] theorem State.setCore_minVersion (s : State) (c : CoreRef) (x : Core) : (s.setCore c x).minVersion = s.minVersion := rfl
@[simp] theorem State.setCore_calls (s : State) (c : CoreRef) (x : Core) : (s.setCore c x).calls = s.calls := rfl
@[simp] theorem State.setCore_journal (s : State) (c : CoreRef) (x : Core) : (s.setCore c x).journal = s.journal := rfl
@[simp] theorem State.setCore_queues (s : State) (c : CoreRef) (x : Core) : (s.setCore c x).queues = s.queues := rfl
@[simp] theorem State.setCore_doorbell (s : State) (c : CoreRef) (x : Core) : (s.setCore c x).doorbell = s.doorbell := rfl
@[simp] theorem State.setCore_notifyDrops (s : State) (c : CoreRef) (x : Core) : (s.setCore c x).notifyDrops = s.notifyDrops := rfl
@[simp] theorem State.setCore_links (s : State) (c : CoreRef) (x : Core) : (s.setCore c x).links = s.links := rfl
@[simp] theorem State.setCore_wear (s : State) (c : CoreRef) (x : Core) : (s.setCore c x).wear = s.wear := rfl
@[simp] theorem State.setCore_wearEntry (s : State) (c : CoreRef) (x : Core) : (s.setCore c x).wearEntry = s.wearEntry := rfl
@[simp] theorem State.setCore_wearAt (s : State) (c : CoreRef) (x : Core) : (s.setCore c x).wearAt = s.wearAt := rfl
@[simp] theorem State.setCore_reply (s : State) (c : CoreRef) (x : Core) : (s.setCore c x).reply = s.reply := rfl
@[simp] theorem State.setCore_mailbox (s : State) (c : CoreRef) (x : Core) : (s.setCore c x).mailbox = s.mailbox := rfl
@[simp] theorem State.setCore_house (s : State) (c : CoreRef) (x : Core) : (s.setCore c x).house = s.house := rfl
@[simp] theorem State.modCore_agenda (s : State) (c : CoreRef) (f : Core → Core) : (s.modCore c f).agenda = s.agenda := rfl
@[simp] theorem State.modCore_turn (s : State) (c : CoreRef) (f : Core → Core) : (s.modCore c f).turn = s.turn := rfl
@[simp] theorem State.modCore_nextCore (s : State) (c : CoreRef) (f : Core → Core) : (s.modCore c f).nextCore = s.nextCore := rfl
@[simp] theorem State.modCore_nextAgent (s : State) (c : CoreRef) (f : Core → Core) : (s.modCore c f).nextAgent = s.nextAgent := rfl
@[simp] theorem State.modCore_steps (s : State) (c : CoreRef) (f : Core → Core) : (s.modCore c f).steps = s.steps := rfl
@[simp] theorem State.modCore_cur (s : State) (c : CoreRef) (f : Core → Core) : (s.modCore c f).cur = s.cur := rfl
@[simp] theorem State.modCore_nextId (s : State) (c : CoreRef) (f : Core → Core) : (s.modCore c f).nextId = s.nextId := rfl
@[simp] theorem State.modCore_worn (s : State) (c : CoreRef) (f : Core → Core) : (s.modCore c f).worn = s.worn := rfl
@[simp] theorem State.modCore_disabled (s : State) (c : CoreRef) (f : Core → Core) : (s.modCore c f).disabled = s.disabled := rfl
@[simp] theorem State.modCore_boxTags (s : State) (c : CoreRef) (f : Core → Core) : (s.modCore c f).boxTags = s.boxTags := rfl
@[simp] theorem State.modCore_edgeMasks (s : State) (c : CoreRef) (f : Core → Core) : (s.modCore c f).edgeMasks = s.edgeMasks := rfl
@[simp] theorem State.modCore_gates (s : State) (c : CoreRef) (f : Core → Core) : (s.modCore c f).gates = s.gates := rfl
@[simp] theorem State.modCore_accesses (s : State) (c : CoreRef) (f : Core → Core) : (s.modCore c f).accesses = s.accesses := rfl
@[simp] theorem State.modCore_walks (s : State) (c : CoreRef) (f : Core → Core) : (s.modCore c f).walks = s.walks := rfl
@[simp] theorem State.modCore_refused (s : State) (c : CoreRef) (f : Core → Core) : (s.modCore c f).refused = s.refused := rfl
@[simp] theorem State.modCore_tlb1 (s : State) (c : CoreRef) (f : Core → Core) : (s.modCore c f).tlb1 = s.tlb1 := rfl
@[simp] theorem State.modCore_tlb2 (s : State) (c : CoreRef) (f : Core → Core) : (s.modCore c f).tlb2 = s.tlb2 := rfl
@[simp] theorem State.modCore_lines (s : State) (c : CoreRef) (f : Core → Core) : (s.modCore c f).lines = s.lines := rfl
@[simp] theorem State.modCore_mem (s : State) (c : CoreRef) (f : Core → Core) : (s.modCore c f).mem = s.mem := rfl
@[simp] theorem State.modCore_peer (s : State) (c : CoreRef) (f : Core → Core) : (s.modCore c f).peer = s.peer := rfl
@[simp] theorem State.modCore_pages (s : State) (c : CoreRef) (f : Core → Core) : (s.modCore c f).pages = s.pages := rfl
@[simp] theorem State.modCore_granules (s : State) (c : CoreRef) (f : Core → Core) : (s.modCore c f).granules = s.granules := rfl
@[simp] theorem State.modCore_shareSets (s : State) (c : CoreRef) (f : Core → Core) : (s.modCore c f).shareSets = s.shareSets := rfl
@[simp] theorem State.modCore_exports (s : State) (c : CoreRef) (f : Core → Core) : (s.modCore c f).exports = s.exports := rfl
@[simp] theorem State.modCore_invals (s : State) (c : CoreRef) (f : Core → Core) : (s.modCore c f).invals = s.invals := rfl
@[simp] theorem State.modCore_migrations (s : State) (c : CoreRef) (f : Core → Core) : (s.modCore c f).migrations = s.migrations := rfl
@[simp] theorem State.modCore_mode (s : State) (c : CoreRef) (f : Core → Core) : (s.modCore c f).mode = s.mode := rfl
@[simp] theorem State.modCore_quantum (s : State) (c : CoreRef) (f : Core → Core) : (s.modCore c f).quantum = s.quantum := rfl
@[simp] theorem State.modCore_parts (s : State) (c : CoreRef) (f : Core → Core) : (s.modCore c f).parts = s.parts := rfl
@[simp] theorem State.modCore_tenants (s : State) (c : CoreRef) (f : Core → Core) : (s.modCore c f).tenants = s.tenants := rfl
@[simp] theorem State.modCore_nextLease (s : State) (c : CoreRef) (f : Core → Core) : (s.modCore c f).nextLease = s.nextLease := rfl
@[simp] theorem State.modCore_launches (s : State) (c : CoreRef) (f : Core → Core) : (s.modCore c f).launches = s.launches := rfl
@[simp] theorem State.modCore_stages (s : State) (c : CoreRef) (f : Core → Core) : (s.modCore c f).stages = s.stages := rfl
@[simp] theorem State.modCore_arbiters (s : State) (c : CoreRef) (f : Core → Core) : (s.modCore c f).arbiters = s.arbiters := rfl
@[simp] theorem State.modCore_dies (s : State) (c : CoreRef) (f : Core → Core) : (s.modCore c f).dies = s.dies := rfl
@[simp] theorem State.modCore_primary (s : State) (c : CoreRef) (f : Core → Core) : (s.modCore c f).primary = s.primary := rfl
@[simp] theorem State.modCore_timeDie (s : State) (c : CoreRef) (f : Core → Core) : (s.modCore c f).timeDie = s.timeDie := rfl
@[simp] theorem State.modCore_store (s : State) (c : CoreRef) (f : Core → Core) : (s.modCore c f).store = s.store := rfl
@[simp] theorem State.modCore_staged (s : State) (c : CoreRef) (f : Core → Core) : (s.modCore c f).staged = s.staged := rfl
@[simp] theorem State.modCore_minVersion (s : State) (c : CoreRef) (f : Core → Core) : (s.modCore c f).minVersion = s.minVersion := rfl
@[simp] theorem State.modCore_calls (s : State) (c : CoreRef) (f : Core → Core) : (s.modCore c f).calls = s.calls := rfl
@[simp] theorem State.modCore_journal (s : State) (c : CoreRef) (f : Core → Core) : (s.modCore c f).journal = s.journal := rfl
@[simp] theorem State.modCore_queues (s : State) (c : CoreRef) (f : Core → Core) : (s.modCore c f).queues = s.queues := rfl
@[simp] theorem State.modCore_doorbell (s : State) (c : CoreRef) (f : Core → Core) : (s.modCore c f).doorbell = s.doorbell := rfl
@[simp] theorem State.modCore_notifyDrops (s : State) (c : CoreRef) (f : Core → Core) : (s.modCore c f).notifyDrops = s.notifyDrops := rfl
@[simp] theorem State.modCore_links (s : State) (c : CoreRef) (f : Core → Core) : (s.modCore c f).links = s.links := rfl
@[simp] theorem State.modCore_wear (s : State) (c : CoreRef) (f : Core → Core) : (s.modCore c f).wear = s.wear := rfl
@[simp] theorem State.modCore_wearEntry (s : State) (c : CoreRef) (f : Core → Core) : (s.modCore c f).wearEntry = s.wearEntry := rfl
@[simp] theorem State.modCore_wearAt (s : State) (c : CoreRef) (f : Core → Core) : (s.modCore c f).wearAt = s.wearAt := rfl
@[simp] theorem State.modCore_reply (s : State) (c : CoreRef) (f : Core → Core) : (s.modCore c f).reply = s.reply := rfl
@[simp] theorem State.modCore_mailbox (s : State) (c : CoreRef) (f : Core → Core) : (s.modCore c f).mailbox = s.mailbox := rfl
@[simp] theorem State.modCore_house (s : State) (c : CoreRef) (f : Core → Core) : (s.modCore c f).house = s.house := rfl
@[simp] theorem State.setTask_agenda (s : State) (t : TaskRef) (x : Task) : (s.setTask t x).agenda = s.agenda := rfl
@[simp] theorem State.setTask_turn (s : State) (t : TaskRef) (x : Task) : (s.setTask t x).turn = s.turn := rfl
@[simp] theorem State.setTask_nextCore (s : State) (t : TaskRef) (x : Task) : (s.setTask t x).nextCore = s.nextCore := rfl
@[simp] theorem State.setTask_nextAgent (s : State) (t : TaskRef) (x : Task) : (s.setTask t x).nextAgent = s.nextAgent := rfl
@[simp] theorem State.setTask_steps (s : State) (t : TaskRef) (x : Task) : (s.setTask t x).steps = s.steps := rfl
@[simp] theorem State.setTask_cur (s : State) (t : TaskRef) (x : Task) : (s.setTask t x).cur = s.cur := rfl
@[simp] theorem State.setTask_nextId (s : State) (t : TaskRef) (x : Task) : (s.setTask t x).nextId = s.nextId := rfl
@[simp] theorem State.setTask_worn (s : State) (t : TaskRef) (x : Task) : (s.setTask t x).worn = s.worn := rfl
@[simp] theorem State.setTask_disabled (s : State) (t : TaskRef) (x : Task) : (s.setTask t x).disabled = s.disabled := rfl
@[simp] theorem State.setTask_boxTags (s : State) (t : TaskRef) (x : Task) : (s.setTask t x).boxTags = s.boxTags := rfl
@[simp] theorem State.setTask_edgeMasks (s : State) (t : TaskRef) (x : Task) : (s.setTask t x).edgeMasks = s.edgeMasks := rfl
@[simp] theorem State.setTask_gates (s : State) (t : TaskRef) (x : Task) : (s.setTask t x).gates = s.gates := rfl
@[simp] theorem State.setTask_accesses (s : State) (t : TaskRef) (x : Task) : (s.setTask t x).accesses = s.accesses := rfl
@[simp] theorem State.setTask_walks (s : State) (t : TaskRef) (x : Task) : (s.setTask t x).walks = s.walks := rfl
@[simp] theorem State.setTask_refused (s : State) (t : TaskRef) (x : Task) : (s.setTask t x).refused = s.refused := rfl
@[simp] theorem State.setTask_tlb1 (s : State) (t : TaskRef) (x : Task) : (s.setTask t x).tlb1 = s.tlb1 := rfl
@[simp] theorem State.setTask_tlb2 (s : State) (t : TaskRef) (x : Task) : (s.setTask t x).tlb2 = s.tlb2 := rfl
@[simp] theorem State.setTask_lines (s : State) (t : TaskRef) (x : Task) : (s.setTask t x).lines = s.lines := rfl
@[simp] theorem State.setTask_mem (s : State) (t : TaskRef) (x : Task) : (s.setTask t x).mem = s.mem := rfl
@[simp] theorem State.setTask_peer (s : State) (t : TaskRef) (x : Task) : (s.setTask t x).peer = s.peer := rfl
@[simp] theorem State.setTask_pages (s : State) (t : TaskRef) (x : Task) : (s.setTask t x).pages = s.pages := rfl
@[simp] theorem State.setTask_granules (s : State) (t : TaskRef) (x : Task) : (s.setTask t x).granules = s.granules := rfl
@[simp] theorem State.setTask_shareSets (s : State) (t : TaskRef) (x : Task) : (s.setTask t x).shareSets = s.shareSets := rfl
@[simp] theorem State.setTask_exports (s : State) (t : TaskRef) (x : Task) : (s.setTask t x).exports = s.exports := rfl
@[simp] theorem State.setTask_invals (s : State) (t : TaskRef) (x : Task) : (s.setTask t x).invals = s.invals := rfl
@[simp] theorem State.setTask_migrations (s : State) (t : TaskRef) (x : Task) : (s.setTask t x).migrations = s.migrations := rfl
@[simp] theorem State.setTask_mode (s : State) (t : TaskRef) (x : Task) : (s.setTask t x).mode = s.mode := rfl
@[simp] theorem State.setTask_quantum (s : State) (t : TaskRef) (x : Task) : (s.setTask t x).quantum = s.quantum := rfl
@[simp] theorem State.setTask_parts (s : State) (t : TaskRef) (x : Task) : (s.setTask t x).parts = s.parts := rfl
@[simp] theorem State.setTask_tenants (s : State) (t : TaskRef) (x : Task) : (s.setTask t x).tenants = s.tenants := rfl
@[simp] theorem State.setTask_nextLease (s : State) (t : TaskRef) (x : Task) : (s.setTask t x).nextLease = s.nextLease := rfl
@[simp] theorem State.setTask_launches (s : State) (t : TaskRef) (x : Task) : (s.setTask t x).launches = s.launches := rfl
@[simp] theorem State.setTask_stages (s : State) (t : TaskRef) (x : Task) : (s.setTask t x).stages = s.stages := rfl
@[simp] theorem State.setTask_arbiters (s : State) (t : TaskRef) (x : Task) : (s.setTask t x).arbiters = s.arbiters := rfl
@[simp] theorem State.setTask_dies (s : State) (t : TaskRef) (x : Task) : (s.setTask t x).dies = s.dies := rfl
@[simp] theorem State.setTask_primary (s : State) (t : TaskRef) (x : Task) : (s.setTask t x).primary = s.primary := rfl
@[simp] theorem State.setTask_timeDie (s : State) (t : TaskRef) (x : Task) : (s.setTask t x).timeDie = s.timeDie := rfl
@[simp] theorem State.setTask_store (s : State) (t : TaskRef) (x : Task) : (s.setTask t x).store = s.store := rfl
@[simp] theorem State.setTask_staged (s : State) (t : TaskRef) (x : Task) : (s.setTask t x).staged = s.staged := rfl
@[simp] theorem State.setTask_minVersion (s : State) (t : TaskRef) (x : Task) : (s.setTask t x).minVersion = s.minVersion := rfl
@[simp] theorem State.setTask_calls (s : State) (t : TaskRef) (x : Task) : (s.setTask t x).calls = s.calls := rfl
@[simp] theorem State.setTask_journal (s : State) (t : TaskRef) (x : Task) : (s.setTask t x).journal = s.journal := rfl
@[simp] theorem State.setTask_queues (s : State) (t : TaskRef) (x : Task) : (s.setTask t x).queues = s.queues := rfl
@[simp] theorem State.setTask_doorbell (s : State) (t : TaskRef) (x : Task) : (s.setTask t x).doorbell = s.doorbell := rfl
@[simp] theorem State.setTask_notifyDrops (s : State) (t : TaskRef) (x : Task) : (s.setTask t x).notifyDrops = s.notifyDrops := rfl
@[simp] theorem State.setTask_links (s : State) (t : TaskRef) (x : Task) : (s.setTask t x).links = s.links := rfl
@[simp] theorem State.setTask_wear (s : State) (t : TaskRef) (x : Task) : (s.setTask t x).wear = s.wear := rfl
@[simp] theorem State.setTask_wearEntry (s : State) (t : TaskRef) (x : Task) : (s.setTask t x).wearEntry = s.wearEntry := rfl
@[simp] theorem State.setTask_wearAt (s : State) (t : TaskRef) (x : Task) : (s.setTask t x).wearAt = s.wearAt := rfl
@[simp] theorem State.setTask_reply (s : State) (t : TaskRef) (x : Task) : (s.setTask t x).reply = s.reply := rfl
@[simp] theorem State.setTask_mailbox (s : State) (t : TaskRef) (x : Task) : (s.setTask t x).mailbox = s.mailbox := rfl
@[simp] theorem State.setTask_house (s : State) (t : TaskRef) (x : Task) : (s.setTask t x).house = s.house := rfl
@[simp] theorem State.modTask_agenda (s : State) (t : TaskRef) (f : Task → Task) : (s.modTask t f).agenda = s.agenda := rfl
@[simp] theorem State.modTask_turn (s : State) (t : TaskRef) (f : Task → Task) : (s.modTask t f).turn = s.turn := rfl
@[simp] theorem State.modTask_nextCore (s : State) (t : TaskRef) (f : Task → Task) : (s.modTask t f).nextCore = s.nextCore := rfl
@[simp] theorem State.modTask_nextAgent (s : State) (t : TaskRef) (f : Task → Task) : (s.modTask t f).nextAgent = s.nextAgent := rfl
@[simp] theorem State.modTask_steps (s : State) (t : TaskRef) (f : Task → Task) : (s.modTask t f).steps = s.steps := rfl
@[simp] theorem State.modTask_cur (s : State) (t : TaskRef) (f : Task → Task) : (s.modTask t f).cur = s.cur := rfl
@[simp] theorem State.modTask_nextId (s : State) (t : TaskRef) (f : Task → Task) : (s.modTask t f).nextId = s.nextId := rfl
@[simp] theorem State.modTask_worn (s : State) (t : TaskRef) (f : Task → Task) : (s.modTask t f).worn = s.worn := rfl
@[simp] theorem State.modTask_disabled (s : State) (t : TaskRef) (f : Task → Task) : (s.modTask t f).disabled = s.disabled := rfl
@[simp] theorem State.modTask_boxTags (s : State) (t : TaskRef) (f : Task → Task) : (s.modTask t f).boxTags = s.boxTags := rfl
@[simp] theorem State.modTask_edgeMasks (s : State) (t : TaskRef) (f : Task → Task) : (s.modTask t f).edgeMasks = s.edgeMasks := rfl
@[simp] theorem State.modTask_gates (s : State) (t : TaskRef) (f : Task → Task) : (s.modTask t f).gates = s.gates := rfl
@[simp] theorem State.modTask_accesses (s : State) (t : TaskRef) (f : Task → Task) : (s.modTask t f).accesses = s.accesses := rfl
@[simp] theorem State.modTask_walks (s : State) (t : TaskRef) (f : Task → Task) : (s.modTask t f).walks = s.walks := rfl
@[simp] theorem State.modTask_refused (s : State) (t : TaskRef) (f : Task → Task) : (s.modTask t f).refused = s.refused := rfl
@[simp] theorem State.modTask_tlb1 (s : State) (t : TaskRef) (f : Task → Task) : (s.modTask t f).tlb1 = s.tlb1 := rfl
@[simp] theorem State.modTask_tlb2 (s : State) (t : TaskRef) (f : Task → Task) : (s.modTask t f).tlb2 = s.tlb2 := rfl
@[simp] theorem State.modTask_lines (s : State) (t : TaskRef) (f : Task → Task) : (s.modTask t f).lines = s.lines := rfl
@[simp] theorem State.modTask_mem (s : State) (t : TaskRef) (f : Task → Task) : (s.modTask t f).mem = s.mem := rfl
@[simp] theorem State.modTask_peer (s : State) (t : TaskRef) (f : Task → Task) : (s.modTask t f).peer = s.peer := rfl
@[simp] theorem State.modTask_pages (s : State) (t : TaskRef) (f : Task → Task) : (s.modTask t f).pages = s.pages := rfl
@[simp] theorem State.modTask_granules (s : State) (t : TaskRef) (f : Task → Task) : (s.modTask t f).granules = s.granules := rfl
@[simp] theorem State.modTask_shareSets (s : State) (t : TaskRef) (f : Task → Task) : (s.modTask t f).shareSets = s.shareSets := rfl
@[simp] theorem State.modTask_exports (s : State) (t : TaskRef) (f : Task → Task) : (s.modTask t f).exports = s.exports := rfl
@[simp] theorem State.modTask_invals (s : State) (t : TaskRef) (f : Task → Task) : (s.modTask t f).invals = s.invals := rfl
@[simp] theorem State.modTask_migrations (s : State) (t : TaskRef) (f : Task → Task) : (s.modTask t f).migrations = s.migrations := rfl
@[simp] theorem State.modTask_mode (s : State) (t : TaskRef) (f : Task → Task) : (s.modTask t f).mode = s.mode := rfl
@[simp] theorem State.modTask_quantum (s : State) (t : TaskRef) (f : Task → Task) : (s.modTask t f).quantum = s.quantum := rfl
@[simp] theorem State.modTask_parts (s : State) (t : TaskRef) (f : Task → Task) : (s.modTask t f).parts = s.parts := rfl
@[simp] theorem State.modTask_tenants (s : State) (t : TaskRef) (f : Task → Task) : (s.modTask t f).tenants = s.tenants := rfl
@[simp] theorem State.modTask_nextLease (s : State) (t : TaskRef) (f : Task → Task) : (s.modTask t f).nextLease = s.nextLease := rfl
@[simp] theorem State.modTask_launches (s : State) (t : TaskRef) (f : Task → Task) : (s.modTask t f).launches = s.launches := rfl
@[simp] theorem State.modTask_stages (s : State) (t : TaskRef) (f : Task → Task) : (s.modTask t f).stages = s.stages := rfl
@[simp] theorem State.modTask_arbiters (s : State) (t : TaskRef) (f : Task → Task) : (s.modTask t f).arbiters = s.arbiters := rfl
@[simp] theorem State.modTask_dies (s : State) (t : TaskRef) (f : Task → Task) : (s.modTask t f).dies = s.dies := rfl
@[simp] theorem State.modTask_primary (s : State) (t : TaskRef) (f : Task → Task) : (s.modTask t f).primary = s.primary := rfl
@[simp] theorem State.modTask_timeDie (s : State) (t : TaskRef) (f : Task → Task) : (s.modTask t f).timeDie = s.timeDie := rfl
@[simp] theorem State.modTask_store (s : State) (t : TaskRef) (f : Task → Task) : (s.modTask t f).store = s.store := rfl
@[simp] theorem State.modTask_staged (s : State) (t : TaskRef) (f : Task → Task) : (s.modTask t f).staged = s.staged := rfl
@[simp] theorem State.modTask_minVersion (s : State) (t : TaskRef) (f : Task → Task) : (s.modTask t f).minVersion = s.minVersion := rfl
@[simp] theorem State.modTask_calls (s : State) (t : TaskRef) (f : Task → Task) : (s.modTask t f).calls = s.calls := rfl
@[simp] theorem State.modTask_journal (s : State) (t : TaskRef) (f : Task → Task) : (s.modTask t f).journal = s.journal := rfl
@[simp] theorem State.modTask_queues (s : State) (t : TaskRef) (f : Task → Task) : (s.modTask t f).queues = s.queues := rfl
@[simp] theorem State.modTask_doorbell (s : State) (t : TaskRef) (f : Task → Task) : (s.modTask t f).doorbell = s.doorbell := rfl
@[simp] theorem State.modTask_notifyDrops (s : State) (t : TaskRef) (f : Task → Task) : (s.modTask t f).notifyDrops = s.notifyDrops := rfl
@[simp] theorem State.modTask_links (s : State) (t : TaskRef) (f : Task → Task) : (s.modTask t f).links = s.links := rfl
@[simp] theorem State.modTask_wear (s : State) (t : TaskRef) (f : Task → Task) : (s.modTask t f).wear = s.wear := rfl
@[simp] theorem State.modTask_wearEntry (s : State) (t : TaskRef) (f : Task → Task) : (s.modTask t f).wearEntry = s.wearEntry := rfl
@[simp] theorem State.modTask_wearAt (s : State) (t : TaskRef) (f : Task → Task) : (s.modTask t f).wearAt = s.wearAt := rfl
@[simp] theorem State.modTask_reply (s : State) (t : TaskRef) (f : Task → Task) : (s.modTask t f).reply = s.reply := rfl
@[simp] theorem State.modTask_mailbox (s : State) (t : TaskRef) (f : Task → Task) : (s.modTask t f).mailbox = s.mailbox := rfl
@[simp] theorem State.modTask_house (s : State) (t : TaskRef) (f : Task → Task) : (s.modTask t f).house = s.house := rfl
@[simp] theorem State.setSite_agenda (s : State) (e : SiteRef) (x : Site) : (s.setSite e x).agenda = s.agenda := rfl
@[simp] theorem State.setSite_turn (s : State) (e : SiteRef) (x : Site) : (s.setSite e x).turn = s.turn := rfl
@[simp] theorem State.setSite_nextCore (s : State) (e : SiteRef) (x : Site) : (s.setSite e x).nextCore = s.nextCore := rfl
@[simp] theorem State.setSite_nextAgent (s : State) (e : SiteRef) (x : Site) : (s.setSite e x).nextAgent = s.nextAgent := rfl
@[simp] theorem State.setSite_steps (s : State) (e : SiteRef) (x : Site) : (s.setSite e x).steps = s.steps := rfl
@[simp] theorem State.setSite_cur (s : State) (e : SiteRef) (x : Site) : (s.setSite e x).cur = s.cur := rfl
@[simp] theorem State.setSite_nextId (s : State) (e : SiteRef) (x : Site) : (s.setSite e x).nextId = s.nextId := rfl
@[simp] theorem State.setSite_worn (s : State) (e : SiteRef) (x : Site) : (s.setSite e x).worn = s.worn := rfl
@[simp] theorem State.setSite_disabled (s : State) (e : SiteRef) (x : Site) : (s.setSite e x).disabled = s.disabled := rfl
@[simp] theorem State.setSite_boxTags (s : State) (e : SiteRef) (x : Site) : (s.setSite e x).boxTags = s.boxTags := rfl
@[simp] theorem State.setSite_edgeMasks (s : State) (e : SiteRef) (x : Site) : (s.setSite e x).edgeMasks = s.edgeMasks := rfl
@[simp] theorem State.setSite_gates (s : State) (e : SiteRef) (x : Site) : (s.setSite e x).gates = s.gates := rfl
@[simp] theorem State.setSite_accesses (s : State) (e : SiteRef) (x : Site) : (s.setSite e x).accesses = s.accesses := rfl
@[simp] theorem State.setSite_walks (s : State) (e : SiteRef) (x : Site) : (s.setSite e x).walks = s.walks := rfl
@[simp] theorem State.setSite_refused (s : State) (e : SiteRef) (x : Site) : (s.setSite e x).refused = s.refused := rfl
@[simp] theorem State.setSite_tlb1 (s : State) (e : SiteRef) (x : Site) : (s.setSite e x).tlb1 = s.tlb1 := rfl
@[simp] theorem State.setSite_tlb2 (s : State) (e : SiteRef) (x : Site) : (s.setSite e x).tlb2 = s.tlb2 := rfl
@[simp] theorem State.setSite_lines (s : State) (e : SiteRef) (x : Site) : (s.setSite e x).lines = s.lines := rfl
@[simp] theorem State.setSite_mem (s : State) (e : SiteRef) (x : Site) : (s.setSite e x).mem = s.mem := rfl
@[simp] theorem State.setSite_peer (s : State) (e : SiteRef) (x : Site) : (s.setSite e x).peer = s.peer := rfl
@[simp] theorem State.setSite_pages (s : State) (e : SiteRef) (x : Site) : (s.setSite e x).pages = s.pages := rfl
@[simp] theorem State.setSite_granules (s : State) (e : SiteRef) (x : Site) : (s.setSite e x).granules = s.granules := rfl
@[simp] theorem State.setSite_shareSets (s : State) (e : SiteRef) (x : Site) : (s.setSite e x).shareSets = s.shareSets := rfl
@[simp] theorem State.setSite_exports (s : State) (e : SiteRef) (x : Site) : (s.setSite e x).exports = s.exports := rfl
@[simp] theorem State.setSite_invals (s : State) (e : SiteRef) (x : Site) : (s.setSite e x).invals = s.invals := rfl
@[simp] theorem State.setSite_migrations (s : State) (e : SiteRef) (x : Site) : (s.setSite e x).migrations = s.migrations := rfl
@[simp] theorem State.setSite_mode (s : State) (e : SiteRef) (x : Site) : (s.setSite e x).mode = s.mode := rfl
@[simp] theorem State.setSite_quantum (s : State) (e : SiteRef) (x : Site) : (s.setSite e x).quantum = s.quantum := rfl
@[simp] theorem State.setSite_parts (s : State) (e : SiteRef) (x : Site) : (s.setSite e x).parts = s.parts := rfl
@[simp] theorem State.setSite_tenants (s : State) (e : SiteRef) (x : Site) : (s.setSite e x).tenants = s.tenants := rfl
@[simp] theorem State.setSite_nextLease (s : State) (e : SiteRef) (x : Site) : (s.setSite e x).nextLease = s.nextLease := rfl
@[simp] theorem State.setSite_launches (s : State) (e : SiteRef) (x : Site) : (s.setSite e x).launches = s.launches := rfl
@[simp] theorem State.setSite_stages (s : State) (e : SiteRef) (x : Site) : (s.setSite e x).stages = s.stages := rfl
@[simp] theorem State.setSite_arbiters (s : State) (e : SiteRef) (x : Site) : (s.setSite e x).arbiters = s.arbiters := rfl
@[simp] theorem State.setSite_dies (s : State) (e : SiteRef) (x : Site) : (s.setSite e x).dies = s.dies := rfl
@[simp] theorem State.setSite_primary (s : State) (e : SiteRef) (x : Site) : (s.setSite e x).primary = s.primary := rfl
@[simp] theorem State.setSite_timeDie (s : State) (e : SiteRef) (x : Site) : (s.setSite e x).timeDie = s.timeDie := rfl
@[simp] theorem State.setSite_store (s : State) (e : SiteRef) (x : Site) : (s.setSite e x).store = s.store := rfl
@[simp] theorem State.setSite_staged (s : State) (e : SiteRef) (x : Site) : (s.setSite e x).staged = s.staged := rfl
@[simp] theorem State.setSite_minVersion (s : State) (e : SiteRef) (x : Site) : (s.setSite e x).minVersion = s.minVersion := rfl
@[simp] theorem State.setSite_calls (s : State) (e : SiteRef) (x : Site) : (s.setSite e x).calls = s.calls := rfl
@[simp] theorem State.setSite_journal (s : State) (e : SiteRef) (x : Site) : (s.setSite e x).journal = s.journal := rfl
@[simp] theorem State.setSite_queues (s : State) (e : SiteRef) (x : Site) : (s.setSite e x).queues = s.queues := rfl
@[simp] theorem State.setSite_doorbell (s : State) (e : SiteRef) (x : Site) : (s.setSite e x).doorbell = s.doorbell := rfl
@[simp] theorem State.setSite_notifyDrops (s : State) (e : SiteRef) (x : Site) : (s.setSite e x).notifyDrops = s.notifyDrops := rfl
@[simp] theorem State.setSite_links (s : State) (e : SiteRef) (x : Site) : (s.setSite e x).links = s.links := rfl
@[simp] theorem State.setSite_wear (s : State) (e : SiteRef) (x : Site) : (s.setSite e x).wear = s.wear := rfl
@[simp] theorem State.setSite_wearEntry (s : State) (e : SiteRef) (x : Site) : (s.setSite e x).wearEntry = s.wearEntry := rfl
@[simp] theorem State.setSite_wearAt (s : State) (e : SiteRef) (x : Site) : (s.setSite e x).wearAt = s.wearAt := rfl
@[simp] theorem State.setSite_reply (s : State) (e : SiteRef) (x : Site) : (s.setSite e x).reply = s.reply := rfl
@[simp] theorem State.setSite_mailbox (s : State) (e : SiteRef) (x : Site) : (s.setSite e x).mailbox = s.mailbox := rfl
@[simp] theorem State.setSite_house (s : State) (e : SiteRef) (x : Site) : (s.setSite e x).house = s.house := rfl
@[simp] theorem State.modPart_agenda (s : State) (p : Nat) (f : Part → Part) : (s.modPart p f).agenda = s.agenda := rfl
@[simp] theorem State.modPart_turn (s : State) (p : Nat) (f : Part → Part) : (s.modPart p f).turn = s.turn := rfl
@[simp] theorem State.modPart_nextCore (s : State) (p : Nat) (f : Part → Part) : (s.modPart p f).nextCore = s.nextCore := rfl
@[simp] theorem State.modPart_nextAgent (s : State) (p : Nat) (f : Part → Part) : (s.modPart p f).nextAgent = s.nextAgent := rfl
@[simp] theorem State.modPart_steps (s : State) (p : Nat) (f : Part → Part) : (s.modPart p f).steps = s.steps := rfl
@[simp] theorem State.modPart_cur (s : State) (p : Nat) (f : Part → Part) : (s.modPart p f).cur = s.cur := rfl
@[simp] theorem State.modPart_nextId (s : State) (p : Nat) (f : Part → Part) : (s.modPart p f).nextId = s.nextId := rfl
@[simp] theorem State.modPart_rects (s : State) (p : Nat) (f : Part → Part) : (s.modPart p f).rects = s.rects := rfl
@[simp] theorem State.modPart_worn (s : State) (p : Nat) (f : Part → Part) : (s.modPart p f).worn = s.worn := rfl
@[simp] theorem State.modPart_disabled (s : State) (p : Nat) (f : Part → Part) : (s.modPart p f).disabled = s.disabled := rfl
@[simp] theorem State.modPart_boxTags (s : State) (p : Nat) (f : Part → Part) : (s.modPart p f).boxTags = s.boxTags := rfl
@[simp] theorem State.modPart_edgeMasks (s : State) (p : Nat) (f : Part → Part) : (s.modPart p f).edgeMasks = s.edgeMasks := rfl
@[simp] theorem State.modPart_gates (s : State) (p : Nat) (f : Part → Part) : (s.modPart p f).gates = s.gates := rfl
@[simp] theorem State.modPart_accesses (s : State) (p : Nat) (f : Part → Part) : (s.modPart p f).accesses = s.accesses := rfl
@[simp] theorem State.modPart_walks (s : State) (p : Nat) (f : Part → Part) : (s.modPart p f).walks = s.walks := rfl
@[simp] theorem State.modPart_refused (s : State) (p : Nat) (f : Part → Part) : (s.modPart p f).refused = s.refused := rfl
@[simp] theorem State.modPart_tlb1 (s : State) (p : Nat) (f : Part → Part) : (s.modPart p f).tlb1 = s.tlb1 := rfl
@[simp] theorem State.modPart_tlb2 (s : State) (p : Nat) (f : Part → Part) : (s.modPart p f).tlb2 = s.tlb2 := rfl
@[simp] theorem State.modPart_lines (s : State) (p : Nat) (f : Part → Part) : (s.modPart p f).lines = s.lines := rfl
@[simp] theorem State.modPart_mem (s : State) (p : Nat) (f : Part → Part) : (s.modPart p f).mem = s.mem := rfl
@[simp] theorem State.modPart_peer (s : State) (p : Nat) (f : Part → Part) : (s.modPart p f).peer = s.peer := rfl
@[simp] theorem State.modPart_pages (s : State) (p : Nat) (f : Part → Part) : (s.modPart p f).pages = s.pages := rfl
@[simp] theorem State.modPart_granules (s : State) (p : Nat) (f : Part → Part) : (s.modPart p f).granules = s.granules := rfl
@[simp] theorem State.modPart_shareSets (s : State) (p : Nat) (f : Part → Part) : (s.modPart p f).shareSets = s.shareSets := rfl
@[simp] theorem State.modPart_exports (s : State) (p : Nat) (f : Part → Part) : (s.modPart p f).exports = s.exports := rfl
@[simp] theorem State.modPart_invals (s : State) (p : Nat) (f : Part → Part) : (s.modPart p f).invals = s.invals := rfl
@[simp] theorem State.modPart_migrations (s : State) (p : Nat) (f : Part → Part) : (s.modPart p f).migrations = s.migrations := rfl
@[simp] theorem State.modPart_mode (s : State) (p : Nat) (f : Part → Part) : (s.modPart p f).mode = s.mode := rfl
@[simp] theorem State.modPart_quantum (s : State) (p : Nat) (f : Part → Part) : (s.modPart p f).quantum = s.quantum := rfl
@[simp] theorem State.modPart_tenants (s : State) (p : Nat) (f : Part → Part) : (s.modPart p f).tenants = s.tenants := rfl
@[simp] theorem State.modPart_nextLease (s : State) (p : Nat) (f : Part → Part) : (s.modPart p f).nextLease = s.nextLease := rfl
@[simp] theorem State.modPart_launches (s : State) (p : Nat) (f : Part → Part) : (s.modPart p f).launches = s.launches := rfl
@[simp] theorem State.modPart_stages (s : State) (p : Nat) (f : Part → Part) : (s.modPart p f).stages = s.stages := rfl
@[simp] theorem State.modPart_arbiters (s : State) (p : Nat) (f : Part → Part) : (s.modPart p f).arbiters = s.arbiters := rfl
@[simp] theorem State.modPart_dies (s : State) (p : Nat) (f : Part → Part) : (s.modPart p f).dies = s.dies := rfl
@[simp] theorem State.modPart_primary (s : State) (p : Nat) (f : Part → Part) : (s.modPart p f).primary = s.primary := rfl
@[simp] theorem State.modPart_timeDie (s : State) (p : Nat) (f : Part → Part) : (s.modPart p f).timeDie = s.timeDie := rfl
@[simp] theorem State.modPart_store (s : State) (p : Nat) (f : Part → Part) : (s.modPart p f).store = s.store := rfl
@[simp] theorem State.modPart_staged (s : State) (p : Nat) (f : Part → Part) : (s.modPart p f).staged = s.staged := rfl
@[simp] theorem State.modPart_minVersion (s : State) (p : Nat) (f : Part → Part) : (s.modPart p f).minVersion = s.minVersion := rfl
@[simp] theorem State.modPart_calls (s : State) (p : Nat) (f : Part → Part) : (s.modPart p f).calls = s.calls := rfl
@[simp] theorem State.modPart_journal (s : State) (p : Nat) (f : Part → Part) : (s.modPart p f).journal = s.journal := rfl
@[simp] theorem State.modPart_queues (s : State) (p : Nat) (f : Part → Part) : (s.modPart p f).queues = s.queues := rfl
@[simp] theorem State.modPart_doorbell (s : State) (p : Nat) (f : Part → Part) : (s.modPart p f).doorbell = s.doorbell := rfl
@[simp] theorem State.modPart_notifyDrops (s : State) (p : Nat) (f : Part → Part) : (s.modPart p f).notifyDrops = s.notifyDrops := rfl
@[simp] theorem State.modPart_links (s : State) (p : Nat) (f : Part → Part) : (s.modPart p f).links = s.links := rfl
@[simp] theorem State.modPart_wear (s : State) (p : Nat) (f : Part → Part) : (s.modPart p f).wear = s.wear := rfl
@[simp] theorem State.modPart_wearEntry (s : State) (p : Nat) (f : Part → Part) : (s.modPart p f).wearEntry = s.wearEntry := rfl
@[simp] theorem State.modPart_wearAt (s : State) (p : Nat) (f : Part → Part) : (s.modPart p f).wearAt = s.wearAt := rfl
@[simp] theorem State.modPart_reply (s : State) (p : Nat) (f : Part → Part) : (s.modPart p f).reply = s.reply := rfl
@[simp] theorem State.modPart_mailbox (s : State) (p : Nat) (f : Part → Part) : (s.modPart p f).mailbox = s.mailbox := rfl
@[simp] theorem State.modPart_house (s : State) (p : Nat) (f : Part → Part) : (s.modPart p f).house = s.house := rfl
@[simp] theorem State.modTenant_agenda (s : State) (k : Nat) (f : Tenant → Tenant) : (s.modTenant k f).agenda = s.agenda := rfl
@[simp] theorem State.modTenant_turn (s : State) (k : Nat) (f : Tenant → Tenant) : (s.modTenant k f).turn = s.turn := rfl
@[simp] theorem State.modTenant_nextCore (s : State) (k : Nat) (f : Tenant → Tenant) : (s.modTenant k f).nextCore = s.nextCore := rfl
@[simp] theorem State.modTenant_nextAgent (s : State) (k : Nat) (f : Tenant → Tenant) : (s.modTenant k f).nextAgent = s.nextAgent := rfl
@[simp] theorem State.modTenant_steps (s : State) (k : Nat) (f : Tenant → Tenant) : (s.modTenant k f).steps = s.steps := rfl
@[simp] theorem State.modTenant_cur (s : State) (k : Nat) (f : Tenant → Tenant) : (s.modTenant k f).cur = s.cur := rfl
@[simp] theorem State.modTenant_nextId (s : State) (k : Nat) (f : Tenant → Tenant) : (s.modTenant k f).nextId = s.nextId := rfl
@[simp] theorem State.modTenant_rects (s : State) (k : Nat) (f : Tenant → Tenant) : (s.modTenant k f).rects = s.rects := rfl
@[simp] theorem State.modTenant_worn (s : State) (k : Nat) (f : Tenant → Tenant) : (s.modTenant k f).worn = s.worn := rfl
@[simp] theorem State.modTenant_disabled (s : State) (k : Nat) (f : Tenant → Tenant) : (s.modTenant k f).disabled = s.disabled := rfl
@[simp] theorem State.modTenant_boxTags (s : State) (k : Nat) (f : Tenant → Tenant) : (s.modTenant k f).boxTags = s.boxTags := rfl
@[simp] theorem State.modTenant_edgeMasks (s : State) (k : Nat) (f : Tenant → Tenant) : (s.modTenant k f).edgeMasks = s.edgeMasks := rfl
@[simp] theorem State.modTenant_gates (s : State) (k : Nat) (f : Tenant → Tenant) : (s.modTenant k f).gates = s.gates := rfl
@[simp] theorem State.modTenant_accesses (s : State) (k : Nat) (f : Tenant → Tenant) : (s.modTenant k f).accesses = s.accesses := rfl
@[simp] theorem State.modTenant_walks (s : State) (k : Nat) (f : Tenant → Tenant) : (s.modTenant k f).walks = s.walks := rfl
@[simp] theorem State.modTenant_refused (s : State) (k : Nat) (f : Tenant → Tenant) : (s.modTenant k f).refused = s.refused := rfl
@[simp] theorem State.modTenant_tlb1 (s : State) (k : Nat) (f : Tenant → Tenant) : (s.modTenant k f).tlb1 = s.tlb1 := rfl
@[simp] theorem State.modTenant_tlb2 (s : State) (k : Nat) (f : Tenant → Tenant) : (s.modTenant k f).tlb2 = s.tlb2 := rfl
@[simp] theorem State.modTenant_lines (s : State) (k : Nat) (f : Tenant → Tenant) : (s.modTenant k f).lines = s.lines := rfl
@[simp] theorem State.modTenant_mem (s : State) (k : Nat) (f : Tenant → Tenant) : (s.modTenant k f).mem = s.mem := rfl
@[simp] theorem State.modTenant_peer (s : State) (k : Nat) (f : Tenant → Tenant) : (s.modTenant k f).peer = s.peer := rfl
@[simp] theorem State.modTenant_pages (s : State) (k : Nat) (f : Tenant → Tenant) : (s.modTenant k f).pages = s.pages := rfl
@[simp] theorem State.modTenant_granules (s : State) (k : Nat) (f : Tenant → Tenant) : (s.modTenant k f).granules = s.granules := rfl
@[simp] theorem State.modTenant_shareSets (s : State) (k : Nat) (f : Tenant → Tenant) : (s.modTenant k f).shareSets = s.shareSets := rfl
@[simp] theorem State.modTenant_exports (s : State) (k : Nat) (f : Tenant → Tenant) : (s.modTenant k f).exports = s.exports := rfl
@[simp] theorem State.modTenant_invals (s : State) (k : Nat) (f : Tenant → Tenant) : (s.modTenant k f).invals = s.invals := rfl
@[simp] theorem State.modTenant_migrations (s : State) (k : Nat) (f : Tenant → Tenant) : (s.modTenant k f).migrations = s.migrations := rfl
@[simp] theorem State.modTenant_mode (s : State) (k : Nat) (f : Tenant → Tenant) : (s.modTenant k f).mode = s.mode := rfl
@[simp] theorem State.modTenant_quantum (s : State) (k : Nat) (f : Tenant → Tenant) : (s.modTenant k f).quantum = s.quantum := rfl
@[simp] theorem State.modTenant_parts (s : State) (k : Nat) (f : Tenant → Tenant) : (s.modTenant k f).parts = s.parts := rfl
@[simp] theorem State.modTenant_nextLease (s : State) (k : Nat) (f : Tenant → Tenant) : (s.modTenant k f).nextLease = s.nextLease := rfl
@[simp] theorem State.modTenant_launches (s : State) (k : Nat) (f : Tenant → Tenant) : (s.modTenant k f).launches = s.launches := rfl
@[simp] theorem State.modTenant_stages (s : State) (k : Nat) (f : Tenant → Tenant) : (s.modTenant k f).stages = s.stages := rfl
@[simp] theorem State.modTenant_arbiters (s : State) (k : Nat) (f : Tenant → Tenant) : (s.modTenant k f).arbiters = s.arbiters := rfl
@[simp] theorem State.modTenant_dies (s : State) (k : Nat) (f : Tenant → Tenant) : (s.modTenant k f).dies = s.dies := rfl
@[simp] theorem State.modTenant_primary (s : State) (k : Nat) (f : Tenant → Tenant) : (s.modTenant k f).primary = s.primary := rfl
@[simp] theorem State.modTenant_timeDie (s : State) (k : Nat) (f : Tenant → Tenant) : (s.modTenant k f).timeDie = s.timeDie := rfl
@[simp] theorem State.modTenant_store (s : State) (k : Nat) (f : Tenant → Tenant) : (s.modTenant k f).store = s.store := rfl
@[simp] theorem State.modTenant_staged (s : State) (k : Nat) (f : Tenant → Tenant) : (s.modTenant k f).staged = s.staged := rfl
@[simp] theorem State.modTenant_minVersion (s : State) (k : Nat) (f : Tenant → Tenant) : (s.modTenant k f).minVersion = s.minVersion := rfl
@[simp] theorem State.modTenant_calls (s : State) (k : Nat) (f : Tenant → Tenant) : (s.modTenant k f).calls = s.calls := rfl
@[simp] theorem State.modTenant_journal (s : State) (k : Nat) (f : Tenant → Tenant) : (s.modTenant k f).journal = s.journal := rfl
@[simp] theorem State.modTenant_queues (s : State) (k : Nat) (f : Tenant → Tenant) : (s.modTenant k f).queues = s.queues := rfl
@[simp] theorem State.modTenant_doorbell (s : State) (k : Nat) (f : Tenant → Tenant) : (s.modTenant k f).doorbell = s.doorbell := rfl
@[simp] theorem State.modTenant_notifyDrops (s : State) (k : Nat) (f : Tenant → Tenant) : (s.modTenant k f).notifyDrops = s.notifyDrops := rfl
@[simp] theorem State.modTenant_links (s : State) (k : Nat) (f : Tenant → Tenant) : (s.modTenant k f).links = s.links := rfl
@[simp] theorem State.modTenant_wear (s : State) (k : Nat) (f : Tenant → Tenant) : (s.modTenant k f).wear = s.wear := rfl
@[simp] theorem State.modTenant_wearEntry (s : State) (k : Nat) (f : Tenant → Tenant) : (s.modTenant k f).wearEntry = s.wearEntry := rfl
@[simp] theorem State.modTenant_wearAt (s : State) (k : Nat) (f : Tenant → Tenant) : (s.modTenant k f).wearAt = s.wearAt := rfl
@[simp] theorem State.modTenant_reply (s : State) (k : Nat) (f : Tenant → Tenant) : (s.modTenant k f).reply = s.reply := rfl
@[simp] theorem State.modTenant_mailbox (s : State) (k : Nat) (f : Tenant → Tenant) : (s.modTenant k f).mailbox = s.mailbox := rfl
@[simp] theorem State.modTenant_house (s : State) (k : Nat) (f : Tenant → Tenant) : (s.modTenant k f).house = s.house := rfl
@[simp] theorem State.modDie_agenda (s : State) (d : Nat) (f : Die → Die) : (s.modDie d f).agenda = s.agenda := rfl
@[simp] theorem State.modDie_turn (s : State) (d : Nat) (f : Die → Die) : (s.modDie d f).turn = s.turn := rfl
@[simp] theorem State.modDie_nextCore (s : State) (d : Nat) (f : Die → Die) : (s.modDie d f).nextCore = s.nextCore := rfl
@[simp] theorem State.modDie_nextAgent (s : State) (d : Nat) (f : Die → Die) : (s.modDie d f).nextAgent = s.nextAgent := rfl
@[simp] theorem State.modDie_steps (s : State) (d : Nat) (f : Die → Die) : (s.modDie d f).steps = s.steps := rfl
@[simp] theorem State.modDie_cur (s : State) (d : Nat) (f : Die → Die) : (s.modDie d f).cur = s.cur := rfl
@[simp] theorem State.modDie_nextId (s : State) (d : Nat) (f : Die → Die) : (s.modDie d f).nextId = s.nextId := rfl
@[simp] theorem State.modDie_rects (s : State) (d : Nat) (f : Die → Die) : (s.modDie d f).rects = s.rects := rfl
@[simp] theorem State.modDie_worn (s : State) (d : Nat) (f : Die → Die) : (s.modDie d f).worn = s.worn := rfl
@[simp] theorem State.modDie_disabled (s : State) (d : Nat) (f : Die → Die) : (s.modDie d f).disabled = s.disabled := rfl
@[simp] theorem State.modDie_boxTags (s : State) (d : Nat) (f : Die → Die) : (s.modDie d f).boxTags = s.boxTags := rfl
@[simp] theorem State.modDie_edgeMasks (s : State) (d : Nat) (f : Die → Die) : (s.modDie d f).edgeMasks = s.edgeMasks := rfl
@[simp] theorem State.modDie_gates (s : State) (d : Nat) (f : Die → Die) : (s.modDie d f).gates = s.gates := rfl
@[simp] theorem State.modDie_accesses (s : State) (d : Nat) (f : Die → Die) : (s.modDie d f).accesses = s.accesses := rfl
@[simp] theorem State.modDie_walks (s : State) (d : Nat) (f : Die → Die) : (s.modDie d f).walks = s.walks := rfl
@[simp] theorem State.modDie_refused (s : State) (d : Nat) (f : Die → Die) : (s.modDie d f).refused = s.refused := rfl
@[simp] theorem State.modDie_tlb1 (s : State) (d : Nat) (f : Die → Die) : (s.modDie d f).tlb1 = s.tlb1 := rfl
@[simp] theorem State.modDie_tlb2 (s : State) (d : Nat) (f : Die → Die) : (s.modDie d f).tlb2 = s.tlb2 := rfl
@[simp] theorem State.modDie_lines (s : State) (d : Nat) (f : Die → Die) : (s.modDie d f).lines = s.lines := rfl
@[simp] theorem State.modDie_mem (s : State) (d : Nat) (f : Die → Die) : (s.modDie d f).mem = s.mem := rfl
@[simp] theorem State.modDie_peer (s : State) (d : Nat) (f : Die → Die) : (s.modDie d f).peer = s.peer := rfl
@[simp] theorem State.modDie_pages (s : State) (d : Nat) (f : Die → Die) : (s.modDie d f).pages = s.pages := rfl
@[simp] theorem State.modDie_granules (s : State) (d : Nat) (f : Die → Die) : (s.modDie d f).granules = s.granules := rfl
@[simp] theorem State.modDie_shareSets (s : State) (d : Nat) (f : Die → Die) : (s.modDie d f).shareSets = s.shareSets := rfl
@[simp] theorem State.modDie_exports (s : State) (d : Nat) (f : Die → Die) : (s.modDie d f).exports = s.exports := rfl
@[simp] theorem State.modDie_invals (s : State) (d : Nat) (f : Die → Die) : (s.modDie d f).invals = s.invals := rfl
@[simp] theorem State.modDie_migrations (s : State) (d : Nat) (f : Die → Die) : (s.modDie d f).migrations = s.migrations := rfl
@[simp] theorem State.modDie_mode (s : State) (d : Nat) (f : Die → Die) : (s.modDie d f).mode = s.mode := rfl
@[simp] theorem State.modDie_quantum (s : State) (d : Nat) (f : Die → Die) : (s.modDie d f).quantum = s.quantum := rfl
@[simp] theorem State.modDie_parts (s : State) (d : Nat) (f : Die → Die) : (s.modDie d f).parts = s.parts := rfl
@[simp] theorem State.modDie_tenants (s : State) (d : Nat) (f : Die → Die) : (s.modDie d f).tenants = s.tenants := rfl
@[simp] theorem State.modDie_nextLease (s : State) (d : Nat) (f : Die → Die) : (s.modDie d f).nextLease = s.nextLease := rfl
@[simp] theorem State.modDie_launches (s : State) (d : Nat) (f : Die → Die) : (s.modDie d f).launches = s.launches := rfl
@[simp] theorem State.modDie_stages (s : State) (d : Nat) (f : Die → Die) : (s.modDie d f).stages = s.stages := rfl
@[simp] theorem State.modDie_arbiters (s : State) (d : Nat) (f : Die → Die) : (s.modDie d f).arbiters = s.arbiters := rfl
@[simp] theorem State.modDie_primary (s : State) (d : Nat) (f : Die → Die) : (s.modDie d f).primary = s.primary := rfl
@[simp] theorem State.modDie_timeDie (s : State) (d : Nat) (f : Die → Die) : (s.modDie d f).timeDie = s.timeDie := rfl
@[simp] theorem State.modDie_store (s : State) (d : Nat) (f : Die → Die) : (s.modDie d f).store = s.store := rfl
@[simp] theorem State.modDie_staged (s : State) (d : Nat) (f : Die → Die) : (s.modDie d f).staged = s.staged := rfl
@[simp] theorem State.modDie_minVersion (s : State) (d : Nat) (f : Die → Die) : (s.modDie d f).minVersion = s.minVersion := rfl
@[simp] theorem State.modDie_calls (s : State) (d : Nat) (f : Die → Die) : (s.modDie d f).calls = s.calls := rfl
@[simp] theorem State.modDie_journal (s : State) (d : Nat) (f : Die → Die) : (s.modDie d f).journal = s.journal := rfl
@[simp] theorem State.modDie_queues (s : State) (d : Nat) (f : Die → Die) : (s.modDie d f).queues = s.queues := rfl
@[simp] theorem State.modDie_doorbell (s : State) (d : Nat) (f : Die → Die) : (s.modDie d f).doorbell = s.doorbell := rfl
@[simp] theorem State.modDie_notifyDrops (s : State) (d : Nat) (f : Die → Die) : (s.modDie d f).notifyDrops = s.notifyDrops := rfl
@[simp] theorem State.modDie_links (s : State) (d : Nat) (f : Die → Die) : (s.modDie d f).links = s.links := rfl
@[simp] theorem State.modDie_wear (s : State) (d : Nat) (f : Die → Die) : (s.modDie d f).wear = s.wear := rfl
@[simp] theorem State.modDie_wearEntry (s : State) (d : Nat) (f : Die → Die) : (s.modDie d f).wearEntry = s.wearEntry := rfl
@[simp] theorem State.modDie_wearAt (s : State) (d : Nat) (f : Die → Die) : (s.modDie d f).wearAt = s.wearAt := rfl
@[simp] theorem State.modDie_reply (s : State) (d : Nat) (f : Die → Die) : (s.modDie d f).reply = s.reply := rfl
@[simp] theorem State.modDie_mailbox (s : State) (d : Nat) (f : Die → Die) : (s.modDie d f).mailbox = s.mailbox := rfl
@[simp] theorem State.modDie_house (s : State) (d : Nat) (f : Die → Die) : (s.modDie d f).house = s.house := rfl

/-! ## Fields of a core -/

@[simp] theorem Core.setTask_last (c : Core) (k : Nat) (t : Task) : (c.setTask k t).last = c.last := rfl
@[simp] theorem Core.setTask_q (c : Core) (k : Nat) (t : Task) : (c.setTask k t).q = c.q := rfl
@[simp] theorem Core.setTask_tl (c : Core) (k : Nat) (t : Task) : (c.setTask k t).tl = c.tl := rfl
@[simp] theorem Core.setTask_feeds (c : Core) (k : Nat) (t : Task) : (c.setTask k t).feeds = c.feeds := rfl
@[simp] theorem Core.setTask_sinks (c : Core) (k : Nat) (t : Task) : (c.setTask k t).sinks = c.sinks := rfl
@[simp] theorem Core.setTask_vcs (c : Core) (k : Nat) (t : Task) : (c.setTask k t).vcs = c.vcs := rfl
@[simp] theorem Core.setTask_acReset (c : Core) (k : Nat) (t : Task) : (c.setTask k t).acReset = c.acReset := rfl
@[simp] theorem Core.setTask_engine (c : Core) (k : Nat) (t : Task) : (c.setTask k t).engine = c.engine := rfl
@[simp] theorem Core.setTask_cntsel (c : Core) (k : Nat) (t : Task) : (c.setTask k t).cntsel = c.cntsel := rfl
@[simp] theorem Core.setTask_counts (c : Core) (k : Nat) (t : Task) : (c.setTask k t).counts = c.counts := rfl
@[simp] theorem Core.setTask_barriers (c : Core) (k : Nat) (t : Task) : (c.setTask k t).barriers = c.barriers := rfl
@[simp] theorem Core.setTask_istore (c : Core) (k : Nat) (t : Task) : (c.setTask k t).istore = c.istore := rfl
@[simp] theorem Core.setTask_scratch (c : Core) (k : Nat) (t : Task) : (c.setTask k t).scratch = c.scratch := rfl
@[simp] theorem Core.setTask_sites (c : Core) (k : Nat) (t : Task) : (c.setTask k t).sites = c.sites := rfl
@[simp] theorem Core.setTask_switches (c : Core) (k : Nat) (t : Task) : (c.setTask k t).switches = c.switches := rfl
@[simp] theorem Core.modTask_last (c : Core) (k : Nat) (f : Task → Task) : (c.modTask k f).last = c.last := rfl
@[simp] theorem Core.modTask_q (c : Core) (k : Nat) (f : Task → Task) : (c.modTask k f).q = c.q := rfl
@[simp] theorem Core.modTask_tl (c : Core) (k : Nat) (f : Task → Task) : (c.modTask k f).tl = c.tl := rfl
@[simp] theorem Core.modTask_feeds (c : Core) (k : Nat) (f : Task → Task) : (c.modTask k f).feeds = c.feeds := rfl
@[simp] theorem Core.modTask_sinks (c : Core) (k : Nat) (f : Task → Task) : (c.modTask k f).sinks = c.sinks := rfl
@[simp] theorem Core.modTask_vcs (c : Core) (k : Nat) (f : Task → Task) : (c.modTask k f).vcs = c.vcs := rfl
@[simp] theorem Core.modTask_acReset (c : Core) (k : Nat) (f : Task → Task) : (c.modTask k f).acReset = c.acReset := rfl
@[simp] theorem Core.modTask_engine (c : Core) (k : Nat) (f : Task → Task) : (c.modTask k f).engine = c.engine := rfl
@[simp] theorem Core.modTask_cntsel (c : Core) (k : Nat) (f : Task → Task) : (c.modTask k f).cntsel = c.cntsel := rfl
@[simp] theorem Core.modTask_counts (c : Core) (k : Nat) (f : Task → Task) : (c.modTask k f).counts = c.counts := rfl
@[simp] theorem Core.modTask_barriers (c : Core) (k : Nat) (f : Task → Task) : (c.modTask k f).barriers = c.barriers := rfl
@[simp] theorem Core.modTask_istore (c : Core) (k : Nat) (f : Task → Task) : (c.modTask k f).istore = c.istore := rfl
@[simp] theorem Core.modTask_scratch (c : Core) (k : Nat) (f : Task → Task) : (c.modTask k f).scratch = c.scratch := rfl
@[simp] theorem Core.modTask_sites (c : Core) (k : Nat) (f : Task → Task) : (c.modTask k f).sites = c.sites := rfl
@[simp] theorem Core.modTask_switches (c : Core) (k : Nat) (f : Task → Task) : (c.modTask k f).switches = c.switches := rfl
@[simp] theorem Core.setFeed_tasks (c : Core) (k : Nat) (p : FeedPort) : (c.setFeed k p).tasks = c.tasks := rfl
@[simp] theorem Core.setFeed_last (c : Core) (k : Nat) (p : FeedPort) : (c.setFeed k p).last = c.last := rfl
@[simp] theorem Core.setFeed_q (c : Core) (k : Nat) (p : FeedPort) : (c.setFeed k p).q = c.q := rfl
@[simp] theorem Core.setFeed_tl (c : Core) (k : Nat) (p : FeedPort) : (c.setFeed k p).tl = c.tl := rfl
@[simp] theorem Core.setFeed_sinks (c : Core) (k : Nat) (p : FeedPort) : (c.setFeed k p).sinks = c.sinks := rfl
@[simp] theorem Core.setFeed_vcs (c : Core) (k : Nat) (p : FeedPort) : (c.setFeed k p).vcs = c.vcs := rfl
@[simp] theorem Core.setFeed_acReset (c : Core) (k : Nat) (p : FeedPort) : (c.setFeed k p).acReset = c.acReset := rfl
@[simp] theorem Core.setFeed_engine (c : Core) (k : Nat) (p : FeedPort) : (c.setFeed k p).engine = c.engine := rfl
@[simp] theorem Core.setFeed_cntsel (c : Core) (k : Nat) (p : FeedPort) : (c.setFeed k p).cntsel = c.cntsel := rfl
@[simp] theorem Core.setFeed_counts (c : Core) (k : Nat) (p : FeedPort) : (c.setFeed k p).counts = c.counts := rfl
@[simp] theorem Core.setFeed_barriers (c : Core) (k : Nat) (p : FeedPort) : (c.setFeed k p).barriers = c.barriers := rfl
@[simp] theorem Core.setFeed_istore (c : Core) (k : Nat) (p : FeedPort) : (c.setFeed k p).istore = c.istore := rfl
@[simp] theorem Core.setFeed_scratch (c : Core) (k : Nat) (p : FeedPort) : (c.setFeed k p).scratch = c.scratch := rfl
@[simp] theorem Core.setFeed_sites (c : Core) (k : Nat) (p : FeedPort) : (c.setFeed k p).sites = c.sites := rfl
@[simp] theorem Core.setFeed_switches (c : Core) (k : Nat) (p : FeedPort) : (c.setFeed k p).switches = c.switches := rfl
@[simp] theorem Core.setSink_tasks (c : Core) (k : Nat) (p : SinkPort) : (c.setSink k p).tasks = c.tasks := rfl
@[simp] theorem Core.setSink_last (c : Core) (k : Nat) (p : SinkPort) : (c.setSink k p).last = c.last := rfl
@[simp] theorem Core.setSink_q (c : Core) (k : Nat) (p : SinkPort) : (c.setSink k p).q = c.q := rfl
@[simp] theorem Core.setSink_tl (c : Core) (k : Nat) (p : SinkPort) : (c.setSink k p).tl = c.tl := rfl
@[simp] theorem Core.setSink_feeds (c : Core) (k : Nat) (p : SinkPort) : (c.setSink k p).feeds = c.feeds := rfl
@[simp] theorem Core.setSink_vcs (c : Core) (k : Nat) (p : SinkPort) : (c.setSink k p).vcs = c.vcs := rfl
@[simp] theorem Core.setSink_acReset (c : Core) (k : Nat) (p : SinkPort) : (c.setSink k p).acReset = c.acReset := rfl
@[simp] theorem Core.setSink_engine (c : Core) (k : Nat) (p : SinkPort) : (c.setSink k p).engine = c.engine := rfl
@[simp] theorem Core.setSink_cntsel (c : Core) (k : Nat) (p : SinkPort) : (c.setSink k p).cntsel = c.cntsel := rfl
@[simp] theorem Core.setSink_counts (c : Core) (k : Nat) (p : SinkPort) : (c.setSink k p).counts = c.counts := rfl
@[simp] theorem Core.setSink_barriers (c : Core) (k : Nat) (p : SinkPort) : (c.setSink k p).barriers = c.barriers := rfl
@[simp] theorem Core.setSink_istore (c : Core) (k : Nat) (p : SinkPort) : (c.setSink k p).istore = c.istore := rfl
@[simp] theorem Core.setSink_scratch (c : Core) (k : Nat) (p : SinkPort) : (c.setSink k p).scratch = c.scratch := rfl
@[simp] theorem Core.setSink_sites (c : Core) (k : Nat) (p : SinkPort) : (c.setSink k p).sites = c.sites := rfl
@[simp] theorem Core.setSink_switches (c : Core) (k : Nat) (p : SinkPort) : (c.setSink k p).switches = c.switches := rfl
@[simp] theorem Core.setVc_tasks (c : Core) (k : Nat) (v : Vc) : (c.setVc k v).tasks = c.tasks := rfl
@[simp] theorem Core.setVc_last (c : Core) (k : Nat) (v : Vc) : (c.setVc k v).last = c.last := rfl
@[simp] theorem Core.setVc_q (c : Core) (k : Nat) (v : Vc) : (c.setVc k v).q = c.q := rfl
@[simp] theorem Core.setVc_tl (c : Core) (k : Nat) (v : Vc) : (c.setVc k v).tl = c.tl := rfl
@[simp] theorem Core.setVc_feeds (c : Core) (k : Nat) (v : Vc) : (c.setVc k v).feeds = c.feeds := rfl
@[simp] theorem Core.setVc_sinks (c : Core) (k : Nat) (v : Vc) : (c.setVc k v).sinks = c.sinks := rfl
@[simp] theorem Core.setVc_acReset (c : Core) (k : Nat) (v : Vc) : (c.setVc k v).acReset = c.acReset := rfl
@[simp] theorem Core.setVc_engine (c : Core) (k : Nat) (v : Vc) : (c.setVc k v).engine = c.engine := rfl
@[simp] theorem Core.setVc_cntsel (c : Core) (k : Nat) (v : Vc) : (c.setVc k v).cntsel = c.cntsel := rfl
@[simp] theorem Core.setVc_counts (c : Core) (k : Nat) (v : Vc) : (c.setVc k v).counts = c.counts := rfl
@[simp] theorem Core.setVc_barriers (c : Core) (k : Nat) (v : Vc) : (c.setVc k v).barriers = c.barriers := rfl
@[simp] theorem Core.setVc_istore (c : Core) (k : Nat) (v : Vc) : (c.setVc k v).istore = c.istore := rfl
@[simp] theorem Core.setVc_scratch (c : Core) (k : Nat) (v : Vc) : (c.setVc k v).scratch = c.scratch := rfl
@[simp] theorem Core.setVc_sites (c : Core) (k : Nat) (v : Vc) : (c.setVc k v).sites = c.sites := rfl
@[simp] theorem Core.setVc_switches (c : Core) (k : Nat) (v : Vc) : (c.setVc k v).switches = c.switches := rfl
@[simp] theorem Core.setTline_tasks (c : Core) (k : Nat) (t : Timeline) : (c.setTline k t).tasks = c.tasks := rfl
@[simp] theorem Core.setTline_last (c : Core) (k : Nat) (t : Timeline) : (c.setTline k t).last = c.last := rfl
@[simp] theorem Core.setTline_q (c : Core) (k : Nat) (t : Timeline) : (c.setTline k t).q = c.q := rfl
@[simp] theorem Core.setTline_feeds (c : Core) (k : Nat) (t : Timeline) : (c.setTline k t).feeds = c.feeds := rfl
@[simp] theorem Core.setTline_sinks (c : Core) (k : Nat) (t : Timeline) : (c.setTline k t).sinks = c.sinks := rfl
@[simp] theorem Core.setTline_vcs (c : Core) (k : Nat) (t : Timeline) : (c.setTline k t).vcs = c.vcs := rfl
@[simp] theorem Core.setTline_acReset (c : Core) (k : Nat) (t : Timeline) : (c.setTline k t).acReset = c.acReset := rfl
@[simp] theorem Core.setTline_engine (c : Core) (k : Nat) (t : Timeline) : (c.setTline k t).engine = c.engine := rfl
@[simp] theorem Core.setTline_cntsel (c : Core) (k : Nat) (t : Timeline) : (c.setTline k t).cntsel = c.cntsel := rfl
@[simp] theorem Core.setTline_counts (c : Core) (k : Nat) (t : Timeline) : (c.setTline k t).counts = c.counts := rfl
@[simp] theorem Core.setTline_barriers (c : Core) (k : Nat) (t : Timeline) : (c.setTline k t).barriers = c.barriers := rfl
@[simp] theorem Core.setTline_istore (c : Core) (k : Nat) (t : Timeline) : (c.setTline k t).istore = c.istore := rfl
@[simp] theorem Core.setTline_scratch (c : Core) (k : Nat) (t : Timeline) : (c.setTline k t).scratch = c.scratch := rfl
@[simp] theorem Core.setTline_sites (c : Core) (k : Nat) (t : Timeline) : (c.setTline k t).sites = c.sites := rfl
@[simp] theorem Core.setTline_switches (c : Core) (k : Nat) (t : Timeline) : (c.setTline k t).switches = c.switches := rfl
@[simp] theorem Core.setPattern_tasks (c : Core) (k : Nat) (p : Pattern) : (c.setPattern k p).tasks = c.tasks := rfl
@[simp] theorem Core.setPattern_last (c : Core) (k : Nat) (p : Pattern) : (c.setPattern k p).last = c.last := rfl
@[simp] theorem Core.setPattern_tl (c : Core) (k : Nat) (p : Pattern) : (c.setPattern k p).tl = c.tl := rfl
@[simp] theorem Core.setPattern_feeds (c : Core) (k : Nat) (p : Pattern) : (c.setPattern k p).feeds = c.feeds := rfl
@[simp] theorem Core.setPattern_sinks (c : Core) (k : Nat) (p : Pattern) : (c.setPattern k p).sinks = c.sinks := rfl
@[simp] theorem Core.setPattern_vcs (c : Core) (k : Nat) (p : Pattern) : (c.setPattern k p).vcs = c.vcs := rfl
@[simp] theorem Core.setPattern_acReset (c : Core) (k : Nat) (p : Pattern) : (c.setPattern k p).acReset = c.acReset := rfl
@[simp] theorem Core.setPattern_engine (c : Core) (k : Nat) (p : Pattern) : (c.setPattern k p).engine = c.engine := rfl
@[simp] theorem Core.setPattern_cntsel (c : Core) (k : Nat) (p : Pattern) : (c.setPattern k p).cntsel = c.cntsel := rfl
@[simp] theorem Core.setPattern_counts (c : Core) (k : Nat) (p : Pattern) : (c.setPattern k p).counts = c.counts := rfl
@[simp] theorem Core.setPattern_barriers (c : Core) (k : Nat) (p : Pattern) : (c.setPattern k p).barriers = c.barriers := rfl
@[simp] theorem Core.setPattern_istore (c : Core) (k : Nat) (p : Pattern) : (c.setPattern k p).istore = c.istore := rfl
@[simp] theorem Core.setPattern_scratch (c : Core) (k : Nat) (p : Pattern) : (c.setPattern k p).scratch = c.scratch := rfl
@[simp] theorem Core.setPattern_sites (c : Core) (k : Nat) (p : Pattern) : (c.setPattern k p).sites = c.sites := rfl
@[simp] theorem Core.setPattern_switches (c : Core) (k : Nat) (p : Pattern) : (c.setPattern k p).switches = c.switches := rfl
@[simp] theorem Core.setBarrier_tasks (c : Core) (k : Nat) (b : Barrier) : (c.setBarrier k b).tasks = c.tasks := rfl
@[simp] theorem Core.setBarrier_last (c : Core) (k : Nat) (b : Barrier) : (c.setBarrier k b).last = c.last := rfl
@[simp] theorem Core.setBarrier_q (c : Core) (k : Nat) (b : Barrier) : (c.setBarrier k b).q = c.q := rfl
@[simp] theorem Core.setBarrier_tl (c : Core) (k : Nat) (b : Barrier) : (c.setBarrier k b).tl = c.tl := rfl
@[simp] theorem Core.setBarrier_feeds (c : Core) (k : Nat) (b : Barrier) : (c.setBarrier k b).feeds = c.feeds := rfl
@[simp] theorem Core.setBarrier_sinks (c : Core) (k : Nat) (b : Barrier) : (c.setBarrier k b).sinks = c.sinks := rfl
@[simp] theorem Core.setBarrier_vcs (c : Core) (k : Nat) (b : Barrier) : (c.setBarrier k b).vcs = c.vcs := rfl
@[simp] theorem Core.setBarrier_acReset (c : Core) (k : Nat) (b : Barrier) : (c.setBarrier k b).acReset = c.acReset := rfl
@[simp] theorem Core.setBarrier_engine (c : Core) (k : Nat) (b : Barrier) : (c.setBarrier k b).engine = c.engine := rfl
@[simp] theorem Core.setBarrier_cntsel (c : Core) (k : Nat) (b : Barrier) : (c.setBarrier k b).cntsel = c.cntsel := rfl
@[simp] theorem Core.setBarrier_counts (c : Core) (k : Nat) (b : Barrier) : (c.setBarrier k b).counts = c.counts := rfl
@[simp] theorem Core.setBarrier_istore (c : Core) (k : Nat) (b : Barrier) : (c.setBarrier k b).istore = c.istore := rfl
@[simp] theorem Core.setBarrier_scratch (c : Core) (k : Nat) (b : Barrier) : (c.setBarrier k b).scratch = c.scratch := rfl
@[simp] theorem Core.setBarrier_sites (c : Core) (k : Nat) (b : Barrier) : (c.setBarrier k b).sites = c.sites := rfl
@[simp] theorem Core.setBarrier_switches (c : Core) (k : Nat) (b : Barrier) : (c.setBarrier k b).switches = c.switches := rfl
@[simp] theorem Core.setSite_tasks (c : Core) (k : Nat) (x : Site) : (c.setSite k x).tasks = c.tasks := rfl
@[simp] theorem Core.setSite_last (c : Core) (k : Nat) (x : Site) : (c.setSite k x).last = c.last := rfl
@[simp] theorem Core.setSite_q (c : Core) (k : Nat) (x : Site) : (c.setSite k x).q = c.q := rfl
@[simp] theorem Core.setSite_tl (c : Core) (k : Nat) (x : Site) : (c.setSite k x).tl = c.tl := rfl
@[simp] theorem Core.setSite_feeds (c : Core) (k : Nat) (x : Site) : (c.setSite k x).feeds = c.feeds := rfl
@[simp] theorem Core.setSite_sinks (c : Core) (k : Nat) (x : Site) : (c.setSite k x).sinks = c.sinks := rfl
@[simp] theorem Core.setSite_vcs (c : Core) (k : Nat) (x : Site) : (c.setSite k x).vcs = c.vcs := rfl
@[simp] theorem Core.setSite_acReset (c : Core) (k : Nat) (x : Site) : (c.setSite k x).acReset = c.acReset := rfl
@[simp] theorem Core.setSite_engine (c : Core) (k : Nat) (x : Site) : (c.setSite k x).engine = c.engine := rfl
@[simp] theorem Core.setSite_cntsel (c : Core) (k : Nat) (x : Site) : (c.setSite k x).cntsel = c.cntsel := rfl
@[simp] theorem Core.setSite_counts (c : Core) (k : Nat) (x : Site) : (c.setSite k x).counts = c.counts := rfl
@[simp] theorem Core.setSite_barriers (c : Core) (k : Nat) (x : Site) : (c.setSite k x).barriers = c.barriers := rfl
@[simp] theorem Core.setSite_istore (c : Core) (k : Nat) (x : Site) : (c.setSite k x).istore = c.istore := rfl
@[simp] theorem Core.setSite_scratch (c : Core) (k : Nat) (x : Site) : (c.setSite k x).scratch = c.scratch := rfl
@[simp] theorem Core.setSite_switches (c : Core) (k : Nat) (x : Site) : (c.setSite k x).switches = c.switches := rfl

/-! ## Fields of a rectangle body -/

@[simp] theorem Body.setCore_dq (b : Body) (k : Nat) (c : Core) : (b.setCore k c).dq = b.dq := rfl
@[simp] theorem Body.setCore_nseq (b : Body) (k : Nat) (c : Core) : (b.setCore k c).nseq = b.nseq := rfl
@[simp] theorem Body.setCore_fabricStop (b : Body) (k : Nat) (c : Core) : (b.setCore k c).fabricStop = b.fabricStop := rfl
@[simp] theorem Body.setCore_serving (b : Body) (k : Nat) (c : Core) : (b.setCore k c).serving = b.serving := rfl
@[simp] theorem Body.setCore_atSup (b : Body) (k : Nat) (c : Core) : (b.setCore k c).atSup = b.atSup := rfl
@[simp] theorem Body.setCore_residue (b : Body) (k : Nat) (c : Core) : (b.setCore k c).residue = b.residue := rfl
@[simp] theorem Body.setCore_tdeleg (b : Body) (k : Nat) (c : Core) : (b.setCore k c).tdeleg = b.tdeleg := rfl
@[simp] theorem Body.setCore_mcstall (b : Body) (k : Nat) (c : Core) : (b.setCore k c).mcstall = b.mcstall := rfl
@[simp] theorem Body.setCore_snapint (b : Body) (k : Nat) (c : Core) : (b.setCore k c).snapint = b.snapint := rfl
@[simp] theorem Body.setCore_rstat (b : Body) (k : Nat) (c : Core) : (b.setCore k c).rstat = b.rstat := rfl
@[simp] theorem Body.setCore_eng (b : Body) (k : Nat) (c : Core) : (b.setCore k c).eng = b.eng := rfl
@[simp] theorem Body.setCore_net (b : Body) (k : Nat) (c : Core) : (b.setCore k c).net = b.net := rfl
@[simp] theorem Body.setCore_snaps (b : Body) (k : Nat) (c : Core) : (b.setCore k c).snaps = b.snaps := rfl
@[simp] theorem Body.modCore_dq (b : Body) (k : Nat) (f : Core → Core) : (b.modCore k f).dq = b.dq := rfl
@[simp] theorem Body.modCore_nseq (b : Body) (k : Nat) (f : Core → Core) : (b.modCore k f).nseq = b.nseq := rfl
@[simp] theorem Body.modCore_fabricStop (b : Body) (k : Nat) (f : Core → Core) : (b.modCore k f).fabricStop = b.fabricStop := rfl
@[simp] theorem Body.modCore_serving (b : Body) (k : Nat) (f : Core → Core) : (b.modCore k f).serving = b.serving := rfl
@[simp] theorem Body.modCore_atSup (b : Body) (k : Nat) (f : Core → Core) : (b.modCore k f).atSup = b.atSup := rfl
@[simp] theorem Body.modCore_residue (b : Body) (k : Nat) (f : Core → Core) : (b.modCore k f).residue = b.residue := rfl
@[simp] theorem Body.modCore_tdeleg (b : Body) (k : Nat) (f : Core → Core) : (b.modCore k f).tdeleg = b.tdeleg := rfl
@[simp] theorem Body.modCore_mcstall (b : Body) (k : Nat) (f : Core → Core) : (b.modCore k f).mcstall = b.mcstall := rfl
@[simp] theorem Body.modCore_snapint (b : Body) (k : Nat) (f : Core → Core) : (b.modCore k f).snapint = b.snapint := rfl
@[simp] theorem Body.modCore_rstat (b : Body) (k : Nat) (f : Core → Core) : (b.modCore k f).rstat = b.rstat := rfl
@[simp] theorem Body.modCore_eng (b : Body) (k : Nat) (f : Core → Core) : (b.modCore k f).eng = b.eng := rfl
@[simp] theorem Body.modCore_net (b : Body) (k : Nat) (f : Core → Core) : (b.modCore k f).net = b.net := rfl
@[simp] theorem Body.modCore_snaps (b : Body) (k : Nat) (f : Core → Core) : (b.modCore k f).snaps = b.snaps := rfl

/-! ## Fields of a task -/

@[simp] theorem Task.write_occupied (t : Task) (r : Reg) (v : Word) : (t.write r v).occupied = t.occupied := by unfold Task.write; split <;> rfl
@[simp] theorem Task.write_handler (t : Task) (r : Reg) (v : Word) : (t.write r v).handler = t.handler := by unfold Task.write; split <;> rfl
@[simp] theorem Task.write_held (t : Task) (r : Reg) (v : Word) : (t.write r v).held = t.held := by unfold Task.write; split <;> rfl
@[simp] theorem Task.write_wake (t : Task) (r : Reg) (v : Word) : (t.write r v).wake = t.wake := by unfold Task.write; split <;> rfl
@[simp] theorem Task.write_saved (t : Task) (r : Reg) (v : Word) : (t.write r v).saved = t.saved := by unfold Task.write; split <;> rfl
@[simp] theorem Task.write_preds (t : Task) (r : Reg) (v : Word) : (t.write r v).preds = t.preds := by unfold Task.write; split <;> rfl
@[simp] theorem Task.write_pc (t : Task) (r : Reg) (v : Word) : (t.write r v).pc = t.pc := by unfold Task.write; split <;> rfl
@[simp] theorem Task.write_cnt0 (t : Task) (r : Reg) (v : Word) : (t.write r v).cnt0 = t.cnt0 := by unfold Task.write; split <;> rfl
@[simp] theorem Task.write_cnt1 (t : Task) (r : Reg) (v : Word) : (t.write r v).cnt1 = t.cnt1 := by unfold Task.write; split <;> rfl
@[simp] theorem Task.write_start0 (t : Task) (r : Reg) (v : Word) : (t.write r v).start0 = t.start0 := by unfold Task.write; split <;> rfl
@[simp] theorem Task.write_end0 (t : Task) (r : Reg) (v : Word) : (t.write r v).end0 = t.end0 := by unfold Task.write; split <;> rfl
@[simp] theorem Task.write_start1 (t : Task) (r : Reg) (v : Word) : (t.write r v).start1 = t.start1 := by unfold Task.write; split <;> rfl
@[simp] theorem Task.write_end1 (t : Task) (r : Reg) (v : Word) : (t.write r v).end1 = t.end1 := by unfold Task.write; split <;> rfl
@[simp] theorem Task.write_fpmode (t : Task) (r : Reg) (v : Word) : (t.write r v).fpmode = t.fpmode := by unfold Task.write; split <;> rfl
@[simp] theorem Task.write_fpflags (t : Task) (r : Reg) (v : Word) : (t.write r v).fpflags = t.fpflags := by unfold Task.write; split <;> rfl
@[simp] theorem Task.write_tvec (t : Task) (r : Reg) (v : Word) : (t.write r v).tvec = t.tvec := by unfold Task.write; split <;> rfl
@[simp] theorem Task.write_tcause (t : Task) (r : Reg) (v : Word) : (t.write r v).tcause = t.tcause := by unfold Task.write; split <;> rfl
@[simp] theorem Task.write_tpc (t : Task) (r : Reg) (v : Word) : (t.write r v).tpc = t.tpc := by unfold Task.write; split <;> rfl
@[simp] theorem Task.write_tval (t : Task) (r : Reg) (v : Word) : (t.write r v).tval = t.tval := by unfold Task.write; split <;> rfl
@[simp] theorem Task.write_sp (t : Task) (r : Reg) (v : Word) : (t.write r v).sp = t.sp := by unfold Task.write; split <;> rfl
@[simp] theorem Task.write_ovfptr (t : Task) (r : Reg) (v : Word) : (t.write r v).ovfptr = t.ovfptr := by unfold Task.write; split <;> rfl
@[simp] theorem Task.write_ovflim (t : Task) (r : Reg) (v : Word) : (t.write r v).ovflim = t.ovflim := by unfold Task.write; split <;> rfl
@[simp] theorem Task.write_prio (t : Task) (r : Reg) (v : Word) : (t.write r v).prio = t.prio := by unfold Task.write; split <;> rfl
@[simp] theorem Task.write_intrap (t : Task) (r : Reg) (v : Word) : (t.write r v).intrap = t.intrap := by unfold Task.write; split <;> rfl
@[simp] theorem Task.write_dz (t : Task) (r : Reg) (v : Word) : (t.write r v).dz = t.dz := by unfold Task.write; split <;> rfl
@[simp] theorem Task.write_sc (t : Task) (r : Reg) (v : Word) : (t.write r v).sc = t.sc := by unfold Task.write; split <;> rfl
@[simp] theorem Task.write_kmode (t : Task) (r : Reg) (v : Word) : (t.write r v).kmode = t.kmode := by unfold Task.write; split <;> rfl
@[simp] theorem Task.write_age (t : Task) (r : Reg) (v : Word) : (t.write r v).age = t.age := by unfold Task.write; split <;> rfl
@[simp] theorem Task.write_wait (t : Task) (r : Reg) (v : Word) : (t.write r v).wait = t.wait := by unfold Task.write; split <;> rfl
@[simp] theorem Task.write_parked (t : Task) (r : Reg) (v : Word) : (t.write r v).parked = t.parked := by unfold Task.write; split <;> rfl
@[simp] theorem Task.write_yielding (t : Task) (r : Reg) (v : Word) : (t.write r v).yielding = t.yielding := by unfold Task.write; split <;> rfl
@[simp] theorem Task.write_relScope (t : Task) (r : Reg) (v : Word) : (t.write r v).relScope = t.relScope := by unfold Task.write; split <;> rfl
@[simp] theorem Task.write_relUpto (t : Task) (r : Reg) (v : Word) : (t.write r v).relUpto = t.relUpto := by unfold Task.write; split <;> rfl
@[simp] theorem Task.write_relCut (t : Task) (r : Reg) (v : Word) : (t.write r v).relCut = t.relCut := by unfold Task.write; split <;> rfl
@[simp] theorem Task.write_asked (t : Task) (r : Reg) (v : Word) : (t.write r v).asked = t.asked := by unfold Task.write; split <;> rfl
@[simp] theorem Task.write_behind (t : Task) (r : Reg) (v : Word) : (t.write r v).behind = t.behind := by unfold Task.write; split <;> rfl
@[simp] theorem Task.markEmpty_occupied (t : Task) (r : Reg) (p : Producer) : (t.markEmpty r p).occupied = t.occupied := by unfold Task.markEmpty; split <;> rfl
@[simp] theorem Task.markEmpty_handler (t : Task) (r : Reg) (p : Producer) : (t.markEmpty r p).handler = t.handler := by unfold Task.markEmpty; split <;> rfl
@[simp] theorem Task.markEmpty_held (t : Task) (r : Reg) (p : Producer) : (t.markEmpty r p).held = t.held := by unfold Task.markEmpty; split <;> rfl
@[simp] theorem Task.markEmpty_wake (t : Task) (r : Reg) (p : Producer) : (t.markEmpty r p).wake = t.wake := by unfold Task.markEmpty; split <;> rfl
@[simp] theorem Task.markEmpty_regs (t : Task) (r : Reg) (p : Producer) : (t.markEmpty r p).regs = t.regs := by unfold Task.markEmpty; split <;> rfl
@[simp] theorem Task.markEmpty_saved (t : Task) (r : Reg) (p : Producer) : (t.markEmpty r p).saved = t.saved := by unfold Task.markEmpty; split <;> rfl
@[simp] theorem Task.markEmpty_preds (t : Task) (r : Reg) (p : Producer) : (t.markEmpty r p).preds = t.preds := by unfold Task.markEmpty; split <;> rfl
@[simp] theorem Task.markEmpty_pc (t : Task) (r : Reg) (p : Producer) : (t.markEmpty r p).pc = t.pc := by unfold Task.markEmpty; split <;> rfl
@[simp] theorem Task.markEmpty_cnt0 (t : Task) (r : Reg) (p : Producer) : (t.markEmpty r p).cnt0 = t.cnt0 := by unfold Task.markEmpty; split <;> rfl
@[simp] theorem Task.markEmpty_cnt1 (t : Task) (r : Reg) (p : Producer) : (t.markEmpty r p).cnt1 = t.cnt1 := by unfold Task.markEmpty; split <;> rfl
@[simp] theorem Task.markEmpty_start0 (t : Task) (r : Reg) (p : Producer) : (t.markEmpty r p).start0 = t.start0 := by unfold Task.markEmpty; split <;> rfl
@[simp] theorem Task.markEmpty_end0 (t : Task) (r : Reg) (p : Producer) : (t.markEmpty r p).end0 = t.end0 := by unfold Task.markEmpty; split <;> rfl
@[simp] theorem Task.markEmpty_start1 (t : Task) (r : Reg) (p : Producer) : (t.markEmpty r p).start1 = t.start1 := by unfold Task.markEmpty; split <;> rfl
@[simp] theorem Task.markEmpty_end1 (t : Task) (r : Reg) (p : Producer) : (t.markEmpty r p).end1 = t.end1 := by unfold Task.markEmpty; split <;> rfl
@[simp] theorem Task.markEmpty_fpmode (t : Task) (r : Reg) (p : Producer) : (t.markEmpty r p).fpmode = t.fpmode := by unfold Task.markEmpty; split <;> rfl
@[simp] theorem Task.markEmpty_fpflags (t : Task) (r : Reg) (p : Producer) : (t.markEmpty r p).fpflags = t.fpflags := by unfold Task.markEmpty; split <;> rfl
@[simp] theorem Task.markEmpty_tvec (t : Task) (r : Reg) (p : Producer) : (t.markEmpty r p).tvec = t.tvec := by unfold Task.markEmpty; split <;> rfl
@[simp] theorem Task.markEmpty_tcause (t : Task) (r : Reg) (p : Producer) : (t.markEmpty r p).tcause = t.tcause := by unfold Task.markEmpty; split <;> rfl
@[simp] theorem Task.markEmpty_tpc (t : Task) (r : Reg) (p : Producer) : (t.markEmpty r p).tpc = t.tpc := by unfold Task.markEmpty; split <;> rfl
@[simp] theorem Task.markEmpty_tval (t : Task) (r : Reg) (p : Producer) : (t.markEmpty r p).tval = t.tval := by unfold Task.markEmpty; split <;> rfl
@[simp] theorem Task.markEmpty_sp (t : Task) (r : Reg) (p : Producer) : (t.markEmpty r p).sp = t.sp := by unfold Task.markEmpty; split <;> rfl
@[simp] theorem Task.markEmpty_ovfptr (t : Task) (r : Reg) (p : Producer) : (t.markEmpty r p).ovfptr = t.ovfptr := by unfold Task.markEmpty; split <;> rfl
@[simp] theorem Task.markEmpty_ovflim (t : Task) (r : Reg) (p : Producer) : (t.markEmpty r p).ovflim = t.ovflim := by unfold Task.markEmpty; split <;> rfl
@[simp] theorem Task.markEmpty_prio (t : Task) (r : Reg) (p : Producer) : (t.markEmpty r p).prio = t.prio := by unfold Task.markEmpty; split <;> rfl
@[simp] theorem Task.markEmpty_intrap (t : Task) (r : Reg) (p : Producer) : (t.markEmpty r p).intrap = t.intrap := by unfold Task.markEmpty; split <;> rfl
@[simp] theorem Task.markEmpty_dz (t : Task) (r : Reg) (p : Producer) : (t.markEmpty r p).dz = t.dz := by unfold Task.markEmpty; split <;> rfl
@[simp] theorem Task.markEmpty_sc (t : Task) (r : Reg) (p : Producer) : (t.markEmpty r p).sc = t.sc := by unfold Task.markEmpty; split <;> rfl
@[simp] theorem Task.markEmpty_kmode (t : Task) (r : Reg) (p : Producer) : (t.markEmpty r p).kmode = t.kmode := by unfold Task.markEmpty; split <;> rfl
@[simp] theorem Task.markEmpty_age (t : Task) (r : Reg) (p : Producer) : (t.markEmpty r p).age = t.age := by unfold Task.markEmpty; split <;> rfl
@[simp] theorem Task.markEmpty_wait (t : Task) (r : Reg) (p : Producer) : (t.markEmpty r p).wait = t.wait := by unfold Task.markEmpty; split <;> rfl
@[simp] theorem Task.markEmpty_parked (t : Task) (r : Reg) (p : Producer) : (t.markEmpty r p).parked = t.parked := by unfold Task.markEmpty; split <;> rfl
@[simp] theorem Task.markEmpty_yielding (t : Task) (r : Reg) (p : Producer) : (t.markEmpty r p).yielding = t.yielding := by unfold Task.markEmpty; split <;> rfl
@[simp] theorem Task.markEmpty_relScope (t : Task) (r : Reg) (p : Producer) : (t.markEmpty r p).relScope = t.relScope := by unfold Task.markEmpty; split <;> rfl
@[simp] theorem Task.markEmpty_relUpto (t : Task) (r : Reg) (p : Producer) : (t.markEmpty r p).relUpto = t.relUpto := by unfold Task.markEmpty; split <;> rfl
@[simp] theorem Task.markEmpty_relCut (t : Task) (r : Reg) (p : Producer) : (t.markEmpty r p).relCut = t.relCut := by unfold Task.markEmpty; split <;> rfl
@[simp] theorem Task.markEmpty_asked (t : Task) (r : Reg) (p : Producer) : (t.markEmpty r p).asked = t.asked := by unfold Task.markEmpty; split <;> rfl
@[simp] theorem Task.markEmpty_behind (t : Task) (r : Reg) (p : Producer) : (t.markEmpty r p).behind = t.behind := by unfold Task.markEmpty; split <;> rfl
@[simp] theorem Task.setPred_occupied (t : Task) (p : Fin 8) (b : Bool) : (t.setPred p b).occupied = t.occupied := by unfold Task.setPred; split <;> rfl
@[simp] theorem Task.setPred_handler (t : Task) (p : Fin 8) (b : Bool) : (t.setPred p b).handler = t.handler := by unfold Task.setPred; split <;> rfl
@[simp] theorem Task.setPred_held (t : Task) (p : Fin 8) (b : Bool) : (t.setPred p b).held = t.held := by unfold Task.setPred; split <;> rfl
@[simp] theorem Task.setPred_wake (t : Task) (p : Fin 8) (b : Bool) : (t.setPred p b).wake = t.wake := by unfold Task.setPred; split <;> rfl
@[simp] theorem Task.setPred_regs (t : Task) (p : Fin 8) (b : Bool) : (t.setPred p b).regs = t.regs := by unfold Task.setPred; split <;> rfl
@[simp] theorem Task.setPred_pres (t : Task) (p : Fin 8) (b : Bool) : (t.setPred p b).pres = t.pres := by unfold Task.setPred; split <;> rfl
@[simp] theorem Task.setPred_saved (t : Task) (p : Fin 8) (b : Bool) : (t.setPred p b).saved = t.saved := by unfold Task.setPred; split <;> rfl
@[simp] theorem Task.setPred_pc (t : Task) (p : Fin 8) (b : Bool) : (t.setPred p b).pc = t.pc := by unfold Task.setPred; split <;> rfl
@[simp] theorem Task.setPred_cnt0 (t : Task) (p : Fin 8) (b : Bool) : (t.setPred p b).cnt0 = t.cnt0 := by unfold Task.setPred; split <;> rfl
@[simp] theorem Task.setPred_cnt1 (t : Task) (p : Fin 8) (b : Bool) : (t.setPred p b).cnt1 = t.cnt1 := by unfold Task.setPred; split <;> rfl
@[simp] theorem Task.setPred_start0 (t : Task) (p : Fin 8) (b : Bool) : (t.setPred p b).start0 = t.start0 := by unfold Task.setPred; split <;> rfl
@[simp] theorem Task.setPred_end0 (t : Task) (p : Fin 8) (b : Bool) : (t.setPred p b).end0 = t.end0 := by unfold Task.setPred; split <;> rfl
@[simp] theorem Task.setPred_start1 (t : Task) (p : Fin 8) (b : Bool) : (t.setPred p b).start1 = t.start1 := by unfold Task.setPred; split <;> rfl
@[simp] theorem Task.setPred_end1 (t : Task) (p : Fin 8) (b : Bool) : (t.setPred p b).end1 = t.end1 := by unfold Task.setPred; split <;> rfl
@[simp] theorem Task.setPred_fpmode (t : Task) (p : Fin 8) (b : Bool) : (t.setPred p b).fpmode = t.fpmode := by unfold Task.setPred; split <;> rfl
@[simp] theorem Task.setPred_fpflags (t : Task) (p : Fin 8) (b : Bool) : (t.setPred p b).fpflags = t.fpflags := by unfold Task.setPred; split <;> rfl
@[simp] theorem Task.setPred_tvec (t : Task) (p : Fin 8) (b : Bool) : (t.setPred p b).tvec = t.tvec := by unfold Task.setPred; split <;> rfl
@[simp] theorem Task.setPred_tcause (t : Task) (p : Fin 8) (b : Bool) : (t.setPred p b).tcause = t.tcause := by unfold Task.setPred; split <;> rfl
@[simp] theorem Task.setPred_tpc (t : Task) (p : Fin 8) (b : Bool) : (t.setPred p b).tpc = t.tpc := by unfold Task.setPred; split <;> rfl
@[simp] theorem Task.setPred_tval (t : Task) (p : Fin 8) (b : Bool) : (t.setPred p b).tval = t.tval := by unfold Task.setPred; split <;> rfl
@[simp] theorem Task.setPred_sp (t : Task) (p : Fin 8) (b : Bool) : (t.setPred p b).sp = t.sp := by unfold Task.setPred; split <;> rfl
@[simp] theorem Task.setPred_ovfptr (t : Task) (p : Fin 8) (b : Bool) : (t.setPred p b).ovfptr = t.ovfptr := by unfold Task.setPred; split <;> rfl
@[simp] theorem Task.setPred_ovflim (t : Task) (p : Fin 8) (b : Bool) : (t.setPred p b).ovflim = t.ovflim := by unfold Task.setPred; split <;> rfl
@[simp] theorem Task.setPred_prio (t : Task) (p : Fin 8) (b : Bool) : (t.setPred p b).prio = t.prio := by unfold Task.setPred; split <;> rfl
@[simp] theorem Task.setPred_intrap (t : Task) (p : Fin 8) (b : Bool) : (t.setPred p b).intrap = t.intrap := by unfold Task.setPred; split <;> rfl
@[simp] theorem Task.setPred_dz (t : Task) (p : Fin 8) (b : Bool) : (t.setPred p b).dz = t.dz := by unfold Task.setPred; split <;> rfl
@[simp] theorem Task.setPred_sc (t : Task) (p : Fin 8) (b : Bool) : (t.setPred p b).sc = t.sc := by unfold Task.setPred; split <;> rfl
@[simp] theorem Task.setPred_kmode (t : Task) (p : Fin 8) (b : Bool) : (t.setPred p b).kmode = t.kmode := by unfold Task.setPred; split <;> rfl
@[simp] theorem Task.setPred_age (t : Task) (p : Fin 8) (b : Bool) : (t.setPred p b).age = t.age := by unfold Task.setPred; split <;> rfl
@[simp] theorem Task.setPred_wait (t : Task) (p : Fin 8) (b : Bool) : (t.setPred p b).wait = t.wait := by unfold Task.setPred; split <;> rfl
@[simp] theorem Task.setPred_parked (t : Task) (p : Fin 8) (b : Bool) : (t.setPred p b).parked = t.parked := by unfold Task.setPred; split <;> rfl
@[simp] theorem Task.setPred_yielding (t : Task) (p : Fin 8) (b : Bool) : (t.setPred p b).yielding = t.yielding := by unfold Task.setPred; split <;> rfl
@[simp] theorem Task.setPred_relScope (t : Task) (p : Fin 8) (b : Bool) : (t.setPred p b).relScope = t.relScope := by unfold Task.setPred; split <;> rfl
@[simp] theorem Task.setPred_relUpto (t : Task) (p : Fin 8) (b : Bool) : (t.setPred p b).relUpto = t.relUpto := by unfold Task.setPred; split <;> rfl
@[simp] theorem Task.setPred_relCut (t : Task) (p : Fin 8) (b : Bool) : (t.setPred p b).relCut = t.relCut := by unfold Task.setPred; split <;> rfl
@[simp] theorem Task.setPred_asked (t : Task) (p : Fin 8) (b : Bool) : (t.setPred p b).asked = t.asked := by unfold Task.setPred; split <;> rfl
@[simp] theorem Task.setPred_behind (t : Task) (p : Fin 8) (b : Bool) : (t.setPred p b).behind = t.behind := by unfold Task.setPred; split <;> rfl
@[simp] theorem Task.flags_occupied (t : Task) (f : Flags) : (t.flags f).occupied = t.occupied := rfl
@[simp] theorem Task.flags_handler (t : Task) (f : Flags) : (t.flags f).handler = t.handler := rfl
@[simp] theorem Task.flags_held (t : Task) (f : Flags) : (t.flags f).held = t.held := rfl
@[simp] theorem Task.flags_wake (t : Task) (f : Flags) : (t.flags f).wake = t.wake := rfl
@[simp] theorem Task.flags_regs (t : Task) (f : Flags) : (t.flags f).regs = t.regs := rfl
@[simp] theorem Task.flags_pres (t : Task) (f : Flags) : (t.flags f).pres = t.pres := rfl
@[simp] theorem Task.flags_saved (t : Task) (f : Flags) : (t.flags f).saved = t.saved := rfl
@[simp] theorem Task.flags_preds (t : Task) (f : Flags) : (t.flags f).preds = t.preds := rfl
@[simp] theorem Task.flags_pc (t : Task) (f : Flags) : (t.flags f).pc = t.pc := rfl
@[simp] theorem Task.flags_cnt0 (t : Task) (f : Flags) : (t.flags f).cnt0 = t.cnt0 := rfl
@[simp] theorem Task.flags_cnt1 (t : Task) (f : Flags) : (t.flags f).cnt1 = t.cnt1 := rfl
@[simp] theorem Task.flags_start0 (t : Task) (f : Flags) : (t.flags f).start0 = t.start0 := rfl
@[simp] theorem Task.flags_end0 (t : Task) (f : Flags) : (t.flags f).end0 = t.end0 := rfl
@[simp] theorem Task.flags_start1 (t : Task) (f : Flags) : (t.flags f).start1 = t.start1 := rfl
@[simp] theorem Task.flags_end1 (t : Task) (f : Flags) : (t.flags f).end1 = t.end1 := rfl
@[simp] theorem Task.flags_fpmode (t : Task) (f : Flags) : (t.flags f).fpmode = t.fpmode := rfl
@[simp] theorem Task.flags_tvec (t : Task) (f : Flags) : (t.flags f).tvec = t.tvec := rfl
@[simp] theorem Task.flags_tcause (t : Task) (f : Flags) : (t.flags f).tcause = t.tcause := rfl
@[simp] theorem Task.flags_tpc (t : Task) (f : Flags) : (t.flags f).tpc = t.tpc := rfl
@[simp] theorem Task.flags_tval (t : Task) (f : Flags) : (t.flags f).tval = t.tval := rfl
@[simp] theorem Task.flags_sp (t : Task) (f : Flags) : (t.flags f).sp = t.sp := rfl
@[simp] theorem Task.flags_ovfptr (t : Task) (f : Flags) : (t.flags f).ovfptr = t.ovfptr := rfl
@[simp] theorem Task.flags_ovflim (t : Task) (f : Flags) : (t.flags f).ovflim = t.ovflim := rfl
@[simp] theorem Task.flags_prio (t : Task) (f : Flags) : (t.flags f).prio = t.prio := rfl
@[simp] theorem Task.flags_intrap (t : Task) (f : Flags) : (t.flags f).intrap = t.intrap := rfl
@[simp] theorem Task.flags_dz (t : Task) (f : Flags) : (t.flags f).dz = t.dz := rfl
@[simp] theorem Task.flags_sc (t : Task) (f : Flags) : (t.flags f).sc = t.sc := rfl
@[simp] theorem Task.flags_kmode (t : Task) (f : Flags) : (t.flags f).kmode = t.kmode := rfl
@[simp] theorem Task.flags_age (t : Task) (f : Flags) : (t.flags f).age = t.age := rfl
@[simp] theorem Task.flags_wait (t : Task) (f : Flags) : (t.flags f).wait = t.wait := rfl
@[simp] theorem Task.flags_parked (t : Task) (f : Flags) : (t.flags f).parked = t.parked := rfl
@[simp] theorem Task.flags_yielding (t : Task) (f : Flags) : (t.flags f).yielding = t.yielding := rfl
@[simp] theorem Task.flags_relScope (t : Task) (f : Flags) : (t.flags f).relScope = t.relScope := rfl
@[simp] theorem Task.flags_relUpto (t : Task) (f : Flags) : (t.flags f).relUpto = t.relUpto := rfl
@[simp] theorem Task.flags_relCut (t : Task) (f : Flags) : (t.flags f).relCut = t.relCut := rfl
@[simp] theorem Task.flags_asked (t : Task) (f : Flags) : (t.flags f).asked = t.asked := rfl
@[simp] theorem Task.flags_behind (t : Task) (f : Flags) : (t.flags f).behind = t.behind := rfl
@[simp] theorem Task.setDz_occupied (t : Task) (b : Bool) : (t.setDz b).occupied = t.occupied := rfl
@[simp] theorem Task.setDz_handler (t : Task) (b : Bool) : (t.setDz b).handler = t.handler := rfl
@[simp] theorem Task.setDz_held (t : Task) (b : Bool) : (t.setDz b).held = t.held := rfl
@[simp] theorem Task.setDz_wake (t : Task) (b : Bool) : (t.setDz b).wake = t.wake := rfl
@[simp] theorem Task.setDz_regs (t : Task) (b : Bool) : (t.setDz b).regs = t.regs := rfl
@[simp] theorem Task.setDz_pres (t : Task) (b : Bool) : (t.setDz b).pres = t.pres := rfl
@[simp] theorem Task.setDz_saved (t : Task) (b : Bool) : (t.setDz b).saved = t.saved := rfl
@[simp] theorem Task.setDz_preds (t : Task) (b : Bool) : (t.setDz b).preds = t.preds := rfl
@[simp] theorem Task.setDz_pc (t : Task) (b : Bool) : (t.setDz b).pc = t.pc := rfl
@[simp] theorem Task.setDz_cnt0 (t : Task) (b : Bool) : (t.setDz b).cnt0 = t.cnt0 := rfl
@[simp] theorem Task.setDz_cnt1 (t : Task) (b : Bool) : (t.setDz b).cnt1 = t.cnt1 := rfl
@[simp] theorem Task.setDz_start0 (t : Task) (b : Bool) : (t.setDz b).start0 = t.start0 := rfl
@[simp] theorem Task.setDz_end0 (t : Task) (b : Bool) : (t.setDz b).end0 = t.end0 := rfl
@[simp] theorem Task.setDz_start1 (t : Task) (b : Bool) : (t.setDz b).start1 = t.start1 := rfl
@[simp] theorem Task.setDz_end1 (t : Task) (b : Bool) : (t.setDz b).end1 = t.end1 := rfl
@[simp] theorem Task.setDz_fpmode (t : Task) (b : Bool) : (t.setDz b).fpmode = t.fpmode := rfl
@[simp] theorem Task.setDz_fpflags (t : Task) (b : Bool) : (t.setDz b).fpflags = t.fpflags := rfl
@[simp] theorem Task.setDz_tvec (t : Task) (b : Bool) : (t.setDz b).tvec = t.tvec := rfl
@[simp] theorem Task.setDz_tcause (t : Task) (b : Bool) : (t.setDz b).tcause = t.tcause := rfl
@[simp] theorem Task.setDz_tpc (t : Task) (b : Bool) : (t.setDz b).tpc = t.tpc := rfl
@[simp] theorem Task.setDz_tval (t : Task) (b : Bool) : (t.setDz b).tval = t.tval := rfl
@[simp] theorem Task.setDz_sp (t : Task) (b : Bool) : (t.setDz b).sp = t.sp := rfl
@[simp] theorem Task.setDz_ovfptr (t : Task) (b : Bool) : (t.setDz b).ovfptr = t.ovfptr := rfl
@[simp] theorem Task.setDz_ovflim (t : Task) (b : Bool) : (t.setDz b).ovflim = t.ovflim := rfl
@[simp] theorem Task.setDz_prio (t : Task) (b : Bool) : (t.setDz b).prio = t.prio := rfl
@[simp] theorem Task.setDz_intrap (t : Task) (b : Bool) : (t.setDz b).intrap = t.intrap := rfl
@[simp] theorem Task.setDz_sc (t : Task) (b : Bool) : (t.setDz b).sc = t.sc := rfl
@[simp] theorem Task.setDz_kmode (t : Task) (b : Bool) : (t.setDz b).kmode = t.kmode := rfl
@[simp] theorem Task.setDz_age (t : Task) (b : Bool) : (t.setDz b).age = t.age := rfl
@[simp] theorem Task.setDz_wait (t : Task) (b : Bool) : (t.setDz b).wait = t.wait := rfl
@[simp] theorem Task.setDz_parked (t : Task) (b : Bool) : (t.setDz b).parked = t.parked := rfl
@[simp] theorem Task.setDz_yielding (t : Task) (b : Bool) : (t.setDz b).yielding = t.yielding := rfl
@[simp] theorem Task.setDz_relScope (t : Task) (b : Bool) : (t.setDz b).relScope = t.relScope := rfl
@[simp] theorem Task.setDz_relUpto (t : Task) (b : Bool) : (t.setDz b).relUpto = t.relUpto := rfl
@[simp] theorem Task.setDz_relCut (t : Task) (b : Bool) : (t.setDz b).relCut = t.relCut := rfl
@[simp] theorem Task.setDz_asked (t : Task) (b : Bool) : (t.setDz b).asked = t.asked := rfl
@[simp] theorem Task.setDz_behind (t : Task) (b : Bool) : (t.setDz b).behind = t.behind := rfl
@[simp] theorem Task.advancePhase_occupied (t : Task) : (t.advancePhase).occupied = t.occupied := rfl
@[simp] theorem Task.advancePhase_handler (t : Task) : (t.advancePhase).handler = t.handler := rfl
@[simp] theorem Task.advancePhase_held (t : Task) : (t.advancePhase).held = t.held := rfl
@[simp] theorem Task.advancePhase_wake (t : Task) : (t.advancePhase).wake = t.wake := rfl
@[simp] theorem Task.advancePhase_regs (t : Task) : (t.advancePhase).regs = t.regs := rfl
@[simp] theorem Task.advancePhase_pres (t : Task) : (t.advancePhase).pres = t.pres := rfl
@[simp] theorem Task.advancePhase_saved (t : Task) : (t.advancePhase).saved = t.saved := rfl
@[simp] theorem Task.advancePhase_preds (t : Task) : (t.advancePhase).preds = t.preds := rfl
@[simp] theorem Task.advancePhase_pc (t : Task) : (t.advancePhase).pc = t.pc := rfl
@[simp] theorem Task.advancePhase_cnt0 (t : Task) : (t.advancePhase).cnt0 = t.cnt0 := rfl
@[simp] theorem Task.advancePhase_cnt1 (t : Task) : (t.advancePhase).cnt1 = t.cnt1 := rfl
@[simp] theorem Task.advancePhase_start0 (t : Task) : (t.advancePhase).start0 = t.start0 := rfl
@[simp] theorem Task.advancePhase_end0 (t : Task) : (t.advancePhase).end0 = t.end0 := rfl
@[simp] theorem Task.advancePhase_start1 (t : Task) : (t.advancePhase).start1 = t.start1 := rfl
@[simp] theorem Task.advancePhase_end1 (t : Task) : (t.advancePhase).end1 = t.end1 := rfl
@[simp] theorem Task.advancePhase_fpflags (t : Task) : (t.advancePhase).fpflags = t.fpflags := rfl
@[simp] theorem Task.advancePhase_tvec (t : Task) : (t.advancePhase).tvec = t.tvec := rfl
@[simp] theorem Task.advancePhase_tcause (t : Task) : (t.advancePhase).tcause = t.tcause := rfl
@[simp] theorem Task.advancePhase_tpc (t : Task) : (t.advancePhase).tpc = t.tpc := rfl
@[simp] theorem Task.advancePhase_tval (t : Task) : (t.advancePhase).tval = t.tval := rfl
@[simp] theorem Task.advancePhase_sp (t : Task) : (t.advancePhase).sp = t.sp := rfl
@[simp] theorem Task.advancePhase_ovfptr (t : Task) : (t.advancePhase).ovfptr = t.ovfptr := rfl
@[simp] theorem Task.advancePhase_ovflim (t : Task) : (t.advancePhase).ovflim = t.ovflim := rfl
@[simp] theorem Task.advancePhase_prio (t : Task) : (t.advancePhase).prio = t.prio := rfl
@[simp] theorem Task.advancePhase_intrap (t : Task) : (t.advancePhase).intrap = t.intrap := rfl
@[simp] theorem Task.advancePhase_dz (t : Task) : (t.advancePhase).dz = t.dz := rfl
@[simp] theorem Task.advancePhase_sc (t : Task) : (t.advancePhase).sc = t.sc := rfl
@[simp] theorem Task.advancePhase_kmode (t : Task) : (t.advancePhase).kmode = t.kmode := rfl
@[simp] theorem Task.advancePhase_age (t : Task) : (t.advancePhase).age = t.age := rfl
@[simp] theorem Task.advancePhase_wait (t : Task) : (t.advancePhase).wait = t.wait := rfl
@[simp] theorem Task.advancePhase_parked (t : Task) : (t.advancePhase).parked = t.parked := rfl
@[simp] theorem Task.advancePhase_yielding (t : Task) : (t.advancePhase).yielding = t.yielding := rfl
@[simp] theorem Task.advancePhase_relScope (t : Task) : (t.advancePhase).relScope = t.relScope := rfl
@[simp] theorem Task.advancePhase_relUpto (t : Task) : (t.advancePhase).relUpto = t.relUpto := rfl
@[simp] theorem Task.advancePhase_relCut (t : Task) : (t.advancePhase).relCut = t.relCut := rfl
@[simp] theorem Task.advancePhase_asked (t : Task) : (t.advancePhase).asked = t.asked := rfl
@[simp] theorem Task.advancePhase_behind (t : Task) : (t.advancePhase).behind = t.behind := rfl
@[simp] theorem Task.unwait_occupied (t : Task) : (t.unwait).occupied = t.occupied := rfl
@[simp] theorem Task.unwait_handler (t : Task) : (t.unwait).handler = t.handler := rfl
@[simp] theorem Task.unwait_held (t : Task) : (t.unwait).held = t.held := rfl
@[simp] theorem Task.unwait_wake (t : Task) : (t.unwait).wake = t.wake := rfl
@[simp] theorem Task.unwait_regs (t : Task) : (t.unwait).regs = t.regs := rfl
@[simp] theorem Task.unwait_pres (t : Task) : (t.unwait).pres = t.pres := rfl
@[simp] theorem Task.unwait_saved (t : Task) : (t.unwait).saved = t.saved := rfl
@[simp] theorem Task.unwait_preds (t : Task) : (t.unwait).preds = t.preds := rfl
@[simp] theorem Task.unwait_pc (t : Task) : (t.unwait).pc = t.pc := rfl
@[simp] theorem Task.unwait_cnt0 (t : Task) : (t.unwait).cnt0 = t.cnt0 := rfl
@[simp] theorem Task.unwait_cnt1 (t : Task) : (t.unwait).cnt1 = t.cnt1 := rfl
@[simp] theorem Task.unwait_start0 (t : Task) : (t.unwait).start0 = t.start0 := rfl
@[simp] theorem Task.unwait_end0 (t : Task) : (t.unwait).end0 = t.end0 := rfl
@[simp] theorem Task.unwait_start1 (t : Task) : (t.unwait).start1 = t.start1 := rfl
@[simp] theorem Task.unwait_end1 (t : Task) : (t.unwait).end1 = t.end1 := rfl
@[simp] theorem Task.unwait_fpmode (t : Task) : (t.unwait).fpmode = t.fpmode := rfl
@[simp] theorem Task.unwait_fpflags (t : Task) : (t.unwait).fpflags = t.fpflags := rfl
@[simp] theorem Task.unwait_tvec (t : Task) : (t.unwait).tvec = t.tvec := rfl
@[simp] theorem Task.unwait_tcause (t : Task) : (t.unwait).tcause = t.tcause := rfl
@[simp] theorem Task.unwait_tpc (t : Task) : (t.unwait).tpc = t.tpc := rfl
@[simp] theorem Task.unwait_tval (t : Task) : (t.unwait).tval = t.tval := rfl
@[simp] theorem Task.unwait_sp (t : Task) : (t.unwait).sp = t.sp := rfl
@[simp] theorem Task.unwait_ovfptr (t : Task) : (t.unwait).ovfptr = t.ovfptr := rfl
@[simp] theorem Task.unwait_ovflim (t : Task) : (t.unwait).ovflim = t.ovflim := rfl
@[simp] theorem Task.unwait_prio (t : Task) : (t.unwait).prio = t.prio := rfl
@[simp] theorem Task.unwait_intrap (t : Task) : (t.unwait).intrap = t.intrap := rfl
@[simp] theorem Task.unwait_dz (t : Task) : (t.unwait).dz = t.dz := rfl
@[simp] theorem Task.unwait_sc (t : Task) : (t.unwait).sc = t.sc := rfl
@[simp] theorem Task.unwait_kmode (t : Task) : (t.unwait).kmode = t.kmode := rfl
@[simp] theorem Task.unwait_age (t : Task) : (t.unwait).age = t.age := rfl
@[simp] theorem Task.unwait_parked (t : Task) : (t.unwait).parked = t.parked := rfl
@[simp] theorem Task.unwait_yielding (t : Task) : (t.unwait).yielding = t.yielding := rfl
@[simp] theorem Task.unwait_relScope (t : Task) : (t.unwait).relScope = t.relScope := rfl
@[simp] theorem Task.unwait_relUpto (t : Task) : (t.unwait).relUpto = t.relUpto := rfl
@[simp] theorem Task.unwait_relCut (t : Task) : (t.unwait).relCut = t.relCut := rfl
@[simp] theorem Task.unwait_asked (t : Task) : (t.unwait).asked = t.asked := rfl
@[simp] theorem Task.unwait_behind (t : Task) : (t.unwait).behind = t.behind := rfl
@[simp] theorem Task.waitFor_occupied (t : Task) (w : Wait) : (t.waitFor w).occupied = t.occupied := rfl
@[simp] theorem Task.waitFor_handler (t : Task) (w : Wait) : (t.waitFor w).handler = t.handler := rfl
@[simp] theorem Task.waitFor_held (t : Task) (w : Wait) : (t.waitFor w).held = t.held := rfl
@[simp] theorem Task.waitFor_wake (t : Task) (w : Wait) : (t.waitFor w).wake = t.wake := rfl
@[simp] theorem Task.waitFor_regs (t : Task) (w : Wait) : (t.waitFor w).regs = t.regs := rfl
@[simp] theorem Task.waitFor_pres (t : Task) (w : Wait) : (t.waitFor w).pres = t.pres := rfl
@[simp] theorem Task.waitFor_saved (t : Task) (w : Wait) : (t.waitFor w).saved = t.saved := rfl
@[simp] theorem Task.waitFor_preds (t : Task) (w : Wait) : (t.waitFor w).preds = t.preds := rfl
@[simp] theorem Task.waitFor_pc (t : Task) (w : Wait) : (t.waitFor w).pc = t.pc := rfl
@[simp] theorem Task.waitFor_cnt0 (t : Task) (w : Wait) : (t.waitFor w).cnt0 = t.cnt0 := rfl
@[simp] theorem Task.waitFor_cnt1 (t : Task) (w : Wait) : (t.waitFor w).cnt1 = t.cnt1 := rfl
@[simp] theorem Task.waitFor_start0 (t : Task) (w : Wait) : (t.waitFor w).start0 = t.start0 := rfl
@[simp] theorem Task.waitFor_end0 (t : Task) (w : Wait) : (t.waitFor w).end0 = t.end0 := rfl
@[simp] theorem Task.waitFor_start1 (t : Task) (w : Wait) : (t.waitFor w).start1 = t.start1 := rfl
@[simp] theorem Task.waitFor_end1 (t : Task) (w : Wait) : (t.waitFor w).end1 = t.end1 := rfl
@[simp] theorem Task.waitFor_fpmode (t : Task) (w : Wait) : (t.waitFor w).fpmode = t.fpmode := rfl
@[simp] theorem Task.waitFor_fpflags (t : Task) (w : Wait) : (t.waitFor w).fpflags = t.fpflags := rfl
@[simp] theorem Task.waitFor_tvec (t : Task) (w : Wait) : (t.waitFor w).tvec = t.tvec := rfl
@[simp] theorem Task.waitFor_tcause (t : Task) (w : Wait) : (t.waitFor w).tcause = t.tcause := rfl
@[simp] theorem Task.waitFor_tpc (t : Task) (w : Wait) : (t.waitFor w).tpc = t.tpc := rfl
@[simp] theorem Task.waitFor_tval (t : Task) (w : Wait) : (t.waitFor w).tval = t.tval := rfl
@[simp] theorem Task.waitFor_sp (t : Task) (w : Wait) : (t.waitFor w).sp = t.sp := rfl
@[simp] theorem Task.waitFor_ovfptr (t : Task) (w : Wait) : (t.waitFor w).ovfptr = t.ovfptr := rfl
@[simp] theorem Task.waitFor_ovflim (t : Task) (w : Wait) : (t.waitFor w).ovflim = t.ovflim := rfl
@[simp] theorem Task.waitFor_prio (t : Task) (w : Wait) : (t.waitFor w).prio = t.prio := rfl
@[simp] theorem Task.waitFor_intrap (t : Task) (w : Wait) : (t.waitFor w).intrap = t.intrap := rfl
@[simp] theorem Task.waitFor_dz (t : Task) (w : Wait) : (t.waitFor w).dz = t.dz := rfl
@[simp] theorem Task.waitFor_sc (t : Task) (w : Wait) : (t.waitFor w).sc = t.sc := rfl
@[simp] theorem Task.waitFor_kmode (t : Task) (w : Wait) : (t.waitFor w).kmode = t.kmode := rfl
@[simp] theorem Task.waitFor_age (t : Task) (w : Wait) : (t.waitFor w).age = t.age := rfl
@[simp] theorem Task.waitFor_parked (t : Task) (w : Wait) : (t.waitFor w).parked = t.parked := rfl
@[simp] theorem Task.waitFor_yielding (t : Task) (w : Wait) : (t.waitFor w).yielding = t.yielding := rfl
@[simp] theorem Task.waitFor_relScope (t : Task) (w : Wait) : (t.waitFor w).relScope = t.relScope := rfl
@[simp] theorem Task.waitFor_relUpto (t : Task) (w : Wait) : (t.waitFor w).relUpto = t.relUpto := rfl
@[simp] theorem Task.waitFor_relCut (t : Task) (w : Wait) : (t.waitFor w).relCut = t.relCut := rfl
@[simp] theorem Task.waitFor_asked (t : Task) (w : Wait) : (t.waitFor w).asked = t.asked := rfl
@[simp] theorem Task.waitFor_behind (t : Task) (w : Wait) : (t.waitFor w).behind = t.behind := rfl
@[simp] theorem Task.goTo_occupied (t : Task) (pc : BitVec 12) : (t.goTo pc).occupied = t.occupied := rfl
@[simp] theorem Task.goTo_handler (t : Task) (pc : BitVec 12) : (t.goTo pc).handler = t.handler := rfl
@[simp] theorem Task.goTo_held (t : Task) (pc : BitVec 12) : (t.goTo pc).held = t.held := rfl
@[simp] theorem Task.goTo_wake (t : Task) (pc : BitVec 12) : (t.goTo pc).wake = t.wake := rfl
@[simp] theorem Task.goTo_regs (t : Task) (pc : BitVec 12) : (t.goTo pc).regs = t.regs := rfl
@[simp] theorem Task.goTo_pres (t : Task) (pc : BitVec 12) : (t.goTo pc).pres = t.pres := rfl
@[simp] theorem Task.goTo_saved (t : Task) (pc : BitVec 12) : (t.goTo pc).saved = t.saved := rfl
@[simp] theorem Task.goTo_preds (t : Task) (pc : BitVec 12) : (t.goTo pc).preds = t.preds := rfl
@[simp] theorem Task.goTo_cnt0 (t : Task) (pc : BitVec 12) : (t.goTo pc).cnt0 = t.cnt0 := rfl
@[simp] theorem Task.goTo_cnt1 (t : Task) (pc : BitVec 12) : (t.goTo pc).cnt1 = t.cnt1 := rfl
@[simp] theorem Task.goTo_start0 (t : Task) (pc : BitVec 12) : (t.goTo pc).start0 = t.start0 := rfl
@[simp] theorem Task.goTo_end0 (t : Task) (pc : BitVec 12) : (t.goTo pc).end0 = t.end0 := rfl
@[simp] theorem Task.goTo_start1 (t : Task) (pc : BitVec 12) : (t.goTo pc).start1 = t.start1 := rfl
@[simp] theorem Task.goTo_end1 (t : Task) (pc : BitVec 12) : (t.goTo pc).end1 = t.end1 := rfl
@[simp] theorem Task.goTo_fpmode (t : Task) (pc : BitVec 12) : (t.goTo pc).fpmode = t.fpmode := rfl
@[simp] theorem Task.goTo_fpflags (t : Task) (pc : BitVec 12) : (t.goTo pc).fpflags = t.fpflags := rfl
@[simp] theorem Task.goTo_tvec (t : Task) (pc : BitVec 12) : (t.goTo pc).tvec = t.tvec := rfl
@[simp] theorem Task.goTo_tcause (t : Task) (pc : BitVec 12) : (t.goTo pc).tcause = t.tcause := rfl
@[simp] theorem Task.goTo_tpc (t : Task) (pc : BitVec 12) : (t.goTo pc).tpc = t.tpc := rfl
@[simp] theorem Task.goTo_tval (t : Task) (pc : BitVec 12) : (t.goTo pc).tval = t.tval := rfl
@[simp] theorem Task.goTo_sp (t : Task) (pc : BitVec 12) : (t.goTo pc).sp = t.sp := rfl
@[simp] theorem Task.goTo_ovfptr (t : Task) (pc : BitVec 12) : (t.goTo pc).ovfptr = t.ovfptr := rfl
@[simp] theorem Task.goTo_ovflim (t : Task) (pc : BitVec 12) : (t.goTo pc).ovflim = t.ovflim := rfl
@[simp] theorem Task.goTo_prio (t : Task) (pc : BitVec 12) : (t.goTo pc).prio = t.prio := rfl
@[simp] theorem Task.goTo_intrap (t : Task) (pc : BitVec 12) : (t.goTo pc).intrap = t.intrap := rfl
@[simp] theorem Task.goTo_dz (t : Task) (pc : BitVec 12) : (t.goTo pc).dz = t.dz := rfl
@[simp] theorem Task.goTo_sc (t : Task) (pc : BitVec 12) : (t.goTo pc).sc = t.sc := rfl
@[simp] theorem Task.goTo_kmode (t : Task) (pc : BitVec 12) : (t.goTo pc).kmode = t.kmode := rfl
@[simp] theorem Task.goTo_age (t : Task) (pc : BitVec 12) : (t.goTo pc).age = t.age := rfl
@[simp] theorem Task.goTo_wait (t : Task) (pc : BitVec 12) : (t.goTo pc).wait = t.wait := rfl
@[simp] theorem Task.goTo_parked (t : Task) (pc : BitVec 12) : (t.goTo pc).parked = t.parked := rfl
@[simp] theorem Task.goTo_yielding (t : Task) (pc : BitVec 12) : (t.goTo pc).yielding = t.yielding := rfl
@[simp] theorem Task.goTo_relScope (t : Task) (pc : BitVec 12) : (t.goTo pc).relScope = t.relScope := rfl
@[simp] theorem Task.goTo_relUpto (t : Task) (pc : BitVec 12) : (t.goTo pc).relUpto = t.relUpto := rfl
@[simp] theorem Task.goTo_relCut (t : Task) (pc : BitVec 12) : (t.goTo pc).relCut = t.relCut := rfl
@[simp] theorem Task.goTo_asked (t : Task) (pc : BitVec 12) : (t.goTo pc).asked = t.asked := rfl
@[simp] theorem Task.goTo_behind (t : Task) (pc : BitVec 12) : (t.goTo pc).behind = t.behind := rfl
@[simp] theorem Task.loopEnd_occupied (t : Task) : t.loopEnd.occupied = t.occupied := by unfold Task.loopEnd; dsimp only; (repeat' split) <;> rfl
@[simp] theorem Task.loopEnd_handler (t : Task) : t.loopEnd.handler = t.handler := by unfold Task.loopEnd; dsimp only; (repeat' split) <;> rfl
@[simp] theorem Task.loopEnd_held (t : Task) : t.loopEnd.held = t.held := by unfold Task.loopEnd; dsimp only; (repeat' split) <;> rfl
@[simp] theorem Task.loopEnd_wake (t : Task) : t.loopEnd.wake = t.wake := by unfold Task.loopEnd; dsimp only; (repeat' split) <;> rfl
@[simp] theorem Task.loopEnd_regs (t : Task) : t.loopEnd.regs = t.regs := by unfold Task.loopEnd; dsimp only; (repeat' split) <;> rfl
@[simp] theorem Task.loopEnd_pres (t : Task) : t.loopEnd.pres = t.pres := by unfold Task.loopEnd; dsimp only; (repeat' split) <;> rfl
@[simp] theorem Task.loopEnd_saved (t : Task) : t.loopEnd.saved = t.saved := by unfold Task.loopEnd; dsimp only; (repeat' split) <;> rfl
@[simp] theorem Task.loopEnd_preds (t : Task) : t.loopEnd.preds = t.preds := by unfold Task.loopEnd; dsimp only; (repeat' split) <;> rfl
@[simp] theorem Task.loopEnd_start0 (t : Task) : t.loopEnd.start0 = t.start0 := by unfold Task.loopEnd; dsimp only; (repeat' split) <;> rfl
@[simp] theorem Task.loopEnd_end0 (t : Task) : t.loopEnd.end0 = t.end0 := by unfold Task.loopEnd; dsimp only; (repeat' split) <;> rfl
@[simp] theorem Task.loopEnd_start1 (t : Task) : t.loopEnd.start1 = t.start1 := by unfold Task.loopEnd; dsimp only; (repeat' split) <;> rfl
@[simp] theorem Task.loopEnd_end1 (t : Task) : t.loopEnd.end1 = t.end1 := by unfold Task.loopEnd; dsimp only; (repeat' split) <;> rfl
@[simp] theorem Task.loopEnd_fpmode (t : Task) : t.loopEnd.fpmode = t.fpmode := by unfold Task.loopEnd; dsimp only; (repeat' split) <;> rfl
@[simp] theorem Task.loopEnd_fpflags (t : Task) : t.loopEnd.fpflags = t.fpflags := by unfold Task.loopEnd; dsimp only; (repeat' split) <;> rfl
@[simp] theorem Task.loopEnd_tvec (t : Task) : t.loopEnd.tvec = t.tvec := by unfold Task.loopEnd; dsimp only; (repeat' split) <;> rfl
@[simp] theorem Task.loopEnd_tcause (t : Task) : t.loopEnd.tcause = t.tcause := by unfold Task.loopEnd; dsimp only; (repeat' split) <;> rfl
@[simp] theorem Task.loopEnd_tpc (t : Task) : t.loopEnd.tpc = t.tpc := by unfold Task.loopEnd; dsimp only; (repeat' split) <;> rfl
@[simp] theorem Task.loopEnd_tval (t : Task) : t.loopEnd.tval = t.tval := by unfold Task.loopEnd; dsimp only; (repeat' split) <;> rfl
@[simp] theorem Task.loopEnd_sp (t : Task) : t.loopEnd.sp = t.sp := by unfold Task.loopEnd; dsimp only; (repeat' split) <;> rfl
@[simp] theorem Task.loopEnd_ovfptr (t : Task) : t.loopEnd.ovfptr = t.ovfptr := by unfold Task.loopEnd; dsimp only; (repeat' split) <;> rfl
@[simp] theorem Task.loopEnd_ovflim (t : Task) : t.loopEnd.ovflim = t.ovflim := by unfold Task.loopEnd; dsimp only; (repeat' split) <;> rfl
@[simp] theorem Task.loopEnd_prio (t : Task) : t.loopEnd.prio = t.prio := by unfold Task.loopEnd; dsimp only; (repeat' split) <;> rfl
@[simp] theorem Task.loopEnd_intrap (t : Task) : t.loopEnd.intrap = t.intrap := by unfold Task.loopEnd; dsimp only; (repeat' split) <;> rfl
@[simp] theorem Task.loopEnd_dz (t : Task) : t.loopEnd.dz = t.dz := by unfold Task.loopEnd; dsimp only; (repeat' split) <;> rfl
@[simp] theorem Task.loopEnd_sc (t : Task) : t.loopEnd.sc = t.sc := by unfold Task.loopEnd; dsimp only; (repeat' split) <;> rfl
@[simp] theorem Task.loopEnd_kmode (t : Task) : t.loopEnd.kmode = t.kmode := by unfold Task.loopEnd; dsimp only; (repeat' split) <;> rfl
@[simp] theorem Task.loopEnd_age (t : Task) : t.loopEnd.age = t.age := by unfold Task.loopEnd; dsimp only; (repeat' split) <;> rfl
@[simp] theorem Task.loopEnd_wait (t : Task) : t.loopEnd.wait = t.wait := by unfold Task.loopEnd; dsimp only; (repeat' split) <;> rfl
@[simp] theorem Task.loopEnd_parked (t : Task) : t.loopEnd.parked = t.parked := by unfold Task.loopEnd; dsimp only; (repeat' split) <;> rfl
@[simp] theorem Task.loopEnd_yielding (t : Task) : t.loopEnd.yielding = t.yielding := by unfold Task.loopEnd; dsimp only; (repeat' split) <;> rfl
@[simp] theorem Task.loopEnd_relScope (t : Task) : t.loopEnd.relScope = t.relScope := by unfold Task.loopEnd; dsimp only; (repeat' split) <;> rfl
@[simp] theorem Task.loopEnd_relUpto (t : Task) : t.loopEnd.relUpto = t.relUpto := by unfold Task.loopEnd; dsimp only; (repeat' split) <;> rfl
@[simp] theorem Task.loopEnd_relCut (t : Task) : t.loopEnd.relCut = t.relCut := by unfold Task.loopEnd; dsimp only; (repeat' split) <;> rfl
@[simp] theorem Task.loopEnd_asked (t : Task) : t.loopEnd.asked = t.asked := by unfold Task.loopEnd; dsimp only; (repeat' split) <;> rfl
@[simp] theorem Task.loopEnd_behind (t : Task) : t.loopEnd.behind = t.behind := by unfold Task.loopEnd; dsimp only; (repeat' split) <;> rfl

/-! ## Cells -/

theorem State.rect_setRect (s : State) (r r' : Nat) (x : Rect) :
    (s.setRect r x).rect r' = if r' = r then x else s.rect r' := Sparse.at_put _ _ _ _ _

@[simp] theorem State.rect_setRect_same (s : State) (r : Nat) (x : Rect) : (s.setRect r x).rect r = x :=
  Sparse.at_put_same _ _ _ _

@[simp] theorem State.setRect_setRect (s : State) (r : Nat) (x y : Rect) : (s.setRect r x).setRect r y = s.setRect r y := by
  simp [State.setRect]

@[simp] theorem State.rect_modRect_same (s : State) (r : Nat) (f : Rect → Rect) : (s.modRect r f).rect r = f (s.rect r) :=
  Sparse.at_put_same _ _ _ _

theorem State.rect_modRect (s : State) (r r' : Nat) (f : Rect → Rect) :
    (s.modRect r f).rect r' = if r' = r then f (s.rect r) else s.rect r' := Sparse.at_put _ _ _ _ _

/-- Two changes of one rectangle are one change. -/
theorem State.modRect_modRect (s : State) (r : Nat) (f g : Rect → Rect) :
    (s.modRect r f).modRect r g = s.modRect r (fun x => g (f x)) := by
  simp [State.modRect]

@[simp] theorem Body.core_setCore_same (b : Body) (k : Nat) (c : Core) : (b.setCore k c).core k = c :=
  Sparse.at_put_same _ _ _ _

theorem Body.core_setCore (b : Body) (k k' : Nat) (c : Core) :
    (b.setCore k c).core k' = if k' = k then c else b.core k' := Sparse.at_put _ _ _ _ _

@[simp] theorem Body.setCore_setCore (b : Body) (k : Nat) (c d : Core) : (b.setCore k c).setCore k d = b.setCore k d := by
  simp [Body.setCore]

@[simp] theorem Core.task_setTask_same (c : Core) (k : Nat) (t : Task) : (c.setTask k t).task k = t :=
  Sparse.at_put_same _ _ _ _

theorem Core.task_setTask (c : Core) (k k' : Nat) (t : Task) :
    (c.setTask k t).task k' = if k' = k then t else c.task k' := Sparse.at_put _ _ _ _ _

@[simp] theorem Core.setTask_setTask (c : Core) (k : Nat) (t u : Task) : (c.setTask k t).setTask k u = c.setTask k u := by
  simp [Core.setTask]

@[simp] theorem State.core_setCore_same (s : State) (c : CoreRef) (x : Core) : (s.setCore c x).core c = x := by
  simp [State.core, State.setCore, State.modBody]

theorem State.core_setCore (s : State) (c c' : CoreRef) (x : Core) :
    (s.setCore c x).core c' = if c' = c then x else s.core c' := by
  obtain ⟨r, k⟩ := c
  obtain ⟨r', k'⟩ := c'
  by_cases h : r' = r
  · subst h
    simp [State.core, State.setCore, State.modBody, Body.core_setCore, CoreRef.mk.injEq]
  · simp [State.core, State.setCore, State.modBody, State.rect_modRect, h, CoreRef.mk.injEq]

@[simp] theorem State.setCore_setCore (s : State) (c : CoreRef) (x y : Core) :
    (s.setCore c x).setCore c y = s.setCore c y := by
  simp [State.setCore, State.modBody, State.modRect_modRect]

@[simp] theorem State.core_modCore_same (s : State) (c : CoreRef) (f : Core → Core) : (s.modCore c f).core c = f (s.core c) := by
  simp [State.modCore]

theorem State.core_modCore (s : State) (c c' : CoreRef) (f : Core → Core) :
    (s.modCore c f).core c' = if c' = c then f (s.core c) else s.core c' := State.core_setCore s c c' _

/-- Two changes of one core are one change. -/
theorem State.modCore_modCore (s : State) (c : CoreRef) (f g : Core → Core) :
    (s.modCore c f).modCore c g = s.modCore c (fun x => g (f x)) := by
  simp [State.modCore]

@[simp] theorem State.task_setTask_same (s : State) (t : TaskRef) (x : Task) : (s.setTask t x).task t = x := by
  simp [State.task, State.setTask]

theorem State.task_setTask (s : State) (t t' : TaskRef) (x : Task) :
    (s.setTask t x).task t' = if t' = t then x else s.task t' := by
  obtain ⟨r, c, k⟩ := t
  obtain ⟨r', c', k'⟩ := t'
  simp only [State.task, State.setTask, State.core_modCore, TaskRef.coreRef, CoreRef.mk.injEq, TaskRef.mk.injEq]
  by_cases h : r' = r ∧ c' = c
  · obtain ⟨rfl, rfl⟩ := h
    simp [Core.task_setTask]
  · rw [if_neg h, if_neg (fun e => h ⟨e.1, e.2.1⟩)]

@[simp] theorem State.task_modTask_same (s : State) (t : TaskRef) (f : Task → Task) : (s.modTask t f).task t = f (s.task t) := by
  simp [State.modTask]

theorem State.task_modTask (s : State) (t t' : TaskRef) (f : Task → Task) :
    (s.modTask t f).task t' = if t' = t then f (s.task t) else s.task t' := State.task_setTask s t t' _

/-- Two changes of one task are one change. -/
theorem State.modTask_modTask (s : State) (t : TaskRef) (f g : Task → Task) :
    (s.modTask t f).modTask t g = s.modTask t (fun x => g (f x)) := by
  show (s.modTask t f).setTask t (g ((s.modTask t f).task t)) = _
  rw [State.task_modTask_same]
  simp [State.modTask, State.setTask, State.modCore_modCore]

@[simp] theorem State.me_modTask (s : State) (f : Task → Task) : (s.modTask s.cur f).me = f s.me := by
  simp [State.me]

/-- A change of a task that changes nothing. -/
theorem State.me_def (s : State) : s.me = s.task s.cur := rfl

/-! ## Rectangles under changes of their bodies -/

@[simp] theorem State.rect_modBody_phase (s : State) (r r' : Nat) (f : Body → Body) : ((s.modBody r f).rect r').phase = (s.rect r').phase := by simp only [State.modBody, State.rect_modRect]; split <;> simp_all
@[simp] theorem State.rect_modBody_part (s : State) (r r' : Nat) (f : Body → Body) : ((s.modBody r f).rect r').part = (s.rect r').part := by simp only [State.modBody, State.rect_modRect]; split <;> simp_all
@[simp] theorem State.rect_modBody_tag (s : State) (r r' : Nat) (f : Body → Body) : ((s.modBody r f).rect r').tag = (s.rect r').tag := by simp only [State.modBody, State.rect_modRect]; split <;> simp_all
@[simp] theorem State.rect_modBody_w (s : State) (r r' : Nat) (f : Body → Body) : ((s.modBody r f).rect r').w = (s.rect r').w := by simp only [State.modBody, State.rect_modRect]; split <;> simp_all
@[simp] theorem State.rect_modBody_h (s : State) (r r' : Nat) (f : Body → Body) : ((s.modBody r f).rect r').h = (s.rect r').h := by simp only [State.modBody, State.rect_modRect]; split <;> simp_all
@[simp] theorem State.rect_modBody_px (s : State) (r r' : Nat) (f : Body → Body) : ((s.modBody r f).rect r').px = (s.rect r').px := by simp only [State.modBody, State.rect_modRect]; split <;> simp_all
@[simp] theorem State.rect_modBody_py (s : State) (r r' : Nat) (f : Body → Body) : ((s.modBody r f).rect r').py = (s.rect r').py := by simp only [State.modBody, State.rect_modRect]; split <;> simp_all
@[simp] theorem State.rect_modBody_image (s : State) (r r' : Nat) (f : Body → Body) : ((s.modBody r f).rect r').image = (s.rect r').image := by simp only [State.modBody, State.rect_modRect]; split <;> simp_all
@[simp] theorem State.rect_modBody_handlerDef (s : State) (r r' : Nat) (f : Body → Body) : ((s.modBody r f).rect r').handlerDef = (s.rect r').handlerDef := by simp only [State.modBody, State.rect_modRect]; split <;> simp_all
@[simp] theorem State.rect_modBody_spill (s : State) (r r' : Nat) (f : Body → Body) : ((s.modBody r f).rect r').spill = (s.rect r').spill := by simp only [State.modBody, State.rect_modRect]; split <;> simp_all
@[simp] theorem State.rect_modBody_frames (s : State) (r r' : Nat) (f : Body → Body) : ((s.modBody r f).rect r').frames = (s.rect r').frames := by simp only [State.modBody, State.rect_modRect]; split <;> simp_all
@[simp] theorem State.rect_modBody_lrec (s : State) (r r' : Nat) (f : Body → Body) : ((s.modBody r f).rect r').lrec = (s.rect r').lrec := by simp only [State.modBody, State.rect_modRect]; split <;> simp_all
@[simp] theorem State.rect_modBody_laddr (s : State) (r r' : Nat) (f : Body → Body) : ((s.modBody r f).rect r').laddr = (s.rect r').laddr := by simp only [State.modBody, State.rect_modRect]; split <;> simp_all
@[simp] theorem State.rect_modBody_src (s : State) (r r' : Nat) (f : Body → Body) : ((s.modBody r f).rect r').src = (s.rect r').src := by simp only [State.modBody, State.rect_modRect]; split <;> simp_all
@[simp] theorem State.rect_modBody_launch (s : State) (r r' : Nat) (f : Body → Body) : ((s.modBody r f).rect r').launch = (s.rect r').launch := by simp only [State.modBody, State.rect_modRect]; split <;> simp_all
@[simp] theorem State.rect_modBody_stage (s : State) (r r' : Nat) (f : Body → Body) : ((s.modBody r f).rect r').stage = (s.rect r').stage := by simp only [State.modBody, State.rect_modRect]; split <;> simp_all
@[simp] theorem State.rect_modBody_retiring (s : State) (r r' : Nat) (f : Body → Body) : ((s.modBody r f).rect r').retiring = (s.rect r').retiring := by simp only [State.modBody, State.rect_modRect]; split <;> simp_all
@[simp] theorem State.rect_modBody_moving (s : State) (r r' : Nat) (f : Body → Body) : ((s.modBody r f).rect r').moving = (s.rect r').moving := by simp only [State.modBody, State.rect_modRect]; split <;> simp_all
@[simp] theorem State.rect_modBody_clock (s : State) (r r' : Nat) (f : Body → Body) : ((s.modBody r f).rect r').clock = (s.rect r').clock := by simp only [State.modBody, State.rect_modRect]; split <;> simp_all
@[simp] theorem State.rect_modBody_frozen (s : State) (r r' : Nat) (f : Body → Body) : ((s.modBody r f).rect r').frozen = (s.rect r').frozen := by simp only [State.modBody, State.rect_modRect]; split <;> simp_all
@[simp] theorem State.rect_modBody_bound (s : State) (r r' : Nat) (f : Body → Body) : ((s.modBody r f).rect r').bound = (s.rect r').bound := by simp only [State.modBody, State.rect_modRect]; split <;> simp_all
@[simp] theorem State.rect_modBody_capsig (s : State) (r r' : Nat) (f : Body → Body) : ((s.modBody r f).rect r').capsig = (s.rect r').capsig := by simp only [State.modBody, State.rect_modRect]; split <;> simp_all
@[simp] theorem State.rect_modBody_announced (s : State) (r r' : Nat) (f : Body → Body) : ((s.modBody r f).rect r').announced = (s.rect r').announced := by simp only [State.modBody, State.rect_modRect]; split <;> simp_all
@[simp] theorem State.rect_modBody_reload (s : State) (r r' : Nat) (f : Body → Body) : ((s.modBody r f).rect r').reload = (s.rect r').reload := by simp only [State.modBody, State.rect_modRect]; split <;> simp_all
@[simp] theorem State.rect_modBody_started (s : State) (r r' : Nat) (f : Body → Body) : ((s.modBody r f).rect r').started = (s.rect r').started := by simp only [State.modBody, State.rect_modRect]; split <;> simp_all
@[simp] theorem State.rect_modBody_complete (s : State) (r r' : Nat) (f : Body → Body) : ((s.modBody r f).rect r').complete = (s.rect r').complete := by simp only [State.modBody, State.rect_modRect]; split <;> simp_all
@[simp] theorem State.rect_modBody_requested (s : State) (r r' : Nat) (f : Body → Body) : ((s.modBody r f).rect r').requested = (s.rect r').requested := by simp only [State.modBody, State.rect_modRect]; split <;> simp_all
@[simp] theorem State.rect_modBody_prog (s : State) (r r' : Nat) (f : Body → Body) : ((s.modBody r f).rect r').prog = (s.rect r').prog := by simp only [State.modBody, State.rect_modRect]; split <;> simp_all
@[simp] theorem State.rect_modBody_record (s : State) (r r' : Nat) (f : Body → Body) : ((s.modBody r f).rect r').record = (s.rect r').record := by simp only [State.modBody, State.rect_modRect]; split <;> simp_all
@[simp] theorem State.rect_modBody_repeats (s : State) (r r' : Nat) (f : Body → Body) : ((s.modBody r f).rect r').repeats = (s.rect r').repeats := by simp only [State.modBody, State.rect_modRect]; split <;> simp_all
@[simp] theorem State.rect_modBody_rollbacks (s : State) (r r' : Nat) (f : Body → Body) : ((s.modBody r f).rect r').rollbacks = (s.rect r').rollbacks := by simp only [State.modBody, State.rect_modRect]; split <;> simp_all
@[simp] theorem State.rect_modBody_ending (s : State) (r r' : Nat) (f : Body → Body) : ((s.modBody r f).rect r').ending = (s.rect r').ending := by simp only [State.modBody, State.rect_modRect]; split <;> simp_all
@[simp] theorem State.rect_modBody_halting (s : State) (r r' : Nat) (f : Body → Body) : ((s.modBody r f).rect r').halting = (s.rect r').halting := by simp only [State.modBody, State.rect_modRect]; split <;> simp_all
@[simp] theorem State.rect_modBody_undo (s : State) (r r' : Nat) (f : Body → Body) : ((s.modBody r f).rect r').undo = (s.rect r').undo := by simp only [State.modBody, State.rect_modRect]; split <;> simp_all
@[simp] theorem State.rect_modBody_remote (s : State) (r r' : Nat) (f : Body → Body) : ((s.modBody r f).rect r').remote = (s.rect r').remote := by simp only [State.modBody, State.rect_modRect]; split <;> simp_all
@[simp] theorem State.rect_modBody_soft (s : State) (r r' : Nat) (f : Body → Body) : ((s.modBody r f).rect r').soft = (s.rect r').soft := by simp only [State.modBody, State.rect_modRect]; split <;> simp_all
@[simp] theorem State.rect_modBody_verdict (s : State) (r r' : Nat) (f : Body → Body) : ((s.modBody r f).rect r').verdict = (s.rect r').verdict := by simp only [State.modBody, State.rect_modRect]; split <;> simp_all
@[simp] theorem State.rect_setCore_phase (s : State) (c : CoreRef) (r' : Nat) (x : Core) : ((s.setCore c x).rect r').phase = (s.rect r').phase := State.rect_modBody_phase _ _ _ _
@[simp] theorem State.rect_setCore_part (s : State) (c : CoreRef) (r' : Nat) (x : Core) : ((s.setCore c x).rect r').part = (s.rect r').part := State.rect_modBody_part _ _ _ _
@[simp] theorem State.rect_setCore_tag (s : State) (c : CoreRef) (r' : Nat) (x : Core) : ((s.setCore c x).rect r').tag = (s.rect r').tag := State.rect_modBody_tag _ _ _ _
@[simp] theorem State.rect_setCore_w (s : State) (c : CoreRef) (r' : Nat) (x : Core) : ((s.setCore c x).rect r').w = (s.rect r').w := State.rect_modBody_w _ _ _ _
@[simp] theorem State.rect_setCore_h (s : State) (c : CoreRef) (r' : Nat) (x : Core) : ((s.setCore c x).rect r').h = (s.rect r').h := State.rect_modBody_h _ _ _ _
@[simp] theorem State.rect_setCore_px (s : State) (c : CoreRef) (r' : Nat) (x : Core) : ((s.setCore c x).rect r').px = (s.rect r').px := State.rect_modBody_px _ _ _ _
@[simp] theorem State.rect_setCore_py (s : State) (c : CoreRef) (r' : Nat) (x : Core) : ((s.setCore c x).rect r').py = (s.rect r').py := State.rect_modBody_py _ _ _ _
@[simp] theorem State.rect_setCore_image (s : State) (c : CoreRef) (r' : Nat) (x : Core) : ((s.setCore c x).rect r').image = (s.rect r').image := State.rect_modBody_image _ _ _ _
@[simp] theorem State.rect_setCore_handlerDef (s : State) (c : CoreRef) (r' : Nat) (x : Core) : ((s.setCore c x).rect r').handlerDef = (s.rect r').handlerDef := State.rect_modBody_handlerDef _ _ _ _
@[simp] theorem State.rect_setCore_spill (s : State) (c : CoreRef) (r' : Nat) (x : Core) : ((s.setCore c x).rect r').spill = (s.rect r').spill := State.rect_modBody_spill _ _ _ _
@[simp] theorem State.rect_setCore_frames (s : State) (c : CoreRef) (r' : Nat) (x : Core) : ((s.setCore c x).rect r').frames = (s.rect r').frames := State.rect_modBody_frames _ _ _ _
@[simp] theorem State.rect_setCore_lrec (s : State) (c : CoreRef) (r' : Nat) (x : Core) : ((s.setCore c x).rect r').lrec = (s.rect r').lrec := State.rect_modBody_lrec _ _ _ _
@[simp] theorem State.rect_setCore_laddr (s : State) (c : CoreRef) (r' : Nat) (x : Core) : ((s.setCore c x).rect r').laddr = (s.rect r').laddr := State.rect_modBody_laddr _ _ _ _
@[simp] theorem State.rect_setCore_src (s : State) (c : CoreRef) (r' : Nat) (x : Core) : ((s.setCore c x).rect r').src = (s.rect r').src := State.rect_modBody_src _ _ _ _
@[simp] theorem State.rect_setCore_launch (s : State) (c : CoreRef) (r' : Nat) (x : Core) : ((s.setCore c x).rect r').launch = (s.rect r').launch := State.rect_modBody_launch _ _ _ _
@[simp] theorem State.rect_setCore_stage (s : State) (c : CoreRef) (r' : Nat) (x : Core) : ((s.setCore c x).rect r').stage = (s.rect r').stage := State.rect_modBody_stage _ _ _ _
@[simp] theorem State.rect_setCore_retiring (s : State) (c : CoreRef) (r' : Nat) (x : Core) : ((s.setCore c x).rect r').retiring = (s.rect r').retiring := State.rect_modBody_retiring _ _ _ _
@[simp] theorem State.rect_setCore_moving (s : State) (c : CoreRef) (r' : Nat) (x : Core) : ((s.setCore c x).rect r').moving = (s.rect r').moving := State.rect_modBody_moving _ _ _ _
@[simp] theorem State.rect_setCore_clock (s : State) (c : CoreRef) (r' : Nat) (x : Core) : ((s.setCore c x).rect r').clock = (s.rect r').clock := State.rect_modBody_clock _ _ _ _
@[simp] theorem State.rect_setCore_frozen (s : State) (c : CoreRef) (r' : Nat) (x : Core) : ((s.setCore c x).rect r').frozen = (s.rect r').frozen := State.rect_modBody_frozen _ _ _ _
@[simp] theorem State.rect_setCore_bound (s : State) (c : CoreRef) (r' : Nat) (x : Core) : ((s.setCore c x).rect r').bound = (s.rect r').bound := State.rect_modBody_bound _ _ _ _
@[simp] theorem State.rect_setCore_capsig (s : State) (c : CoreRef) (r' : Nat) (x : Core) : ((s.setCore c x).rect r').capsig = (s.rect r').capsig := State.rect_modBody_capsig _ _ _ _
@[simp] theorem State.rect_setCore_announced (s : State) (c : CoreRef) (r' : Nat) (x : Core) : ((s.setCore c x).rect r').announced = (s.rect r').announced := State.rect_modBody_announced _ _ _ _
@[simp] theorem State.rect_setCore_reload (s : State) (c : CoreRef) (r' : Nat) (x : Core) : ((s.setCore c x).rect r').reload = (s.rect r').reload := State.rect_modBody_reload _ _ _ _
@[simp] theorem State.rect_setCore_started (s : State) (c : CoreRef) (r' : Nat) (x : Core) : ((s.setCore c x).rect r').started = (s.rect r').started := State.rect_modBody_started _ _ _ _
@[simp] theorem State.rect_setCore_complete (s : State) (c : CoreRef) (r' : Nat) (x : Core) : ((s.setCore c x).rect r').complete = (s.rect r').complete := State.rect_modBody_complete _ _ _ _
@[simp] theorem State.rect_setCore_requested (s : State) (c : CoreRef) (r' : Nat) (x : Core) : ((s.setCore c x).rect r').requested = (s.rect r').requested := State.rect_modBody_requested _ _ _ _
@[simp] theorem State.rect_setCore_prog (s : State) (c : CoreRef) (r' : Nat) (x : Core) : ((s.setCore c x).rect r').prog = (s.rect r').prog := State.rect_modBody_prog _ _ _ _
@[simp] theorem State.rect_setCore_record (s : State) (c : CoreRef) (r' : Nat) (x : Core) : ((s.setCore c x).rect r').record = (s.rect r').record := State.rect_modBody_record _ _ _ _
@[simp] theorem State.rect_setCore_repeats (s : State) (c : CoreRef) (r' : Nat) (x : Core) : ((s.setCore c x).rect r').repeats = (s.rect r').repeats := State.rect_modBody_repeats _ _ _ _
@[simp] theorem State.rect_setCore_rollbacks (s : State) (c : CoreRef) (r' : Nat) (x : Core) : ((s.setCore c x).rect r').rollbacks = (s.rect r').rollbacks := State.rect_modBody_rollbacks _ _ _ _
@[simp] theorem State.rect_setCore_ending (s : State) (c : CoreRef) (r' : Nat) (x : Core) : ((s.setCore c x).rect r').ending = (s.rect r').ending := State.rect_modBody_ending _ _ _ _
@[simp] theorem State.rect_setCore_halting (s : State) (c : CoreRef) (r' : Nat) (x : Core) : ((s.setCore c x).rect r').halting = (s.rect r').halting := State.rect_modBody_halting _ _ _ _
@[simp] theorem State.rect_setCore_undo (s : State) (c : CoreRef) (r' : Nat) (x : Core) : ((s.setCore c x).rect r').undo = (s.rect r').undo := State.rect_modBody_undo _ _ _ _
@[simp] theorem State.rect_setCore_remote (s : State) (c : CoreRef) (r' : Nat) (x : Core) : ((s.setCore c x).rect r').remote = (s.rect r').remote := State.rect_modBody_remote _ _ _ _
@[simp] theorem State.rect_setCore_soft (s : State) (c : CoreRef) (r' : Nat) (x : Core) : ((s.setCore c x).rect r').soft = (s.rect r').soft := State.rect_modBody_soft _ _ _ _
@[simp] theorem State.rect_setCore_verdict (s : State) (c : CoreRef) (r' : Nat) (x : Core) : ((s.setCore c x).rect r').verdict = (s.rect r').verdict := State.rect_modBody_verdict _ _ _ _
@[simp] theorem State.rect_modCore_phase (s : State) (c : CoreRef) (r' : Nat) (f : Core → Core) : ((s.modCore c f).rect r').phase = (s.rect r').phase := State.rect_setCore_phase _ _ _ _
@[simp] theorem State.rect_modCore_part (s : State) (c : CoreRef) (r' : Nat) (f : Core → Core) : ((s.modCore c f).rect r').part = (s.rect r').part := State.rect_setCore_part _ _ _ _
@[simp] theorem State.rect_modCore_tag (s : State) (c : CoreRef) (r' : Nat) (f : Core → Core) : ((s.modCore c f).rect r').tag = (s.rect r').tag := State.rect_setCore_tag _ _ _ _
@[simp] theorem State.rect_modCore_w (s : State) (c : CoreRef) (r' : Nat) (f : Core → Core) : ((s.modCore c f).rect r').w = (s.rect r').w := State.rect_setCore_w _ _ _ _
@[simp] theorem State.rect_modCore_h (s : State) (c : CoreRef) (r' : Nat) (f : Core → Core) : ((s.modCore c f).rect r').h = (s.rect r').h := State.rect_setCore_h _ _ _ _
@[simp] theorem State.rect_modCore_px (s : State) (c : CoreRef) (r' : Nat) (f : Core → Core) : ((s.modCore c f).rect r').px = (s.rect r').px := State.rect_setCore_px _ _ _ _
@[simp] theorem State.rect_modCore_py (s : State) (c : CoreRef) (r' : Nat) (f : Core → Core) : ((s.modCore c f).rect r').py = (s.rect r').py := State.rect_setCore_py _ _ _ _
@[simp] theorem State.rect_modCore_image (s : State) (c : CoreRef) (r' : Nat) (f : Core → Core) : ((s.modCore c f).rect r').image = (s.rect r').image := State.rect_setCore_image _ _ _ _
@[simp] theorem State.rect_modCore_handlerDef (s : State) (c : CoreRef) (r' : Nat) (f : Core → Core) : ((s.modCore c f).rect r').handlerDef = (s.rect r').handlerDef := State.rect_setCore_handlerDef _ _ _ _
@[simp] theorem State.rect_modCore_spill (s : State) (c : CoreRef) (r' : Nat) (f : Core → Core) : ((s.modCore c f).rect r').spill = (s.rect r').spill := State.rect_setCore_spill _ _ _ _
@[simp] theorem State.rect_modCore_frames (s : State) (c : CoreRef) (r' : Nat) (f : Core → Core) : ((s.modCore c f).rect r').frames = (s.rect r').frames := State.rect_setCore_frames _ _ _ _
@[simp] theorem State.rect_modCore_lrec (s : State) (c : CoreRef) (r' : Nat) (f : Core → Core) : ((s.modCore c f).rect r').lrec = (s.rect r').lrec := State.rect_setCore_lrec _ _ _ _
@[simp] theorem State.rect_modCore_laddr (s : State) (c : CoreRef) (r' : Nat) (f : Core → Core) : ((s.modCore c f).rect r').laddr = (s.rect r').laddr := State.rect_setCore_laddr _ _ _ _
@[simp] theorem State.rect_modCore_src (s : State) (c : CoreRef) (r' : Nat) (f : Core → Core) : ((s.modCore c f).rect r').src = (s.rect r').src := State.rect_setCore_src _ _ _ _
@[simp] theorem State.rect_modCore_launch (s : State) (c : CoreRef) (r' : Nat) (f : Core → Core) : ((s.modCore c f).rect r').launch = (s.rect r').launch := State.rect_setCore_launch _ _ _ _
@[simp] theorem State.rect_modCore_stage (s : State) (c : CoreRef) (r' : Nat) (f : Core → Core) : ((s.modCore c f).rect r').stage = (s.rect r').stage := State.rect_setCore_stage _ _ _ _
@[simp] theorem State.rect_modCore_retiring (s : State) (c : CoreRef) (r' : Nat) (f : Core → Core) : ((s.modCore c f).rect r').retiring = (s.rect r').retiring := State.rect_setCore_retiring _ _ _ _
@[simp] theorem State.rect_modCore_moving (s : State) (c : CoreRef) (r' : Nat) (f : Core → Core) : ((s.modCore c f).rect r').moving = (s.rect r').moving := State.rect_setCore_moving _ _ _ _
@[simp] theorem State.rect_modCore_clock (s : State) (c : CoreRef) (r' : Nat) (f : Core → Core) : ((s.modCore c f).rect r').clock = (s.rect r').clock := State.rect_setCore_clock _ _ _ _
@[simp] theorem State.rect_modCore_frozen (s : State) (c : CoreRef) (r' : Nat) (f : Core → Core) : ((s.modCore c f).rect r').frozen = (s.rect r').frozen := State.rect_setCore_frozen _ _ _ _
@[simp] theorem State.rect_modCore_bound (s : State) (c : CoreRef) (r' : Nat) (f : Core → Core) : ((s.modCore c f).rect r').bound = (s.rect r').bound := State.rect_setCore_bound _ _ _ _
@[simp] theorem State.rect_modCore_capsig (s : State) (c : CoreRef) (r' : Nat) (f : Core → Core) : ((s.modCore c f).rect r').capsig = (s.rect r').capsig := State.rect_setCore_capsig _ _ _ _
@[simp] theorem State.rect_modCore_announced (s : State) (c : CoreRef) (r' : Nat) (f : Core → Core) : ((s.modCore c f).rect r').announced = (s.rect r').announced := State.rect_setCore_announced _ _ _ _
@[simp] theorem State.rect_modCore_reload (s : State) (c : CoreRef) (r' : Nat) (f : Core → Core) : ((s.modCore c f).rect r').reload = (s.rect r').reload := State.rect_setCore_reload _ _ _ _
@[simp] theorem State.rect_modCore_started (s : State) (c : CoreRef) (r' : Nat) (f : Core → Core) : ((s.modCore c f).rect r').started = (s.rect r').started := State.rect_setCore_started _ _ _ _
@[simp] theorem State.rect_modCore_complete (s : State) (c : CoreRef) (r' : Nat) (f : Core → Core) : ((s.modCore c f).rect r').complete = (s.rect r').complete := State.rect_setCore_complete _ _ _ _
@[simp] theorem State.rect_modCore_requested (s : State) (c : CoreRef) (r' : Nat) (f : Core → Core) : ((s.modCore c f).rect r').requested = (s.rect r').requested := State.rect_setCore_requested _ _ _ _
@[simp] theorem State.rect_modCore_prog (s : State) (c : CoreRef) (r' : Nat) (f : Core → Core) : ((s.modCore c f).rect r').prog = (s.rect r').prog := State.rect_setCore_prog _ _ _ _
@[simp] theorem State.rect_modCore_record (s : State) (c : CoreRef) (r' : Nat) (f : Core → Core) : ((s.modCore c f).rect r').record = (s.rect r').record := State.rect_setCore_record _ _ _ _
@[simp] theorem State.rect_modCore_repeats (s : State) (c : CoreRef) (r' : Nat) (f : Core → Core) : ((s.modCore c f).rect r').repeats = (s.rect r').repeats := State.rect_setCore_repeats _ _ _ _
@[simp] theorem State.rect_modCore_rollbacks (s : State) (c : CoreRef) (r' : Nat) (f : Core → Core) : ((s.modCore c f).rect r').rollbacks = (s.rect r').rollbacks := State.rect_setCore_rollbacks _ _ _ _
@[simp] theorem State.rect_modCore_ending (s : State) (c : CoreRef) (r' : Nat) (f : Core → Core) : ((s.modCore c f).rect r').ending = (s.rect r').ending := State.rect_setCore_ending _ _ _ _
@[simp] theorem State.rect_modCore_halting (s : State) (c : CoreRef) (r' : Nat) (f : Core → Core) : ((s.modCore c f).rect r').halting = (s.rect r').halting := State.rect_setCore_halting _ _ _ _
@[simp] theorem State.rect_modCore_undo (s : State) (c : CoreRef) (r' : Nat) (f : Core → Core) : ((s.modCore c f).rect r').undo = (s.rect r').undo := State.rect_setCore_undo _ _ _ _
@[simp] theorem State.rect_modCore_remote (s : State) (c : CoreRef) (r' : Nat) (f : Core → Core) : ((s.modCore c f).rect r').remote = (s.rect r').remote := State.rect_setCore_remote _ _ _ _
@[simp] theorem State.rect_modCore_soft (s : State) (c : CoreRef) (r' : Nat) (f : Core → Core) : ((s.modCore c f).rect r').soft = (s.rect r').soft := State.rect_setCore_soft _ _ _ _
@[simp] theorem State.rect_modCore_verdict (s : State) (c : CoreRef) (r' : Nat) (f : Core → Core) : ((s.modCore c f).rect r').verdict = (s.rect r').verdict := State.rect_setCore_verdict _ _ _ _
@[simp] theorem State.rect_setTask_phase (s : State) (t : TaskRef) (r' : Nat) (x : Task) : ((s.setTask t x).rect r').phase = (s.rect r').phase := State.rect_modCore_phase _ _ _ _
@[simp] theorem State.rect_setTask_part (s : State) (t : TaskRef) (r' : Nat) (x : Task) : ((s.setTask t x).rect r').part = (s.rect r').part := State.rect_modCore_part _ _ _ _
@[simp] theorem State.rect_setTask_tag (s : State) (t : TaskRef) (r' : Nat) (x : Task) : ((s.setTask t x).rect r').tag = (s.rect r').tag := State.rect_modCore_tag _ _ _ _
@[simp] theorem State.rect_setTask_w (s : State) (t : TaskRef) (r' : Nat) (x : Task) : ((s.setTask t x).rect r').w = (s.rect r').w := State.rect_modCore_w _ _ _ _
@[simp] theorem State.rect_setTask_h (s : State) (t : TaskRef) (r' : Nat) (x : Task) : ((s.setTask t x).rect r').h = (s.rect r').h := State.rect_modCore_h _ _ _ _
@[simp] theorem State.rect_setTask_px (s : State) (t : TaskRef) (r' : Nat) (x : Task) : ((s.setTask t x).rect r').px = (s.rect r').px := State.rect_modCore_px _ _ _ _
@[simp] theorem State.rect_setTask_py (s : State) (t : TaskRef) (r' : Nat) (x : Task) : ((s.setTask t x).rect r').py = (s.rect r').py := State.rect_modCore_py _ _ _ _
@[simp] theorem State.rect_setTask_image (s : State) (t : TaskRef) (r' : Nat) (x : Task) : ((s.setTask t x).rect r').image = (s.rect r').image := State.rect_modCore_image _ _ _ _
@[simp] theorem State.rect_setTask_handlerDef (s : State) (t : TaskRef) (r' : Nat) (x : Task) : ((s.setTask t x).rect r').handlerDef = (s.rect r').handlerDef := State.rect_modCore_handlerDef _ _ _ _
@[simp] theorem State.rect_setTask_spill (s : State) (t : TaskRef) (r' : Nat) (x : Task) : ((s.setTask t x).rect r').spill = (s.rect r').spill := State.rect_modCore_spill _ _ _ _
@[simp] theorem State.rect_setTask_frames (s : State) (t : TaskRef) (r' : Nat) (x : Task) : ((s.setTask t x).rect r').frames = (s.rect r').frames := State.rect_modCore_frames _ _ _ _
@[simp] theorem State.rect_setTask_lrec (s : State) (t : TaskRef) (r' : Nat) (x : Task) : ((s.setTask t x).rect r').lrec = (s.rect r').lrec := State.rect_modCore_lrec _ _ _ _
@[simp] theorem State.rect_setTask_laddr (s : State) (t : TaskRef) (r' : Nat) (x : Task) : ((s.setTask t x).rect r').laddr = (s.rect r').laddr := State.rect_modCore_laddr _ _ _ _
@[simp] theorem State.rect_setTask_src (s : State) (t : TaskRef) (r' : Nat) (x : Task) : ((s.setTask t x).rect r').src = (s.rect r').src := State.rect_modCore_src _ _ _ _
@[simp] theorem State.rect_setTask_launch (s : State) (t : TaskRef) (r' : Nat) (x : Task) : ((s.setTask t x).rect r').launch = (s.rect r').launch := State.rect_modCore_launch _ _ _ _
@[simp] theorem State.rect_setTask_stage (s : State) (t : TaskRef) (r' : Nat) (x : Task) : ((s.setTask t x).rect r').stage = (s.rect r').stage := State.rect_modCore_stage _ _ _ _
@[simp] theorem State.rect_setTask_retiring (s : State) (t : TaskRef) (r' : Nat) (x : Task) : ((s.setTask t x).rect r').retiring = (s.rect r').retiring := State.rect_modCore_retiring _ _ _ _
@[simp] theorem State.rect_setTask_moving (s : State) (t : TaskRef) (r' : Nat) (x : Task) : ((s.setTask t x).rect r').moving = (s.rect r').moving := State.rect_modCore_moving _ _ _ _
@[simp] theorem State.rect_setTask_clock (s : State) (t : TaskRef) (r' : Nat) (x : Task) : ((s.setTask t x).rect r').clock = (s.rect r').clock := State.rect_modCore_clock _ _ _ _
@[simp] theorem State.rect_setTask_frozen (s : State) (t : TaskRef) (r' : Nat) (x : Task) : ((s.setTask t x).rect r').frozen = (s.rect r').frozen := State.rect_modCore_frozen _ _ _ _
@[simp] theorem State.rect_setTask_bound (s : State) (t : TaskRef) (r' : Nat) (x : Task) : ((s.setTask t x).rect r').bound = (s.rect r').bound := State.rect_modCore_bound _ _ _ _
@[simp] theorem State.rect_setTask_capsig (s : State) (t : TaskRef) (r' : Nat) (x : Task) : ((s.setTask t x).rect r').capsig = (s.rect r').capsig := State.rect_modCore_capsig _ _ _ _
@[simp] theorem State.rect_setTask_announced (s : State) (t : TaskRef) (r' : Nat) (x : Task) : ((s.setTask t x).rect r').announced = (s.rect r').announced := State.rect_modCore_announced _ _ _ _
@[simp] theorem State.rect_setTask_reload (s : State) (t : TaskRef) (r' : Nat) (x : Task) : ((s.setTask t x).rect r').reload = (s.rect r').reload := State.rect_modCore_reload _ _ _ _
@[simp] theorem State.rect_setTask_started (s : State) (t : TaskRef) (r' : Nat) (x : Task) : ((s.setTask t x).rect r').started = (s.rect r').started := State.rect_modCore_started _ _ _ _
@[simp] theorem State.rect_setTask_complete (s : State) (t : TaskRef) (r' : Nat) (x : Task) : ((s.setTask t x).rect r').complete = (s.rect r').complete := State.rect_modCore_complete _ _ _ _
@[simp] theorem State.rect_setTask_requested (s : State) (t : TaskRef) (r' : Nat) (x : Task) : ((s.setTask t x).rect r').requested = (s.rect r').requested := State.rect_modCore_requested _ _ _ _
@[simp] theorem State.rect_setTask_prog (s : State) (t : TaskRef) (r' : Nat) (x : Task) : ((s.setTask t x).rect r').prog = (s.rect r').prog := State.rect_modCore_prog _ _ _ _
@[simp] theorem State.rect_setTask_record (s : State) (t : TaskRef) (r' : Nat) (x : Task) : ((s.setTask t x).rect r').record = (s.rect r').record := State.rect_modCore_record _ _ _ _
@[simp] theorem State.rect_setTask_repeats (s : State) (t : TaskRef) (r' : Nat) (x : Task) : ((s.setTask t x).rect r').repeats = (s.rect r').repeats := State.rect_modCore_repeats _ _ _ _
@[simp] theorem State.rect_setTask_rollbacks (s : State) (t : TaskRef) (r' : Nat) (x : Task) : ((s.setTask t x).rect r').rollbacks = (s.rect r').rollbacks := State.rect_modCore_rollbacks _ _ _ _
@[simp] theorem State.rect_setTask_ending (s : State) (t : TaskRef) (r' : Nat) (x : Task) : ((s.setTask t x).rect r').ending = (s.rect r').ending := State.rect_modCore_ending _ _ _ _
@[simp] theorem State.rect_setTask_halting (s : State) (t : TaskRef) (r' : Nat) (x : Task) : ((s.setTask t x).rect r').halting = (s.rect r').halting := State.rect_modCore_halting _ _ _ _
@[simp] theorem State.rect_setTask_undo (s : State) (t : TaskRef) (r' : Nat) (x : Task) : ((s.setTask t x).rect r').undo = (s.rect r').undo := State.rect_modCore_undo _ _ _ _
@[simp] theorem State.rect_setTask_remote (s : State) (t : TaskRef) (r' : Nat) (x : Task) : ((s.setTask t x).rect r').remote = (s.rect r').remote := State.rect_modCore_remote _ _ _ _
@[simp] theorem State.rect_setTask_soft (s : State) (t : TaskRef) (r' : Nat) (x : Task) : ((s.setTask t x).rect r').soft = (s.rect r').soft := State.rect_modCore_soft _ _ _ _
@[simp] theorem State.rect_setTask_verdict (s : State) (t : TaskRef) (r' : Nat) (x : Task) : ((s.setTask t x).rect r').verdict = (s.rect r').verdict := State.rect_modCore_verdict _ _ _ _
@[simp] theorem State.rect_modTask_phase (s : State) (t : TaskRef) (r' : Nat) (f : Task → Task) : ((s.modTask t f).rect r').phase = (s.rect r').phase := State.rect_setTask_phase _ _ _ _
@[simp] theorem State.rect_modTask_part (s : State) (t : TaskRef) (r' : Nat) (f : Task → Task) : ((s.modTask t f).rect r').part = (s.rect r').part := State.rect_setTask_part _ _ _ _
@[simp] theorem State.rect_modTask_tag (s : State) (t : TaskRef) (r' : Nat) (f : Task → Task) : ((s.modTask t f).rect r').tag = (s.rect r').tag := State.rect_setTask_tag _ _ _ _
@[simp] theorem State.rect_modTask_w (s : State) (t : TaskRef) (r' : Nat) (f : Task → Task) : ((s.modTask t f).rect r').w = (s.rect r').w := State.rect_setTask_w _ _ _ _
@[simp] theorem State.rect_modTask_h (s : State) (t : TaskRef) (r' : Nat) (f : Task → Task) : ((s.modTask t f).rect r').h = (s.rect r').h := State.rect_setTask_h _ _ _ _
@[simp] theorem State.rect_modTask_px (s : State) (t : TaskRef) (r' : Nat) (f : Task → Task) : ((s.modTask t f).rect r').px = (s.rect r').px := State.rect_setTask_px _ _ _ _
@[simp] theorem State.rect_modTask_py (s : State) (t : TaskRef) (r' : Nat) (f : Task → Task) : ((s.modTask t f).rect r').py = (s.rect r').py := State.rect_setTask_py _ _ _ _
@[simp] theorem State.rect_modTask_image (s : State) (t : TaskRef) (r' : Nat) (f : Task → Task) : ((s.modTask t f).rect r').image = (s.rect r').image := State.rect_setTask_image _ _ _ _
@[simp] theorem State.rect_modTask_handlerDef (s : State) (t : TaskRef) (r' : Nat) (f : Task → Task) : ((s.modTask t f).rect r').handlerDef = (s.rect r').handlerDef := State.rect_setTask_handlerDef _ _ _ _
@[simp] theorem State.rect_modTask_spill (s : State) (t : TaskRef) (r' : Nat) (f : Task → Task) : ((s.modTask t f).rect r').spill = (s.rect r').spill := State.rect_setTask_spill _ _ _ _
@[simp] theorem State.rect_modTask_frames (s : State) (t : TaskRef) (r' : Nat) (f : Task → Task) : ((s.modTask t f).rect r').frames = (s.rect r').frames := State.rect_setTask_frames _ _ _ _
@[simp] theorem State.rect_modTask_lrec (s : State) (t : TaskRef) (r' : Nat) (f : Task → Task) : ((s.modTask t f).rect r').lrec = (s.rect r').lrec := State.rect_setTask_lrec _ _ _ _
@[simp] theorem State.rect_modTask_laddr (s : State) (t : TaskRef) (r' : Nat) (f : Task → Task) : ((s.modTask t f).rect r').laddr = (s.rect r').laddr := State.rect_setTask_laddr _ _ _ _
@[simp] theorem State.rect_modTask_src (s : State) (t : TaskRef) (r' : Nat) (f : Task → Task) : ((s.modTask t f).rect r').src = (s.rect r').src := State.rect_setTask_src _ _ _ _
@[simp] theorem State.rect_modTask_launch (s : State) (t : TaskRef) (r' : Nat) (f : Task → Task) : ((s.modTask t f).rect r').launch = (s.rect r').launch := State.rect_setTask_launch _ _ _ _
@[simp] theorem State.rect_modTask_stage (s : State) (t : TaskRef) (r' : Nat) (f : Task → Task) : ((s.modTask t f).rect r').stage = (s.rect r').stage := State.rect_setTask_stage _ _ _ _
@[simp] theorem State.rect_modTask_retiring (s : State) (t : TaskRef) (r' : Nat) (f : Task → Task) : ((s.modTask t f).rect r').retiring = (s.rect r').retiring := State.rect_setTask_retiring _ _ _ _
@[simp] theorem State.rect_modTask_moving (s : State) (t : TaskRef) (r' : Nat) (f : Task → Task) : ((s.modTask t f).rect r').moving = (s.rect r').moving := State.rect_setTask_moving _ _ _ _
@[simp] theorem State.rect_modTask_clock (s : State) (t : TaskRef) (r' : Nat) (f : Task → Task) : ((s.modTask t f).rect r').clock = (s.rect r').clock := State.rect_setTask_clock _ _ _ _
@[simp] theorem State.rect_modTask_frozen (s : State) (t : TaskRef) (r' : Nat) (f : Task → Task) : ((s.modTask t f).rect r').frozen = (s.rect r').frozen := State.rect_setTask_frozen _ _ _ _
@[simp] theorem State.rect_modTask_bound (s : State) (t : TaskRef) (r' : Nat) (f : Task → Task) : ((s.modTask t f).rect r').bound = (s.rect r').bound := State.rect_setTask_bound _ _ _ _
@[simp] theorem State.rect_modTask_capsig (s : State) (t : TaskRef) (r' : Nat) (f : Task → Task) : ((s.modTask t f).rect r').capsig = (s.rect r').capsig := State.rect_setTask_capsig _ _ _ _
@[simp] theorem State.rect_modTask_announced (s : State) (t : TaskRef) (r' : Nat) (f : Task → Task) : ((s.modTask t f).rect r').announced = (s.rect r').announced := State.rect_setTask_announced _ _ _ _
@[simp] theorem State.rect_modTask_reload (s : State) (t : TaskRef) (r' : Nat) (f : Task → Task) : ((s.modTask t f).rect r').reload = (s.rect r').reload := State.rect_setTask_reload _ _ _ _
@[simp] theorem State.rect_modTask_started (s : State) (t : TaskRef) (r' : Nat) (f : Task → Task) : ((s.modTask t f).rect r').started = (s.rect r').started := State.rect_setTask_started _ _ _ _
@[simp] theorem State.rect_modTask_complete (s : State) (t : TaskRef) (r' : Nat) (f : Task → Task) : ((s.modTask t f).rect r').complete = (s.rect r').complete := State.rect_setTask_complete _ _ _ _
@[simp] theorem State.rect_modTask_requested (s : State) (t : TaskRef) (r' : Nat) (f : Task → Task) : ((s.modTask t f).rect r').requested = (s.rect r').requested := State.rect_setTask_requested _ _ _ _
@[simp] theorem State.rect_modTask_prog (s : State) (t : TaskRef) (r' : Nat) (f : Task → Task) : ((s.modTask t f).rect r').prog = (s.rect r').prog := State.rect_setTask_prog _ _ _ _
@[simp] theorem State.rect_modTask_record (s : State) (t : TaskRef) (r' : Nat) (f : Task → Task) : ((s.modTask t f).rect r').record = (s.rect r').record := State.rect_setTask_record _ _ _ _
@[simp] theorem State.rect_modTask_repeats (s : State) (t : TaskRef) (r' : Nat) (f : Task → Task) : ((s.modTask t f).rect r').repeats = (s.rect r').repeats := State.rect_setTask_repeats _ _ _ _
@[simp] theorem State.rect_modTask_rollbacks (s : State) (t : TaskRef) (r' : Nat) (f : Task → Task) : ((s.modTask t f).rect r').rollbacks = (s.rect r').rollbacks := State.rect_setTask_rollbacks _ _ _ _
@[simp] theorem State.rect_modTask_ending (s : State) (t : TaskRef) (r' : Nat) (f : Task → Task) : ((s.modTask t f).rect r').ending = (s.rect r').ending := State.rect_setTask_ending _ _ _ _
@[simp] theorem State.rect_modTask_halting (s : State) (t : TaskRef) (r' : Nat) (f : Task → Task) : ((s.modTask t f).rect r').halting = (s.rect r').halting := State.rect_setTask_halting _ _ _ _
@[simp] theorem State.rect_modTask_undo (s : State) (t : TaskRef) (r' : Nat) (f : Task → Task) : ((s.modTask t f).rect r').undo = (s.rect r').undo := State.rect_setTask_undo _ _ _ _
@[simp] theorem State.rect_modTask_remote (s : State) (t : TaskRef) (r' : Nat) (f : Task → Task) : ((s.modTask t f).rect r').remote = (s.rect r').remote := State.rect_setTask_remote _ _ _ _
@[simp] theorem State.rect_modTask_soft (s : State) (t : TaskRef) (r' : Nat) (f : Task → Task) : ((s.modTask t f).rect r').soft = (s.rect r').soft := State.rect_setTask_soft _ _ _ _
@[simp] theorem State.rect_modTask_verdict (s : State) (t : TaskRef) (r' : Nat) (f : Task → Task) : ((s.modTask t f).rect r').verdict = (s.rect r').verdict := State.rect_setTask_verdict _ _ _ _

end Sys2Proof.Machine
end

