-- ==== Sys2Proof/Laws/Operands.lean ====
section
/-! SUPPORT. Registers, presence and predicates (R42 to R46), the guard (R69), and everything that the
issue of an instruction can do: it retires, traps or waits. -/

namespace Sys2Proof.Machine

open Host (Outcome)

/-! ## Registers -/

@[simp] theorem Task.reg_zero (t : Task) : t.reg 0 = 0 := rfl
@[simp] theorem Task.presence_zero (t : Task) : t.presence 0 = .full := rfl
@[simp] theorem Task.pred_zero (t : Task) : t.pred 0 = true := rfl
@[simp] theorem Task.write_zero (t : Task) (v : Word) : t.write 0 v = t := rfl
@[simp] theorem Task.setPred_zero (t : Task) (b : Bool) : t.setPred 0 b = t := rfl
@[simp] theorem Task.markEmpty_zero (t : Task) (p : Producer) : t.markEmpty 0 p = t := rfl

theorem Task.reg_write (t : Task) (r r' : Reg) (v : Word) :
    (t.write r v).reg r' = if r' = r ∧ r ≠ 0 then v else t.reg r' := by
  by_cases h0 : r = 0
  · subst h0; simp
  · by_cases h : r' = r
    · subst h; simp [Task.write, Task.reg, h0]
    · have hv : r'.val ≠ r.val := fun e => h (Fin.ext e)
      simp [Task.write, Task.reg, h0, h, Sparse.at_put_ne _ _ _ hv]

@[simp] theorem Task.reg_write_same (t : Task) (r : Reg) (v : Word) (h : r ≠ 0) : (t.write r v).reg r = v := by
  simp [Task.reg_write, h]

theorem Task.reg_write_ne (t : Task) {r r' : Reg} (v : Word) (h : r' ≠ r) : (t.write r v).reg r' = t.reg r' := by
  simp [Task.reg_write, h]

theorem Task.presence_write (t : Task) (r r' : Reg) (v : Word) :
    (t.write r v).presence r' = if r' = r then .full else t.presence r' := by
  by_cases h0 : r = 0
  · subst h0
    by_cases h : r' = 0 <;> simp [h]
  · by_cases h : r' = r
    · subst h; simp [Task.write, Task.presence, h0]
    · have hv : r'.val ≠ r.val := fun e => h (Fin.ext e)
      simp [Task.write, Task.presence, h0, h, Sparse.at_put_ne _ _ _ hv]

theorem Task.presence_markEmpty (t : Task) (r r' : Reg) (p : Producer) :
    (t.markEmpty r p).presence r' = if r' = r ∧ r ≠ 0 then .empty p else t.presence r' := by
  by_cases h0 : r = 0
  · subst h0; simp
  · by_cases h : r' = r
    · subst h; simp [Task.markEmpty, Task.presence, h0]
    · have hv : r'.val ≠ r.val := fun e => h (Fin.ext e)
      simp [Task.markEmpty, Task.presence, h0, h, Sparse.at_put_ne _ _ _ hv]

@[simp] theorem Task.reg_markEmpty (t : Task) (r r' : Reg) (p : Producer) : (t.markEmpty r p).reg r' = t.reg r' := by
  simp [Task.reg]

/-- One bit of a byte set to a value. -/
theorem bit_put (w : BitVec 8) (p p' : Fin 8) (b : Bool) :
    ((w &&& ~~~(1#8 <<< p.val)) ||| (if b then 1#8 <<< p.val else 0#8)).getLsbD p'.val
      = if p' = p then b else w.getLsbD p'.val := by
  have h1 := p.isLt
  have h2 := p'.isLt
  by_cases h : p' = p
  · subst h
    cases b <;> simp
  · have hv : p'.val ≠ p.val := fun e => h (Fin.ext e)
    have e : (decide (p' < p) || !decide (p'.val - p.val = 0)) = true := by
      have : p' < p ∨ p'.val - p.val ≠ 0 := by
        rcases Nat.lt_or_ge p'.val p.val with hl | hl
        · exact .inl hl
        · exact .inr (by omega)
      rcases this with hl | hl <;> simp [hl]
    have e2 : (!decide (p' < p) && decide (p'.val - p.val = 0)) = false := by
      revert e; cases decide (p' < p) <;> cases decide (p'.val - p.val = 0) <;> simp
    cases b <;> simp [h, e, e2] <;> intro _ <;> simpa using e

theorem Task.pred_setPred (t : Task) (p p' : Fin 8) (b : Bool) :
    (t.setPred p b).pred p' = if p' = p ∧ p ≠ 0 then b else t.pred p' := by
  by_cases h0 : p = 0
  · subst h0; simp
  · by_cases hz : p' = 0
    · subst hz
      simp [Ne.symm h0]
    · simp only [Task.pred, Task.setPred, h0, hz, if_false]
      rw [bit_put t.preds p p' b]
      simp [h0]

@[simp] theorem Task.reg_loopEnd (t : Task) (r : Reg) : t.loopEnd.reg r = t.reg r := by simp [Task.reg]
@[simp] theorem Task.presence_loopEnd (t : Task) (r : Reg) : t.loopEnd.presence r = t.presence r := by simp [Task.presence]
@[simp] theorem Task.pred_loopEnd (t : Task) (p : Fin 8) : t.loopEnd.pred p = t.pred p := by simp [Task.pred]

@[simp] theorem Task.unwait_wait (t : Task) : t.unwait.wait = none := rfl
@[simp] theorem Task.waitFor_wait (t : Task) (w : Wait) : (t.waitFor w).wait = some w := rfl
@[simp] theorem Task.goTo_pc (t : Task) (pc : BitVec 12) : (t.goTo pc).pc = pc := rfl
@[simp] theorem Task.waitFor_unwait (t : Task) (w : Wait) : t.unwait.waitFor w = t.waitFor w := rfl
@[simp] theorem Task.unwait_unwait (t : Task) : t.unwait.unwait = t.unwait := rfl
@[simp] theorem Task.reg_unwait (t : Task) (r : Reg) : t.unwait.reg r = t.reg r := rfl
@[simp] theorem Task.presence_unwait (t : Task) (r : Reg) : t.unwait.presence r = t.presence r := rfl
@[simp] theorem Task.pred_unwait (t : Task) (p : Fin 8) : t.unwait.pred p = t.pred p := rfl
@[simp] theorem Task.guard_unwait (t : Task) (g : Guard) : t.unwait.guard g = t.guard g := rfl
@[simp] theorem Task.pending_unwait (t : Task) : t.unwait.pending = t.pending := rfl
@[simp] theorem Task.isEmpty_unwait (t : Task) (r : Reg) : t.unwait.isEmpty r = t.isEmpty r := rfl

/-! ## The check of presence (R44 to R46, R73) -/

/-- No source is empty or absent, no destination is empty: the instruction executes. -/
theorem Task.check_ok {t : Task} {needs : List Need} (h : ∀ n ∈ needs, n.waits t = false) : t.check needs = .ok := by
  have h1 : needs.find? (Need.traps t) = none := by
    rw [List.find?_eq_none]
    intro n hn
    have hw := h n hn
    cases n with
    | dst r => simp [Need.traps]
    | src r b =>
      simp only [Need.waits, Task.isFull] at hw
      cases b <;> simp only [Need.traps, Task.isEmpty] <;> revert hw <;> cases t.presence r <;> simp
  have h2 : needs.find? (Need.waits t) = none := by
    rw [List.find?_eq_none]
    intro n hn
    simp [h n hn]
  simp [Task.check, h1, h2]

/-- A source that is full does not hold an instruction up. -/
theorem Need.src_full {t : Task} {r : Reg} {b : Bool} (h : t.presence r = .full) : (Need.src r b).waits t = false := by
  simp [Need.waits, Task.isFull, h]

/-- A destination that is not empty does not hold an instruction up. -/
theorem Need.dst_ok {t : Task} {r : Reg} (h : t.isEmpty r = false) : (Need.dst r).waits t = false := h

/-! ## Issue -/

@[simp] theorem State.finish_go (s s' : State) : s.finish (.go s') = s'.modTask s.cur Task.loopEnd := rfl
@[simp] theorem State.finish_jump (s s' : State) (pc : BitVec 12) :
    s.finish (.jump s' pc) = s'.modTask s.cur (fun t => t.goTo pc) := rfl
@[simp] theorem State.finish_wait (s s' : State) (w : Wait) : s.finish (.wait s' w) = s'.modTask s.cur (fun t => t.waitFor w) := rfl
@[simp] theorem State.finish_goWait (s s' : State) (w : Wait) :
    s.finish (.goWait s' w) = s'.modTask s.cur (fun t => t.loopEnd.waitFor w) := rfl
@[simp] theorem State.finish_trap (s : State) (c : Nat) (v : Word) : s.finish (.trap c v) = s.raise s.cur c v s.me.pc := rfl
@[simp] theorem State.finish_trapIn (s s' : State) (c : Nat) (v : Word) :
    s.finish (.trapIn s' c v) = s'.raise s.cur c v s'.me.pc := rfl
@[simp] theorem State.finish_done (s s' : State) : s.finish (.done s') = s' := rfl

@[simp] theorem State.me_begin (s : State) : s.begin.me = s.me.unwait := by
  simp [State.begin]

@[simp] theorem State.cur_begin (s : State) : s.begin.cur = s.cur := rfl

/-- Everything that an issue can do: a false guard retires the instruction (R69); else a missing privilege
traps PRIV, an empty source traps EMPTY or is waited for, and else the effect takes place. -/
theorem issueP_cases (g : Guard) (priv : Task → Option Word) (needs : List Need) (body : State → Flow) (s : State) :
    issueP g priv needs body s = .next (
      if s.begin.me.guard g then
        (match priv s.begin.me with
        | some v => s.begin.raise s.cur 0x02 v s.begin.me.pc
        | none =>
          match s.begin.me.check needs with
          | .trapEmpty r => s.begin.raise s.cur 0x03 (BitVec.ofNat 64 r.val) s.begin.me.pc
          | .waitFor r => s.begin.modTask s.cur (fun t => t.waitFor (.reg r.val))
          | .ok => s.begin.finish (body s.begin))
      else s.begin.modTask s.cur Task.loopEnd) := by
  have e : s.begin.cur = s.cur := rfl
  simp only [issueP, State.finish, e]
  by_cases h : s.begin.me.guard g = true
  · simp only [h, if_true]
    cases priv s.begin.me with
    | some v => rfl
    | none => cases s.begin.me.check needs <;> rfl
  · simp only [h, if_false, Bool.false_eq_true]

/-- An issue always answers a next state. -/
theorem issueP_next (g : Guard) (priv : Task → Option Word) (needs : List Need) (body : State → Flow) (s : State) :
    ∃ t, issueP g priv needs body s = .next t := ⟨_, issueP_cases g priv needs body s⟩

/-- R69: an instruction whose guard is false only retires. -/
theorem issueP_guard_false {g : Guard} {s : State} (h : s.me.guard g = false) (priv : Task → Option Word)
    (needs : List Need) (body : State → Flow) :
    issueP g priv needs body s = .next (s.modTask s.cur (fun t => t.unwait.loopEnd)) := by
  have hg : s.begin.me.guard g = false := by rw [State.me_begin]; exact h
  rw [issueP_cases, hg]
  simp [State.begin, State.modTask_modTask]

/-- An instruction that executes: its guard holds, no mode forbids it, its operands are there. -/
theorem issueP_runs {g : Guard} {priv : Task → Option Word} {needs : List Need} {s : State}
    (hg : s.me.guard g = true) (hp : priv s.me.unwait = none) (hn : ∀ n ∈ needs, n.waits s.me = false) (body : State → Flow) :
    issueP g priv needs body s = .next (s.begin.finish (body s.begin)) := by
  have hg' : s.begin.me.guard g = true := by rw [State.me_begin]; exact hg
  have hc : s.begin.me.check needs = .ok := by
    apply Task.check_ok
    intro n hn'
    rw [State.me_begin]
    exact hn n hn'
  rw [issueP_cases, hg', State.me_begin] at *
  simp [hp, hc]

theorem issue_runs {g : Guard} {needs : List Need} {s : State}
    (hg : s.me.guard g = true) (hn : ∀ n ∈ needs, n.waits s.me = false) (body : State → Flow) :
    issue g needs body s = .next (s.begin.finish (body s.begin)) := issueP_runs hg rfl hn body

/-- An instruction that acts on its own task only changes nothing else. -/
theorem issueT_runs {g : Guard} {needs : List Need} {s : State}
    (hg : s.me.guard g = true) (hn : ∀ n ∈ needs, n.waits s.me = false) (f : Task → Task) :
    issueT g needs f s = .next (s.modTask s.cur (fun t => (f t.unwait).loopEnd)) := by
  rw [issueT, issue_runs hg hn]
  simp [State.finish, State.begin, State.modTask_modTask]

end Sys2Proof.Machine
end

