-- ==== Sys2Proof/Laws/Begin.lean ====
section
/-! SUPPORT. What a change of one task leaves: every other part of its core, of the body of its rectangle and of the rectangle;
the same for the state in which an instruction begins. -/

namespace Sys2Proof.Machine

theorem State.core_modTask (s : State) (t : TaskRef) (f : Task → Task) (c : CoreRef) :
    (s.modTask t f).core c = if c = t.coreRef then (s.core c).modTask t.slot f else s.core c := by
  simp only [State.modTask, State.setTask, State.core_modCore]
  split
  · next h => subst h; rfl
  · rfl

@[simp] theorem State.core_modTask_last (s : State) (t : TaskRef) (f : Task → Task) (c : CoreRef) : ((s.modTask t f).core c).last = (s.core c).last := by
  rw [State.core_modTask]; split <;> rfl
@[simp] theorem State.myCore_modTask_last (s : State) (t : TaskRef) (f : Task → Task) : (s.modTask t f).myCore.last = s.myCore.last := State.core_modTask_last s t f _
@[simp] theorem State.myCore_begin_last (s : State) : s.begin.myCore.last = s.myCore.last := State.core_modTask_last s _ _ _
@[simp] theorem State.core_modTask_q (s : State) (t : TaskRef) (f : Task → Task) (c : CoreRef) : ((s.modTask t f).core c).q = (s.core c).q := by
  rw [State.core_modTask]; split <;> rfl
@[simp] theorem State.myCore_modTask_q (s : State) (t : TaskRef) (f : Task → Task) : (s.modTask t f).myCore.q = s.myCore.q := State.core_modTask_q s t f _
@[simp] theorem State.myCore_begin_q (s : State) : s.begin.myCore.q = s.myCore.q := State.core_modTask_q s _ _ _
@[simp] theorem State.core_modTask_pattern (s : State) (t : TaskRef) (f : Task → Task) (c : CoreRef) (n : Nat) : ((s.modTask t f).core c).pattern n = (s.core c).pattern n := by
  simp [Core.pattern]
@[simp] theorem State.myCore_modTask_pattern (s : State) (t : TaskRef) (f : Task → Task) (n : Nat) : (s.modTask t f).myCore.pattern n = s.myCore.pattern n := State.core_modTask_pattern s t f _ n
@[simp] theorem State.myCore_begin_pattern (s : State) (n : Nat) : s.begin.myCore.pattern n = s.myCore.pattern n := State.core_modTask_pattern s _ _ _ n
@[simp] theorem State.core_modTask_tl (s : State) (t : TaskRef) (f : Task → Task) (c : CoreRef) : ((s.modTask t f).core c).tl = (s.core c).tl := by
  rw [State.core_modTask]; split <;> rfl
@[simp] theorem State.myCore_modTask_tl (s : State) (t : TaskRef) (f : Task → Task) : (s.modTask t f).myCore.tl = s.myCore.tl := State.core_modTask_tl s t f _
@[simp] theorem State.myCore_begin_tl (s : State) : s.begin.myCore.tl = s.myCore.tl := State.core_modTask_tl s _ _ _
@[simp] theorem State.core_modTask_tline (s : State) (t : TaskRef) (f : Task → Task) (c : CoreRef) (n : Nat) : ((s.modTask t f).core c).tline n = (s.core c).tline n := by
  simp [Core.tline]
@[simp] theorem State.myCore_modTask_tline (s : State) (t : TaskRef) (f : Task → Task) (n : Nat) : (s.modTask t f).myCore.tline n = s.myCore.tline n := State.core_modTask_tline s t f _ n
@[simp] theorem State.myCore_begin_tline (s : State) (n : Nat) : s.begin.myCore.tline n = s.myCore.tline n := State.core_modTask_tline s _ _ _ n
@[simp] theorem State.core_modTask_feeds (s : State) (t : TaskRef) (f : Task → Task) (c : CoreRef) : ((s.modTask t f).core c).feeds = (s.core c).feeds := by
  rw [State.core_modTask]; split <;> rfl
@[simp] theorem State.myCore_modTask_feeds (s : State) (t : TaskRef) (f : Task → Task) : (s.modTask t f).myCore.feeds = s.myCore.feeds := State.core_modTask_feeds s t f _
@[simp] theorem State.myCore_begin_feeds (s : State) : s.begin.myCore.feeds = s.myCore.feeds := State.core_modTask_feeds s _ _ _
@[simp] theorem State.core_modTask_feed (s : State) (t : TaskRef) (f : Task → Task) (c : CoreRef) (n : Nat) : ((s.modTask t f).core c).feed n = (s.core c).feed n := by
  simp [Core.feed]
@[simp] theorem State.myCore_modTask_feed (s : State) (t : TaskRef) (f : Task → Task) (n : Nat) : (s.modTask t f).myCore.feed n = s.myCore.feed n := State.core_modTask_feed s t f _ n
@[simp] theorem State.myCore_begin_feed (s : State) (n : Nat) : s.begin.myCore.feed n = s.myCore.feed n := State.core_modTask_feed s _ _ _ n
@[simp] theorem State.core_modTask_sinks (s : State) (t : TaskRef) (f : Task → Task) (c : CoreRef) : ((s.modTask t f).core c).sinks = (s.core c).sinks := by
  rw [State.core_modTask]; split <;> rfl
@[simp] theorem State.myCore_modTask_sinks (s : State) (t : TaskRef) (f : Task → Task) : (s.modTask t f).myCore.sinks = s.myCore.sinks := State.core_modTask_sinks s t f _
@[simp] theorem State.myCore_begin_sinks (s : State) : s.begin.myCore.sinks = s.myCore.sinks := State.core_modTask_sinks s _ _ _
@[simp] theorem State.core_modTask_sink (s : State) (t : TaskRef) (f : Task → Task) (c : CoreRef) (n : Nat) : ((s.modTask t f).core c).sink n = (s.core c).sink n := by
  simp [Core.sink]
@[simp] theorem State.myCore_modTask_sink (s : State) (t : TaskRef) (f : Task → Task) (n : Nat) : (s.modTask t f).myCore.sink n = s.myCore.sink n := State.core_modTask_sink s t f _ n
@[simp] theorem State.myCore_begin_sink (s : State) (n : Nat) : s.begin.myCore.sink n = s.myCore.sink n := State.core_modTask_sink s _ _ _ n
@[simp] theorem State.core_modTask_vcs (s : State) (t : TaskRef) (f : Task → Task) (c : CoreRef) : ((s.modTask t f).core c).vcs = (s.core c).vcs := by
  rw [State.core_modTask]; split <;> rfl
@[simp] theorem State.myCore_modTask_vcs (s : State) (t : TaskRef) (f : Task → Task) : (s.modTask t f).myCore.vcs = s.myCore.vcs := State.core_modTask_vcs s t f _
@[simp] theorem State.myCore_begin_vcs (s : State) : s.begin.myCore.vcs = s.myCore.vcs := State.core_modTask_vcs s _ _ _
@[simp] theorem State.core_modTask_vc (s : State) (t : TaskRef) (f : Task → Task) (c : CoreRef) (n : Nat) : ((s.modTask t f).core c).vc n = (s.core c).vc n := by
  simp [Core.vc]
@[simp] theorem State.myCore_modTask_vc (s : State) (t : TaskRef) (f : Task → Task) (n : Nat) : (s.modTask t f).myCore.vc n = s.myCore.vc n := State.core_modTask_vc s t f _ n
@[simp] theorem State.myCore_begin_vc (s : State) (n : Nat) : s.begin.myCore.vc n = s.myCore.vc n := State.core_modTask_vc s _ _ _ n
@[simp] theorem State.core_modTask_acReset (s : State) (t : TaskRef) (f : Task → Task) (c : CoreRef) : ((s.modTask t f).core c).acReset = (s.core c).acReset := by
  rw [State.core_modTask]; split <;> rfl
@[simp] theorem State.myCore_modTask_acReset (s : State) (t : TaskRef) (f : Task → Task) : (s.modTask t f).myCore.acReset = s.myCore.acReset := State.core_modTask_acReset s t f _
@[simp] theorem State.myCore_begin_acReset (s : State) : s.begin.myCore.acReset = s.myCore.acReset := State.core_modTask_acReset s _ _ _
@[simp] theorem State.core_modTask_engine (s : State) (t : TaskRef) (f : Task → Task) (c : CoreRef) : ((s.modTask t f).core c).engine = (s.core c).engine := by
  rw [State.core_modTask]; split <;> rfl
@[simp] theorem State.myCore_modTask_engine (s : State) (t : TaskRef) (f : Task → Task) : (s.modTask t f).myCore.engine = s.myCore.engine := State.core_modTask_engine s t f _
@[simp] theorem State.myCore_begin_engine (s : State) : s.begin.myCore.engine = s.myCore.engine := State.core_modTask_engine s _ _ _
@[simp] theorem State.core_modTask_cntsel (s : State) (t : TaskRef) (f : Task → Task) (c : CoreRef) : ((s.modTask t f).core c).cntsel = (s.core c).cntsel := by
  rw [State.core_modTask]; split <;> rfl
@[simp] theorem State.myCore_modTask_cntsel (s : State) (t : TaskRef) (f : Task → Task) : (s.modTask t f).myCore.cntsel = s.myCore.cntsel := State.core_modTask_cntsel s t f _
@[simp] theorem State.myCore_begin_cntsel (s : State) : s.begin.myCore.cntsel = s.myCore.cntsel := State.core_modTask_cntsel s _ _ _
@[simp] theorem State.core_modTask_sel (s : State) (t : TaskRef) (f : Task → Task) (c : CoreRef) (n : Nat) : ((s.modTask t f).core c).sel n = (s.core c).sel n := by
  simp [Core.sel]
@[simp] theorem State.myCore_modTask_sel (s : State) (t : TaskRef) (f : Task → Task) (n : Nat) : (s.modTask t f).myCore.sel n = s.myCore.sel n := State.core_modTask_sel s t f _ n
@[simp] theorem State.myCore_begin_sel (s : State) (n : Nat) : s.begin.myCore.sel n = s.myCore.sel n := State.core_modTask_sel s _ _ _ n
@[simp] theorem State.core_modTask_counts (s : State) (t : TaskRef) (f : Task → Task) (c : CoreRef) : ((s.modTask t f).core c).counts = (s.core c).counts := by
  rw [State.core_modTask]; split <;> rfl
@[simp] theorem State.myCore_modTask_counts (s : State) (t : TaskRef) (f : Task → Task) : (s.modTask t f).myCore.counts = s.myCore.counts := State.core_modTask_counts s t f _
@[simp] theorem State.myCore_begin_counts (s : State) : s.begin.myCore.counts = s.myCore.counts := State.core_modTask_counts s _ _ _
@[simp] theorem State.core_modTask_counter (s : State) (t : TaskRef) (f : Task → Task) (c : CoreRef) (n : Nat) : ((s.modTask t f).core c).counter n = (s.core c).counter n := by
  simp [Core.counter]
@[simp] theorem State.myCore_modTask_counter (s : State) (t : TaskRef) (f : Task → Task) (n : Nat) : (s.modTask t f).myCore.counter n = s.myCore.counter n := State.core_modTask_counter s t f _ n
@[simp] theorem State.myCore_begin_counter (s : State) (n : Nat) : s.begin.myCore.counter n = s.myCore.counter n := State.core_modTask_counter s _ _ _ n
@[simp] theorem State.core_modTask_barriers (s : State) (t : TaskRef) (f : Task → Task) (c : CoreRef) : ((s.modTask t f).core c).barriers = (s.core c).barriers := by
  rw [State.core_modTask]; split <;> rfl
@[simp] theorem State.myCore_modTask_barriers (s : State) (t : TaskRef) (f : Task → Task) : (s.modTask t f).myCore.barriers = s.myCore.barriers := State.core_modTask_barriers s t f _
@[simp] theorem State.myCore_begin_barriers (s : State) : s.begin.myCore.barriers = s.myCore.barriers := State.core_modTask_barriers s _ _ _
@[simp] theorem State.core_modTask_barrier (s : State) (t : TaskRef) (f : Task → Task) (c : CoreRef) (n : Nat) : ((s.modTask t f).core c).barrier n = (s.core c).barrier n := by
  simp [Core.barrier]
@[simp] theorem State.myCore_modTask_barrier (s : State) (t : TaskRef) (f : Task → Task) (n : Nat) : (s.modTask t f).myCore.barrier n = s.myCore.barrier n := State.core_modTask_barrier s t f _ n
@[simp] theorem State.myCore_begin_barrier (s : State) (n : Nat) : s.begin.myCore.barrier n = s.myCore.barrier n := State.core_modTask_barrier s _ _ _ n
@[simp] theorem State.core_modTask_istore (s : State) (t : TaskRef) (f : Task → Task) (c : CoreRef) : ((s.modTask t f).core c).istore = (s.core c).istore := by
  rw [State.core_modTask]; split <;> rfl
@[simp] theorem State.myCore_modTask_istore (s : State) (t : TaskRef) (f : Task → Task) : (s.modTask t f).myCore.istore = s.myCore.istore := State.core_modTask_istore s t f _
@[simp] theorem State.myCore_begin_istore (s : State) : s.begin.myCore.istore = s.myCore.istore := State.core_modTask_istore s _ _ _
@[simp] theorem State.core_modTask_instrWord (s : State) (t : TaskRef) (f : Task → Task) (c : CoreRef) (n : Nat) : ((s.modTask t f).core c).instrWord n = (s.core c).instrWord n := by
  simp [Core.instrWord]
@[simp] theorem State.myCore_modTask_instrWord (s : State) (t : TaskRef) (f : Task → Task) (n : Nat) : (s.modTask t f).myCore.instrWord n = s.myCore.instrWord n := State.core_modTask_instrWord s t f _ n
@[simp] theorem State.myCore_begin_instrWord (s : State) (n : Nat) : s.begin.myCore.instrWord n = s.myCore.instrWord n := State.core_modTask_instrWord s _ _ _ n
@[simp] theorem State.core_modTask_scratch (s : State) (t : TaskRef) (f : Task → Task) (c : CoreRef) : ((s.modTask t f).core c).scratch = (s.core c).scratch := by
  rw [State.core_modTask]; split <;> rfl
@[simp] theorem State.myCore_modTask_scratch (s : State) (t : TaskRef) (f : Task → Task) : (s.modTask t f).myCore.scratch = s.myCore.scratch := State.core_modTask_scratch s t f _
@[simp] theorem State.myCore_begin_scratch (s : State) : s.begin.myCore.scratch = s.myCore.scratch := State.core_modTask_scratch s _ _ _
@[simp] theorem State.core_modTask_sites (s : State) (t : TaskRef) (f : Task → Task) (c : CoreRef) : ((s.modTask t f).core c).sites = (s.core c).sites := by
  rw [State.core_modTask]; split <;> rfl
@[simp] theorem State.myCore_modTask_sites (s : State) (t : TaskRef) (f : Task → Task) : (s.modTask t f).myCore.sites = s.myCore.sites := State.core_modTask_sites s t f _
@[simp] theorem State.myCore_begin_sites (s : State) : s.begin.myCore.sites = s.myCore.sites := State.core_modTask_sites s _ _ _
@[simp] theorem State.core_modTask_site (s : State) (t : TaskRef) (f : Task → Task) (c : CoreRef) (n : Nat) : ((s.modTask t f).core c).site n = (s.core c).site n := by
  simp [Core.site]
@[simp] theorem State.myCore_modTask_site (s : State) (t : TaskRef) (f : Task → Task) (n : Nat) : (s.modTask t f).myCore.site n = s.myCore.site n := State.core_modTask_site s t f _ n
@[simp] theorem State.myCore_begin_site (s : State) (n : Nat) : s.begin.myCore.site n = s.myCore.site n := State.core_modTask_site s _ _ _ n
@[simp] theorem State.core_modTask_switches (s : State) (t : TaskRef) (f : Task → Task) (c : CoreRef) : ((s.modTask t f).core c).switches = (s.core c).switches := by
  rw [State.core_modTask]; split <;> rfl
@[simp] theorem State.myCore_modTask_switches (s : State) (t : TaskRef) (f : Task → Task) : (s.modTask t f).myCore.switches = s.myCore.switches := State.core_modTask_switches s t f _
@[simp] theorem State.myCore_begin_switches (s : State) : s.begin.myCore.switches = s.myCore.switches := State.core_modTask_switches s _ _ _
@[simp] theorem State.core_modTask_switch (s : State) (t : TaskRef) (f : Task → Task) (c : CoreRef) (n : Nat) : ((s.modTask t f).core c).switch n = (s.core c).switch n := by
  simp [Core.switch]
@[simp] theorem State.myCore_modTask_switch (s : State) (t : TaskRef) (f : Task → Task) (n : Nat) : (s.modTask t f).myCore.switch n = s.myCore.switch n := State.core_modTask_switch s t f _ n
@[simp] theorem State.myCore_begin_switch (s : State) (n : Nat) : s.begin.myCore.switch n = s.myCore.switch n := State.core_modTask_switch s _ _ _ n

/-! ## Bodies -/

@[simp] theorem State.body_setCore_dq (s : State) (c : CoreRef) (x : Core) (r : Nat) : ((s.setCore c x).rect r).body.dq = (s.rect r).body.dq := by
  simp only [State.setCore, State.modBody, State.rect_modRect]; split <;> simp_all
@[simp] theorem State.body_modCore_dq (s : State) (c : CoreRef) (f : Core → Core) (r : Nat) : ((s.modCore c f).rect r).body.dq = (s.rect r).body.dq := State.body_setCore_dq s c _ r
@[simp] theorem State.body_setTask_dq (s : State) (t : TaskRef) (x : Task) (r : Nat) : ((s.setTask t x).rect r).body.dq = (s.rect r).body.dq := State.body_modCore_dq s _ _ r
@[simp] theorem State.body_modTask_dq (s : State) (t : TaskRef) (f : Task → Task) (r : Nat) : ((s.modTask t f).rect r).body.dq = (s.rect r).body.dq := State.body_setTask_dq s t _ r
@[simp] theorem State.myBody_begin_dq (s : State) : s.begin.myRect.body.dq = s.myRect.body.dq := State.body_modTask_dq s _ _ _
@[simp] theorem State.body_setCore_nseq (s : State) (c : CoreRef) (x : Core) (r : Nat) : ((s.setCore c x).rect r).body.nseq = (s.rect r).body.nseq := by
  simp only [State.setCore, State.modBody, State.rect_modRect]; split <;> simp_all
@[simp] theorem State.body_modCore_nseq (s : State) (c : CoreRef) (f : Core → Core) (r : Nat) : ((s.modCore c f).rect r).body.nseq = (s.rect r).body.nseq := State.body_setCore_nseq s c _ r
@[simp] theorem State.body_setTask_nseq (s : State) (t : TaskRef) (x : Task) (r : Nat) : ((s.setTask t x).rect r).body.nseq = (s.rect r).body.nseq := State.body_modCore_nseq s _ _ r
@[simp] theorem State.body_modTask_nseq (s : State) (t : TaskRef) (f : Task → Task) (r : Nat) : ((s.modTask t f).rect r).body.nseq = (s.rect r).body.nseq := State.body_setTask_nseq s t _ r
@[simp] theorem State.myBody_begin_nseq (s : State) : s.begin.myRect.body.nseq = s.myRect.body.nseq := State.body_modTask_nseq s _ _ _
@[simp] theorem State.body_setCore_fabricStop (s : State) (c : CoreRef) (x : Core) (r : Nat) : ((s.setCore c x).rect r).body.fabricStop = (s.rect r).body.fabricStop := by
  simp only [State.setCore, State.modBody, State.rect_modRect]; split <;> simp_all
@[simp] theorem State.body_modCore_fabricStop (s : State) (c : CoreRef) (f : Core → Core) (r : Nat) : ((s.modCore c f).rect r).body.fabricStop = (s.rect r).body.fabricStop := State.body_setCore_fabricStop s c _ r
@[simp] theorem State.body_setTask_fabricStop (s : State) (t : TaskRef) (x : Task) (r : Nat) : ((s.setTask t x).rect r).body.fabricStop = (s.rect r).body.fabricStop := State.body_modCore_fabricStop s _ _ r
@[simp] theorem State.body_modTask_fabricStop (s : State) (t : TaskRef) (f : Task → Task) (r : Nat) : ((s.modTask t f).rect r).body.fabricStop = (s.rect r).body.fabricStop := State.body_setTask_fabricStop s t _ r
@[simp] theorem State.myBody_begin_fabricStop (s : State) : s.begin.myRect.body.fabricStop = s.myRect.body.fabricStop := State.body_modTask_fabricStop s _ _ _
@[simp] theorem State.body_setCore_serving (s : State) (c : CoreRef) (x : Core) (r : Nat) : ((s.setCore c x).rect r).body.serving = (s.rect r).body.serving := by
  simp only [State.setCore, State.modBody, State.rect_modRect]; split <;> simp_all
@[simp] theorem State.body_modCore_serving (s : State) (c : CoreRef) (f : Core → Core) (r : Nat) : ((s.modCore c f).rect r).body.serving = (s.rect r).body.serving := State.body_setCore_serving s c _ r
@[simp] theorem State.body_setTask_serving (s : State) (t : TaskRef) (x : Task) (r : Nat) : ((s.setTask t x).rect r).body.serving = (s.rect r).body.serving := State.body_modCore_serving s _ _ r
@[simp] theorem State.body_modTask_serving (s : State) (t : TaskRef) (f : Task → Task) (r : Nat) : ((s.modTask t f).rect r).body.serving = (s.rect r).body.serving := State.body_setTask_serving s t _ r
@[simp] theorem State.myBody_begin_serving (s : State) : s.begin.myRect.body.serving = s.myRect.body.serving := State.body_modTask_serving s _ _ _
@[simp] theorem State.body_setCore_atSup (s : State) (c : CoreRef) (x : Core) (r : Nat) : ((s.setCore c x).rect r).body.atSup = (s.rect r).body.atSup := by
  simp only [State.setCore, State.modBody, State.rect_modRect]; split <;> simp_all
@[simp] theorem State.body_modCore_atSup (s : State) (c : CoreRef) (f : Core → Core) (r : Nat) : ((s.modCore c f).rect r).body.atSup = (s.rect r).body.atSup := State.body_setCore_atSup s c _ r
@[simp] theorem State.body_setTask_atSup (s : State) (t : TaskRef) (x : Task) (r : Nat) : ((s.setTask t x).rect r).body.atSup = (s.rect r).body.atSup := State.body_modCore_atSup s _ _ r
@[simp] theorem State.body_modTask_atSup (s : State) (t : TaskRef) (f : Task → Task) (r : Nat) : ((s.modTask t f).rect r).body.atSup = (s.rect r).body.atSup := State.body_setTask_atSup s t _ r
@[simp] theorem State.myBody_begin_atSup (s : State) : s.begin.myRect.body.atSup = s.myRect.body.atSup := State.body_modTask_atSup s _ _ _
@[simp] theorem State.body_setCore_residue (s : State) (c : CoreRef) (x : Core) (r : Nat) : ((s.setCore c x).rect r).body.residue = (s.rect r).body.residue := by
  simp only [State.setCore, State.modBody, State.rect_modRect]; split <;> simp_all
@[simp] theorem State.body_modCore_residue (s : State) (c : CoreRef) (f : Core → Core) (r : Nat) : ((s.modCore c f).rect r).body.residue = (s.rect r).body.residue := State.body_setCore_residue s c _ r
@[simp] theorem State.body_setTask_residue (s : State) (t : TaskRef) (x : Task) (r : Nat) : ((s.setTask t x).rect r).body.residue = (s.rect r).body.residue := State.body_modCore_residue s _ _ r
@[simp] theorem State.body_modTask_residue (s : State) (t : TaskRef) (f : Task → Task) (r : Nat) : ((s.modTask t f).rect r).body.residue = (s.rect r).body.residue := State.body_setTask_residue s t _ r
@[simp] theorem State.myBody_begin_residue (s : State) : s.begin.myRect.body.residue = s.myRect.body.residue := State.body_modTask_residue s _ _ _
@[simp] theorem State.body_setCore_tdeleg (s : State) (c : CoreRef) (x : Core) (r : Nat) : ((s.setCore c x).rect r).body.tdeleg = (s.rect r).body.tdeleg := by
  simp only [State.setCore, State.modBody, State.rect_modRect]; split <;> simp_all
@[simp] theorem State.body_modCore_tdeleg (s : State) (c : CoreRef) (f : Core → Core) (r : Nat) : ((s.modCore c f).rect r).body.tdeleg = (s.rect r).body.tdeleg := State.body_setCore_tdeleg s c _ r
@[simp] theorem State.body_setTask_tdeleg (s : State) (t : TaskRef) (x : Task) (r : Nat) : ((s.setTask t x).rect r).body.tdeleg = (s.rect r).body.tdeleg := State.body_modCore_tdeleg s _ _ r
@[simp] theorem State.body_modTask_tdeleg (s : State) (t : TaskRef) (f : Task → Task) (r : Nat) : ((s.modTask t f).rect r).body.tdeleg = (s.rect r).body.tdeleg := State.body_setTask_tdeleg s t _ r
@[simp] theorem State.myBody_begin_tdeleg (s : State) : s.begin.myRect.body.tdeleg = s.myRect.body.tdeleg := State.body_modTask_tdeleg s _ _ _
@[simp] theorem State.body_setCore_mcstall (s : State) (c : CoreRef) (x : Core) (r : Nat) : ((s.setCore c x).rect r).body.mcstall = (s.rect r).body.mcstall := by
  simp only [State.setCore, State.modBody, State.rect_modRect]; split <;> simp_all
@[simp] theorem State.body_modCore_mcstall (s : State) (c : CoreRef) (f : Core → Core) (r : Nat) : ((s.modCore c f).rect r).body.mcstall = (s.rect r).body.mcstall := State.body_setCore_mcstall s c _ r
@[simp] theorem State.body_setTask_mcstall (s : State) (t : TaskRef) (x : Task) (r : Nat) : ((s.setTask t x).rect r).body.mcstall = (s.rect r).body.mcstall := State.body_modCore_mcstall s _ _ r
@[simp] theorem State.body_modTask_mcstall (s : State) (t : TaskRef) (f : Task → Task) (r : Nat) : ((s.modTask t f).rect r).body.mcstall = (s.rect r).body.mcstall := State.body_setTask_mcstall s t _ r
@[simp] theorem State.myBody_begin_mcstall (s : State) : s.begin.myRect.body.mcstall = s.myRect.body.mcstall := State.body_modTask_mcstall s _ _ _
@[simp] theorem State.body_setCore_snapint (s : State) (c : CoreRef) (x : Core) (r : Nat) : ((s.setCore c x).rect r).body.snapint = (s.rect r).body.snapint := by
  simp only [State.setCore, State.modBody, State.rect_modRect]; split <;> simp_all
@[simp] theorem State.body_modCore_snapint (s : State) (c : CoreRef) (f : Core → Core) (r : Nat) : ((s.modCore c f).rect r).body.snapint = (s.rect r).body.snapint := State.body_setCore_snapint s c _ r
@[simp] theorem State.body_setTask_snapint (s : State) (t : TaskRef) (x : Task) (r : Nat) : ((s.setTask t x).rect r).body.snapint = (s.rect r).body.snapint := State.body_modCore_snapint s _ _ r
@[simp] theorem State.body_modTask_snapint (s : State) (t : TaskRef) (f : Task → Task) (r : Nat) : ((s.modTask t f).rect r).body.snapint = (s.rect r).body.snapint := State.body_setTask_snapint s t _ r
@[simp] theorem State.myBody_begin_snapint (s : State) : s.begin.myRect.body.snapint = s.myRect.body.snapint := State.body_modTask_snapint s _ _ _
@[simp] theorem State.body_setCore_rstat (s : State) (c : CoreRef) (x : Core) (r : Nat) : ((s.setCore c x).rect r).body.rstat = (s.rect r).body.rstat := by
  simp only [State.setCore, State.modBody, State.rect_modRect]; split <;> simp_all
@[simp] theorem State.body_modCore_rstat (s : State) (c : CoreRef) (f : Core → Core) (r : Nat) : ((s.modCore c f).rect r).body.rstat = (s.rect r).body.rstat := State.body_setCore_rstat s c _ r
@[simp] theorem State.body_setTask_rstat (s : State) (t : TaskRef) (x : Task) (r : Nat) : ((s.setTask t x).rect r).body.rstat = (s.rect r).body.rstat := State.body_modCore_rstat s _ _ r
@[simp] theorem State.body_modTask_rstat (s : State) (t : TaskRef) (f : Task → Task) (r : Nat) : ((s.modTask t f).rect r).body.rstat = (s.rect r).body.rstat := State.body_setTask_rstat s t _ r
@[simp] theorem State.myBody_begin_rstat (s : State) : s.begin.myRect.body.rstat = s.myRect.body.rstat := State.body_modTask_rstat s _ _ _
@[simp] theorem State.body_setCore_eng (s : State) (c : CoreRef) (x : Core) (r : Nat) : ((s.setCore c x).rect r).body.eng = (s.rect r).body.eng := by
  simp only [State.setCore, State.modBody, State.rect_modRect]; split <;> simp_all
@[simp] theorem State.body_modCore_eng (s : State) (c : CoreRef) (f : Core → Core) (r : Nat) : ((s.modCore c f).rect r).body.eng = (s.rect r).body.eng := State.body_setCore_eng s c _ r
@[simp] theorem State.body_setTask_eng (s : State) (t : TaskRef) (x : Task) (r : Nat) : ((s.setTask t x).rect r).body.eng = (s.rect r).body.eng := State.body_modCore_eng s _ _ r
@[simp] theorem State.body_modTask_eng (s : State) (t : TaskRef) (f : Task → Task) (r : Nat) : ((s.modTask t f).rect r).body.eng = (s.rect r).body.eng := State.body_setTask_eng s t _ r
@[simp] theorem State.myBody_begin_eng (s : State) : s.begin.myRect.body.eng = s.myRect.body.eng := State.body_modTask_eng s _ _ _
@[simp] theorem State.body_setCore_net (s : State) (c : CoreRef) (x : Core) (r : Nat) : ((s.setCore c x).rect r).body.net = (s.rect r).body.net := by
  simp only [State.setCore, State.modBody, State.rect_modRect]; split <;> simp_all
@[simp] theorem State.body_modCore_net (s : State) (c : CoreRef) (f : Core → Core) (r : Nat) : ((s.modCore c f).rect r).body.net = (s.rect r).body.net := State.body_setCore_net s c _ r
@[simp] theorem State.body_setTask_net (s : State) (t : TaskRef) (x : Task) (r : Nat) : ((s.setTask t x).rect r).body.net = (s.rect r).body.net := State.body_modCore_net s _ _ r
@[simp] theorem State.body_modTask_net (s : State) (t : TaskRef) (f : Task → Task) (r : Nat) : ((s.modTask t f).rect r).body.net = (s.rect r).body.net := State.body_setTask_net s t _ r
@[simp] theorem State.myBody_begin_net (s : State) : s.begin.myRect.body.net = s.myRect.body.net := State.body_modTask_net s _ _ _
@[simp] theorem State.body_setCore_snaps (s : State) (c : CoreRef) (x : Core) (r : Nat) : ((s.setCore c x).rect r).body.snaps = (s.rect r).body.snaps := by
  simp only [State.setCore, State.modBody, State.rect_modRect]; split <;> simp_all
@[simp] theorem State.body_modCore_snaps (s : State) (c : CoreRef) (f : Core → Core) (r : Nat) : ((s.modCore c f).rect r).body.snaps = (s.rect r).body.snaps := State.body_setCore_snaps s c _ r
@[simp] theorem State.body_setTask_snaps (s : State) (t : TaskRef) (x : Task) (r : Nat) : ((s.setTask t x).rect r).body.snaps = (s.rect r).body.snaps := State.body_modCore_snaps s _ _ r
@[simp] theorem State.body_modTask_snaps (s : State) (t : TaskRef) (f : Task → Task) (r : Nat) : ((s.modTask t f).rect r).body.snaps = (s.rect r).body.snaps := State.body_setTask_snaps s t _ r
@[simp] theorem State.myBody_begin_snaps (s : State) : s.begin.myRect.body.snaps = s.myRect.body.snaps := State.body_modTask_snaps s _ _ _

/-! ## The rectangle of the issuing task -/

@[simp] theorem State.myRect_begin_phase (s : State) : s.begin.myRect.phase = s.myRect.phase := State.rect_modTask_phase s _ _ _
@[simp] theorem State.myRect_modTask_phase (s : State) (t : TaskRef) (f : Task → Task) : (s.modTask t f).myRect.phase = s.myRect.phase := State.rect_modTask_phase s _ _ _
@[simp] theorem State.myRect_begin_part (s : State) : s.begin.myRect.part = s.myRect.part := State.rect_modTask_part s _ _ _
@[simp] theorem State.myRect_modTask_part (s : State) (t : TaskRef) (f : Task → Task) : (s.modTask t f).myRect.part = s.myRect.part := State.rect_modTask_part s _ _ _
@[simp] theorem State.myRect_begin_tag (s : State) : s.begin.myRect.tag = s.myRect.tag := State.rect_modTask_tag s _ _ _
@[simp] theorem State.myRect_modTask_tag (s : State) (t : TaskRef) (f : Task → Task) : (s.modTask t f).myRect.tag = s.myRect.tag := State.rect_modTask_tag s _ _ _
@[simp] theorem State.myRect_begin_w (s : State) : s.begin.myRect.w = s.myRect.w := State.rect_modTask_w s _ _ _
@[simp] theorem State.myRect_modTask_w (s : State) (t : TaskRef) (f : Task → Task) : (s.modTask t f).myRect.w = s.myRect.w := State.rect_modTask_w s _ _ _
@[simp] theorem State.myRect_begin_h (s : State) : s.begin.myRect.h = s.myRect.h := State.rect_modTask_h s _ _ _
@[simp] theorem State.myRect_modTask_h (s : State) (t : TaskRef) (f : Task → Task) : (s.modTask t f).myRect.h = s.myRect.h := State.rect_modTask_h s _ _ _
@[simp] theorem State.myRect_begin_px (s : State) : s.begin.myRect.px = s.myRect.px := State.rect_modTask_px s _ _ _
@[simp] theorem State.myRect_modTask_px (s : State) (t : TaskRef) (f : Task → Task) : (s.modTask t f).myRect.px = s.myRect.px := State.rect_modTask_px s _ _ _
@[simp] theorem State.myRect_begin_py (s : State) : s.begin.myRect.py = s.myRect.py := State.rect_modTask_py s _ _ _
@[simp] theorem State.myRect_modTask_py (s : State) (t : TaskRef) (f : Task → Task) : (s.modTask t f).myRect.py = s.myRect.py := State.rect_modTask_py s _ _ _
@[simp] theorem State.myRect_begin_image (s : State) : s.begin.myRect.image = s.myRect.image := State.rect_modTask_image s _ _ _
@[simp] theorem State.myRect_modTask_image (s : State) (t : TaskRef) (f : Task → Task) : (s.modTask t f).myRect.image = s.myRect.image := State.rect_modTask_image s _ _ _
@[simp] theorem State.myRect_begin_handlerDef (s : State) : s.begin.myRect.handlerDef = s.myRect.handlerDef := State.rect_modTask_handlerDef s _ _ _
@[simp] theorem State.myRect_modTask_handlerDef (s : State) (t : TaskRef) (f : Task → Task) : (s.modTask t f).myRect.handlerDef = s.myRect.handlerDef := State.rect_modTask_handlerDef s _ _ _
@[simp] theorem State.myRect_begin_spill (s : State) : s.begin.myRect.spill = s.myRect.spill := State.rect_modTask_spill s _ _ _
@[simp] theorem State.myRect_modTask_spill (s : State) (t : TaskRef) (f : Task → Task) : (s.modTask t f).myRect.spill = s.myRect.spill := State.rect_modTask_spill s _ _ _
@[simp] theorem State.myRect_begin_frames (s : State) : s.begin.myRect.frames = s.myRect.frames := State.rect_modTask_frames s _ _ _
@[simp] theorem State.myRect_modTask_frames (s : State) (t : TaskRef) (f : Task → Task) : (s.modTask t f).myRect.frames = s.myRect.frames := State.rect_modTask_frames s _ _ _
@[simp] theorem State.myRect_begin_lrec (s : State) : s.begin.myRect.lrec = s.myRect.lrec := State.rect_modTask_lrec s _ _ _
@[simp] theorem State.myRect_modTask_lrec (s : State) (t : TaskRef) (f : Task → Task) : (s.modTask t f).myRect.lrec = s.myRect.lrec := State.rect_modTask_lrec s _ _ _
@[simp] theorem State.myRect_begin_laddr (s : State) : s.begin.myRect.laddr = s.myRect.laddr := State.rect_modTask_laddr s _ _ _
@[simp] theorem State.myRect_modTask_laddr (s : State) (t : TaskRef) (f : Task → Task) : (s.modTask t f).myRect.laddr = s.myRect.laddr := State.rect_modTask_laddr s _ _ _
@[simp] theorem State.myRect_begin_src (s : State) : s.begin.myRect.src = s.myRect.src := State.rect_modTask_src s _ _ _
@[simp] theorem State.myRect_modTask_src (s : State) (t : TaskRef) (f : Task → Task) : (s.modTask t f).myRect.src = s.myRect.src := State.rect_modTask_src s _ _ _
@[simp] theorem State.myRect_begin_launch (s : State) : s.begin.myRect.launch = s.myRect.launch := State.rect_modTask_launch s _ _ _
@[simp] theorem State.myRect_modTask_launch (s : State) (t : TaskRef) (f : Task → Task) : (s.modTask t f).myRect.launch = s.myRect.launch := State.rect_modTask_launch s _ _ _
@[simp] theorem State.myRect_begin_stage (s : State) : s.begin.myRect.stage = s.myRect.stage := State.rect_modTask_stage s _ _ _
@[simp] theorem State.myRect_modTask_stage (s : State) (t : TaskRef) (f : Task → Task) : (s.modTask t f).myRect.stage = s.myRect.stage := State.rect_modTask_stage s _ _ _
@[simp] theorem State.myRect_begin_retiring (s : State) : s.begin.myRect.retiring = s.myRect.retiring := State.rect_modTask_retiring s _ _ _
@[simp] theorem State.myRect_modTask_retiring (s : State) (t : TaskRef) (f : Task → Task) : (s.modTask t f).myRect.retiring = s.myRect.retiring := State.rect_modTask_retiring s _ _ _
@[simp] theorem State.myRect_begin_moving (s : State) : s.begin.myRect.moving = s.myRect.moving := State.rect_modTask_moving s _ _ _
@[simp] theorem State.myRect_modTask_moving (s : State) (t : TaskRef) (f : Task → Task) : (s.modTask t f).myRect.moving = s.myRect.moving := State.rect_modTask_moving s _ _ _
@[simp] theorem State.myRect_begin_clock (s : State) : s.begin.myRect.clock = s.myRect.clock := State.rect_modTask_clock s _ _ _
@[simp] theorem State.myRect_modTask_clock (s : State) (t : TaskRef) (f : Task → Task) : (s.modTask t f).myRect.clock = s.myRect.clock := State.rect_modTask_clock s _ _ _
@[simp] theorem State.myRect_begin_frozen (s : State) : s.begin.myRect.frozen = s.myRect.frozen := State.rect_modTask_frozen s _ _ _
@[simp] theorem State.myRect_modTask_frozen (s : State) (t : TaskRef) (f : Task → Task) : (s.modTask t f).myRect.frozen = s.myRect.frozen := State.rect_modTask_frozen s _ _ _
@[simp] theorem State.myRect_begin_bound (s : State) : s.begin.myRect.bound = s.myRect.bound := State.rect_modTask_bound s _ _ _
@[simp] theorem State.myRect_modTask_bound (s : State) (t : TaskRef) (f : Task → Task) : (s.modTask t f).myRect.bound = s.myRect.bound := State.rect_modTask_bound s _ _ _
@[simp] theorem State.myRect_begin_capsig (s : State) : s.begin.myRect.capsig = s.myRect.capsig := State.rect_modTask_capsig s _ _ _
@[simp] theorem State.myRect_modTask_capsig (s : State) (t : TaskRef) (f : Task → Task) : (s.modTask t f).myRect.capsig = s.myRect.capsig := State.rect_modTask_capsig s _ _ _
@[simp] theorem State.myRect_begin_announced (s : State) : s.begin.myRect.announced = s.myRect.announced := State.rect_modTask_announced s _ _ _
@[simp] theorem State.myRect_modTask_announced (s : State) (t : TaskRef) (f : Task → Task) : (s.modTask t f).myRect.announced = s.myRect.announced := State.rect_modTask_announced s _ _ _
@[simp] theorem State.myRect_begin_reload (s : State) : s.begin.myRect.reload = s.myRect.reload := State.rect_modTask_reload s _ _ _
@[simp] theorem State.myRect_modTask_reload (s : State) (t : TaskRef) (f : Task → Task) : (s.modTask t f).myRect.reload = s.myRect.reload := State.rect_modTask_reload s _ _ _
@[simp] theorem State.myRect_begin_started (s : State) : s.begin.myRect.started = s.myRect.started := State.rect_modTask_started s _ _ _
@[simp] theorem State.myRect_modTask_started (s : State) (t : TaskRef) (f : Task → Task) : (s.modTask t f).myRect.started = s.myRect.started := State.rect_modTask_started s _ _ _
@[simp] theorem State.myRect_begin_complete (s : State) : s.begin.myRect.complete = s.myRect.complete := State.rect_modTask_complete s _ _ _
@[simp] theorem State.myRect_modTask_complete (s : State) (t : TaskRef) (f : Task → Task) : (s.modTask t f).myRect.complete = s.myRect.complete := State.rect_modTask_complete s _ _ _
@[simp] theorem State.myRect_begin_requested (s : State) : s.begin.myRect.requested = s.myRect.requested := State.rect_modTask_requested s _ _ _
@[simp] theorem State.myRect_modTask_requested (s : State) (t : TaskRef) (f : Task → Task) : (s.modTask t f).myRect.requested = s.myRect.requested := State.rect_modTask_requested s _ _ _
@[simp] theorem State.myRect_begin_prog (s : State) : s.begin.myRect.prog = s.myRect.prog := State.rect_modTask_prog s _ _ _
@[simp] theorem State.myRect_modTask_prog (s : State) (t : TaskRef) (f : Task → Task) : (s.modTask t f).myRect.prog = s.myRect.prog := State.rect_modTask_prog s _ _ _
@[simp] theorem State.myRect_begin_record (s : State) : s.begin.myRect.record = s.myRect.record := State.rect_modTask_record s _ _ _
@[simp] theorem State.myRect_modTask_record (s : State) (t : TaskRef) (f : Task → Task) : (s.modTask t f).myRect.record = s.myRect.record := State.rect_modTask_record s _ _ _
@[simp] theorem State.myRect_begin_repeats (s : State) : s.begin.myRect.repeats = s.myRect.repeats := State.rect_modTask_repeats s _ _ _
@[simp] theorem State.myRect_modTask_repeats (s : State) (t : TaskRef) (f : Task → Task) : (s.modTask t f).myRect.repeats = s.myRect.repeats := State.rect_modTask_repeats s _ _ _
@[simp] theorem State.myRect_begin_rollbacks (s : State) : s.begin.myRect.rollbacks = s.myRect.rollbacks := State.rect_modTask_rollbacks s _ _ _
@[simp] theorem State.myRect_modTask_rollbacks (s : State) (t : TaskRef) (f : Task → Task) : (s.modTask t f).myRect.rollbacks = s.myRect.rollbacks := State.rect_modTask_rollbacks s _ _ _
@[simp] theorem State.myRect_begin_ending (s : State) : s.begin.myRect.ending = s.myRect.ending := State.rect_modTask_ending s _ _ _
@[simp] theorem State.myRect_modTask_ending (s : State) (t : TaskRef) (f : Task → Task) : (s.modTask t f).myRect.ending = s.myRect.ending := State.rect_modTask_ending s _ _ _
@[simp] theorem State.myRect_begin_halting (s : State) : s.begin.myRect.halting = s.myRect.halting := State.rect_modTask_halting s _ _ _
@[simp] theorem State.myRect_modTask_halting (s : State) (t : TaskRef) (f : Task → Task) : (s.modTask t f).myRect.halting = s.myRect.halting := State.rect_modTask_halting s _ _ _
@[simp] theorem State.myRect_begin_undo (s : State) : s.begin.myRect.undo = s.myRect.undo := State.rect_modTask_undo s _ _ _
@[simp] theorem State.myRect_modTask_undo (s : State) (t : TaskRef) (f : Task → Task) : (s.modTask t f).myRect.undo = s.myRect.undo := State.rect_modTask_undo s _ _ _
@[simp] theorem State.myRect_begin_remote (s : State) : s.begin.myRect.remote = s.myRect.remote := State.rect_modTask_remote s _ _ _
@[simp] theorem State.myRect_modTask_remote (s : State) (t : TaskRef) (f : Task → Task) : (s.modTask t f).myRect.remote = s.myRect.remote := State.rect_modTask_remote s _ _ _
@[simp] theorem State.myRect_begin_soft (s : State) : s.begin.myRect.soft = s.myRect.soft := State.rect_modTask_soft s _ _ _
@[simp] theorem State.myRect_modTask_soft (s : State) (t : TaskRef) (f : Task → Task) : (s.modTask t f).myRect.soft = s.myRect.soft := State.rect_modTask_soft s _ _ _
@[simp] theorem State.myRect_begin_verdict (s : State) : s.begin.myRect.verdict = s.myRect.verdict := State.rect_modTask_verdict s _ _ _
@[simp] theorem State.myRect_modTask_verdict (s : State) (t : TaskRef) (f : Task → Task) : (s.modTask t f).myRect.verdict = s.myRect.verdict := State.rect_modTask_verdict s _ _ _
@[simp] theorem State.part_modTask (s : State) (t : TaskRef) (f : Task → Task) (n : Nat) : (s.modTask t f).part n = s.part n := rfl
@[simp] theorem State.part_begin (s : State) (n : Nat) : s.begin.part n = s.part n := rfl
@[simp] theorem State.tenant_modTask (s : State) (t : TaskRef) (f : Task → Task) (n : Nat) : (s.modTask t f).tenant n = s.tenant n := rfl
@[simp] theorem State.tenant_begin (s : State) (n : Nat) : s.begin.tenant n = s.tenant n := rfl
@[simp] theorem State.die_modTask (s : State) (t : TaskRef) (f : Task → Task) (n : Nat) : (s.modTask t f).die n = s.die n := rfl
@[simp] theorem State.die_begin (s : State) (n : Nat) : s.begin.die n = s.die n := rfl
@[simp] theorem State.granule_modTask (s : State) (t : TaskRef) (f : Task → Task) (n : Nat) : (s.modTask t f).granule n = s.granule n := rfl
@[simp] theorem State.granule_begin (s : State) (n : Nat) : s.begin.granule n = s.granule n := rfl
@[simp] theorem State.begin_agenda (s : State) : s.begin.agenda = s.agenda := rfl
@[simp] theorem State.begin_turn (s : State) : s.begin.turn = s.turn := rfl
@[simp] theorem State.begin_nextCore (s : State) : s.begin.nextCore = s.nextCore := rfl
@[simp] theorem State.begin_nextAgent (s : State) : s.begin.nextAgent = s.nextAgent := rfl
@[simp] theorem State.begin_steps (s : State) : s.begin.steps = s.steps := rfl
@[simp] theorem State.begin_nextId (s : State) : s.begin.nextId = s.nextId := rfl
@[simp] theorem State.begin_worn (s : State) : s.begin.worn = s.worn := rfl
@[simp] theorem State.begin_disabled (s : State) : s.begin.disabled = s.disabled := rfl
@[simp] theorem State.begin_boxTags (s : State) : s.begin.boxTags = s.boxTags := rfl
@[simp] theorem State.begin_edgeMasks (s : State) : s.begin.edgeMasks = s.edgeMasks := rfl
@[simp] theorem State.begin_gates (s : State) : s.begin.gates = s.gates := rfl
@[simp] theorem State.begin_accesses (s : State) : s.begin.accesses = s.accesses := rfl
@[simp] theorem State.begin_walks (s : State) : s.begin.walks = s.walks := rfl
@[simp] theorem State.begin_refused (s : State) : s.begin.refused = s.refused := rfl
@[simp] theorem State.begin_tlb1 (s : State) : s.begin.tlb1 = s.tlb1 := rfl
@[simp] theorem State.begin_tlb2 (s : State) : s.begin.tlb2 = s.tlb2 := rfl
@[simp] theorem State.begin_lines (s : State) : s.begin.lines = s.lines := rfl
@[simp] theorem State.begin_mem (s : State) : s.begin.mem = s.mem := rfl
@[simp] theorem State.begin_peer (s : State) : s.begin.peer = s.peer := rfl
@[simp] theorem State.begin_pages (s : State) : s.begin.pages = s.pages := rfl
@[simp] theorem State.begin_granules (s : State) : s.begin.granules = s.granules := rfl
@[simp] theorem State.begin_shareSets (s : State) : s.begin.shareSets = s.shareSets := rfl
@[simp] theorem State.begin_exports (s : State) : s.begin.exports = s.exports := rfl
@[simp] theorem State.begin_invals (s : State) : s.begin.invals = s.invals := rfl
@[simp] theorem State.begin_migrations (s : State) : s.begin.migrations = s.migrations := rfl
@[simp] theorem State.begin_mode (s : State) : s.begin.mode = s.mode := rfl
@[simp] theorem State.begin_quantum (s : State) : s.begin.quantum = s.quantum := rfl
@[simp] theorem State.begin_parts (s : State) : s.begin.parts = s.parts := rfl
@[simp] theorem State.begin_tenants (s : State) : s.begin.tenants = s.tenants := rfl
@[simp] theorem State.begin_nextLease (s : State) : s.begin.nextLease = s.nextLease := rfl
@[simp] theorem State.begin_launches (s : State) : s.begin.launches = s.launches := rfl
@[simp] theorem State.begin_stages (s : State) : s.begin.stages = s.stages := rfl
@[simp] theorem State.begin_arbiters (s : State) : s.begin.arbiters = s.arbiters := rfl
@[simp] theorem State.begin_dies (s : State) : s.begin.dies = s.dies := rfl
@[simp] theorem State.begin_primary (s : State) : s.begin.primary = s.primary := rfl
@[simp] theorem State.begin_timeDie (s : State) : s.begin.timeDie = s.timeDie := rfl
@[simp] theorem State.begin_store (s : State) : s.begin.store = s.store := rfl
@[simp] theorem State.begin_staged (s : State) : s.begin.staged = s.staged := rfl
@[simp] theorem State.begin_minVersion (s : State) : s.begin.minVersion = s.minVersion := rfl
@[simp] theorem State.begin_calls (s : State) : s.begin.calls = s.calls := rfl
@[simp] theorem State.begin_journal (s : State) : s.begin.journal = s.journal := rfl
@[simp] theorem State.begin_queues (s : State) : s.begin.queues = s.queues := rfl
@[simp] theorem State.begin_doorbell (s : State) : s.begin.doorbell = s.doorbell := rfl
@[simp] theorem State.begin_notifyDrops (s : State) : s.begin.notifyDrops = s.notifyDrops := rfl
@[simp] theorem State.begin_links (s : State) : s.begin.links = s.links := rfl
@[simp] theorem State.begin_wear (s : State) : s.begin.wear = s.wear := rfl
@[simp] theorem State.begin_wearEntry (s : State) : s.begin.wearEntry = s.wearEntry := rfl
@[simp] theorem State.begin_wearAt (s : State) : s.begin.wearAt = s.wearAt := rfl
@[simp] theorem State.begin_reply (s : State) : s.begin.reply = s.reply := rfl
@[simp] theorem State.begin_mailbox (s : State) : s.begin.mailbox = s.mailbox := rfl
@[simp] theorem State.begin_house (s : State) : s.begin.house = s.house := rfl

theorem Rect.phys_of {x y : Rect} (hx : x.px = y.px) (hy : x.py = y.py) (c : Nat) : x.phys c = y.phys c := by
  simp [Rect.phys, hx, hy]
@[simp] theorem State.dieOfCore_modTask (s : State) (t : TaskRef) (f : Task → Task) (c : CoreRef) : (s.modTask t f).dieOfCore c = s.dieOfCore c := by
  simp [State.dieOfCore, Rect.phys]
@[simp] theorem State.dieOfTask_modTask (s : State) (t : TaskRef) (f : Task → Task) (u : TaskRef) : (s.modTask t f).dieOfTask u = s.dieOfTask u := State.dieOfCore_modTask s t f _
@[simp] theorem State.timeOf_modTask (s : State) (t : TaskRef) (f : Task → Task) (c : CoreRef) : (s.modTask t f).timeOf c = s.timeOf c := by
  simp [State.timeOf]
@[simp] theorem State.dieOfTask_begin (s : State) (u : TaskRef) : s.begin.dieOfTask u = s.dieOfTask u := State.dieOfTask_modTask s _ _ u
@[simp] theorem State.dieOfCore_begin (s : State) (c : CoreRef) : s.begin.dieOfCore c = s.dieOfCore c := State.dieOfCore_modTask s _ _ c
@[simp] theorem State.timeOf_begin (s : State) (c : CoreRef) : s.begin.timeOf c = s.timeOf c := State.timeOf_modTask s _ _ c
@[simp] theorem State.outstanding_modTask (s : State) (t : TaskRef) (f : Task → Task) (c : CoreRef) : (s.modTask t f).outstanding c = s.outstanding c := by
  simp [State.outstanding]
@[simp] theorem State.outstanding_begin (s : State) (c : CoreRef) : s.begin.outstanding c = s.outstanding c := State.outstanding_modTask s _ _ c
@[simp] theorem State.ownPending_modTask (s : State) (t u : TaskRef) (f : Task → Task) (n : Nat) (b : Bool) : (s.modTask t f).ownPending u n b = s.ownPending u n b := by
  simp [State.ownPending]
@[simp] theorem State.ownPending_begin (s : State) (u : TaskRef) (n : Nat) (b : Bool) : s.begin.ownPending u n b = s.ownPending u n b := State.ownPending_modTask s _ u _ n b

/-- The issuing task's change and its loop-end step are one change. -/
theorem State.begin_modTask (s : State) (f : Task → Task) : s.begin.modTask s.cur f = s.modTask s.cur (fun t => f t.unwait) := by
  simp [State.begin, State.modTask_modTask]

/-- Memory of every kind is as before a change of one task. -/
theorem State.scratch_modTask (s : State) (t : TaskRef) (f : Task → Task) (c : CoreRef) :
    ((s.modTask t f).core c).scratch = (s.core c).scratch := by simp

end Sys2Proof.Machine
end

section
/-! SUPPORT. The fields of an instruction word as the statements name them and as the decoder unpacks them (Table 3.1),
and what the decoder answers for an opcode whose other faults are its zero fields and its guard (R73). -/

namespace Sys2Proof.Cert

open Sys2Proof.Machine

/-! ## The fields of a word -/

theorem toNat_extract (w : Word) (lo n : Nat) : (w.extractLsb' lo n).toNat = w.toNat / 2 ^ lo % 2 ^ n := by
  rw [BitVec.extractLsb'_toNat, Nat.shiftRight_eq_div_pow]

/-- A single bit of a word, as the decoder computes it. -/
theorem bit_eq_getLsbD (w : Word) (k : Nat) : (w.toNat / 2 ^ k % 2 == 1) = w.getLsbD k := by
  rw [← BitVec.testBit_toNat, Nat.testBit_eq_decide_div_mod_eq]
  rfl

theorem unpack_op (w : Word) : (Fields.unpack w.toNat).op = (opOf w).toNat := (toNat_extract w 56 8).symm

theorem unpack_op_eq {w : Word} {k : BitVec 8} (h : opOf w = k) : (Fields.unpack w.toNat).op = k.toNat := by
  rw [unpack_op, h]

theorem unpack_x (w : Word) : (Fields.unpack w.toNat).x = (w.extractLsb' 0 32).toNat := by
  rw [toNat_extract, Nat.pow_zero, Nat.div_one]
  rfl

theorem unpack_imm (w : Word) : BitVec.ofNat 32 (Fields.unpack w.toNat).x = w.extractLsb' 0 32 := by
  rw [unpack_x, BitVec.ofNat_toNat, BitVec.setWidth_eq]

theorem unpack_guard (w : Word) : (Fields.unpack w.toNat).guard = guardOf w := by
  rw [guardOf, toNat_extract, ← bit_eq_getLsbD]
  rfl

theorem unpack_regD (w : Word) : (Fields.unpack w.toNat).regD = dOf w := by
  rw [dOf, toNat_extract]
  rfl

theorem unpack_srcA (w : Word) : (Fields.unpack w.toNat).srcA = aOf w := by
  rw [aOf, toNat_extract, ← bit_eq_getLsbD]
  rfl

theorem unpack_srcB (w : Word) : (Fields.unpack w.toNat).srcB = bOf w := by
  rw [bOf, toNat_extract, ← bit_eq_getLsbD]
  rfl

theorem unpack_c (w : Word) : (Fields.unpack w.toNat).c = (w.extractLsb' 19 6).toNat := by
  simp only [Fields.c, Fields.unpack, toNat_extract]
  omega

/-- A field is zero exactly when its number is. -/
theorem extract_eq_zero_iff (w : Word) (lo n : Nat) : w.extractLsb' lo n = 0#n ↔ w.toNat / 2 ^ lo % 2 ^ n = 0 := by
  rw [← BitVec.toNat_inj, toNat_extract, BitVec.toNat_ofNat, Nat.zero_mod]

/-- R69: the reserved guard is the one that is not well formed. -/
theorem guardOf_wf_iff (w : Word) : (guardOf w).wf = true ↔ ¬ guardReserved w := by
  have hp : (Fin.ofNat 8 (w.extractLsb' 52 3).toNat).val = 0 ↔ w.extractLsb' 52 3 = 0#3 := by
    rw [extract_eq_zero_iff, toNat_extract, Fin.val_ofNat]
    omega
  simp only [Guard.wf, guardOf, guardReserved, Bool.not_eq_true', Bool.and_eq_false_iff, beq_eq_false_iff_ne, ne_eq, hp,
    not_and_or, Bool.not_eq_true]

/-! ## Fields that must be zero -/

section
variable {w : Word} {f : Fields} (hf : f = Fields.unpack w.toNat)
include hf

/-- Every field but OP, GN and GP (R153). -/
theorem zeros_below_guard_iff : zeros [f.d, f.a, f.b, f.ea, f.eb, f.x] = true ↔ w.extractLsb' 0 52 = 0#52 := by
  rw [extract_eq_zero_iff, hf]
  simp only [zeros, Fields.unpack, List.all_cons, List.all_nil, Bool.and_true, Bool.and_eq_true, beq_iff_eq]
  omega

/-- A, B and their policies (R152). -/
theorem zeros_sources_iff : zeros [f.a, f.b, f.ea, f.eb] = true ↔ w.extractLsb' 32 14 = 0#14 := by
  rw [extract_eq_zero_iff, hf]
  simp only [zeros, Fields.unpack, List.all_cons, List.all_nil, Bool.and_true, Bool.and_eq_true, beq_iff_eq]
  omega

/-- TY, RM and the unused bits of format R (R149). -/
theorem zeros_ty_rm_low_iff :
    zeros [f.ty, f.rm, f.lo19] = true ↔ w.extractLsb' 25 7 = 0#7 ∧ w.extractLsb' 0 19 = 0#19 := by
  rw [extract_eq_zero_iff, extract_eq_zero_iff, hf]
  simp only [zeros, Fields.ty, Fields.rm, Fields.lo19, Fields.unpack, List.all_cons, List.all_nil, Bool.and_true,
    Bool.and_eq_true, beq_iff_eq]
  omega

end

/-! ## The decoder on one opcode -/

section
variable {w : Word} {ok : Bool} {j : Instr}

/-- An assigned opcode whose row asks for `ok` and for a guard that is not reserved decodes to its row and to nothing else. -/
theorem decode_ok_iff (hop : opcodeUnassigned (opOf w).toNat = false)
    (hrow : decodeFields (Fields.unpack w.toNat) = need ok j) (hwf : j.wf = (Fields.unpack w.toNat).guard.wf) (i : Instr) :
    decode w = .ok i ↔ (ok = true ∧ ¬ guardReserved w ∧ i = j) := by
  rw [← guardOf_wf_iff, ← unpack_guard, ← hwf]
  simp only [decode, unpack_op, hop, hrow, need, Bool.false_eq_true, if_false]
  cases ok with
  | false => simp
  | true =>
    by_cases hj : j.wf = true
    · simp [hj, eq_comm]
    · simp only [hj, if_true, if_false, false_and, and_false, iff_false, Bool.false_eq_true]
      cases j.ctlIndex with
      | none => simp
      | some idx => simp only []; split <;> simp

/-- With the reserved guard it is a decode fault, unless the row names a control register (R73). -/
theorem decode_guardReserved (hop : opcodeUnassigned (opOf w).toNat = false)
    (hrow : decodeFields (Fields.unpack w.toNat) = need ok j) (hwf : j.wf = (Fields.unpack w.toNat).guard.wf) (hctl : j.ctlIndex = none)
    (hg : guardReserved w) : decode w = .error .reserved := by
  have hj : j.wf = false := by
    rw [hwf, unpack_guard, ← Bool.not_eq_true, guardOf_wf_iff, not_not]
    exact hg
  simp only [decode, unpack_op, hop, hrow, need]
  cases ok <;> simp [hj, hctl]

end

/-! The rows of Table 3.6 for the instructions of R149, R152 and R153. -/

theorem decodeFields_nop {f : Fields} (h : f.op = 0x00) :
    decodeFields f = need (zeros [f.d, f.a, f.b, f.ea, f.eb, f.x]) (.nop f.guard) := by
  simp [decodeFields, decode0, h]

theorem decodeFields_sel {f : Fields} (h : f.op = 0x33) :
    decodeFields f = need (zeros [f.ty, f.rm, f.lo19]) (.sel f.guard f.regD f.srcA f.srcB (Fin.ofNat 64 f.c)) := by
  simp [decodeFields, decode3, h]

theorem decodeFields_li {f : Fields} (h : f.op = 0x37) :
    decodeFields f = need (zeros [f.a, f.b, f.ea, f.eb]) (.li f.guard f.regD (BitVec.ofNat 32 f.x)) := by
  simp [decodeFields, decode3, h]

theorem decodeFields_lih {f : Fields} (h : f.op = 0x38) :
    decodeFields f = need (zeros [f.a, f.b, f.ea, f.eb]) (.lih f.guard f.regD (BitVec.ofNat 32 f.x)) := by
  simp [decodeFields, decode3, h]

/-- R73: a word that does not decode traps ILLEGAL, with the task's wait over. -/
theorem stepTask_decode_error {s : State} {t : TaskRef} {e : DecodeError} (h : decode (s.fetchWord t) = .error e) :
    stepTask s t = .next (traps ({ s with cur := t } : State) 0x01 (decodeTval (s.fetchWord t) e)) := by
  rw [stepTask]
  simp only [h]
  rfl

end Sys2Proof.Cert
end

section
/-! SUPPORT. The issue of an instruction of its own task in the words of the statements: it retires where it executes or its
guard is false, and waits for its first register that is not there (R44 to R46, R69, R73). -/

namespace Sys2Proof.Machine

@[simp] theorem Task.pred_write (t : Task) (r : Reg) (v : Word) (p : Fin 8) : (t.write r v).pred p = t.pred p := by
  simp [Task.pred]

theorem Task.isFull_iff (t : Task) (r : Reg) : t.isFull r = true ↔ t.presence r = .full := by
  unfold Task.isFull
  cases t.presence r <;> simp

/-- R45: a source holds an instruction up exactly when it is not full. -/
theorem Need.src_waits_iff {t : Task} {r : Reg} {trap : Bool} : (Need.src r trap).waits t = true ↔ t.presence r ≠ .full := by
  rw [Need.waits, Bool.not_eq_true', ← Bool.not_eq_true, Task.isFull_iff]

/-- A source or destination that does not hold an instruction up does not trap either. -/
theorem Need.traps_eq_false {t : Task} {n : Need} (h : n.waits t = false) : n.traps t = false := by
  cases n with
  | dst r => rfl
  | src r trap =>
    cases trap with
    | false => rfl
    | true =>
      rw [← Bool.not_eq_true, Need.src_waits_iff, not_not] at h
      simp [Need.traps, Task.isEmpty, h]

/-- Where no source traps EMPTY, the first register that is not there is waited for. -/
theorem Task.check_waitFor {t : Task} {pre post : List Need} {n : Need} (hpre : ∀ m ∈ pre, m.waits t = false)
    (htrap : n.traps t = false) (hn : n.waits t = true) (hpost : ∀ m ∈ post, m.traps t = false) :
    t.check (pre ++ n :: post) = .waitFor n.reg := by
  have h1 : (pre ++ n :: post).find? (Need.traps t) = none := by
    rw [List.find?_eq_none]
    intro m hm
    rw [List.mem_append, List.mem_cons] at hm
    obtain hm | rfl | hm := hm
    · simp [Need.traps_eq_false (hpre m hm)]
    · simp [htrap]
    · simp [hpost m hm]
  have h2 : (pre ++ n :: post).find? (Need.waits t) = some n := by
    have hnone : pre.find? (Need.waits t) = none := by
      rw [List.find?_eq_none]
      intro m hm
      simp [hpre m hm]
    rw [List.find?_append, hnone, List.find?_cons_of_pos hn]
    rfl
  rw [Task.check, h1]
  simp only [h2]

end Sys2Proof.Machine

namespace Sys2Proof.Cert

open Sys2Proof.Machine

/-- The operand is one of the registers that a statement says are there. -/
def listed (srcs dsts : List Reg) : Need → Prop
  | .src r _ => r ∈ srcs
  | .dst r => r ∈ dsts

variable {s : State} {g : Guard} {srcs dsts : List Reg} {needs : List Need} {f f' : Task → Task}

theorem Executes.guard_true (h : Executes s g srcs dsts) : s.me.guard g = true := h.1

theorem Executes.waits_eq_false (h : Executes s g srcs dsts) {n : Need} (hn : listed srcs dsts n) : n.waits s.me = false := by
  obtain ⟨-, hsrc, hdst⟩ := h
  cases n with
  | src r trap => exact Need.src_full (hsrc r hn)
  | dst r => exact Need.dst_ok (hdst r hn)

theorem retire_congr (h : f s.me.unwait = f' s.me.unwait) : retire s f = retire s f' := by
  simp only [retire, State.modTask, ← State.me_def, h]

/-- An instruction of its own task that executes makes its change and retires. -/
theorem issueT_retires (h : Executes s g srcs dsts) (hn : ∀ n ∈ needs, listed srcs dsts n) (f : Task → Task) :
    issueT g needs f s = .next (retire s f) :=
  issueT_runs h.guard_true (fun n hm => h.waits_eq_false (hn n hm)) f

/-- R69: with a false guard it changes nothing and retires. -/
theorem issueT_guard_false (hg : s.me.guard g = false) (needs : List Need) (f : Task → Task) :
    issueT g needs f s = .next (retire s id) := issueP_guard_false hg (fun _ => none) needs (fun s => .go (s.modTask s.cur f))

/-- R45: a source that is not full is waited for, where the operands before it are there and none traps. -/
theorem issueT_blocks {pre post : List Need} {r : Reg} (h : Executes s g srcs dsts) (hpre : ∀ n ∈ pre, listed srcs dsts n)
    (hr : s.me.presence r ≠ .full) (hpost : ∀ n ∈ post, n.traps s.me = false) (f : Task → Task) :
    issueT g (pre ++ .src r false :: post) f s = .next (blocksOn s r) := by
  have hc : s.me.check (pre ++ .src r false :: post) = .waitFor r :=
    Task.check_waitFor (fun n hm => h.waits_eq_false (hpre n hm)) rfl (Need.src_waits_iff.mpr hr) hpost
  have hg : s.me.unwait.guard g = true := h.guard_true
  have hc' : s.me.unwait.check (pre ++ .src r false :: post) = .waitFor r := hc
  rw [issueT, issue, issueP_cases, State.me_begin, if_pos hg]
  simp only [hc', State.begin_modTask, Task.waitFor_unwait, blocksOn]

end Sys2Proof.Cert
end

section
/-! The statements of NOP, LI, LIH and SEL (05). -/

namespace Sys2Proof.Cert

open Sys2Proof.Machine

/-! ## NOP (R153) -/

theorem decode_nop_iff {w : Word} (h : opOf w = 0x00#8) (i : Instr) :
    decode w = .ok i ↔ (w.extractLsb' 0 52 = 0#52 ∧ ¬ guardReserved w ∧ i = .nop (guardOf w)) := by
  rw [decode_ok_iff (by rw [h]; decide) (decodeFields_nop (unpack_op_eq h)) rfl, zeros_below_guard_iff rfl, unpack_guard]

theorem decodeTval_reserved (w : Word) : decodeTval w .reserved = BitVec.ofNat 64 (w.toNat % 2 ^ 32) := by
  rw [decodeTval, ← BitVec.toNat_inj]
  simp only [BitVec.toNat_setWidth, BitVec.toNat_ofNat]

/-- R73: NOP with the reserved guard traps ILLEGAL. -/
theorem stepTask_nop_guardReserved {w : Word} (h : opOf w = 0x00#8) (hg : guardReserved w) {s : State} {t : TaskRef}
    (hw : s.fetchWord t = w) :
    stepTask s t = .next (traps ({ s with cur := t } : State) 0x01 (BitVec.ofNat 64 (w.toNat % 2 ^ 32))) := by
  subst hw
  rw [stepTask_decode_error (decode_guardReserved (by rw [h]; decide) (decodeFields_nop (unpack_op_eq h)) rfl rfl hg),
    decodeTval_reserved]

theorem exec_nop (g : Guard) (s : State) : exec (.nop g) s = .next (retire s id) := by
  change issueT g [] id s = _
  cases hg : s.me.guard g with
  | true => exact issueT_retires (srcs := []) (dsts := []) ⟨hg, by simp, by simp⟩ (by simp) id
  | false => exact issueT_guard_false hg [] id

/-- Settles O1: its row of the decoder has only the guard beside its zero fields, and its effect is the identity. -/
theorem nopWords : Obligations.NopWords := by
  unfold Obligations.NopWords
  refine ⟨fun w h => ⟨decode_nop_iff h, fun hg s t => stepTask_nop_guardReserved h hg⟩, ?_, exec_nop⟩
  exact (decode_nop_iff (by decide) _).mpr ⟨by decide, by simp [guardReserved], by decide⟩

/-! ## LI and LIH (R152) -/

theorem decode_li_iff {w : Word} (h : opOf w = 0x37#8) (i : Instr) :
    decode w = .ok i ↔ (w.extractLsb' 32 14 = 0#14 ∧ ¬ guardReserved w ∧ i = .li (guardOf w) (dOf w) (w.extractLsb' 0 32)) := by
  rw [decode_ok_iff (by rw [h]; decide) (decodeFields_li (unpack_op_eq h)) rfl, zeros_sources_iff rfl, unpack_guard, unpack_regD,
    unpack_imm]

theorem decode_lih_iff {w : Word} (h : opOf w = 0x38#8) (i : Instr) :
    decode w = .ok i ↔ (w.extractLsb' 32 14 = 0#14 ∧ ¬ guardReserved w ∧ i = .lih (guardOf w) (dOf w) (w.extractLsb' 0 32)) := by
  rw [decode_ok_iff (by rw [h]; decide) (decodeFields_lih (unpack_op_eq h)) rfl, zeros_sources_iff rfl, unpack_guard, unpack_regD,
    unpack_imm]

section
variable {s : State} {g : Guard} {d : Reg} (imm : W32)

theorem exec_li (h : Executes s g [] [d]) :
    exec (.li g d imm) s = .next (retire s (fun t => t.write d (BitVec.ofInt 64 imm.toInt))) :=
  issueT_retires h (by simp [listed]) _

theorem exec_lih (h : Executes s g [d] []) :
    exec (.lih g d imm) s = .next (retire s (fun t => t.write d (imm ++ (s.me.reg d).setWidth 32))) := by
  refine (issueT_retires h ?_ _).trans (congrArg _ (retire_congr ?_))
  · simp [listed]
  · rfl

theorem exec_lih_blocks (hg : s.me.guard g = true) (hd : s.me.presence d ≠ .full) :
    exec (.lih g d imm) s = .next (blocksOn s d) :=
  issueT_blocks (srcs := []) (dsts := []) (pre := []) (post := []) ⟨hg, by simp, by simp⟩ (by simp) hd (by simp) _

end

@[simp] theorem me_retire (s : State) (f : Task → Task) : (retire s f).me = (f s.me.unwait).loopEnd := State.me_modTask s _

/-- The low half of a sign-extended value is the value. -/
theorem setWidth_ofInt_toInt (x : W32) : (BitVec.ofInt 64 x.toInt).setWidth 32 = x := by
  change (x.signExtend 64).setWidth 32 = x
  ext i hi
  have h64 : i < 64 := by omega
  simp [BitVec.getElem_signExtend, hi, h64]

/-- R152: LI of the low half, then LIH of the high half. -/
theorem exec_li_lih {s : State} {g : Guard} {d : Reg} (e : Word) (h : Executes s g [] [d]) (hd : d ≠ 0) :
    ∃ t u, exec (.li g d (e.extractLsb' 0 32)) s = .next t ∧ exec (.lih g d (e.extractLsb' 32 32)) t = .next u ∧ u.me.reg d = e := by
  refine ⟨_, _, exec_li _ h, exec_lih _ ⟨?_, ?_, by simp⟩, ?_⟩
  · have hg := h.guard_true
    simpa [Task.guard] using hg
  · simp [Task.presence_write]
  · rw [me_retire, me_retire, Task.reg_loopEnd, Task.reg_loopEnd, Task.reg_write_same _ _ _ hd, Task.reg_write_same _ _ _ hd,
      setWidth_ofInt_toInt, BitVec.extractLsb'_append_extractLsb']

/-- Settles O2: both words have A, B and their policies zero, and the second half of LIH keeps what LI wrote. -/
theorem loadImmediates : Obligations.LoadImmediates := by
  unfold Obligations.LoadImmediates
  exact ⟨fun w i => ⟨fun h => decode_li_iff h i, fun h => decode_lih_iff h i⟩,
    fun s g d imm e => ⟨exec_li imm, exec_lih imm, exec_lih_blocks imm, exec_li_lih e⟩⟩

/-! ## SEL and the guarded move (R149) -/

theorem decode_sel_iff {w : Word} (h : opOf w = 0x33#8) (i : Instr) :
    decode w = .ok i ↔ (w.extractLsb' 25 7 = 0#7 ∧ w.extractLsb' 0 19 = 0#19 ∧ ¬ guardReserved w
      ∧ i = .sel (guardOf w) (dOf w) (aOf w) (bOf w) (Fin.ofNat 64 (w.extractLsb' 19 6).toNat)) := by
  rw [decode_ok_iff (by rw [h]; decide) (decodeFields_sel (unpack_op_eq h)) rfl, zeros_ty_rm_low_iff rfl, and_assoc, unpack_guard,
    unpack_regD, unpack_srcA, unpack_srcB, unpack_c]

section
variable {s : State} {g : Guard} {d c : Reg} {a b : Src}

theorem exec_sel (h : Executes s g [a.r, b.r, c] [d]) : exec (.sel g d a b c) s
    = .next (retire s (fun t => t.write d (if s.me.reg c ≠ 0 then val s a else val s b))) := by
  refine (issueT_retires h ?_ _).trans (congrArg _ (retire_congr ?_))
  · simp [listed, srcNeed]
  · rfl

theorem exec_sel_blocks_c (h : Executes s g [a.r, b.r] []) (hc : s.me.presence c ≠ .full) :
    exec (.sel g d a b c) s = .next (blocksOn s c) :=
  issueT_blocks (pre := [srcNeed a, srcNeed b]) (post := [.dst d]) h (by simp [listed, srcNeed]) hc (by simp [Need.traps]) _

theorem exec_sel_blocks_b (h : Executes s g [a.r, c] []) (hb : s.me.presence b.r ≠ .full) (ht : b.trap = false) :
    exec (.sel g d a b c) s = .next (blocksOn s b.r) := by
  change issueT g ([srcNeed a] ++ .src b.r b.trap :: [.src c false, .dst d]) _ s = _
  rw [ht]
  exact issueT_blocks h (by simp [listed, srcNeed]) hb (by simp [Need.traps]) _

theorem exec_sel_blocks_a (h : Executes s g [b.r, c] []) (ha : s.me.presence a.r ≠ .full) (ht : a.trap = false) :
    exec (.sel g d a b c) s = .next (blocksOn s a.r) := by
  have hb : (srcNeed b).traps s.me = false := Need.traps_eq_false (h.waits_eq_false (by simp [listed, srcNeed]))
  change issueT g ([] ++ .src a.r a.trap :: [srcNeed b, .src c false, .dst d]) _ s = _
  rw [ht]
  exact issueT_blocks h (by simp) ha (by simp only [List.forall_mem_cons]; exact ⟨hb, rfl, rfl, by simp⟩) _

/-- R149: ADD with s0 moves its source. -/
theorem exec_add_zero (h : Executes s g [a.r] [d]) :
    exec (.add g .d d a ⟨0, false⟩) s = .next (retire s (fun t => t.write d (val s a))) := by
  have h0 : Executes s g [a.r, 0] [d] := by
    obtain ⟨hg, hsrc, hdst⟩ := h
    exact ⟨hg, by simpa using hsrc, hdst⟩
  refine (issueT_retires h0 ?_ _).trans (congrArg _ (retire_congr ?_))
  · simp [listed, srcNeed]
  · simp [val, aluAdd, atWidth]

end

/-- Settles O3: SEL needs its three sources in the order of its fields, and s0 is always full and zero. -/
theorem selection : Obligations.Selection := by
  unfold Obligations.Selection
  refine ⟨fun w i h => decode_sel_iff h i,
    fun s g d a b c => ⟨exec_sel, exec_sel_blocks_c, exec_sel_blocks_b, exec_sel_blocks_a⟩,
    fun s p d a => ⟨exec_add_zero, fun hp => ?_⟩⟩
  have hg : s.me.guard ⟨false, p⟩ = false := by simp [Task.guard, hp]
  exact issueT_guard_false hg _ _

end Sys2Proof.Cert
end

section
/-! SUPPORT. The codes of Tables 3.3 to 3.5, R75 and R76 and the fields of Tables 3.1 and 3.2: what each reads as after it was
written. -/

namespace Sys2Proof

open Sys2Proof.Machine

/-! ## Codes -/

@[simp] theorem Width.ofCode_eq_some_iff {n : Nat} {c : Width} : Width.ofCode n = some c ↔ c.code = n := by
  constructor
  · intro h; unfold Width.ofCode at h; split at h <;> cases h <;> rfl
  · rintro rfl; cases c <;> rfl
theorem Width.code_lt (c : Width) : c.code < 2 := by cases c <;> decide

@[simp] theorem FWidth.ofCode_eq_some_iff {n : Nat} {c : FWidth} : FWidth.ofCode n = some c ↔ c.code = n := by
  constructor
  · intro h; unfold FWidth.ofCode at h; split at h <;> cases h <;> rfl
  · rintro rfl; cases c <;> rfl
theorem FWidth.code_lt (c : FWidth) : c.code < 2 := by cases c <;> decide

@[simp] theorem Rm.ofCode_eq_some_iff {n : Nat} {c : Rm} : Rm.ofCode n = some c ↔ c.code = n := by
  constructor
  · intro h; unfold Rm.ofCode at h; split at h <;> cases h <;> rfl
  · rintro rfl; cases c <;> rfl
theorem Rm.code_lt (c : Rm) : c.code < 6 := by cases c <;> decide

@[simp] theorem SgnOp.ofCode_eq_some_iff {n : Nat} {c : SgnOp} : SgnOp.ofCode n = some c ↔ c.code = n := by
  constructor
  · intro h; unfold SgnOp.ofCode at h; split at h <;> cases h <;> rfl
  · rintro rfl; cases c <;> rfl
theorem SgnOp.code_lt (c : SgnOp) : c.code < 3 := by cases c <;> decide

@[simp] theorem NumTy.ofCode_eq_some_iff {n : Nat} {c : NumTy} : NumTy.ofCode n = some c ↔ c.code = n := by
  constructor
  · intro h; unfold NumTy.ofCode at h; split at h <;> cases h <;> rfl
  · rintro rfl; cases c <;> rfl
theorem NumTy.code_lt (c : NumTy) : c.code < 9 := by cases c <;> decide

@[simp] theorem ICond.ofCode_eq_some_iff {n : Nat} {c : ICond} : ICond.ofCode n = some c ↔ c.code = n := by
  constructor
  · intro h; unfold ICond.ofCode at h; split at h <;> cases h <;> rfl
  · rintro rfl; cases c <;> rfl
theorem ICond.code_lt (c : ICond) : c.code < 6 := by cases c <;> decide

@[simp] theorem FCond.ofCode_eq_some_iff {n : Nat} {c : FCond} : FCond.ofCode n = some c ↔ c.code = n := by
  constructor
  · intro h; unfold FCond.ofCode at h; split at h <;> cases h <;> rfl
  · rintro rfl; cases c <;> rfl
theorem FCond.code_lt (c : FCond) : c.code < 4 := by cases c <;> decide

@[simp] theorem LdSize.ofCode_eq_some_iff {n : Nat} {c : LdSize} : LdSize.ofCode n = some c ↔ c.code = n := by
  constructor
  · intro h; unfold LdSize.ofCode at h; split at h <;> cases h <;> rfl
  · rintro rfl; cases c <;> rfl
theorem LdSize.code_lt (c : LdSize) : c.code < 7 := by cases c <;> decide

@[simp] theorem StSize.ofCode_eq_some_iff {n : Nat} {c : StSize} : StSize.ofCode n = some c ↔ c.code = n := by
  constructor
  · intro h; unfold StSize.ofCode at h; split at h <;> cases h <;> rfl
  · rintro rfl; cases c <;> rfl
theorem StSize.code_lt (c : StSize) : c.code < 7 := by cases c <;> decide

@[simp] theorem AtSize.ofCode_eq_some_iff {n : Nat} {c : AtSize} : AtSize.ofCode n = some c ↔ c.code = n := by
  constructor
  · intro h; unfold AtSize.ofCode at h; split at h <;> cases h <;> rfl
  · rintro rfl; cases c <;> rfl
theorem AtSize.code_lt (c : AtSize) : c.code < 7 := by cases c <;> decide

@[simp] theorem Scope.ofCode_eq_some_iff {n : Nat} {c : Scope} : Scope.ofCode n = some c ↔ c.code = n := by
  constructor
  · intro h; unfold Scope.ofCode at h; split at h <;> cases h <;> rfl
  · rintro rfl; cases c <;> rfl
theorem Scope.code_lt (c : Scope) : c.code < 7 := by cases c <;> decide

@[simp] theorem Order.ofCode_eq_some_iff {n : Nat} {c : Order} : Order.ofCode n = some c ↔ c.code = n := by
  constructor
  · intro h; unfold Order.ofCode at h; split at h <;> cases h <;> rfl
  · rintro rfl; cases c <;> rfl
theorem Order.code_lt (c : Order) : c.code < 4 := by cases c <;> decide

@[simp] theorem Policy.ofCode_eq_some_iff {n : Nat} {c : Policy} : Policy.ofCode n = some c ↔ c.code = n := by
  constructor
  · intro h; unfold Policy.ofCode at h; split at h <;> cases h <;> rfl
  · rintro rfl; cases c <;> rfl
theorem Policy.code_lt (c : Policy) : c.code < 3 := by cases c <;> decide

@[simp] theorem AmoOp.ofCode_eq_some_iff {n : Nat} {c : AmoOp} : AmoOp.ofCode n = some c ↔ c.code = n := by
  constructor
  · intro h; unfold AmoOp.ofCode at h; split at h <;> cases h <;> rfl
  · rintro rfl; cases c <;> rfl
theorem AmoOp.code_lt (c : AmoOp) : c.code < 10 := by cases c <;> decide

@[simp] theorem EltSize.ofCode_eq_some_iff {n : Nat} {c : EltSize} : EltSize.ofCode n = some c ↔ c.code = n := by
  constructor
  · intro h; unfold EltSize.ofCode at h; split at h <;> cases h <;> rfl
  · rintro rfl; cases c <;> rfl
theorem EltSize.code_lt (c : EltSize) : c.code < 3 := by cases c <;> decide

@[simp] theorem CpySize.ofCode_eq_some_iff {n : Nat} {c : CpySize} : CpySize.ofCode n = some c ↔ c.code = n := by
  constructor
  · intro h; unfold CpySize.ofCode at h; split at h <;> cases h <;> rfl
  · rintro rfl; cases c <;> rfl
theorem CpySize.code_lt (c : CpySize) : c.code < 6 := by cases c <;> decide

@[simp] theorem TokKind.ofCode_eq_some_iff {n : Nat} {c : TokKind} : TokKind.ofCode n = some c ↔ c.code = n := by
  constructor
  · intro h; unfold TokKind.ofCode at h; split at h <;> cases h <;> rfl
  · rintro rfl; cases c <;> rfl
theorem TokKind.code_lt (c : TokKind) : c.code < 11 := by cases c <;> decide

@[simp] theorem QField.ofCode_eq_some_iff {n : Nat} {c : QField} : QField.ofCode n = some c ↔ c.code = n := by
  constructor
  · intro h; unfold QField.ofCode at h; split at h <;> cases h <;> rfl
  · rintro rfl; cases c <;> rfl
theorem QField.code_lt (c : QField) : c.code < 9 := by cases c <;> decide

@[simp] theorem TileFmt.ofCode_eq_some_iff {n : Nat} {c : TileFmt} : TileFmt.ofCode n = some c ↔ c.code = n := by
  constructor
  · intro h; unfold TileFmt.ofCode at h; split at h <;> cases h <;> rfl
  · rintro rfl; cases c <;> rfl
theorem TileFmt.code_lt (c : TileFmt) : c.code < 4 := by cases c <;> decide

@[simp] theorem Route.ofCode_eq_some_iff {n : Nat} {c : Route} : Route.ofCode n = some c ↔ c.code = n := by
  constructor
  · intro h; unfold Route.ofCode at h; split at h <;> cases h <;> rfl
  · rintro rfl; cases c <;> rfl
theorem Route.code_lt (c : Route) : c.code < 3 := by cases c <;> decide

@[simp] theorem Blk.ofCode_code (c : Blk) : Blk.ofCode c.code = c := by cases c <;> rfl
theorem Blk.code_lt (c : Blk) : c.code < 4 := by cases c <;> decide
theorem Blk.code_ofCode {n : Nat} (h : n < 4) : (Blk.ofCode n).code = n := by
  interval_cases n <;> rfl

theorem directOf_eq_some_iff {n : Nat} {q : Fin 16} : directOf n = some q ↔ 16 + q.val = n := by
  simp only [directOf, Option.ite_none_right_eq_some, Option.some.injEq, Fin.ext_iff, Fin.val_ofNat]
  omega
@[simp] theorem directOf_add (q : Fin 16) : directOf (16 + q.val) = some q := directOf_eq_some_iff.mpr rfl

@[simp] theorem MxSrc.ofCode_eq_some_iff {n : Nat} {c : MxSrc} : MxSrc.ofCode n = some c ↔ c.code = n := by
  have hd : MxSrc.ofCode n = if n = 0 then some .bus else (directOf n).map .direct := by
    unfold MxSrc.ofCode directOf
    split_ifs <;> rfl
  rw [hd]
  by_cases h : n = 0 <;> cases c <;> simp [MxSrc.code, directOf_eq_some_iff, h] <;> omega
theorem MxSrc.code_lt (c : MxSrc) : c.code < 32 := by
  cases c with
  | bus => decide
  | direct q => simp only [MxSrc.code]; omega

@[simp] theorem IdxSrc.ofCode_eq_some_iff {n : Nat} {c : IdxSrc} : IdxSrc.ofCode n = some c ↔ c.code = n := by
  have hd : IdxSrc.ofCode n = if n = 1 then some .idx else (directOf n).map .direct := by
    unfold IdxSrc.ofCode directOf
    split_ifs <;> rfl
  rw [hd]
  by_cases h : n = 1 <;> cases c <;> simp [IdxSrc.code, directOf_eq_some_iff, h] <;> omega
theorem IdxSrc.code_lt (c : IdxSrc) : c.code < 32 := by
  cases c with
  | idx => decide
  | direct q => simp only [IdxSrc.code]; omega

@[simp] theorem RankDst.ofCode_eq_some_iff {n : Nat} {c : RankDst} : RankDst.ofCode n = some c ↔ c.code = n := by
  have hd : RankDst.ofCode n = if n = 0 then some .drain else (directOf n).map .direct := by
    unfold RankDst.ofCode directOf
    split_ifs <;> rfl
  rw [hd]
  by_cases h : n = 0 <;> cases c <;> simp [RankDst.code, directOf_eq_some_iff, h] <;> omega
theorem RankDst.code_lt (c : RankDst) : c.code < 32 := by
  cases c with
  | drain => decide
  | direct q => simp only [RankDst.code]; omega

theorem toNat_beq_one {n : Nat} (h : n < 2) : (n == 1).toNat = n := by
  interval_cases n <;> rfl
theorem toNat_mod_two_beq_one (n : Nat) : (n % 2 == 1).toNat = n % 2 := toNat_beq_one (Nat.mod_lt n (by omega))
theorem toNat_beq_two (n : Nat) : (n == 2).toNat = if n = 2 then 1 else 0 := by
  by_cases h : n = 2 <;> simp [h]
@[simp] theorem beq_one_toNat (b : Bool) : (b.toNat == 1) = b := by cases b <;> rfl
@[simp] theorem mod_two_beq_one_eq_iff {n : Nat} {b : Bool} : (n % 2 == 1) = b ↔ n % 2 = b.toNat := by
  rw [← toNat_mod_two_beq_one]
  cases b <;> simp

/-! ## Fields -/

section
variable (f : Fields) (s : Src) (n op : Nat) (g : Guard) (d : Reg) (a b : Src)

@[simp] theorem Fields.withD_eq : f.withD n = { f with d := n } := (rfl)
@[simp] theorem Fields.withA_eq : f.withA s = { f with a := s.r.val, ea := s.trap.toNat } := (rfl)
@[simp] theorem Fields.withB_eq : f.withB s = { f with b := s.r.val, eb := s.trap.toNat } := (rfl)
@[simp] theorem Fields.withX_eq : f.withX n = { f with x := n } := (rfl)
@[simp] theorem Fields.rawA_eq : f.rawA n = { f with a := n } := (rfl)
@[simp] theorem Fields.rawB_eq : f.rawB n = { f with b := n } := (rfl)
@[simp] theorem Fields.base_eq : Fields.base op g
    = { op, gn := g.neg.toNat, gp := g.p.val, d := 0, a := 0, b := 0, ea := 0, eb := 0, x := 0 } := (rfl)

@[simp] theorem encodeInt3_eq (wd : Width) : encodeInt3 op g wd d a b
    = ((((Fields.base op g).withD d.val).withA a).withB b).withX (wd.code * 2 ^ 28) := (rfl)
@[simp] theorem encodeInt2_eq (wd : Width) : encodeInt2 op g wd d a
    = (((Fields.base op g).withD d.val).withA a).withX (wd.code * 2 ^ 28) := (rfl)
@[simp] theorem encodeImm_eq : encodeImm op g d a n = (((Fields.base op g).withD d.val).withA a).withX n := (rfl)
@[simp] theorem encodeFp3_eq (ty : FWidth) : encodeFp3 op g ty n d a b
    = ((((Fields.base op g).withD d.val).withA a).withB b).withX (ty.code * 2 ^ 28 + n * 2 ^ 25) := (rfl)
@[simp] theorem encodeFp2_eq (ty : FWidth) : encodeFp2 op g ty n d a
    = (((Fields.base op g).withD d.val).withA a).withX (ty.code * 2 ^ 28 + n * 2 ^ 25) := (rfl)

@[simp] theorem zeros_nil : zeros [] = true := rfl
@[simp] theorem zeros_cons (l : List Nat) : zeros (n :: l) = true ↔ n = 0 ∧ zeros l = true := by simp [zeros]
@[simp] theorem need_eq_some_iff {ok : Bool} {i j : Instr} : need ok j = some i ↔ ok = true ∧ j = i := by
  cases ok <;> simp [need]

@[simp] theorem Fields.guard_eq : f.guard = ⟨f.gn == 1, Fin.ofNat 8 f.gp⟩ := (rfl)
@[simp] theorem Fields.srcA_eq : f.srcA = ⟨Fin.ofNat 64 f.a, f.ea == 1⟩ := (rfl)
@[simp] theorem Fields.srcB_eq : f.srcB = ⟨Fin.ofNat 64 f.b, f.eb == 1⟩ := (rfl)
@[simp] theorem Fields.regD_eq : f.regD = Fin.ofNat 64 f.d := (rfl)
@[simp] theorem Fields.regA_eq : f.regA = Fin.ofNat 64 f.a := (rfl)
@[simp] theorem Fields.ty_eq : f.ty = f.x / 2 ^ 28 % 16 := (rfl)
@[simp] theorem Fields.rm_eq : f.rm = f.x / 2 ^ 25 % 8 := (rfl)
@[simp] theorem Fields.c_eq : f.c = f.x / 2 ^ 19 % 64 := (rfl)
@[simp] theorem Fields.lo19_eq : f.lo19 = f.x % 2 ^ 19 := (rfl)
@[simp] theorem Fields.sz_eq : f.sz = f.x / 2 ^ 28 % 16 := (rfl)
@[simp] theorem Fields.sc_eq : f.sc = f.x / 2 ^ 25 % 8 := (rfl)
@[simp] theorem Fields.ord_eq : f.ord = f.x / 2 ^ 23 % 4 := (rfl)
@[simp] theorem Fields.cp_eq : f.cp = f.x / 2 ^ 21 % 4 := (rfl)
@[simp] theorem Fields.b20_eq : f.b20 = f.x / 2 ^ 20 % 2 := (rfl)
@[simp] theorem Fields.off_eq : f.off = f.x % 2 ^ 20 := (rfl)
@[simp] theorem Fields.hi_eq : f.hi = f.x / 2 ^ 16 % 2 ^ 16 := (rfl)
@[simp] theorem Fields.tk_eq : f.tk = f.x / 2 ^ 12 % 16 := (rfl)
@[simp] theorem Fields.fl_eq : f.fl = f.x % 2 ^ 12 := (rfl)
@[simp] theorem Fields.tlE_eq : f.tlE = f.x / 2 ^ 29 % 8 := (rfl)
@[simp] theorem Fields.fdE_eq : f.fdE = f.x / 2 ^ 13 % 2 ^ 16 := (rfl)
@[simp] theorem Fields.flE_eq : f.flE = f.x % 2 ^ 13 := (rfl)
@[simp] theorem Fields.md_eq : f.md = f.x % 2 ^ 16 := (rfl)
@[simp] theorem Fields.tlX_eq : f.tlX = Fin.ofNat 8 (f.x / 2 ^ 13 % 8) := (rfl)

end

/-- Every field is within its width (Table 3.1). -/
def Fields.Bounded (f : Fields) : Prop :=
  f.op < 256 ∧ f.gn < 2 ∧ f.gp < 8 ∧ f.d < 64 ∧ f.a < 64 ∧ f.b < 64 ∧ f.ea < 2 ∧ f.eb < 2 ∧ f.x < 2 ^ 32

theorem Fields.unpack_bounded (w : Nat) : (Fields.unpack w).Bounded := by
  simp only [Fields.Bounded, Fields.unpack]
  omega

theorem Fields.pack_lt {f : Fields} (hf : f.Bounded) : f.pack < 2 ^ 64 := by
  simp only [Fields.Bounded, Fields.pack] at hf ⊢
  omega

theorem Fields.mk_eq_iff {op gn gp d a b ea eb x : Nat} {f : Fields} : Fields.mk op gn gp d a b ea eb x = f
    ↔ op = f.op ∧ gn = f.gn ∧ gp = f.gp ∧ d = f.d ∧ a = f.a ∧ b = f.b ∧ ea = f.ea ∧ eb = f.eb ∧ x = f.x := by
  cases f
  simp

theorem Fields.unpack_pack {f : Fields} (hf : f.Bounded) : Fields.unpack f.pack = f := by
  simp only [Fields.Bounded] at hf
  simp only [Fields.unpack, Fields.pack, Fields.mk_eq_iff]
  omega

theorem Fields.pack_unpack {w : Nat} (h : w < 2 ^ 64) : (Fields.unpack w).pack = w := by
  simp only [Fields.unpack, Fields.pack]
  omega

end Sys2Proof
end

section
/-! SUPPORT. From an instruction to its fields and back (R68 to R81). The rows of one decoder at a time: every operand is within
its field, and the division that reads a field undoes the multiplication that placed it. -/

namespace Sys2Proof

open Sys2Proof.Machine

theorem decode0_encodeFields {i : Instr} {f : Fields} (hw : i.wf = true) (hu : ∀ w, i ≠ .unassignedOpcode w)
    (h : encodeFields i = some f) (hp : f.op / 16 ≤ 1) : f.Bounded ∧ decode0 f = some i := by
  unfold Fields.Bounded
  cases i
  case unassignedOpcode w => exact absurd rfl (hu w)
  case' tlwait g sc tl a => cases sc
  case' add wd _ _ _ => have := wd.code_lt
  case' sub wd _ _ _ => have := wd.code_lt
  case' addi imm => have := imm.isLt
  case' mul wd _ _ _ => have := wd.code_lt
  case' mulh wd _ _ _ => have := wd.code_lt
  case' mulhu wd _ _ _ => have := wd.code_lt
  case' div wd _ _ _ => have := wd.code_lt
  case' divu wd _ _ _ => have := wd.code_lt
  case' rem wd _ _ _ => have := wd.code_lt
  case' remu wd _ _ _ => have := wd.code_lt
  case' and wd _ _ _ => have := wd.code_lt
  case' or wd _ _ _ => have := wd.code_lt
  case' xor wd _ _ _ => have := wd.code_lt
  case' andn wd _ _ _ => have := wd.code_lt
  case' andi imm => have := imm.isLt
  case' ori imm => have := imm.isLt
  case' xori imm => have := imm.isLt
  case' shl wd _ _ _ => have := wd.code_lt
  case' shr wd _ _ _ => have := wd.code_lt
  case' sra wd _ _ _ => have := wd.code_lt
  case' shli n => have := n.isLt
  case' shri n => have := n.isLt
  case' srai n => have := n.isLt
  case' min wd _ _ _ => have := wd.code_lt
  case' max wd _ _ _ => have := wd.code_lt
  case' minu wd _ _ _ => have := wd.code_lt
  case' maxu wd _ _ _ => have := wd.code_lt
  case' clz wd _ _ => have := wd.code_lt
  case' ctz wd _ _ => have := wd.code_lt
  case' popc wd _ _ => have := wd.code_lt
  case' brev n =>
    have hn : widthOk n = true := (Bool.and_eq_true_iff.mp hw).2
    simp only [widthOk, Bool.and_eq_true, decide_eq_true_eq] at hn
  all_goals cases h
  all_goals simp [decode0, decodeInt3, decodeInt2, decodeImm, decodeShift, Option.bind_eq_some_iff,
    Bool.toNat_le] at hp ⊢ <;> omega

theorem decode2_encodeFields {i : Instr} {f : Fields} (hw : i.wf = true) (hu : ∀ w, i ≠ .unassignedOpcode w)
    (h : encodeFields i = some f) (hp : f.op / 16 = 2) : f.Bounded ∧ decode2 f = some i := by
  unfold Fields.Bounded
  cases i
  case unassignedOpcode w => exact absurd rfl (hu w)
  case' tlwait g sc tl a => cases sc
  case' fadd ty rm _ _ _ => have := ty.code_lt; have := rm.code_lt
  case' fsub ty rm _ _ _ => have := ty.code_lt; have := rm.code_lt
  case' fmul ty rm _ _ _ => have := ty.code_lt; have := rm.code_lt
  case' fdiv ty rm _ _ _ => have := ty.code_lt; have := rm.code_lt
  case' fma ty rm _ _ _ _ => have := ty.code_lt; have := rm.code_lt
  case' fsqrt ty rm _ _ => have := ty.code_lt; have := rm.code_lt
  case' fmin ty _ _ _ => have := ty.code_lt
  case' fmax ty _ _ _ => have := ty.code_lt
  case' fsgn op ty _ _ _ => have := op.code_lt; have := ty.code_lt
  case' fcvt dst src rm _ _ => have := dst.code_lt; have := src.code_lt; have := rm.code_lt
  case' fclass ty _ _ => have := ty.code_lt
  case' fcmp c ty p _ _ => have := c.code_lt; have := ty.code_lt; have := p.isLt
  all_goals cases h
  all_goals simp [decode2, decodeFp3, decodeFpMin, Option.bind_eq_some_iff, Fin.ext_iff, Bool.toNat_le] at hp ⊢ <;> omega

theorem decode3_encodeFields {i : Instr} {f : Fields} (hw : i.wf = true) (hu : ∀ w, i ≠ .unassignedOpcode w)
    (h : encodeFields i = some f) (hp : f.op / 16 = 3) : f.Bounded ∧ decode3 f = some i := by
  unfold Fields.Bounded
  cases i
  case unassignedOpcode w => exact absurd rfl (hu w)
  case' tlwait g sc tl a => cases sc
  case' cmp c wd p _ _ => have := c.code_lt; have := wd.code_lt; have := p.isLt
  case' cmpi c p _ imm => have := c.code_lt; have := p.isLt; have := imm.isLt
  case' plog tt p pa pb => have := tt.isLt; have := p.isLt; have := pa.isLt; have := pb.isLt
  case' bfx lsb width =>
    have hn : fieldOk lsb width = true := (Bool.and_eq_true_iff.mp hw).2
    simp only [fieldOk, Bool.and_eq_true, decide_eq_true_eq] at hn
    have := lsb.isLt
  case' bfi lsb width =>
    have hn : fieldOk lsb width = true := (Bool.and_eq_true_iff.mp hw).2
    simp only [fieldOk, Bool.and_eq_true, decide_eq_true_eq] at hn
    have := lsb.isLt
  case' ext sx _ _ width =>
    have hn : widthOk width = true := (Bool.and_eq_true_iff.mp hw).2
    simp only [widthOk, Bool.and_eq_true, decide_eq_true_eq] at hn
    have := sx.toNat_lt
  case' li imm => have := imm.isLt
  case' lih imm => have := imm.isLt
  case' br off => have := off.isLt
  case' call off => have := off.isLt
  case' jr off => have := off.isLt
  case' loop level _ off => have := level.isLt; have := off.isLt
  all_goals cases h
  all_goals simp [decode3, decodeField, Option.bind_eq_some_iff, Fin.ext_iff, Bool.toNat_le, decide_eq_true_eq] at hp ⊢ <;> omega

theorem decode4_encodeFields {i : Instr} {f : Fields} (hw : i.wf = true) (hu : ∀ w, i ≠ .unassignedOpcode w)
    (h : encodeFields i = some f) (hp : f.op / 16 = 4) : f.Bounded ∧ decode4 f = some i := by
  unfold Fields.Bounded
  cases i
  case unassignedOpcode w => exact absurd rfl (hu w)
  case' tlwait g sc tl a => cases sc
  case' ld sz cp _ _ off => have := sz.code_lt; have := cp.code_lt; have := off.isLt
  case' ldx sz cp _ _ _ k => have := sz.code_lt; have := cp.code_lt; have := k.isLt
  case' ldacq sz sc _ _ off => have := sz.code_lt; have := sc.code_lt; have := off.isLt
  case' st sz cp _ _ off => have := sz.code_lt; have := cp.code_lt; have := off.isLt
  case' stx sz cp _ _ _ k => have := sz.code_lt; have := cp.code_lt; have := k.isLt
  case' strel sz sc _ _ off => have := sz.code_lt; have := sc.code_lt; have := off.isLt
  case' fence o sc => have := o.code_lt; have := sc.code_lt
  case' amo op sz o sc _ _ _ off =>
    have := op.code_lt; have := sz.code_lt; have := o.code_lt; have := sc.code_lt; have := off.isLt
  case' cas sz o sc _ _ _ off => have := sz.code_lt; have := o.code_lt; have := sc.code_lt; have := off.isLt
  case' pref cp _ off => have := cp.code_lt; have := off.isLt
  case' cwb sc _ _ => have := sc.code_lt
  case' cinv sc _ _ => have := sc.code_lt
  case' cwbi sc _ _ => have := sc.code_lt
  all_goals cases h
  all_goals simp [decode4, xM, Option.bind_eq_some_iff, BitVec.toNat_eq, Fin.ext_iff, Bool.toNat_le,
    decide_eq_true_eq] at hp ⊢ <;> omega

theorem decode6_encodeFields {i : Instr} {f : Fields} (hw : i.wf = true) (hu : ∀ w, i ≠ .unassignedOpcode w)
    (h : encodeFields i = some f) (hp : f.op / 16 = 6) : f.Bounded ∧ decode6 f = some i := by
  unfold Fields.Bounded
  cases i
  case unassignedOpcode w => exact absurd rfl (hu w)
  case' tlwait g sc tl a => cases sc
  case' feed port q _ tag pkt eok eor eos sx esz =>
    have := port.isLt; have := q.isLt; have := tag.isLt; have := pkt.toNat_lt; have := eok.toNat_lt; have := eor.toNat_lt
    have := eos.toNat_lt; have := sx.toNat_lt; have := esz.code_lt
  case' sink k q _ pkt esz => have := k.isLt; have := q.isLt; have := pkt.toNat_lt; have := esz.code_lt
  case' inj port _ tag => have := port.isLt; have := tag.isLt
  case' tok kind port _ tag => have := kind.code_lt; have := port.isLt; have := tag.isLt
  case' take k => have := k.isLt
  case' portq port sink => have := port.isLt; have := sink.toNat_lt
  case' accrst ac _ => have := ac.isLt
  case' cfgld q _ => have := q.isLt
  case' qset fld q _ => have := fld.code_lt; have := q.isLt
  case' qld q _ => have := q.isLt
  case' qadv q _ => have := q.isLt
  all_goals cases h
  all_goals simp [decode6, Option.bind_eq_some_iff, Fin.ext_iff, Bool.toNat_le, decide_eq_true_eq] at hp ⊢ <;> omega

theorem decode8_encodeFields {i : Instr} {f : Fields} (hw : i.wf = true) (hu : ∀ w, i ≠ .unassignedOpcode w)
    (h : encodeFields i = some f) (hp : f.op / 16 = 8) : f.Bounded ∧ decode8 f = some i := by
  unfold Fields.Bounded
  cases i
  case unassignedOpcode w => exact absurd rfl (hu w)
  case' cpy esz _ qa qb tl => have := esz.code_lt; have := qa.isLt; have := qb.isLt; have := tl.isLt
  case' cpymx esz _ qa qb tl => have := esz.code_lt; have := qa.isLt; have := qb.isLt; have := tl.isLt
  case cpyq bf rm blk fd _ qa qb tl =>
    have := bf.toNat_lt; have := rm.code_lt; have := blk.code_lt; have := fd.isLt; have := qa.isLt; have := qb.isLt
    have := tl.isLt
    have e : (tl.val * 536870912 + fd.toNat * 8192 + (rm.code * 8 + blk.code * 2 + bf.toNat)) % 8192 / 2 % 4 = blk.code := by
      omega
    cases h
    simp [decode8, xE, Option.bind_eq_some_iff, BitVec.toNat_eq, Fin.ext_iff, Bool.toNat_le, decide_eq_true_eq, e]
    omega
  case' gemv acc fd _ qa qb tl qm =>
    have := acc.toNat_lt; have := fd.isLt; have := qa.isLt; have := qb.isLt; have := tl.isLt; have := qm.isLt
  case tlwait g sc tl a =>
    have := tl.isLt
    cases sc with
    | none =>
      have e : tl.val * 536870912 % 8192 = 0 := by omega
      cases h
      simp [decode8, xE, Fin.ext_iff, Bool.toNat_le, e]
      omega
    | some sc =>
      have := sc.code_lt
      have e : (tl.val * 536870912 + (8 + sc.code)) % 8192 = 8 + sc.code := by omega
      cases h
      simp [decode8, xE, Option.bind_eq_some_iff, Fin.ext_iff, Bool.toNat_le, e]
      omega
  case' tlread tl => have := tl.isLt
  case' tlnum tl => have := tl.isLt
  case sleeptP tl _ =>
    have := tl.isLt
    have e : (tl.val * 536870912 + 1) % 8192 = 1 := by omega
    cases h
    simp [decode8, xE, Fin.ext_iff, Bool.toNat_le, e]
    omega
  all_goals cases h
  all_goals simp [decode8, xE, Option.bind_eq_some_iff, BitVec.toNat_eq, Fin.ext_iff, Bool.toNat_le,
    decide_eq_true_eq] at hp ⊢ <;> omega

theorem decodeA_encodeFields {i : Instr} {f : Fields} (hw : i.wf = true) (hu : ∀ w, i ≠ .unassignedOpcode w)
    (h : encodeFields i = some f) (hp : f.op / 16 = 10) : f.Bounded ∧ decodeA f = some i := by
  unfold Fields.Bounded
  cases i
  case unassignedOpcode w => exact absurd rfl (hu w)
  case' tlwait g sc tl a => cases sc
  case mxcfg keep t a slot =>
    have := t.isLt; have := slot.isLt
    have hk : (!keep || (a.r.val == 0 && !a.trap)) = true := (Bool.and_eq_true_iff.mp hw).2
    cases h
    cases keep <;> simp [decodeA, Fin.ext_iff, Bool.toNat_le, -Fin.val_eq_zero_iff] at hk ⊢ <;> simp [hk] <;> omega
  case' mxrel t => have := t.isLt
  case' mxz t tl => have := t.isLt; have := tl.isLt
  case' mxldt fmt t q tl => have := fmt.code_lt; have := t.isLt; have := q.isLt; have := tl.isLt
  case' mxmm acc t srcA srcB k tl =>
    have := acc.toNat_lt; have := t.isLt; have := srcA.code_lt; have := srcB.code_lt; have := k.isLt; have := tl.isLt
  case' mxmms acc t srcA srcB k tl =>
    have := acc.toNat_lt; have := t.isLt; have := srcA.code_lt; have := srcB.code_lt; have := k.isLt; have := tl.isLt
  case' mxfmt slot fd rm ph step => have := slot.isLt; have := fd.isLt; have := rm.code_lt; have := ph.isLt; have := step.isLt
  case' mxrt route t => have := route.code_lt; have := t.isLt
  case' mxdrn ws t tl => have := ws.toNat_lt; have := t.isLt; have := tl.isLt
  case' mxchk t tl => have := t.isLt; have := tl.isLt
  case' mxst fmt t q tl => have := fmt.code_lt; have := t.isLt; have := q.isLt; have := tl.isLt
  all_goals cases h
  all_goals simp [decodeA, xX, vecHi, Option.bind_eq_some_iff, BitVec.toNat_eq, Fin.ext_iff, Bool.toNat_le] at hp ⊢ <;> omega

theorem decodeB_encodeFields {i : Instr} {f : Fields} (hw : i.wf = true) (hu : ∀ w, i ≠ .unassignedOpcode w)
    (h : encodeFields i = some f) (hp : f.op / 16 = 11) : f.Bounded ∧ decodeB f = some i := by
  unfold Fields.Bounded
  cases i
  case unassignedOpcode w => exact absurd rfl (hu w)
  case' tlwait g sc tl a => cases sc
  case twset inv slot =>
    have := inv.toNat_lt; have := slot.isLt
    have e : (inv.toNat * 16 + slot.val) % 65536 / 4096 % 2 = 0 := by omega
    cases h
    simp [decodeB, Fin.ext_iff, Bool.toNat_le, e]
    omega
  case twsetGen inv t n tl =>
    have := inv.toNat_lt; have := t.isLt; have := tl.isLt
    have hn := And.intro (of_decide_eq_true (Bool.and_eq_true_iff.mp (Bool.and_eq_true_iff.mp hw).1).2) (Bool.and_eq_true_iff.mp
      hw).2
    have e : (n * 65536 + tl.val * 8192 + (4096 + inv.toNat * 16)) % 65536 / 4096 % 2 = 1 := by omega
    cases h
    simp [decodeB, xX, Fin.ext_iff, Bool.toNat_le, e]
    omega
  case' bfplan slot _ _ => have := slot.isLt
  case bfrev bf re t q tl =>
    have := bf.toNat_lt; have := re.toNat_lt; have := t.isLt; have := q.isLt; have := tl.isLt
    cases h
    cases bf <;> simp [decodeB, xX, Fin.ext_iff, Bool.toNat_le] <;> omega
  case' bfstg t k tl => have := t.isLt; have := tl.isLt; have := of_decide_eq_true (Bool.and_eq_true_iff.mp hw).2
  case' bfrun t tl => have := t.isLt; have := tl.isLt
  case' rktab recon slot q tl => have := recon.toNat_lt; have := slot.isLt; have := q.isLt; have := tl.isLt
  case' rkcut slot _ => have := slot.isLt
  case' rknet ws t _ dst row0 nvm1 tl =>
    have := ws.toNat_lt; have := t.isLt; have := dst.code_lt; have := row0.isLt; have := nvm1.isLt; have := tl.isLt
  case' mxrank acc t src q row0 nvm1 tl =>
    have := acc.toNat_lt; have := t.isLt; have := src.code_lt; have := q.isLt; have := row0.isLt; have := nvm1.isLt
    have := tl.isLt
  case' rkval t src row0 nvm1 tl => have := t.isLt; have := src.code_lt; have := row0.isLt; have := nvm1.isLt; have := tl.isLt
  case' rktrc t _ q row0 nvm1 tl => have := t.isLt; have := q.isLt; have := row0.isLt; have := nvm1.isLt; have := tl.isLt
  all_goals cases h
  all_goals simp [decodeB, xX, vecHi, Option.bind_eq_some_iff, Fin.ext_iff, Bool.toNat_le, decide_eq_true_eq] at hp ⊢ <;> omega

theorem decodeC_encodeFields {i : Instr} {f : Fields} (hw : i.wf = true) (hu : ∀ w, i ≠ .unassignedOpcode w)
    (h : encodeFields i = some f) (hp : f.op / 16 = 12) : f.Bounded ∧ decodeC f = some i := by
  unfold Fields.Bounded
  cases i
  case unassignedOpcode w => exact absurd rfl (hu w)
  case' tlwait g sc tl a => cases sc
  case' tspawn entry => have := entry.isLt
  case' tbind vc => have := vc.isLt
  case' waitv vc => have := vc.isLt
  case' sendv vc => have := vc.isLt
  case' twake mask => have := mask.isLt
  case' tprio prio => have := prio.isLt
  case' rbar id => have := id.isLt
  case' lqry sel => have := sel.isLt
  case' stageq sel => have := sel.isLt
  all_goals cases h
  all_goals simp [decodeC, Bool.toNat_le, decide_eq_true_eq] at hp ⊢ <;> omega

theorem decodeE_encodeFields {i : Instr} {f : Fields} (hw : i.wf = true) (hu : ∀ w, i ≠ .unassignedOpcode w)
    (h : encodeFields i = some f) (hp : f.op / 16 = 14) : f.Bounded ∧ decodeE f = some i := by
  unfold Fields.Bounded
  cases i
  case unassignedOpcode w => exact absurd rfl (hu w)
  case' tlwait g sc tl a => cases sc
  case' ctlr idx => have := idx.isLt
  case' ctlw idx _ => have := idx.isLt
  case' ctls idx _ => have := idx.isLt
  case' ctlc idx _ => have := idx.isLt
  case' svc code => have := code.isLt
  case' cntr n => have := n.isLt
  all_goals cases h
  all_goals simp [decodeE, Fin.ext_iff, Bool.toNat_le, decide_eq_true_eq] at hp ⊢ <;> omega

theorem decodeF_encodeFields {i : Instr} {f : Fields} (hw : i.wf = true) (hu : ∀ w, i ≠ .unassignedOpcode w)
    (h : encodeFields i = some f) (hp : f.op / 16 = 15) : f.Bounded ∧ decodeF f = some i := by
  unfold Fields.Bounded
  cases i
  case unassignedOpcode w => exact absurd rfl (hu w)
  case' tlwait g sc tl a => cases sc
  case' trap code => have := code.isLt
  case' snap mask => have := mask.isLt
  case' xsave slot => have := slot.isLt
  case' xload slot => have := slot.isLt
  case' ebrk code => have := code.isLt
  all_goals cases h
  all_goals simp [decodeF, BitVec.toNat_eq, Bool.toNat_le, decide_eq_true_eq] at hp ⊢ <;> omega

/-- An assigned opcode is one of a page of Table 3.6. -/
theorem page_of_assigned {op : Nat} (h : opcodeUnassigned op = false) :
    op / 16 ≤ 4 ∨ op / 16 = 6 ∨ op / 16 = 8 ∨ op / 16 = 10 ∨ op / 16 = 11 ∨ op / 16 = 12 ∨ op / 16 = 14 ∨ op / 16 = 15 := by
  simp only [opcodeUnassigned, Bool.or_eq_false_iff, Bool.and_eq_false_iff, decide_eq_false_iff_not] at h
  omega

/-- The encoder gives no instruction an unassigned opcode (R79). -/
theorem encodeFields_assigned {i : Instr} {f : Fields} (hu : ∀ w, i ≠ .unassignedOpcode w) (h : encodeFields i = some f) :
    opcodeUnassigned f.op = false := by
  cases i
  case unassignedOpcode w => exact absurd rfl (hu w)
  case' tlwait g sc tl a => cases sc
  all_goals cases h <;> rfl

/-- The decoder reads the fields of a well-formed instruction back. -/
theorem decodeFields_encodeFields {i : Instr} {f : Fields} (hw : i.wf = true) (hu : ∀ w, i ≠ .unassignedOpcode w)
    (h : encodeFields i = some f) : f.Bounded ∧ decodeFields f = some i := by
  have hpage := page_of_assigned (encodeFields_assigned hu h)
  unfold decodeFields
  split
  case h_1 hp | h_2 hp => exact decode0_encodeFields hw hu h (by omega)
  case h_3 hp => exact decode2_encodeFields hw hu h hp
  case h_4 hp => exact decode3_encodeFields hw hu h hp
  case h_5 hp => exact decode4_encodeFields hw hu h hp
  case h_6 hp => exact decode6_encodeFields hw hu h hp
  case h_7 hp => exact decode8_encodeFields hw hu h hp
  case h_8 hp => exact decodeA_encodeFields hw hu h hp
  case h_9 hp => exact decodeB_encodeFields hw hu h hp
  case h_10 hp => exact decodeC_encodeFields hw hu h hp
  case h_11 hp => exact decodeE_encodeFields hw hu h hp
  case h_12 hp => exact decodeF_encodeFields hw hu h hp
  case h_13 =>
    simp only [imp_false] at *
    omega

end Sys2Proof
end

section
/-! SUPPORT. From fields to an instruction and back (R68 to R81). The rows of one decoder at a time: a field that the row asks to
be zero is zero in the word, and the others are those of the operands. -/

namespace Sys2Proof

open Sys2Proof.Machine

section
variable {f : Fields} {i : Instr} (hf : f.Bounded)
include hf

theorem encodeFields_decode0 (h : decode0 f = some i) : encodeFields i = some f := by
  obtain ⟨hop, hgn, hgp, hd, ha, hb, hea, heb, hx⟩ := hf
  unfold decode0 at h
  split at h
  all_goals simp only [decodeInt3, decodeInt2, decodeImm, decodeShift, Option.bind_eq_bind, Option.bind_eq_some_iff,
    need_eq_some_iff, zeros_cons, zeros_nil, Bool.and_eq_true, decide_eq_true_eq, and_true, reduceCtorEq,
    Width.ofCode_eq_some_iff] at h
  all_goals casesm* _ ∧ _, ∃ _, _
  all_goals subst_vars
  all_goals refine congrArg some ?_
  all_goals simp only [encodeInt3_eq, encodeInt2_eq, encodeImm_eq, Fields.base_eq, Fields.withD_eq, Fields.withA_eq,
    Fields.withB_eq, Fields.withX_eq, Fields.guard_eq, Fields.regD_eq, Fields.srcA_eq, Fields.srcB_eq, Fields.mk_eq_iff,
    toNat_beq_one hgn, toNat_beq_one hea, toNat_beq_one heb, Fin.val_ofNat, BitVec.toNat_ofNat, Fields.ty_eq, Fields.rm_eq,
    Fields.c_eq, Fields.lo19_eq, Nat.reducePow, true_and, and_true] at *
  all_goals omega

theorem encodeFields_decode2 (h : decode2 f = some i) : encodeFields i = some f := by
  obtain ⟨hop, hgn, hgp, hd, ha, hb, hea, heb, hx⟩ := hf
  unfold decode2 at h
  split at h
  all_goals simp only [decodeFp3, decodeFpMin, Option.bind_eq_bind, Option.bind_eq_some_iff, need_eq_some_iff, zeros_cons,
    zeros_nil, and_true, reduceCtorEq, FWidth.ofCode_eq_some_iff, Rm.ofCode_eq_some_iff, SgnOp.ofCode_eq_some_iff,
    NumTy.ofCode_eq_some_iff, FCond.ofCode_eq_some_iff] at h
  all_goals casesm* _ ∧ _, ∃ _, _
  all_goals subst_vars
  all_goals refine congrArg some ?_
  all_goals simp only [encodeFp3_eq, encodeFp2_eq, Fields.base_eq, Fields.withD_eq, Fields.withA_eq, Fields.withB_eq,
    Fields.withX_eq, Fields.rawB_eq, Fields.guard_eq, Fields.regD_eq, Fields.srcA_eq, Fields.srcB_eq, Fields.mk_eq_iff,
    toNat_beq_one hgn, toNat_beq_one hea, toNat_beq_one heb, Fin.val_ofNat, Fields.ty_eq, Fields.rm_eq, Fields.c_eq,
    Fields.lo19_eq, Nat.reducePow, true_and] at *
  all_goals omega

theorem encodeFields_decode3 (h : decode3 f = some i) : encodeFields i = some f := by
  obtain ⟨hop, hgn, hgp, hd, ha, hb, hea, heb, hx⟩ := hf
  unfold decode3 at h
  split at h
  all_goals simp only [decodeField, Option.bind_eq_bind, Option.bind_eq_some_iff, need_eq_some_iff, zeros_cons, zeros_nil,
    Bool.and_eq_true, decide_eq_true_eq, and_true, reduceCtorEq, Width.ofCode_eq_some_iff, ICond.ofCode_eq_some_iff] at h
  all_goals casesm* _ ∧ _, ∃ _, _
  all_goals subst_vars
  all_goals refine congrArg some ?_
  all_goals simp only [encodeImm_eq, Fields.base_eq, Fields.withD_eq, Fields.withA_eq, Fields.withB_eq, Fields.withX_eq,
    Fields.rawA_eq, Fields.rawB_eq, Fields.guard_eq, Fields.regD_eq, Fields.srcA_eq, Fields.srcB_eq, Fields.mk_eq_iff,
    toNat_beq_one hgn, toNat_beq_one hea, toNat_beq_one heb, toNat_mod_two_beq_one, Fin.val_ofNat, BitVec.toNat_ofNat,
    Fields.ty_eq, Fields.rm_eq, Fields.c_eq, Fields.lo19_eq, Nat.reducePow, true_and] at *
  all_goals omega

theorem encodeFields_decode4 (h : decode4 f = some i) : encodeFields i = some f := by
  obtain ⟨hop, hgn, hgp, hd, ha, hb, hea, heb, hx⟩ := hf
  unfold decode4 at h
  split at h
  all_goals simp only [Option.bind_eq_bind, Option.bind_eq_some_iff, need_eq_some_iff, zeros_cons, zeros_nil, Bool.and_eq_true,
    decide_eq_true_eq, and_true, reduceCtorEq, LdSize.ofCode_eq_some_iff, StSize.ofCode_eq_some_iff, AtSize.ofCode_eq_some_iff,
    Scope.ofCode_eq_some_iff, Order.ofCode_eq_some_iff, Policy.ofCode_eq_some_iff, AmoOp.ofCode_eq_some_iff] at h
  all_goals casesm* _ ∧ _, ∃ _, _
  all_goals subst_vars
  all_goals refine congrArg some ?_
  all_goals simp only [encodeImm_eq, Fields.base_eq, Fields.withD_eq, Fields.withA_eq, Fields.withB_eq, Fields.withX_eq,
    Fields.guard_eq, Fields.regD_eq, Fields.srcA_eq, Fields.srcB_eq, Fields.mk_eq_iff, toNat_beq_one hgn, toNat_beq_one hea,
    toNat_beq_one heb, Fin.val_ofNat, BitVec.toNat_ofNat, Fields.sz_eq, Fields.sc_eq, Fields.ord_eq, Fields.cp_eq, Fields.b20_eq,
    Fields.off_eq, xM, Nat.reducePow, true_and] at *
  all_goals omega

theorem encodeFields_decode6 (h : decode6 f = some i) : encodeFields i = some f := by
  obtain ⟨hop, hgn, hgp, hd, ha, hb, hea, heb, hx⟩ := hf
  unfold decode6 at h
  split at h
  all_goals simp only [Option.bind_eq_bind, Option.bind_eq_some_iff, need_eq_some_iff, zeros_cons, zeros_nil, Bool.and_eq_true,
    decide_eq_true_eq, and_true, reduceCtorEq, EltSize.ofCode_eq_some_iff, TokKind.ofCode_eq_some_iff,
    QField.ofCode_eq_some_iff] at h
  all_goals casesm* _ ∧ _, ∃ _, _
  all_goals subst_vars
  all_goals refine congrArg some ?_
  all_goals simp only [Fields.base_eq, Fields.withD_eq, Fields.withA_eq, Fields.withB_eq, Fields.withX_eq, Fields.rawA_eq,
    Fields.guard_eq, Fields.regA_eq, Fields.srcA_eq, Fields.srcB_eq, Fields.mk_eq_iff, toNat_beq_one hgn, toNat_beq_one hea,
    toNat_beq_one heb, toNat_mod_two_beq_one, Fin.val_ofNat, Fields.hi_eq, Fields.tk_eq, Fields.fl_eq, Nat.reducePow,
    true_and] at *
  all_goals omega

theorem encodeFields_decode8 (h : decode8 f = some i) : encodeFields i = some f := by
  obtain ⟨hop, hgn, hgp, hd, ha, hb, hea, heb, hx⟩ := hf
  unfold decode8 at h
  split at h
  case' h_5 => by_cases hfl : f.flE = 0 <;> simp only [hfl, if_true, if_false] at h
  case' h_8 => by_cases hfl : f.flE = 0 <;> simp only [hfl, if_true, if_false] at h
  all_goals simp only [Option.bind_eq_bind, Option.bind_eq_some_iff, need_eq_some_iff, zeros_cons, zeros_nil, Bool.and_eq_true,
    beq_iff_eq, decide_eq_true_eq, and_true, reduceCtorEq, Rm.ofCode_eq_some_iff, Scope.ofCode_eq_some_iff,
    CpySize.ofCode_eq_some_iff] at h
  all_goals casesm* _ ∧ _, ∃ _, _
  all_goals subst_vars
  all_goals refine congrArg some ?_
  all_goals simp only [Fields.base_eq, Fields.withD_eq, Fields.withA_eq, Fields.withB_eq, Fields.withX_eq, Fields.rawA_eq,
    Fields.rawB_eq, Fields.guard_eq, Fields.regD_eq, Fields.srcA_eq, Fields.srcB_eq, Fields.mk_eq_iff, toNat_beq_one hgn,
    toNat_beq_one hea, toNat_beq_one heb, toNat_mod_two_beq_one, Fin.val_ofNat, BitVec.toNat_ofNat, Fields.tlE_eq, Fields.fdE_eq,
    Fields.flE_eq, xE, Blk.code_ofCode (Nat.mod_lt _ (by decide : 0 < 4)), Nat.reducePow, true_and] at *
  all_goals omega

theorem encodeFields_decodeA (h : decodeA f = some i) : encodeFields i = some f := by
  obtain ⟨hop, hgn, hgp, hd, ha, hb, hea, heb, hx⟩ := hf
  unfold decodeA at h
  split at h
  all_goals simp only [Option.bind_eq_bind, Option.bind_eq_some_iff, need_eq_some_iff, zeros_cons, zeros_nil, Bool.and_eq_true,
    Bool.or_eq_true, beq_iff_eq, decide_eq_true_eq, and_true, reduceCtorEq, Rm.ofCode_eq_some_iff, TileFmt.ofCode_eq_some_iff,
    Route.ofCode_eq_some_iff, MxSrc.ofCode_eq_some_iff, directOf_eq_some_iff] at h
  all_goals casesm* _ ∧ _, ∃ _, _
  all_goals subst_vars
  all_goals refine congrArg some ?_
  all_goals simp only [Fields.base_eq, Fields.withD_eq, Fields.withA_eq, Fields.withX_eq, Fields.rawA_eq, Fields.rawB_eq,
    Fields.guard_eq, Fields.srcA_eq, Fields.mk_eq_iff, toNat_beq_one hgn, toNat_beq_one hea, toNat_mod_two_beq_one,
    Fin.val_ofNat, BitVec.toNat_ofNat, Fields.hi_eq, Fields.md_eq, Fields.tlX_eq, xX, Nat.reducePow, true_and] at *
  all_goals omega

theorem encodeFields_decodeB (h : decodeB f = some i) : encodeFields i = some f := by
  obtain ⟨hop, hgn, hgp, hd, ha, hb, hea, heb, hx⟩ := hf
  unfold decodeB at h
  split at h
  case' h_1 => by_cases hmd : f.md / 2 ^ 12 % 2 = 0 <;> simp only [hmd, if_true, if_false] at h
  all_goals simp only [Option.bind_eq_bind, Option.bind_eq_some_iff, need_eq_some_iff, zeros_cons, zeros_nil, Bool.and_eq_true,
    Bool.or_eq_true, beq_iff_eq, decide_eq_true_eq, and_true, reduceCtorEq, IdxSrc.ofCode_eq_some_iff,
    RankDst.ofCode_eq_some_iff, directOf_eq_some_iff] at h
  all_goals casesm* _ ∧ _, ∃ _, _
  all_goals subst_vars
  all_goals refine congrArg some ?_
  all_goals simp only [Fields.base_eq, Fields.withD_eq, Fields.withA_eq, Fields.withB_eq, Fields.withX_eq, Fields.rawA_eq,
    Fields.rawB_eq, Fields.guard_eq, Fields.regA_eq, Fields.srcA_eq, Fields.srcB_eq, Fields.mk_eq_iff, toNat_beq_one hgn,
    toNat_beq_one hea, toNat_beq_one heb, toNat_mod_two_beq_one, Fin.val_ofNat, Fields.hi_eq, Fields.md_eq, Fields.tlX_eq, xX,
    vecHi, toNat_beq_two, Nat.reducePow, true_and] at *
  case h_3 => grind
  all_goals omega

theorem encodeFields_decodeC (h : decodeC f = some i) : encodeFields i = some f := by
  obtain ⟨hop, hgn, hgp, hd, ha, hb, hea, heb, hx⟩ := hf
  unfold decodeC at h
  split at h
  all_goals simp only [need_eq_some_iff, zeros_cons, zeros_nil, Bool.and_eq_true, decide_eq_true_eq, and_true, reduceCtorEq] at h
  all_goals casesm* _ ∧ _, ∃ _, _
  all_goals subst_vars
  all_goals refine congrArg some ?_
  all_goals simp only [encodeImm_eq, Fields.base_eq, Fields.withD_eq, Fields.withA_eq, Fields.withB_eq, Fields.withX_eq,
    Fields.guard_eq, Fields.regD_eq, Fields.srcA_eq, Fields.srcB_eq, Fields.mk_eq_iff, toNat_beq_one hgn, toNat_beq_one hea,
    toNat_beq_one heb, Fin.val_ofNat, BitVec.toNat_ofNat, Nat.reducePow, true_and] at *
  all_goals omega

theorem encodeFields_decodeE (h : decodeE f = some i) : encodeFields i = some f := by
  obtain ⟨hop, hgn, hgp, hd, ha, hb, hea, heb, hx⟩ := hf
  unfold decodeE at h
  split at h
  all_goals simp only [need_eq_some_iff, zeros_cons, zeros_nil, Bool.and_eq_true, decide_eq_true_eq, and_true, reduceCtorEq] at h
  all_goals casesm* _ ∧ _, ∃ _, _
  all_goals subst_vars
  all_goals refine congrArg some ?_
  all_goals simp only [Fields.base_eq, Fields.withD_eq, Fields.withA_eq, Fields.withX_eq, Fields.guard_eq, Fields.regD_eq,
    Fields.srcA_eq, Fields.mk_eq_iff, toNat_beq_one hgn, toNat_beq_one hea, Fin.val_ofNat, BitVec.toNat_ofNat, Fields.hi_eq,
    Nat.reducePow, true_and] at *
  all_goals omega

theorem encodeFields_decodeF (h : decodeF f = some i) : encodeFields i = some f := by
  obtain ⟨hop, hgn, hgp, hd, ha, hb, hea, heb, hx⟩ := hf
  unfold decodeF at h
  split at h
  all_goals simp only [need_eq_some_iff, zeros_cons, zeros_nil, Bool.and_eq_true, beq_iff_eq, decide_eq_true_eq, and_true,
    reduceCtorEq] at h
  all_goals casesm* _ ∧ _, ∃ _, _
  all_goals subst_vars
  all_goals refine congrArg some ?_
  all_goals simp only [Fields.base_eq, Fields.withA_eq, Fields.withX_eq, Fields.guard_eq, Fields.srcA_eq, Fields.mk_eq_iff,
    toNat_beq_one hgn, toNat_beq_one hea, Fin.val_ofNat, BitVec.toNat_ofNat, Fields.hi_eq, Nat.reducePow, true_and] at *
  all_goals omega

/-- The encoder writes back the fields that the decoder read. -/
theorem encodeFields_decodeFields (h : decodeFields f = some i) : encodeFields i = some f := by
  unfold decodeFields at h
  split at h
  case h_1 | h_2 => exact encodeFields_decode0 hf h
  case h_3 => exact encodeFields_decode2 hf h
  case h_4 => exact encodeFields_decode3 hf h
  case h_5 => exact encodeFields_decode4 hf h
  case h_6 => exact encodeFields_decode6 hf h
  case h_7 => exact encodeFields_decode8 hf h
  case h_8 => exact encodeFields_decodeA hf h
  case h_9 => exact encodeFields_decodeB hf h
  case h_10 => exact encodeFields_decodeC hf h
  case h_11 => exact encodeFields_decodeE hf h
  case h_12 => exact encodeFields_decodeF hf h
  case h_13 => cases h

end

end Sys2Proof
end

section
/-! The statement of the decoder and the encoder (03). -/

namespace Sys2Proof

open Sys2Proof.Machine

theorem decode_eq_of_fields {w : Word} {i : Instr} (hop : opcodeUnassigned (Fields.unpack w.toNat).op = false)
    (hd : decodeFields (Fields.unpack w.toNat) = some i) (hw : i.wf = true) : decode w = .ok i := by
  simp only [decode, hop, hd, hw, if_true, if_false, Bool.false_eq_true]

/-- A word that decodes to a sequencer instruction has an assigned opcode, and its fields decode to that instruction. -/
theorem fields_of_decode {w : Word} {i : Instr} (h : decode w = .ok i) (hu : ∀ v, i ≠ .unassignedOpcode v) :
    decodeFields (Fields.unpack w.toNat) = some i ∧ i.wf = true := by
  simp only [decode] at h
  split at h
  · cases h
    exact absurd rfl (hu w)
  · split at h
    · cases h
    · next j hj =>
      split at h
      · next hw =>
        cases h
        exact ⟨hj, hw⟩
      · split at h
        · split at h <;> cases h
        · cases h

/-- R79: the word of an unassigned opcode is kept as it is. -/
theorem decode_encode_unassigned {w : Word} (hw : (Instr.unassignedOpcode w).wf = true) :
    ∃ v, encode (.unassignedOpcode w) = some v ∧ decode v = .ok (.unassignedOpcode w) := by
  have hop : opcodeUnassigned (Fields.unpack w.toNat).op = true := by
    have e : (Fields.unpack w.toNat).op = w.toNat / 2 ^ 56 := by
      have := w.isLt
      simp only [Fields.unpack]
      omega
    rw [e]
    exact hw
  refine ⟨w, ?_, by simp only [decode, hop, if_true]⟩
  change some (BitVec.ofNat 64 (Fields.unpack w.toNat).pack) = some w
  rw [Fields.pack_unpack w.isLt, BitVec.ofNat_toNat, BitVec.setWidth_eq]

theorem decode_encode {i : Instr} (hw : i.wf = true) (he : i.encodable = true) : ∃ w, encode i = some w ∧ decode w = .ok i := by
  by_cases hu : ∀ w, i ≠ .unassignedOpcode w
  · obtain ⟨f, hf⟩ := Option.isSome_iff_exists.mp he
    obtain ⟨hb, hd⟩ := decodeFields_encodeFields hw hu hf
    have hun : Fields.unpack (BitVec.ofNat 64 f.pack).toNat = f := by
      rw [BitVec.toNat_ofNat, Nat.mod_eq_of_lt (Fields.pack_lt hb), Fields.unpack_pack hb]
    refine ⟨BitVec.ofNat 64 f.pack, by rw [encode, hf]; rfl, decode_eq_of_fields ?_ ?_ hw⟩
    · rw [hun]
      exact encodeFields_assigned hu hf
    · rw [hun]
      exact hd
  · push Not at hu
    obtain ⟨w, rfl⟩ := hu
    exact decode_encode_unassigned hw

theorem encode_decode {w : Word} {i : Instr} (h : decode w = .ok i) (hu : ∀ v, i ≠ .unassignedOpcode v) :
    i.wf = true ∧ encode i = some w := by
  obtain ⟨hd, hw⟩ := fields_of_decode h hu
  refine ⟨hw, ?_⟩
  rw [encode, encodeFields_decodeFields (Fields.unpack_bounded _) hd]
  change some (BitVec.ofNat 64 (Fields.unpack w.toNat).pack) = some w
  rw [Fields.pack_unpack w.isLt, BitVec.ofNat_toNat, BitVec.setWidth_eq]

/-- Settles O57: page by page of Table 3.6, each row of the decoder and of the encoder undoes the other on fields within their
widths, and a word is its fields. -/
theorem decodeEncode : Obligations.DecodeEncode := by
  unfold Obligations.DecodeEncode
  exact ⟨fun _ => decode_encode, fun _ _ => encode_decode⟩

end Sys2Proof
end

section
/-! SUPPORT. What the choice of R339 leaves of a core: the instruction store, the memory and where its tasks stand. -/

namespace Sys2Proof.Machine

theorem Sparse.look_some_mem {β : Type} {m : Sparse β} {k : Nat} {v : β} (h : m.look k = some v) : (k, v) ∈ m := by
  induction m with
  | nil => simp at h
  | cons p m ih =>
    obtain ⟨j, u⟩ := p
    simp only [Sparse.look] at h
    split at h
    · next e => simp_all
    · exact List.mem_cons_of_mem _ (ih h)

/-- What holds of every listed value and of the default holds of every value that is read. -/
theorem Sparse.at_of_forall {β : Type} {P : β → Prop} {d : β} {m : Sparse β} (hd : P d) (hm : ∀ p ∈ m, P p.2) (k : Nat) :
    P (m.at d k) := by
  unfold Sparse.at
  cases h : m.look k with
  | none => exact hd
  | some v => exact hm (k, v) (Sparse.look_some_mem h)

/-- What every step of a fold keeps, the fold keeps. -/
theorem foldl_keeps {α β γ : Type} (p : β → γ) {f : β → α → β} (h : ∀ b a, p (f b a) = p b) (l : List α) (b : β) :
    p (l.foldl f b) = p b := by
  induction l generalizing b with
  | nil => rfl
  | cons a l ih => rw [List.foldl_cons, ih, h]

theorem Core.task_modTask (c : Core) (k j : Nat) (f : Task → Task) :
    (c.modTask k f).task j = if j = k then f (c.task k) else c.task j := by
  simp only [Core.modTask, Core.setTask, Core.task, Sparse.at_put]

/-- R339: the choice changes ages, yield states, wakes and waits of the tasks, and the last served slots; what no change of
these touches stays. -/
theorem Core.chosen_keeps {γ : Type} (p : Core → γ)
    (htask : ∀ (c : Core) (j : Nat) (f : Task → Task), (∀ t, (f t).pc = t.pc) → p (c.modTask j f) = p c)
    (hlast : ∀ (c : Core) (l : Sparse Nat), p { c with last := l } = p c)
    (c : Core) (rs : List Nat) (k : Nat) (pr : Option Nat) : p (c.chosen rs k pr) = p c := by
  have hage : p (rs.foldl (fun c j => c.modTask j (fun t => if j = k then { t with age := 0 } else { t with age := t.age + 1 })) c) = p c := by
    refine foldl_keeps p (fun b a => htask b a _ fun t => ?_) rs c
    split <;> rfl
  have hyield : ∀ b : Core, p ((List.range 8).foldl (fun c j =>
      if j ≠ k ∧ (c.task j).yielding then c.modTask j (fun t => { t with yielding := false, wait := none }) else c) b) = p b := by
    refine fun b => foldl_keeps p (fun b a => ?_) _ b
    split
    · exact htask b a _ (fun _ => rfl)
    · rfl
  have hself : ∀ b : Core, p (if (b.task k).yielding then
      b.modTask k (fun t => { t with yielding := false, wake := false, wait := none }) else b) = p b := by
    intro b
    split
    · exact htask b k _ (fun _ => rfl)
    · rfl
  cases pr with
  | none => exact (hself _).trans ((hyield _).trans hage)
  | some n => exact (hlast _ _).trans ((hself _).trans ((hyield _).trans hage))

@[simp] theorem Core.chosen_istore (c : Core) (rs : List Nat) (k : Nat) (pr : Option Nat) : (c.chosen rs k pr).istore = c.istore :=
  Core.chosen_keeps Core.istore (fun _ _ _ _ => rfl) (fun _ _ => rfl) c rs k pr

@[simp] theorem Core.chosen_scratch (c : Core) (rs : List Nat) (k : Nat) (pr : Option Nat) : (c.chosen rs k pr).scratch = c.scratch :=
  Core.chosen_keeps Core.scratch (fun _ _ _ _ => rfl) (fun _ _ => rfl) c rs k pr

@[simp] theorem Core.chosen_pc (c : Core) (rs : List Nat) (k : Nat) (pr : Option Nat) (j : Nat) :
    ((c.chosen rs k pr).task j).pc = (c.task j).pc := by
  refine Core.chosen_keeps (fun c => (c.task j).pc) (fun c i f hf => ?_) (fun _ _ => rfl) c rs k pr
  rw [Core.task_modTask]
  split
  · next h => rw [hf, h]
  · rfl

end Sys2Proof.Machine
end

section
/-! The reset state and the step (25, 14): the statements O58 and O55. -/

namespace Sys2Proof.Cert

open Sys2Proof.Machine
open Host (Outcome)

/-- R420: a die that a module reset lists stands as one that has not booted, and so does any other. -/
theorem die_reset (d : Nat) : State.reset.die d = Die.off := by
  refine Sparse.at_of_forall (P := (· = Die.off)) rfl ?_ d
  intro p hp
  simp only [State.reset, freshDies, List.mem_cons, List.not_mem_nil, or_false] at hp
  obtain rfl | rfl | rfl | rfl := hp <;> rfl

/-- Settles O58: each field reads as `State.reset` gives it; tables that list nothing are in canonical form. -/
theorem resetState : Obligations.ResetState := by
  unfold Obligations.ResetState
  refine ⟨fun d => ?_, rfl, rfl, rfl, rfl, rfl, rfl, rfl, rfl, rfl, rfl, fun g => rfl, rfl, rfl, rfl, rfl, rfl, by decide, by decide, ?_⟩
  · simp [die_reset, Die.off]
  · exact ⟨rfl, rfl, rfl, rfl, by simp [State.reset], by simp [State.reset]⟩

/-- R68, R339: the choice settles after what the chosen task ran. -/
theorem step_issues {s s1 : State} {t : TaskRef} {i : Instr} (ha : s.agenda = []) (ht : s.turn = true) (hp : s.pick = some (t, s1))
    (hd : decode (s1.fetchWord t) = .ok i) : step s = pass (exec i { s1 with cur := t }) (issued s t) := by
  have h1 : stepTask s1 t = exec i { s1 with cur := t } := by simp only [stepTask, hd]
  simp only [step, ha, ht, State.issueStep, hp, h1, if_true]

/-- Log 1: the head of the agenda is the step. -/
theorem step_agenda {s : State} {i : Instr} {rest : List Instr} (ha : s.agenda = i :: rest) :
    step s = pass (exec i { s with agenda := rest }) id := by
  simp only [step, ha]

/-- The one core of the rectangle that holds a word placed for a test. -/
def placedCore (n w : Nat) : Core := (State.reset.withFetchWord n w).core ⟨0, 0⟩

/-- The state with the choice of its task 0 made. -/
def placedChoice (n w : Nat) : State :=
  let s := State.reset.withFetchWord n w
  { s.modCore ⟨0, 0⟩ (fun x => x.chosen [0] 0 (some 0)) with nextCore := 1 }

/-- Its task 0 is the only ready one, at priority 0 and age 0, and the turn of priority 0 begins with slot 0. -/
theorem choose_placedCore (n w : Nat) : (placedCore n w).choose [0] = some (0, some 0) := by
  have ha : ((placedCore n w).task 0).age = 0 := rfl
  have hp : ((placedCore n w).task 0).prio = 0 := rfl
  have hl : (placedCore n w).last = [] := rfl
  have horder : (List.range 8).map (fun i => (7 + 1 + i) % 8) = 0 :: [1, 2, 3, 4, 5, 6, 7] := by decide
  simp only [Core.choose, maxBy, List.filter_cons, List.filter_nil, ha, hp, hl, Sparse.at_nil, horder]
  simp [maxBy, hp]

theorem pick_withFetchWord (n w : Nat) : (State.reset.withFetchWord n w).pick = some (⟨0, 0, 0⟩, placedChoice n w) := by
  have hnext : (State.reset.withFetchWord n w).nextIssuer = some (⟨0, 0⟩, 0) := rfl
  have hready : (State.reset.withFetchWord n w).readySlots ⟨0, 0⟩ = [0] := rfl
  have hchoose : ((State.reset.withFetchWord n w).core ⟨0, 0⟩).choose [0] = some (0, some 0) := choose_placedCore n w
  simp only [State.pick, hnext, hready, hchoose]
  rfl

theorem core_placedChoice (n w : Nat) : (placedChoice n w).core ⟨0, 0⟩ = (placedCore n w).chosen [0] 0 (some 0) :=
  State.core_modCore_same (State.reset.withFetchWord n w) ⟨0, 0⟩ (fun x => x.chosen [0] 0 (some 0))

theorem fetchWord_placedChoice (n w : Nat) : (placedChoice n w).fetchWord ⟨0, 0, 0⟩ = BitVec.ofNat 64 w := by
  change ((placedChoice n w).core ⟨0, 0⟩).instrWord (((placedChoice n w).core ⟨0, 0⟩).task 0).pc.toNat = _
  rw [core_placedChoice, Core.chosen_pc, Core.instrWord, Core.chosen_istore]
  rfl

/-- Settles O55: the step's own branches, and task 0 is the one ready task of the rectangle that holds the word. -/
theorem stepRunsDecoded : Obligations.StepRunsDecoded := by
  unfold Obligations.StepRunsDecoded
  intro s s1 t i
  refine ⟨step_issues, fun rest => step_agenda, rfl, fun n w hd => ⟨placedChoice n w, pick_withFetchWord n w, ?_⟩⟩
  refine step_issues rfl rfl (pick_withFetchWord n w) ?_
  rw [fetchWord_placedChoice, hd]

end Sys2Proof.Cert
end

section
/-! SUPPORT. The shapes of R135 in the words of the statements: an instruction with one or two sources that executes writes its
value and retires. -/

namespace Sys2Proof.Cert

open Sys2Proof.Machine
open Host (Outcome)

variable {s : State} {g : Guard} {d : Reg} {a b : Src}

theorem alu2_retires {f : Word → Word → Word} {v : Word} (h : Executes s g [a.r, b.r] [d]) (hv : f (val s a) (val s b) = v) :
    alu2 g d a b f s = .next (retire s (fun t => t.write d v)) := by
  subst hv
  refine (issueT_retires h ?_ _).trans (congrArg _ (retire_congr ?_))
  · simp [listed, srcNeed]
  · rfl

theorem alu1_retires {f : Word → Word} {v : Word} (h : Executes s g [a.r] [d]) (hv : f (val s a) = v) :
    alu1 g d a f s = .next (retire s (fun t => t.write d v)) := by
  subst hv
  refine (issueT_retires h ?_ _).trans (congrArg _ (retire_congr ?_))
  · simp [listed, srcNeed]
  · rfl

end Sys2Proof.Cert
end

section
/-! SUPPORT. The integer operations of R136 and R137 as numbers, at any width: each word is the low bits of an integer. -/

namespace Sys2Proof.Cert

open Sys2Proof.Machine

variable {n : Nat} (x y : BitVec n)

theorem add_eq_ofInt : x + y = BitVec.ofInt n (x.toNat + y.toNat) := by
  simp [BitVec.ofInt_add]

theorem sub_eq_ofInt : x - y = BitVec.ofInt n ((x.toNat : Int) - y.toNat) := by
  simp [BitVec.sub_eq_add_neg, Int.sub_eq_add_neg, BitVec.ofInt_add, BitVec.ofInt_neg]

theorem mul_eq_ofInt : x * y = BitVec.ofInt n (x.toNat * y.toNat) := by
  simp [BitVec.ofInt_mul]

theorem mulhu_eq_ofInt : BitVec.ofNat n (x.toNat * y.toNat / 2 ^ n) = BitVec.ofInt n ((x.toNat : Int) * y.toNat / 2 ^ n) := by
  rw [← BitVec.ofInt_natCast]
  push_cast
  rfl

theorem mulh_eq_ofInt :
    BitVec.ofInt n (x.toInt * y.toInt / ((2 ^ n : Nat) : Int)) = BitVec.ofInt n (x.toInt * y.toInt / 2 ^ n) := by
  push_cast
  rfl

theorem and_eq_ofInt : x &&& y = BitVec.ofInt n (x.toNat &&& y.toNat : Nat) := by
  rw [BitVec.ofInt_natCast, ← BitVec.toNat_and, BitVec.ofNat_toNat, BitVec.setWidth_eq]

theorem or_eq_ofInt : x ||| y = BitVec.ofInt n (x.toNat ||| y.toNat : Nat) := by
  rw [BitVec.ofInt_natCast, ← BitVec.toNat_or, BitVec.ofNat_toNat, BitVec.setWidth_eq]

theorem xor_eq_ofInt : x ^^^ y = BitVec.ofInt n (x.toNat ^^^ y.toNat : Nat) := by
  rw [BitVec.ofInt_natCast, ← BitVec.toNat_xor, BitVec.ofNat_toNat, BitVec.setWidth_eq]

theorem andn_eq_ofInt : x &&& ~~~y = BitVec.ofInt n (x.toNat &&& (2 ^ n - 1 - y.toNat) : Nat) := by
  rw [and_eq_ofInt, BitVec.toNat_not]

theorem min_eq_ofInt : (if x.toInt ≤ y.toInt then x else y) = BitVec.ofInt n (min x.toInt y.toInt) := by
  rw [min_def]
  split <;> rw [BitVec.ofInt_toInt]

theorem max_eq_ofInt : (if x.toInt ≤ y.toInt then y else x) = BitVec.ofInt n (max x.toInt y.toInt) := by
  rw [max_def]
  split <;> rw [BitVec.ofInt_toInt]

theorem minu_eq_ofInt : (if x.toNat ≤ y.toNat then x else y) = BitVec.ofInt n (min x.toNat y.toNat : Nat) := by
  rw [min_def]
  split <;> simp

theorem maxu_eq_ofInt : (if x.toNat ≤ y.toNat then y else x) = BitVec.ofInt n (max x.toNat y.toNat : Nat) := by
  rw [max_def]
  split <;> simp

theorem toInt_eq_zero_iff : x.toInt = 0 ↔ x = 0#n := by
  rw [← BitVec.toInt_zero (w := n), BitVec.toInt_inj]

/-- Half of the values of a width, either way round, is one word. -/
theorem ofInt_half_eq_neg (hn : 0 < n) : BitVec.ofInt n (2 ^ (n - 1)) = BitVec.ofInt n (-(2 ^ (n - 1))) := by
  have hhalf : (2 : Int) ^ (n - 1) = -(2 ^ (n - 1)) + ((2 ^ n : Nat) : Int) := by
    have hp : (2 : Int) ^ n = 2 ^ (n - 1) + 2 ^ (n - 1) := by
      rw [← two_mul, ← pow_succ', Nat.sub_add_cancel hn]
    push_cast
    omega
  have hz : BitVec.ofInt n ((2 ^ n : Nat) : Int) = 0#n := by
    rw [BitVec.ofInt_natCast]
    apply BitVec.eq_of_toNat_eq
    rw [BitVec.toNat_ofNat, Nat.mod_self, BitVec.toNat_ofNat, Nat.zero_mod]
  calc BitVec.ofInt n (2 ^ (n - 1)) = BitVec.ofInt n (-(2 ^ (n - 1)) + ((2 ^ n : Nat) : Int)) := by rw [← hhalf]
    _ = BitVec.ofInt n (-(2 ^ (n - 1))) := by rw [BitVec.ofInt_add, hz, BitVec.add_zero]

/-- R137: the quotient toward zero; the one quotient that does not fit is the dividend again. -/
theorem div_eq_ofInt (hn : 0 < n) : (if y = 0#n then 0#n else BitVec.ofInt n (x.toInt.tdiv y.toInt))
    = BitVec.ofInt n (quotRem x.toInt y.toInt (-(2 ^ (n - 1)))).1 := by
  simp only [quotRem, toInt_eq_zero_iff]
  split
  · simp
  · split
    · next h =>
      obtain ⟨hx, hy⟩ := h
      rw [hx, hy, Int.tdiv_neg, Int.tdiv_one, Int.neg_neg]
      exact ofInt_half_eq_neg hn
    · rfl

/-- R137: the remainder has the sign of the dividend. -/
theorem rem_eq_ofInt (least : Int) : (if y = 0#n then x else BitVec.ofInt n (x.toInt.tmod y.toInt))
    = BitVec.ofInt n (quotRem x.toInt y.toInt least).2 := by
  simp only [quotRem, toInt_eq_zero_iff]
  split
  · simp
  · split
    · next h => simp [h.2, Int.tmod_neg]
    · rw [Int.tmod_def, mul_comm]

theorem divu_eq_ofInt (least : Int) : BitVec.ofNat n (x.toNat / y.toNat) = BitVec.ofInt n (quotRem x.toNat y.toNat least).1 := by
  have hy : ¬ ((x.toNat : Int) = least ∧ (y.toNat : Int) = -1) := by omega
  simp only [quotRem, if_neg hy]
  split
  · next h => simp [Int.natCast_eq_zero.mp h]
  · rw [← BitVec.ofInt_natCast, Int.natCast_ediv, Int.tdiv_eq_ediv_of_nonneg (Int.natCast_nonneg _)]

theorem remu_eq_ofInt (least : Int) :
    (if y = 0#n then x else BitVec.ofNat n (x.toNat % y.toNat)) = BitVec.ofInt n (quotRem x.toNat y.toNat least).2 := by
  have hy : ¬ ((x.toNat : Int) = least ∧ (y.toNat : Int) = -1) := by omega
  have hz : (y.toNat : Int) = 0 ↔ y = 0#n := by rw [Int.natCast_eq_zero, ← BitVec.toNat_inj]; simp
  simp only [quotRem, if_neg hy, hz]
  split
  · simp
  · rw [← BitVec.ofInt_natCast, Int.natCast_emod, ← Int.tmod_eq_emod_of_nonneg (Int.natCast_nonneg _), Int.tmod_def, mul_comm]

end Sys2Proof.Cert
end

section
/-! The integer and division instructions (05): the statement O4. -/

namespace Sys2Proof.Cert

open Sys2Proof.Machine
open Host (Outcome)

/-- R135: the value at each width. -/
theorem atWidth_eq_sextv {wd : Width} {f : Word → Word → Word} {f' : W32 → W32 → W32} {x y : Word} {v : Int}
    (h64 : wd = .d → f x y = BitVec.ofInt 64 v) (h32 : wd = .w → f' (x.setWidth 32) (y.setWidth 32) = BitVec.ofInt 32 v) :
    atWidth wd f f' x y = sextv wd v := by
  cases wd with
  | d => exact h64 rfl
  | w => exact congrArg (BitVec.signExtend 64) (h32 rfl)

section
variable (wd : Width) (x y : Word)

theorem aluAdd_eq : aluAdd wd x y = sextv wd (uvalue wd x + uvalue wd y) := by
  apply atWidth_eq_sextv <;> rintro rfl <;> exact add_eq_ofInt _ _

theorem aluSub_eq : aluSub wd x y = sextv wd ((uvalue wd x : Int) - uvalue wd y) := by
  apply atWidth_eq_sextv <;> rintro rfl <;> exact sub_eq_ofInt _ _

theorem aluMul_eq : aluMul wd x y = sextv wd (uvalue wd x * uvalue wd y) := by
  apply atWidth_eq_sextv <;> rintro rfl <;> exact mul_eq_ofInt _ _

theorem aluMulh_eq : aluMulh wd x y = sextv wd (svalue wd x * svalue wd y / 2 ^ bitsOfWidth wd) := by
  apply atWidth_eq_sextv <;> rintro rfl <;> exact mulh_eq_ofInt _ _

theorem aluMulhu_eq : aluMulhu wd x y = sextv wd ((uvalue wd x : Int) * uvalue wd y / 2 ^ bitsOfWidth wd) := by
  apply atWidth_eq_sextv <;> rintro rfl <;> exact mulhu_eq_ofInt _ _

theorem aluAnd_eq : aluAnd wd x y = sextv wd (uvalue wd x &&& uvalue wd y : Nat) := by
  apply atWidth_eq_sextv <;> rintro rfl <;> exact and_eq_ofInt _ _

theorem aluOr_eq : aluOr wd x y = sextv wd (uvalue wd x ||| uvalue wd y : Nat) := by
  apply atWidth_eq_sextv <;> rintro rfl <;> exact or_eq_ofInt _ _

theorem aluXor_eq : aluXor wd x y = sextv wd (uvalue wd x ^^^ uvalue wd y : Nat) := by
  apply atWidth_eq_sextv <;> rintro rfl <;> exact xor_eq_ofInt _ _

theorem aluAndn_eq : aluAndn wd x y = sextv wd (uvalue wd x &&& compl wd y : Nat) := by
  apply atWidth_eq_sextv <;> rintro rfl <;> exact andn_eq_ofInt _ _

theorem aluMin_eq : aluMin wd x y = sextv wd (min (svalue wd x) (svalue wd y)) := by
  apply atWidth_eq_sextv <;> rintro rfl <;> exact min_eq_ofInt _ _

theorem aluMax_eq : aluMax wd x y = sextv wd (max (svalue wd x) (svalue wd y)) := by
  apply atWidth_eq_sextv <;> rintro rfl <;> exact max_eq_ofInt _ _

theorem aluMinu_eq : aluMinu wd x y = sextv wd (min (uvalue wd x) (uvalue wd y) : Nat) := by
  apply atWidth_eq_sextv <;> rintro rfl <;> exact minu_eq_ofInt _ _

theorem aluMaxu_eq : aluMaxu wd x y = sextv wd (max (uvalue wd x) (uvalue wd y) : Nat) := by
  apply atWidth_eq_sextv <;> rintro rfl <;> exact maxu_eq_ofInt _ _

theorem aluDiv_eq : aluDiv wd x y = sextv wd (quotRem (svalue wd x) (svalue wd y) (-(2 ^ (bitsOfWidth wd - 1)))).1 := by
  unfold aluDiv
  apply atWidth_eq_sextv <;> rintro rfl
  · exact div_eq_ofInt x y (by decide)
  · exact div_eq_ofInt (x.setWidth 32) (y.setWidth 32) (by decide)

theorem aluRem_eq (least : Int) : aluRem wd x y = sextv wd (quotRem (svalue wd x) (svalue wd y) least).2 := by
  unfold aluRem
  apply atWidth_eq_sextv <;> rintro rfl
  · exact rem_eq_ofInt x y least
  · exact rem_eq_ofInt (x.setWidth 32) (y.setWidth 32) least

theorem aluDivu_eq (least : Int) : aluDivu wd x y = sextv wd (quotRem (uvalue wd x) (uvalue wd y) least).1 := by
  unfold aluDivu
  apply atWidth_eq_sextv <;> rintro rfl
  · exact divu_eq_ofInt x y least
  · exact divu_eq_ofInt (x.setWidth 32) (y.setWidth 32) least

theorem aluRemu_eq (least : Int) : aluRemu wd x y = sextv wd (quotRem (uvalue wd x) (uvalue wd y) least).2 := by
  unfold aluRemu
  apply atWidth_eq_sextv <;> rintro rfl
  · exact remu_eq_ofInt x y least
  · exact remu_eq_ofInt (x.setWidth 32) (y.setWidth 32) least

/-- R137: the divisor is zero exactly when its low w bits are. -/
theorem divByZero_eq : divByZero wd y = decide (uvalue wd y = 0) := by
  cases wd with
  | d =>
    rw [divByZero, uvalue, sextTo, beq_eq_decide]
    exact decide_eq_decide.mpr (by rw [← BitVec.toNat_inj, BitVec.toNat_zero])
  | w =>
    have h : (y.setWidth 32).signExtend 64 = 0#64 ↔ (y.setWidth 32).toNat = 0 := by
      rw [← BitVec.toInt_inj, BitVec.toInt_signExtend_of_le (by decide), BitVec.toInt_zero, ← BitVec.toInt_zero (w := 32),
        BitVec.toInt_inj, ← BitVec.toNat_inj, BitVec.toNat_zero]
    rw [divByZero, uvalue, sextTo, beq_eq_decide]
    exact decide_eq_decide.mpr h

end

theorem integerArithmeticResults : IntegerArithmeticResults := by
  intro s g wd d a b h
  exact ⟨alu2_retires h (aluAdd_eq ..), alu2_retires h (aluSub_eq ..), alu2_retires h (aluMul_eq ..), alu2_retires h (aluMulh_eq ..),
    alu2_retires h (aluMulhu_eq ..), alu2_retires h (aluAnd_eq ..), alu2_retires h (aluOr_eq ..), alu2_retires h (aluXor_eq ..),
    alu2_retires h (aluAndn_eq ..), alu2_retires h (aluMin_eq ..), alu2_retires h (aluMax_eq ..), alu2_retires h (aluMinu_eq ..),
    alu2_retires h (aluMaxu_eq ..)⟩

/-! The forms with an immediate, which R135 extends to 64 bits. -/

theorem sextImm_eq (imm : W32) : sextImm imm = BitVec.ofInt 64 imm.toInt := rfl

section
variable (x : Word) (imm : W32)

theorem addi_eq : x + sextImm imm = sextv .d (uvalue .d x + uvalue .d (BitVec.ofInt 64 imm.toInt)) := by
  rw [sextImm_eq]
  exact aluAdd_eq .d x _

theorem andi_eq : x &&& sextImm imm = sextv .d (uvalue .d x &&& uvalue .d (BitVec.ofInt 64 imm.toInt) : Nat) := by
  rw [sextImm_eq]
  exact aluAnd_eq .d x _

theorem ori_eq : x ||| sextImm imm = sextv .d (uvalue .d x ||| uvalue .d (BitVec.ofInt 64 imm.toInt) : Nat) := by
  rw [sextImm_eq]
  exact aluOr_eq .d x _

theorem xori_eq : x ^^^ sextImm imm = sextv .d (uvalue .d x ^^^ uvalue .d (BitVec.ofInt 64 imm.toInt) : Nat) := by
  rw [sextImm_eq]
  exact aluXor_eq .d x _

end

theorem immediateArithmeticResults : ImmediateArithmeticResults := by
  intro s g d a imm h
  exact ⟨alu1_retires (f := (· + sextImm imm)) h (addi_eq ..), alu1_retires (f := (· &&& sextImm imm)) h (andi_eq ..),
    alu1_retires (f := (· ||| sextImm imm)) h (ori_eq ..), alu1_retires (f := (· ^^^ sextImm imm)) h (xori_eq ..)⟩

/-- R137: a division writes its value, and DZ if its divisor is zero. -/
theorem division_retires {s : State} {g : Guard} {wd : Width} {d : Reg} {a b : Src} {f : Word → Word → Word} {v : Word}
    (h : Executes s g [a.r, b.r] [d]) (hv : f (val s a) (val s b) = v) :
    issueT g [srcNeed a, srcNeed b, .dst d] (fun t => (t.setDz (divByZero wd (t.reg b.r))).write d (f (t.reg a.r) (t.reg b.r))) s
      = .next (retire s (fun t => ({ t with dz := t.dz || decide (uvalue wd (val s b) = 0) } : Task).write d v)) := by
  subst hv
  refine (issueT_retires h ?_ _).trans (congrArg _ (retire_congr ?_))
  · simp [listed, srcNeed]
  · rw [divByZero_eq]
    rfl

theorem divisionResults : DivisionResults := by
  intro s g wd d a b h
  exact ⟨division_retires h (aluDiv_eq ..), division_retires h (aluRem_eq ..), division_retires h (aluDivu_eq ..),
    division_retires h (aluRemu_eq ..)⟩

/-- Settles O4: each result is the low bits of the integer that R136 and R137 name, at any width. -/
theorem integerResults : Obligations.IntegerResults :=
  ⟨integerArithmeticResults, immediateArithmeticResults, divisionResults⟩

end Sys2Proof.Cert
end

section
/-! SUPPORT. The shifts, counts, fields and comparisons of R138, R139, R147, R148, R150 and R151 as numbers and bit by bit. -/

namespace Sys2Proof.Cert

open Sys2Proof.Machine

/-! ## Shifts (R138) -/

section
variable {n : Nat} (x : BitVec n) (k : Nat)

theorem shl_eq_ofInt : x <<< k = BitVec.ofInt n (x.toNat * 2 ^ k) := by
  have h : ((x.toNat : Int) * 2 ^ k) = ((x.toNat * 2 ^ k : Nat) : Int) := by push_cast; rfl
  rw [h, BitVec.ofInt_natCast]
  apply BitVec.eq_of_toNat_eq
  rw [BitVec.toNat_shiftLeft, BitVec.toNat_ofNat, Nat.shiftLeft_eq]

theorem shr_eq_ofInt : x >>> k = BitVec.ofInt n ((x.toNat : Int) / 2 ^ k) := by
  have h : ((x.toNat : Int) / 2 ^ k) = ((x.toNat / 2 ^ k : Nat) : Int) := by push_cast; rfl
  rw [h, BitVec.ofInt_natCast, ← Nat.shiftRight_eq_div_pow, ← BitVec.toNat_ushiftRight, BitVec.ofNat_toNat, BitVec.setWidth_eq]

theorem sra_eq_ofInt : x.sshiftRight k = BitVec.ofInt n (x.toInt / 2 ^ k) := by
  have h : (2 : Int) ^ k = ((2 ^ k : Nat) : Int) := by push_cast; rfl
  rw [BitVec.sshiftRight, Int.shiftRight_eq_div_pow, h]

end

theorem setWidth_toNat_mod (y : Word) : (y.setWidth 32).toNat % 32 = y.toNat % 32 := by
  rw [BitVec.toNat_setWidth]
  omega

section
variable (wd : Width) (x y : Word)

theorem aluShl_eq : aluShl wd x y = sextv wd (uvalue wd x * 2 ^ (y.toNat % bitsOfWidth wd)) := by
  unfold aluShl
  apply atWidth_eq_sextv <;> rintro rfl
  · exact shl_eq_ofInt x _
  · rw [setWidth_toNat_mod]
    exact shl_eq_ofInt (x.setWidth 32) _

theorem aluShr_eq : aluShr wd x y = sextv wd ((uvalue wd x : Int) / 2 ^ (y.toNat % bitsOfWidth wd)) := by
  unfold aluShr
  apply atWidth_eq_sextv <;> rintro rfl
  · exact shr_eq_ofInt x _
  · rw [setWidth_toNat_mod]
    exact shr_eq_ofInt (x.setWidth 32) _

theorem aluSra_eq : aluSra wd x y = sextv wd (svalue wd x / 2 ^ (y.toNat % bitsOfWidth wd)) := by
  unfold aluSra
  apply atWidth_eq_sextv <;> rintro rfl
  · exact sra_eq_ofInt x _
  · rw [setWidth_toNat_mod]
    exact sra_eq_ofInt (x.setWidth 32) _

end

/-! ## Bit counts (R139) -/

theorem lowBits_eq_uvalue (wd : Width) (x : Word) : lowBits wd x = uvalue wd x := by
  cases wd with
  | d => exact Nat.mod_eq_of_lt x.isLt
  | w => exact (BitVec.toNat_setWidth _ _).symm

theorem uvalue_lt (wd : Width) (x : Word) : uvalue wd x < 2 ^ bitsOfWidth wd := by
  cases wd with
  | d => exact x.isLt
  | w => exact (x.setWidth 32).isLt

theorem widthBits_eq (wd : Width) : widthBits wd = bitsOfWidth wd := by
  cases wd <;> rfl

/-- Leading zeros of a number below 2^w. -/
theorem leadingZeros_spec {x w : Nat} (hx : x < 2 ^ w) :
    let k := if x = 0 then w else w - 1 - Nat.log2 x
    k ≤ w ∧ x < 2 ^ (w - k) ∧ (k < w → 2 ^ (w - k - 1) ≤ x) := by
  intro k
  by_cases h0 : x = 0
  · simp [k, h0]
  · have hl : Nat.log2 x < w := (Nat.log2_lt h0).mpr hx
    have hk : k = w - 1 - Nat.log2 x := if_neg h0
    have e : w - k = Nat.log2 x + 1 := by omega
    refine ⟨by omega, ?_, fun _ => ?_⟩
    · rw [e]
      exact Nat.lt_log2_self
    · rw [e, Nat.add_sub_cancel]
      exact Nat.log2_self_le h0

/-- Trailing zeros of a number, at most `w`. -/
theorem ctzNat_spec (w x : Nat) (hx : x < 2 ^ w) :
    ctzNat w x ≤ w ∧ x % 2 ^ ctzNat w x = 0 ∧ (ctzNat w x = w → x = 0) ∧ (ctzNat w x < w → x / 2 ^ ctzNat w x % 2 = 1) := by
  induction w generalizing x with
  | zero => simp [ctzNat]; omega
  | succ w ih =>
    rw [ctzNat]
    split
    · next h => simp [h, Nat.mod_one]
    · next h =>
      obtain ⟨hle, hdvd, hzero, hone⟩ := ih (x / 2) (by rw [pow_succ] at hx; omega)
      have hev : x = 2 * (x / 2) := by omega
      refine ⟨by omega, ?_, fun e => ?_, fun e => ?_⟩
      · calc x % 2 ^ (1 + ctzNat w (x / 2)) = 2 * (x / 2) % (2 * 2 ^ ctzNat w (x / 2)) := by rw [← hev, Nat.add_comm 1, pow_succ']
          _ = 0 := by rw [Nat.mul_mod_mul_left, hdvd]
      · have := hzero (by omega)
        omega
      · rw [Nat.add_comm 1, pow_succ', ← Nat.div_div_eq_div_mul]
        exact hone (by omega)

/-- The bits of a number that are set. -/
theorem popNat_eq_countP (w x : Nat) : popNat w x = (List.range w).countP (fun i => x.testBit i) := by
  induction w generalizing x with
  | zero => rfl
  | succ w ih =>
    have hbit : x % 2 = if x.testBit 0 then 1 else 0 := by
      rw [Nat.testBit_zero]
      by_cases h : x % 2 = 1 <;> simp [h]; omega
    rw [popNat, List.range_succ_eq_map, List.countP_cons, List.countP_map, ih, hbit, Nat.add_comm]
    congr 1
    refine List.countP_congr fun i _ => ?_
    simp [Nat.testBit_succ]

theorem revNat_lt (n x : Nat) : revNat n x < 2 ^ n := by
  induction n generalizing x with
  | zero => simp [revNat]
  | succ n ih =>
    have h1 := ih (x / 2)
    have h2 : x % 2 * 2 ^ n ≤ 1 * 2 ^ n := Nat.mul_le_mul_right _ (by omega)
    rw [revNat, pow_succ]
    omega

/-- The low bits reversed. -/
theorem testBit_revNat (n x i : Nat) : (revNat n x).testBit i = (decide (i < n) && x.testBit (n - 1 - i)) := by
  induction n generalizing x with
  | zero => simp [revNat]
  | succ n ih =>
    rw [revNat, Nat.mul_comm, Nat.testBit_two_pow_mul_add _ (revNat_lt n (x / 2)), ih]
    obtain h | h | h : i < n ∨ i = n ∨ n < i := by omega
    · have e : n + 1 - 1 - i = n - 1 - i + 1 := by omega
      rw [e, Nat.testBit_succ, if_pos h, decide_eq_true h, decide_eq_true (Nat.lt_succ_of_lt h)]
    · subst h
      simp [Nat.testBit_zero]
    · obtain ⟨j, rfl⟩ : ∃ j, i = n + 1 + j := ⟨i - n - 1, by omega⟩
      have e : n + 1 + j - n = j + 1 := by omega
      have hhalf : x % 2 / 2 = 0 := by omega
      rw [if_neg (by omega), e, Nat.testBit_succ, hhalf, Nat.zero_testBit, decide_eq_false (by omega : ¬ n + 1 + j < n + 1),
        Bool.false_and]

/-! ## Fields (R150, R151) -/

theorem getLsbD_ofNat_64 {i : Nat} (hi : i < 64) (v : Nat) : (BitVec.ofNat 64 v).getLsbD i = v.testBit i := by
  rw [BitVec.getLsbD_ofNat, decide_eq_true hi, Bool.true_and]

theorem getLsbD_aluBrev (n : Nat) (x : Word) {i : Nat} (hi : i < 64) :
    (aluBrev n x).getLsbD i = (decide (i < n) && x.getLsbD (n - 1 - i)) := by
  rw [aluBrev, getLsbD_ofNat_64 hi, testBit_revNat, BitVec.testBit_toNat]

theorem getLsbD_aluBfx (x : Word) (lsb width : Nat) {i : Nat} (hi : i < 64) :
    (aluBfx x lsb width).getLsbD i = (decide (i < width) && x.getLsbD (lsb + i)) := by
  rw [aluBfx, getLsbD_ofNat_64 hi, Nat.testBit_mod_two_pow, Nat.testBit_div_two_pow, BitVec.testBit_toNat, Nat.add_comm]

theorem getLsbD_aluBfi (d x : Word) (lsb width : Nat) {i : Nat} (hi : i < 64) :
    (aluBfi d x lsb width).getLsbD i = if lsb ≤ i ∧ i < lsb + width then x.getLsbD (i - lsb) else d.getLsbD i := by
  have hm : ((2 ^ width - 1) * 2 ^ lsb).testBit i = decide (lsb ≤ i ∧ i < lsb + width) := by
    rw [Nat.testBit_mul_two_pow, Nat.testBit_two_pow_sub_one, ← Bool.decide_and]
    exact decide_eq_decide.mpr (by omega)
  have hv : (x.toNat % 2 ^ width * 2 ^ lsb).testBit i = (decide (lsb ≤ i) && (decide (i - lsb < width) && x.getLsbD (i - lsb))) := by
    rw [Nat.testBit_mul_two_pow, Nat.testBit_mod_two_pow, BitVec.testBit_toNat]
  simp only [aluBfi, BitVec.getLsbD_or, BitVec.getLsbD_and, BitVec.getLsbD_not, getLsbD_ofNat_64 hi, hm, hv, hi, decide_true,
    Bool.true_and]
  by_cases h : lsb ≤ i ∧ i < lsb + width
  · have h2 : i - lsb < width := by omega
    simp [h, h2]
  · simp [h]

theorem getLsbD_aluExt (sx : Bool) (x : Word) {width : Nat} (h1 : 1 ≤ width) (h2 : width ≤ 64) {i : Nat} (hi : i < 64) :
    (aluExt sx x width).getLsbD i = if i < width then x.getLsbD i else sx && x.getLsbD (width - 1) := by
  have hlt : x.toNat % 2 ^ width < 2 ^ width := Nat.mod_lt _ (Nat.two_pow_pos _)
  have hlow : ∀ j < width, (x.toNat % 2 ^ width).testBit j = x.getLsbD j := by
    intro j hj
    rw [Nat.testBit_mod_two_pow, BitVec.testBit_toNat]
    simp [hj]
  have hsign : decide (2 ^ (width - 1) ≤ x.toNat % 2 ^ width) = x.getLsbD (width - 1) := by
    rw [← hlow (width - 1) (by omega)]
    by_cases h : 2 ^ (width - 1) ≤ x.toNat % 2 ^ width
    · rw [Nat.testBit_of_two_pow_le_and_two_pow_add_one_gt h (by rwa [Nat.sub_add_cancel h1])]
      simp [h]
    · rw [Nat.testBit_lt_two_pow (Nat.lt_of_not_le h)]
      simp [h]
  have hpow : (2 : Nat) ^ 64 = 2 ^ width * 2 ^ (64 - width) := by rw [← pow_add, Nat.add_sub_cancel' h2]
  have hhigh : x.toNat % 2 ^ width + 2 ^ 64 - 2 ^ width = 2 ^ width * (2 ^ (64 - width) - 1) + x.toNat % 2 ^ width := by
    have hpos := Nat.two_pow_pos (64 - width)
    rw [hpow, Nat.mul_sub, Nat.mul_one]
    have := Nat.le_mul_of_pos_right (2 ^ width) hpos
    omega
  simp only [aluExt, hsign]
  split
  · next hs =>
    rw [getLsbD_ofNat_64 hi, hhigh, Nat.testBit_two_pow_mul_add _ hlt]
    split
    · next hw => exact hlow i hw
    · rw [Nat.testBit_two_pow_sub_one, hs]
      simp
      omega
  · next hs =>
    rw [getLsbD_ofNat_64 hi]
    split
    · next hw => exact hlow i hw
    · next hw => rw [Nat.testBit_mod_two_pow]; simp [hw, hs]

/-! ## Comparisons (R147) -/

theorem sextTo_toInt (wd : Width) (x : Word) : (sextTo wd x).toInt = svalue wd x := by
  cases wd with
  | d => rfl
  | w => exact BitVec.toInt_signExtend_of_le (by decide)

theorem sextTo_inj (wd : Width) (x y : Word) : sextTo wd x = sextTo wd y ↔ uvalue wd x = uvalue wd y := by
  rw [← BitVec.toInt_inj, sextTo_toInt, sextTo_toInt]
  cases wd <;> simp only [svalue, uvalue, BitVec.toInt_inj, BitVec.toNat_inj]

theorem cmpCond_iff (c : ICond) (wd : Width) (x y : Word) : cmpCond c wd x y = true ↔ condHolds c wd x y := by
  cases c <;> simp only [cmpCond, condHolds, beq_iff_eq, bne_iff_ne, ne_eq, decide_eq_true_eq, sextTo_inj, sextTo_toInt,
    lowBits_eq_uvalue]

theorem plogBit_eq (tt : Fin 16) (pa pb : Bool) : plogBit tt pa pb = Nat.testBit tt.val (2 * pa.toNat + pb.toNat) := by
  revert tt pa pb
  decide

end Sys2Proof.Cert
end

section
/-! The shift, field and predicate instructions (05): the statement O5. -/

namespace Sys2Proof.Cert

open Sys2Proof.Machine
open Host (Outcome)

section
variable {s : State} {g : Guard} {d : Reg} {a b : Src}

theorem Executes.with_src {r q : Reg} {dsts : List Reg} (h : Executes s g [r] dsts) (hq : s.me.presence q = .full) :
    Executes s g [r, q] dsts := by
  obtain ⟨hg, hsrc, hdst⟩ := h
  exact ⟨hg, by simpa [hq] using hsrc, hdst⟩

end

theorem shiftResults : ShiftResults := by
  intro s g wd d a b n h
  refine ⟨fun hb => ?_, alu1_retires (f := (· <<< n.val)) h (shl_eq_ofInt _ _), alu1_retires (f := (· >>> n.val)) h (shr_eq_ofInt _ _),
    alu1_retires (f := (·.sshiftRight n.val)) h (sra_eq_ofInt _ _)⟩
  have h2 := h.with_src hb
  exact ⟨alu2_retires h2 (aluShl_eq ..), alu2_retires h2 (aluShr_eq ..), alu2_retires h2 (aluSra_eq ..)⟩

theorem bitCountResults : BitCountResults := by
  intro s g wd d a n h x w
  have hx : lowBits wd (val s a) = x := lowBits_eq_uvalue wd _
  have hw : widthBits wd = w := widthBits_eq wd
  have hlt : x < 2 ^ w := uvalue_lt wd _
  have hclz : aluClz wd (val s a) = BitVec.ofNat 64 (if x = 0 then w else w - 1 - Nat.log2 x) := by rw [aluClz, hx, hw]
  have hctz : aluCtz wd (val s a) = BitVec.ofNat 64 (ctzNat w x) := by rw [aluCtz, hx, hw]
  have hpop : aluPopc wd (val s a) = BitVec.ofNat 64 ((List.range w).countP (fun i => x.testBit i)) := by
    rw [aluPopc, hx, hw, popNat_eq_countP]
  obtain ⟨hle, hzeros, hone⟩ := leadingZeros_spec hlt
  obtain ⟨hle', htail, hnone, hsome⟩ := ctzNat_spec w x hlt
  exact ⟨⟨_, hle, alu1_retires h hclz, hzeros, hone⟩, ⟨_, hle', alu1_retires h hctz, htail, hnone, hsome⟩,
    alu1_retires h hpop, fun _ _ => ⟨_, alu1_retires (f := aluBrev n) h rfl, fun i hi => getLsbD_aluBrev n _ hi⟩⟩

/-- R150: BFI reads its destination. -/
theorem exec_bfi {s : State} {g : Guard} {d : Reg} {a : Src} {lsb : Fin 64} {width : Nat} (h : Executes s g [a.r, d] []) :
    exec (.bfi g d a lsb width) s = .next (retire s (fun t => t.write d (aluBfi (s.me.reg d) (val s a) lsb.val width))) := by
  refine (issueT_retires h ?_ _).trans (congrArg _ (retire_congr ?_))
  · simp [listed, srcNeed]
  · rfl

theorem fieldAndImmediateResults : FieldAndImmediateResults := by
  intro s g d a b c lsb width sx imm
  refine ⟨exec_sel, fun h _ _ => ⟨_, alu1_retires (f := fun x => aluBfx x lsb.val width) h rfl, fun i hi => getLsbD_aluBfx _ _ _ hi⟩,
    fun h _ _ => ⟨_, exec_bfi h, fun i hi => getLsbD_aluBfi _ _ _ _ hi⟩,
    fun h h1 h2 => ⟨_, alu1_retires (f := fun x => aluExt sx x width) h rfl, fun i hi => getLsbD_aluExt sx _ h1 h2 hi⟩,
    exec_li imm, exec_lih imm⟩

theorem predicateResults : PredicateResults := by
  intro s g c wd p pa pb a b imm tt
  refine ⟨fun h => ⟨cmpCond c wd (val s a) (val s b), ?_, cmpCond_iff c wd _ _⟩,
    fun h => ⟨cmpCond c .d (val s a) (sextImm imm), ?_, cmpCond_iff c .d _ _⟩, fun h => ?_⟩
  · refine (issueT_retires h ?_ _).trans (congrArg _ (retire_congr rfl))
    simp [listed, srcNeed]
  · refine (issueT_retires h ?_ _).trans (congrArg _ (retire_congr rfl))
    simp [listed, srcNeed]
  · refine (issueT_retires h (needs := []) (by simp) _).trans (congrArg _ (retire_congr ?_))
    rw [← plogBit_eq]
    rfl

/-- Settles O5: shifts as powers of two, counts and fields bit by bit, comparisons on the extended operands. -/
theorem shiftFieldAndPredicateResults : Obligations.ShiftFieldAndPredicateResults :=
  ⟨shiftResults, bitCountResults, fieldAndImmediateResults, predicateResults⟩

end Sys2Proof.Cert
end

section
/-! SUPPORT. Changes that leave every memory as it is, and the parts of taking an exception (R464): one task and the queues of its
rectangle. -/

namespace Sys2Proof.Machine

theorem State.core_modBody (s : State) (r : Nat) (f : Body → Body) (c : CoreRef) :
    (s.modBody r f).core c = if c.rect = r then (f (s.rect r).body).core c.core else s.core c := by
  simp only [State.core, State.modBody, State.rect_modRect]
  split <;> rfl

/-- A change of a body that leaves its cores leaves every core. -/
theorem State.core_modBody_of_cores (s : State) (r : Nat) {f : Body → Body} (h : ∀ b, (f b).cores = b.cores) (c : CoreRef) :
    (s.modBody r f).core c = s.core c := by
  rw [State.core_modBody]
  split
  · next e => rw [State.core, Body.core, Body.core, h, e]
  · rfl

theorem State.task_modBody_of_cores (s : State) (r : Nat) {f : Body → Body} (h : ∀ b, (f b).cores = b.cores) (t : TaskRef) :
    (s.modBody r f).task t = s.task t := by
  rw [State.task, State.core_modBody_of_cores s r h, State.task]

@[simp] theorem State.body_modBody_same (s : State) (r : Nat) (f : Body → Body) : ((s.modBody r f).rect r).body = f (s.rect r).body := by
  simp [State.modBody]

theorem Core.vc_freeSlot (c : Core) (k n : Nat) :
    (c.freeSlot k).vc n = if (c.vc n).holder = some k then { c.vc n with holder := none } else c.vc n := by
  change Sparse.at Vc.empty (Sparse.mapAll (fun _ v => if v.holder = some k then { v with holder := none } else v) c.vcs) n = _
  rw [Sparse.at, Sparse.look_mapAll, Core.vc, Sparse.at]
  cases h : c.vcs.look n <;> rfl

@[simp] theorem Core.freeSlot_scratch (c : Core) (k : Nat) : (c.freeSlot k).scratch = c.scratch := rfl

theorem Core.task_freeSlot (c : Core) (k j : Nat) : (c.freeSlot k).task j = if j = k then Task.free else c.task j :=
  Core.task_setTask c k j Task.free

end Sys2Proof.Machine

namespace Sys2Proof.Cert

open Sys2Proof.Machine

theorem sameMemory_of_eq {s t : State} (hm : t.mem = s.mem) (hp : t.peer = s.peer)
    (hc : ∀ c, (t.core c).scratch = (s.core c).scratch) : SameMemory s t :=
  ⟨fun _ => by rw [hm], fun _ => by rw [hp], fun c _ => by rw [hc]⟩

theorem SameMemory.refl (s : State) : SameMemory s s := sameMemory_of_eq rfl rfl (fun _ => rfl)

theorem SameMemory.trans {s t u : State} (h1 : SameMemory s t) (h2 : SameMemory t u) : SameMemory s u := by
  obtain ⟨m1, p1, c1⟩ := h1
  obtain ⟨m2, p2, c2⟩ := h2
  exact ⟨fun a => (m2 a).trans (m1 a), fun a => (p2 a).trans (p1 a), fun c a => (c2 c a).trans (c1 c a)⟩

theorem sameMemory_modTask (s : State) (t : TaskRef) (f : Task → Task) : SameMemory s (s.modTask t f) :=
  sameMemory_of_eq rfl rfl (State.core_modTask_scratch s t f)

theorem sameMemory_modCore (s : State) (c : CoreRef) {f : Core → Core} (h : (f (s.core c)).scratch = (s.core c).scratch) :
    SameMemory s (s.modCore c f) := by
  refine sameMemory_of_eq rfl rfl fun k => ?_
  rw [State.core_modCore]
  split
  · next e => rw [h, e]
  · rfl

theorem sameMemory_modBody (s : State) (r : Nat) {f : Body → Body} (h : ∀ b, (f b).cores = b.cores) : SameMemory s (s.modBody r f) :=
  sameMemory_of_eq rfl rfl fun c => by rw [State.core_modBody_of_cores s r h]

end Sys2Proof.Cert
end

section
/-! Branches, loops and the end of a task (05): the statement O7. -/

namespace Sys2Proof.Cert

open Sys2Proof.Machine
open Host (Outcome)

/-! ## Branches, calls and loops (R154, R155, R537) -/

/-- R154: a branch goes to its target, or traps where the target is no index of the store. -/
theorem finish_branchFlow (s : State) (target : Int) (x : W32) {f f' : Task → Task} (h : f s.me.unwait = f' s.me.unwait) :
    s.begin.finish (branchFlow target x f s.begin) = if 0 ≤ target ∧ target ≤ 4095
      then s.modTask s.cur (fun t => (f' t.unwait).goTo (BitVec.ofInt 12 target)) else traps s 0x01 (x.setWidth 64) := by
  have hf : s.modTask s.cur (fun t => (f t.unwait).goTo (BitVec.ofInt 12 target))
      = s.modTask s.cur (fun t => (f' t.unwait).goTo (BitVec.ofInt 12 target)) := by
    simp only [State.modTask, ← State.me_def, h]
  by_cases ht : 0 ≤ target ∧ target ≤ 4095
  · rw [if_pos ht, ← hf, branchFlow, branchTarget, if_pos ht]
    simp only [State.finish_jump, State.cur_begin, State.begin_modTask, State.modTask_modTask]
  · rw [if_neg ht, branchFlow, branchTarget, if_neg ht]
    simp [traps]

section
variable {s : State} {g : Guard} {d : Reg} {a : Src} {off : W32}

theorem exec_br (h : Executes s g [] []) : exec (.br g off) s
    = .next (if 0 ≤ (s.me.pc.toNat : Int) + off.toInt ∧ (s.me.pc.toNat : Int) + off.toInt ≤ 4095
        then s.modTask s.cur (fun t => (id t.unwait).goTo (BitVec.ofInt 12 ((s.me.pc.toNat : Int) + off.toInt)))
        else traps s 0x01 (off.setWidth 64)) := by
  change execBr g off s = _
  rw [execBr, issue_runs h.guard_true (by simp), State.me_begin, finish_branchFlow s _ off rfl]
  rfl

theorem exec_call (h : Executes s g [] [d]) : exec (.call g d off) s
    = .next (if 0 ≤ (s.me.pc.toNat : Int) + off.toInt ∧ (s.me.pc.toNat : Int) + off.toInt ≤ 4095
        then s.modTask s.cur (fun t => (t.unwait.write d (BitVec.ofNat 64 (s.me.pc.toNat + 1))).goTo
          (BitVec.ofInt 12 ((s.me.pc.toNat : Int) + off.toInt)))
        else traps s 0x01 (off.setWidth 64)) := by
  have hn : ∀ n ∈ [Need.dst d], n.waits s.me = false := fun n hn => h.waits_eq_false (by simp_all [listed])
  change execCall g d off s = _
  rw [execCall, issue_runs h.guard_true hn, State.me_begin,
    finish_branchFlow s _ off (f' := fun t => t.write d (BitVec.ofNat 64 (s.me.pc.toNat + 1))) rfl]
  rfl

theorem exec_jr (h : Executes s g [a.r] [d]) : exec (.jr g d a off) s
    = .next (if 0 ≤ ((val s a).toNat : Int) + off.toInt ∧ ((val s a).toNat : Int) + off.toInt ≤ 4095
        then s.modTask s.cur (fun t => (t.unwait.write d (BitVec.ofNat 64 (s.me.pc.toNat + 1))).goTo
          (BitVec.ofInt 12 (((val s a).toNat : Int) + off.toInt)))
        else traps s 0x01 (off.setWidth 64)) := by
  have hn : ∀ n ∈ [srcNeed a, .dst d], n.waits s.me = false := fun n hn => h.waits_eq_false (by
    simp only [srcNeed, List.mem_cons, List.not_mem_nil, or_false] at hn
    obtain rfl | rfl := hn <;> simp [listed])
  change execJr g d a off s = _
  rw [execJr, issue_runs h.guard_true hn, State.me_begin,
    finish_branchFlow s _ off (f' := fun t => t.write d (BitVec.ofNat 64 (s.me.pc.toNat + 1))) rfl]
  rfl

/-- R155: the last index of a loop's body. -/
theorem ofInt_index_add (i : BitVec 12) (off : W32) : BitVec.ofInt 12 ((i.toNat : Int) + off.toInt) = i + off.setWidth 12 := by
  have h : BitVec.ofInt 12 off.toInt = off.setWidth 12 := BitVec.signExtend_eq_setWidth_of_le off (by decide)
  rw [BitVec.ofInt_add, BitVec.ofInt_natCast, BitVec.ofNat_toNat, BitVec.setWidth_eq, h]

end

theorem branchResults : Cert.ControlFlowResults := by
  intro s g d a off lv i goes illegal link
  refine ⟨fun h => ?_, fun h => ?_, fun h => ?_, fun h => ?_⟩
  · rw [exec_br h, apply_ite Outcome.next]
  · rw [exec_call h, apply_ite Outcome.next]
  · rw [exec_jr h, apply_ite Outcome.next]
  · have hn : ∀ n ∈ [srcNeed a], n.waits s.me = false := fun n hn => h.waits_eq_false (by simp_all [listed, srcNeed])
    have hlast : BitVec.ofInt 12 (i + off.toInt) = s.me.pc + off.setWidth 12 := ofInt_index_add s.me.pc off
    have hpast : BitVec.ofInt 12 (i + off.toInt + 1) = s.me.pc + off.setWidth 12 + 1 := by
      rw [BitVec.ofInt_add, hlast]
      rfl
    have hcnt : (val s a).setWidth 32 = BitVec.ofNat 32 (val s a).toNat := (BitVec.ofNat_toNat 32 _).symm
    change execLoop g lv a off s = _
    rw [execLoop, issue_runs h.guard_true hn, State.me_begin]
    let entered := s.begin.modTask s.cur
      (fun t => t.setLoop lv ((val s a).setWidth 32) (s.me.pc + 1) (s.me.pc + off.setWidth 12))
    change Outcome.next (s.begin.finish (if off.toInt < 1 ∨ 4095 < i + off.toInt then .trap 0x01 (off.setWidth 64)
      else if (val s a).setWidth 32 = 0 then .jump entered (s.me.pc + off.setWidth 12 + 1) else .go entered)) = _
    by_cases hbad : off.toInt < 1 ∨ 4095 < i + off.toInt
    · rw [if_pos hbad, if_pos hbad]
      simp [illegal, traps]
    · rw [if_neg hbad, if_neg hbad, hlast]
      by_cases hz : (val s a).setWidth 32 = 0
      · rw [if_pos hz, if_pos (hcnt ▸ hz)]
        simp only [goes, entered, hpast, State.finish_jump, State.cur_begin, State.begin_modTask, State.modTask_modTask, ← hcnt]
        rfl
      · rw [if_neg hz, if_neg (hcnt ▸ hz)]
        simp only [retire, entered, State.finish_go, State.cur_begin, State.begin_modTask, State.modTask_modTask, ← hcnt]
        rfl

/-! ## The loop-end step (R156, R537) -/

section
variable {i e : BitVec 12} {cnt : W32}

theorem loopLevel_of_not (h : ¬ (cnt ≠ 0 ∧ i = e)) : loopLevel i cnt e = (cnt, false) := if_neg h

theorem loopLevel_repeats (h : cnt ≠ 0 ∧ i = e) (hc : cnt ≠ 1) : loopLevel i cnt e = (cnt - 1, true) := by
  have hd : cnt - 1 ≠ 0 := fun h0 => hc (sub_eq_zero.mp h0)
  rw [loopLevel, if_pos h, decide_eq_true hd]

theorem loopLevel_ends (h : cnt ≠ 0 ∧ i = e) (hc : cnt = 1) : loopLevel i cnt e = (0, false) := by
  rw [loopLevel, if_pos h, hc]
  rfl

end

theorem loopEndStep : LoopEndStep := by
  intro t atEnd1 atEnd0
  refine ⟨fun h => ?_, fun h h1 h0 => ?_, fun h h1 hc => ?_, fun h h1 hc h0 => ?_, fun h h1 hc h0 hd => ?_, fun h h1 hc h0 hd => ?_,
    fun h h1 h0 hd => ?_, fun h h1 h0 hd => ?_⟩
  · simp [Task.loopEnd, h]
  · simp [Task.loopEnd, loopLevel_of_not h1, loopLevel_of_not h0, h]
  · simp [Task.loopEnd, loopLevel_repeats h1 hc, h]
  · simp [Task.loopEnd, loopLevel_ends h1 hc, loopLevel_of_not h0, h]
  · simp [Task.loopEnd, loopLevel_ends h1 hc, loopLevel_repeats h0 hd, h]
  · simp [Task.loopEnd, loopLevel_ends h1 hc, loopLevel_ends h0 hd, h]
  · simp [Task.loopEnd, loopLevel_of_not h1, loopLevel_repeats h0 hd, h]
  · simp [Task.loopEnd, loopLevel_of_not h1, loopLevel_ends h0 hd, h]

/-! ## NOP and TEND (R153, R157) -/

theorem exec_tend_frees {s : State} {g : Guard} (hg : s.me.guard g = true) (hp : s.me.pending = []) :
    exec (.tend g) s = .next (s.begin.modCore s.cur.coreRef (fun c => c.freeSlot s.cur.slot)) := by
  change execTend g s = _
  rw [execTend, issue_runs (needs := []) hg (by simp)]
  simp [hp]

theorem exec_tend_waits {s : State} {g : Guard} (hg : s.me.guard g = true) (hp : s.me.pending ≠ []) :
    exec (.tend g) s = .next (s.modTask s.cur (fun t => t.waitFor .producers)) := by
  change execTend g s = _
  rw [execTend, issue_runs (needs := []) hg (by simp)]
  simp [hp, State.begin_modTask]

/-- R157: a slot that is freed is the only one that changes. -/
theorem task_modCore_freeSlot (s : State) {t u : TaskRef} (h : u ≠ t) :
    (s.modCore t.coreRef (fun c => c.freeSlot t.slot)).task u = s.task u := by
  obtain ⟨r, c, k⟩ := t
  obtain ⟨r', c', k'⟩ := u
  simp only [State.task, State.core_modCore, TaskRef.coreRef]
  split
  · next e =>
    obtain ⟨rfl, rfl⟩ := CoreRef.mk.inj e
    rw [Core.task_freeSlot, if_neg (fun e => h (by rw [e]))]
  · rfl

theorem nopAndTaskEnd : NopAndTaskEnd := by
  intro s g hg
  refine ⟨exec_nop g s, fun hp => ⟨_, exec_tend_frees hg hp, ?_, fun v => ?_, fun u hu => ?_, ?_⟩, exec_tend_waits hg⟩
  · rw [State.task, State.core_modCore_same, Core.task_freeSlot, if_pos rfl]
  · rw [State.core_modCore_same, Core.vc_freeSlot, State.begin, State.core_modTask_vc]
    split <;> exact ⟨rfl, rfl⟩
  · rw [task_modCore_freeSlot _ hu, State.begin, State.task_modTask, if_neg hu]
  · exact (sameMemory_modTask s _ _).trans (sameMemory_modCore _ _ rfl)

/-- Settles O7: each branch of the loop-end step and of the control flow instructions is one of their cases. -/
theorem controlFlowResults : Obligations.ControlFlowResults :=
  ⟨branchResults, loopEndStep, nopAndTaskEnd⟩

end Sys2Proof.Cert
end

section
/-! SUPPORT. Taking an exception (R464): the task that raises, and the queues of its rectangle that may take the cause. -/

namespace Sys2Proof.Machine

/-- Nothing of a body but the queues of causes differs. -/
def Body.SameButCauses (b b' : Body) : Prop := { b' with dq := b.dq, nseq := b.nseq, atSup := b.atSup } = b

/-- Nothing of a task but what trap entry writes differs. -/
def Task.SameButTrap (x x' : Task) : Prop :=
  { x' with tpc := x.tpc, tval := x.tval, tcause := x.tcause, held := x.held, intrap := x.intrap, pc := x.pc } = x

/-- A change that a body as it was meets as the identity, made after a change of one of its tasks. -/
theorem State.setTask_modBody_id (s : State) (t : TaskRef) (x : Task) : (s.setTask t x).modBody t.rect id = s.setTask t x := by
  simp only [State.setTask, State.modCore, State.setCore, State.modBody, TaskRef.coreRef, State.modRect_modRect, id]

/-- R464: whatever branch takes the cause, one task changes, and the queues of its rectangle. -/
theorem State.raise_cases (s : State) (t : TaskRef) (c : Nat) (v : Word) (pc : BitVec 12) :
    ∃ (x : Task) (f : Body → Body), s.raise t c v pc = (s.setTask t x).modBody t.rect f
      ∧ (s.task t).SameButTrap x ∧ (∀ b : Body, b.SameButCauses (f b)) := by
  simp only [State.raise]
  split
  · exact ⟨_, _, rfl, rfl, fun _ => rfl⟩
  · split
    · exact ⟨_, id, (State.setTask_modBody_id ..).symm, rfl, fun _ => rfl⟩
    · split
      · exact ⟨_, _, rfl, rfl, fun _ => rfl⟩
      · exact ⟨_, _, rfl, rfl, fun _ => rfl⟩

theorem Body.SameButCauses.cores_eq {b b' : Body} (h : b.SameButCauses b') : b'.cores = b.cores := by
  unfold Body.SameButCauses at h
  have e := congrArg Body.cores h
  exact e

end Sys2Proof.Machine
end

section
/-! Exceptions and the words that raise them (21, 23, 03): the statements O11 and O12. -/

namespace Sys2Proof.Cert

open Sys2Proof.Machine
open Host (Outcome)

/-! ## TCAUSE (Table 2.8) -/

theorem tcauseIs_causeWord {c slot lx ly : Nat} {dlg f : Bool} (hc : c < 256) (hs : slot < 8) (hx : lx < 16) (hy : ly < 16) :
    TcauseIs (causeWord c slot lx ly dlg f) c slot lx ly dlg f := by
  have hv : (causeWord c slot lx ly dlg f).toNat
      = ly * 2 ^ 20 + lx * 2 ^ 16 + (if f then 4096 else 0) + (if dlg then 2048 else 0) + slot * 256 + c := by
    rw [causeWord, BitVec.toNat_ofNat, Nat.mod_eq_of_lt hc, Nat.mod_eq_of_lt hs, Nat.mod_eq_of_lt hx, Nat.mod_eq_of_lt hy]
    cases f <;> cases dlg <;> simp <;> omega
  have hfield : ∀ k l, ((causeWord c slot lx ly dlg f).extractLsb' k l).toNat = (causeWord c slot lx ly dlg f).toNat / 2 ^ k % 2 ^ l := by
    intro k l
    rw [BitVec.extractLsb'_toNat, Nat.shiftRight_eq_div_pow]
  have hbit : ∀ k, (causeWord c slot lx ly dlg f).getLsbD k = decide ((causeWord c slot lx ly dlg f).toNat / 2 ^ k % 2 = 1) := by
    intro k
    rw [← BitVec.testBit_toNat, Nat.testBit_eq_decide_div_mod_eq]
  unfold TcauseIs
  rw [hfield, hfield, hbit, hbit, hfield, hfield, hv]
  refine ⟨?_, ?_, ?_, ?_, ?_, ?_, ?_⟩
  · split <;> split <;> omega
  · split <;> split <;> omega
  · cases f <;> cases dlg <;> simp <;> omega
  · cases f <;> cases dlg <;> simp <;> omega
  · split <;> split <;> omega
  · split <;> split <;> omega
  · split <;> split <;> omega

/-! ## Taking a cause (R464, R465) -/

section
variable (s : State) (t : TaskRef) (c : Nat) (v : Word) (pc : BitVec 12)

/-- The task as its own trap registers show the cause, before it goes anywhere. -/
def saved : Task :=
  { s.task t with tpc := pc, tval := v, tcause := causeWord c t.slot (t.core % 16) (t.core / 16) false false }

section
variable (x : Task) (p : BitVec 12) (u w : Word)

theorem tcause_withCause : ({ x with tpc := p, tval := u, tcause := w } : Task).tcause = w := rfl
theorem pc_withCause : ({ x with tpc := p, tval := u, tcause := w } : Task).pc = x.pc := rfl
theorem intrap_withCause : ({ x with tpc := p, tval := u, tcause := w } : Task).intrap = x.intrap := rfl
theorem held_withCause : ({ x with tpc := p, tval := u, tcause := w } : Task).held = x.held := rfl

end

theorem saved_tcause : (saved s t c v pc).tcause = causeWord c t.slot (t.core % 16) (t.core / 16) false false :=
  tcause_withCause (s.task t) pc v _
theorem saved_pc : (saved s t c v pc).pc = (s.task t).pc := pc_withCause (s.task t) pc v _
theorem saved_intrap : (saved s t c v pc).intrap = (s.task t).intrap := intrap_withCause (s.task t) pc v _
theorem saved_held : (saved s t c v pc).held = (s.task t).held := held_withCause (s.task t) pc v _

/-- The cause as a queue takes it. -/
def raisedCause : QCause := taskCause t c v pc 0

/-- The cause waits in the delegation queue. -/
def delegated : State := (s.setTask t { saved s t c v pc with held := true }).modBody t.rect (fun b => b.enqueue (raisedCause t c v pc))

/-- The task enters its own handler. -/
def enteredOwn : State := s.setTask t { saved s t c v pc with intrap := true, pc := (s.task t).tvec }

/-- The cause is the partition supervisor's. -/
def passedOn : State :=
  (s.setTask t { saved s t c v pc with held := true }).modBody t.rect (fun b => { b with atSup := b.atSup ++ [raisedCause t c v pc] })

/-- The cause is delegated before anything else (R464, first branch). -/
def delegates : Prop :=
  (s.task t).kmode = false ∧ (s.rect t.rect).body.tdeleg.getLsbD c = true ∧ (s.rect t.rect).body.hasHandler = true

theorem raise_eq : s.raise t c v pc =
    if !(s.task t).kmode && (s.rect t.rect).body.tdeleg.getLsbD c && (s.rect t.rect).body.hasHandler then delegated s t c v pc
    else if (s.task t).tvec ≠ 0 && !(s.task t).intrap then enteredOwn s t c v pc
    else if !(s.task t).handler && (s.rect t.rect).body.hasHandler then delegated s t c v pc
    else passedOn s t c v pc := rfl

variable {s t c v pc}

theorem raise_delegates (h : delegates s t c) : s.raise t c v pc = delegated s t c v pc := by
  obtain ⟨h1, h2, h3⟩ := h
  rw [raise_eq, h1, h2, h3]
  rfl

/-- R464: after the first branch, local entry where it is possible, else the handler task or the supervisor. -/
theorem raise_of_not_delegates (h : ¬ delegates s t c) : s.raise t c v pc =
    if (s.task t).tvec ≠ 0 && !(s.task t).intrap then enteredOwn s t c v pc
    else if !(s.task t).handler && (s.rect t.rect).body.hasHandler then delegated s t c v pc
    else passedOn s t c v pc := by
  rw [raise_eq, if_neg]
  simpa [delegates, and_assoc] using h

theorem raise_enters (h : ¬ delegates s t c) (h1 : (s.task t).tvec ≠ 0) (h2 : (s.task t).intrap = false) :
    s.raise t c v pc = enteredOwn s t c v pc := by
  rw [raise_of_not_delegates h, if_pos (by simpa [h2] using h1)]

theorem raise_not_enters (h : ¬ delegates s t c) (h1 : (s.task t).tvec = 0 ∨ (s.task t).intrap = true) : s.raise t c v pc =
    if !(s.task t).handler && (s.rect t.rect).body.hasHandler then delegated s t c v pc else passedOn s t c v pc := by
  rw [raise_of_not_delegates h, if_neg]
  obtain h1 | h1 := h1 <;> simp [h1]

theorem task_delegated : (delegated s t c v pc).task t = { saved s t c v pc with held := true } :=
  (State.task_modBody_of_cores _ t.rect (f := fun b => b.enqueue (raisedCause t c v pc)) (fun _ => rfl) t).trans
    (State.task_setTask_same ..)

theorem task_enteredOwn : (enteredOwn s t c v pc).task t = { saved s t c v pc with intrap := true, pc := (s.task t).tvec } :=
  State.task_setTask_same ..

theorem task_passedOn : (passedOn s t c v pc).task t = { saved s t c v pc with held := true } :=
  (State.task_modBody_of_cores _ t.rect (f := fun b => { b with atSup := b.atSup ++ [raisedCause t c v pc] }) (fun _ => rfl) t).trans
    (State.task_setTask_same ..)

end

section
variable (s : State) (t : TaskRef) (c : Nat) (v : Word) (pc : BitVec 12)

theorem body_delegated : ((delegated s t c v pc).rect t.rect).body.dq
      = (s.rect t.rect).body.dq ++ [taskCause t c v pc (s.rect t.rect).body.nseq]
    ∧ ((delegated s t c v pc).rect t.rect).body.nseq = ((s.rect t.rect).body.nseq + 1) % 2 ^ 32
    ∧ ((delegated s t c v pc).rect t.rect).body.atSup = (s.rect t.rect).body.atSup := by
  simp only [delegated, State.body_modBody_same, Body.enqueue, State.body_setTask_dq, State.body_setTask_nseq,
    State.body_setTask_atSup, raisedCause, taskCause, and_self]

theorem body_enteredOwn : ((enteredOwn s t c v pc).rect t.rect).body.dq = (s.rect t.rect).body.dq
    ∧ ((enteredOwn s t c v pc).rect t.rect).body.atSup = (s.rect t.rect).body.atSup := by
  simp only [enteredOwn, State.body_setTask_dq, State.body_setTask_atSup, and_self]

theorem body_passedOn : ((passedOn s t c v pc).rect t.rect).body.dq = (s.rect t.rect).body.dq
    ∧ ((passedOn s t c v pc).rect t.rect).body.atSup = (s.rect t.rect).body.atSup ++ [taskCause t c v pc 0] := by
  simp only [passedOn, State.body_modBody_same, State.body_setTask_dq, State.body_setTask_atSup, raisedCause, and_self]

end

theorem raise_clauses : Cert.TakingAnException := by
  intro s t c v pc hc hs hk x b s' x' svd queued entered passed
  have hcause : TcauseIs (saved s t c v pc).tcause c t.slot (t.core % 16) (t.core / 16) false false := by
    rw [saved_tcause]
    exact tcauseIs_causeWord hc hs (Nat.mod_lt _ (by decide)) (by omega)
  have hdel : s' = delegated s t c v pc → svd ∧ queued := by
    intro e
    have hx : x' = { saved s t c v pc with held := true } := by rw [← task_delegated, ← e]
    have hb : (s'.rect t.rect).body = _ := congrArg (fun z => (z.rect t.rect).body) e
    have htc : x'.tcause = (saved s t c v pc).tcause := (congrArg Task.tcause hx :)
    have hpc : x'.pc = x.pc := Eq.trans (congrArg Task.pc hx :) (saved_pc s t c v pc)
    have hintrap : x'.intrap = x.intrap := Eq.trans (congrArg Task.intrap hx :) (saved_intrap s t c v pc)
    refine ⟨⟨(congrArg Task.tpc hx :), (congrArg Task.tval hx :), htc ▸ hcause⟩,
      (congrArg Task.held hx :), hpc, hintrap, ?_⟩
    rw [hb]
    exact body_delegated s t c v pc
  have hent : s' = enteredOwn s t c v pc → svd ∧ entered := by
    intro e
    have hx : x' = { saved s t c v pc with intrap := true, pc := (s.task t).tvec } := by rw [← task_enteredOwn, ← e]
    have hb : (s'.rect t.rect).body = _ := congrArg (fun z => (z.rect t.rect).body) e
    have htc : x'.tcause = (saved s t c v pc).tcause := (congrArg Task.tcause hx :)
    have hheld : x'.held = x.held := Eq.trans (congrArg Task.held hx :) (saved_held s t c v pc)
    refine ⟨⟨(congrArg Task.tpc hx :), (congrArg Task.tval hx :), htc ▸ hcause⟩,
      (congrArg Task.pc hx :), (congrArg Task.intrap hx :), hheld, ?_⟩
    rw [hb]
    exact body_enteredOwn s t c v pc
  have hpas : s' = passedOn s t c v pc → svd ∧ passed := by
    intro e
    have hx : x' = { saved s t c v pc with held := true } := by rw [← task_passedOn, ← e]
    have hb : (s'.rect t.rect).body = _ := congrArg (fun z => (z.rect t.rect).body) e
    have htc : x'.tcause = (saved s t c v pc).tcause := (congrArg Task.tcause hx :)
    have hpc : x'.pc = x.pc := Eq.trans (congrArg Task.pc hx :) (saved_pc s t c v pc)
    have hintrap : x'.intrap = x.intrap := Eq.trans (congrArg Task.intrap hx :) (saved_intrap s t c v pc)
    refine ⟨⟨(congrArg Task.tpc hx :), (congrArg Task.tval hx :), htc ▸ hcause⟩,
      (congrArg Task.held hx :), hpc, hintrap, ?_⟩
    rw [hb]
    exact body_passedOn s t c v pc
  refine ⟨?_, fun h => (hdel (raise_delegates h)).2, fun h h1 h2 => (hent (raise_enters h h1 h2)).2, fun h h1 h2 => ?_, fun h h1 h2 => ?_⟩
  · have hall : s' = delegated s t c v pc ∨ s' = enteredOwn s t c v pc ∨ s' = passedOn s t c v pc := by
      simp only [s', raise_eq]
      split
      · exact .inl rfl
      · split
        · exact .inr (.inl rfl)
        · split
          · exact .inl rfl
          · exact .inr (.inr rfl)
    obtain e | e | e := hall
    · exact (hdel e).1
    · exact (hent e).1
    · exact (hpas e).1
  · refine (hdel ?_).2
    rw [show s' = _ from raise_not_enters h h1, if_pos (by rw [h2.1, h2.2]; rfl)]
  · refine (hpas ?_).2
    rw [show s' = _ from raise_not_enters h h1, if_neg]
    simpa using h2

theorem exceptionFrame : ExceptionFrame := by
  intro s t c v pc s' x x'
  obtain ⟨y, f, hs', hy, hf⟩ := s.raise_cases t c v pc
  have hcores : ∀ b, (f b).cores = b.cores := fun b => (hf b).cores_eq
  have hx' : x' = y := by
    rw [show x' = s'.task t from rfl, show s' = _ from hs', State.task_modBody_of_cores _ _ hcores, State.task_setTask_same]
  refine ⟨?_, ?_, fun u hu => ?_, fun k hk => ?_, ?_, ?_⟩
  · rw [show s' = _ from hs']
    exact (sameMemory_modTask s t (fun _ => y)).trans (sameMemory_modBody _ _ hcores)
  · rw [show s' = _ from hs']
    rfl
  · rw [show s' = _ from hs', State.task_modBody_of_cores _ _ hcores, State.task_setTask, if_neg hu]
  · rw [show s' = _ from hs', State.core_modBody_of_cores _ _ hcores, State.setTask, State.core_modCore, if_neg hk]
  · rw [show s' = _ from hs', State.core_modBody_of_cores _ _ hcores, State.setTask, State.core_modCore_same]
    rfl
  · rw [hx']
    exact hy

/-- Settles O11: the branches of R464 one by one, and the one task and the queues that any of them changes. -/
theorem takingAnException : Obligations.TakingAnException := ⟨raise_clauses, exceptionFrame⟩

/-! ## TRAP, EBRK and the words that decode refuses (R79, R445, R512) -/

theorem setWidth_low32 (w : Word) : (w.setWidth 32).setWidth 64 = BitVec.ofNat 64 (w.toNat % 2 ^ 32) := decodeTval_reserved w

theorem exec_unassignedOpcode (s : State) (w : Word) :
    exec (.unassignedOpcode w) s = .next (traps s 0x01 (BitVec.ofNat 64 (w.toNat % 2 ^ 32))) := by
  change execUnassignedOpcode w s = _
  have hpc : s.begin.me.pc = s.me.pc := by rw [State.me_begin]; rfl
  rw [traps, ← hpc, execUnassignedOpcode, setWidth_low32]
  rfl

theorem finish_trapNext (s : State) (c : Nat) (v : Word) :
    s.begin.finish (.trapNext c v) = (retire s id).raise s.cur c v (retire s id).me.pc := by
  have h : s.begin.modTask s.begin.cur Task.loopEnd = retire s id := by rw [State.cur_begin, State.begin_modTask]; rfl
  change (s.begin.modTask s.begin.cur Task.loopEnd).raise s.begin.cur c v (s.begin.modTask s.begin.cur Task.loopEnd).me.pc = _
  rw [h, State.cur_begin]

theorem trapInstructions : TrapInstructions := by
  intro s g c code hg
  refine ⟨?_, ?_⟩
  · change execTrap g c s = _
    rw [execTrap, issue_runs (needs := []) hg (by simp), finish_trapNext]
    rfl
  · have hcode : code.setWidth 64 = BitVec.ofNat 64 code.toNat := (BitVec.ofNat_toNat 64 code).symm
    change execEbrk g code s = _
    rw [execEbrk, issue_runs (needs := []) hg (by simp), finish_trapNext, hcode]

theorem decodeFaultsTrap : DecodeFaultsTrap := by
  refine fun s w => ⟨exec_unassignedOpcode s w, fun t hw => ⟨fun h => ?_, fun i h => ?_, fun i h => ?_⟩⟩
  · rw [← hw] at h
    rw [stepTask_decode_error h, decodeTval_reserved, hw]
  · rw [← hw] at h
    rw [stepTask_decode_error h, decodeTval, BitVec.ofNat_toNat]
  · rw [← hw] at h
    rw [stepTask, h]

/-- Settles O12: both instructions raise after the loop-end step, and a decode fault raises with the task's wait over. -/
theorem trapsOfTheInstructionStream : Obligations.TrapsOfTheInstructionStream := ⟨trapInstructions, decodeFaultsTrap⟩

end Sys2Proof.Cert
end

section
/-! Guard and presence for every sequencer instruction (R69, R44 to R46, R73): the statement O9. -/

namespace Sys2Proof.Cert

open Sys2Proof.Machine
open Host (Outcome)

/-- What an instruction meets, as the check of presence takes it: its sources, then its destinations. -/
def Uses.needs (u : Uses) : List Need := u.srcs.map (fun p => .src p.1 p.2) ++ u.dsts.map .dst

/-- The instruction is issued with the guard and the operands of `u`, and checks no mode unless `checksMode` names it. -/
def IssuesWith (i : Instr) (u : Uses) : Prop :=
  ∃ (priv : Task → Option Word) (body : State → Flow),
    (∀ s, exec i s = issueP u.guard priv u.needs body s) ∧ (checksMode i = false → priv = fun _ => none)

theorem IssuesWith.of_issueP {i : Instr} {u : Uses} {priv : Task → Option Word} {needs : List Need} {body : State → Flow}
    (h : ∀ s, exec i s = issueP u.guard priv needs body s) (hneeds : needs = u.needs)
    (hmode : checksMode i = false → priv = fun _ => none) : IssuesWith i u :=
  ⟨priv, body, fun s => by rw [h, hneeds], hmode⟩

theorem issuesWith_usesOf {i : Instr} {u : Uses} (h : usesOf i = some u) : IssuesWith i u := by
  cases i
  all_goals cases h
  all_goals
    apply IssuesWith.of_issueP
    case h =>
      intro s
      delta exec
      simp only [execNop, execAdd, execSub, execAddi, execMul, execMulh,
        execMulhu, execDiv, execDivu, execRem, execRemu, execAnd, execOr, execXor, execAndn, execAndi, execOri,
        execXori, execShl, execShr, execSra, execShli, execShri, execSrai, execMin, execMax, execMinu, execMaxu,
        execClz, execCtz, execPopc, execBrev, execFadd, execFsub, execFmul, execFdiv, execFma, execFsqrt, execFmin,
        execFmax, execFsgn, execFcvt, execFclass, execFcmp, execCmp, execCmpi, execPlog, execSel, execBfx, execBfi,
        execExt, execLi, execLih, execBr, execCall, execJr, execLoop, execTend, execPush, execPop, execLd, execLdx,
        execLdacq, execSt, execStx, execStrel, execFence, execAmo, execCas, execPref, execCwb, execCinv, execCwbi,
        execFeed, execSink, execInj, execTok, execTake, execPortq, execSbar, execAccrst, execCfgld, execQset, execQld,
        execQadv, execCpy, execCpymx, execCpyq, execGemv, execTlwait, execTlread, execTlnum, execSleept, execSleeptP,
        execTime, execCyc, execMxcfg, execMxrel, execMxz, execMxldt, execMxmm, execMxmms, execMxfmt, execMxrt,
        execMxdrn, execMxchk, execMxst, execTwset, execTwsetGen, execBfplan, execBfrev, execBfstg, execBfrun,
        execRktab, execRkcut, execRknet, execMxrank, execRkval, execRktrc, execTspawn, execTbind, execWaitv,
        execSendv, execTyield, execTwake, execTprio, execRbar, execGbar, execLaunch, execLqry, execStageq, execCtlr,
        execCtlw, execCtls, execCtlc, execSvc, execCntr, execCapr, execTrap, execRett, execSnap, execXsave, execXload,
        execHalt, execEbrk, execCutreq, alu1, alu2, fpu1, fpu2, mxPlain, issueT, issue]
      exact rfl
    case hneeds => rfl
    case hmode => simp [checksMode]

/-! ## The check of presence (R73) -/

section
variable (u : Uses) (t : Task)

theorem find_traps_needs : (u.needs.find? (Need.traps t)).map Need.reg = u.trapping t := by
  have hdst : (u.dsts.map Need.dst).find? (Need.traps t) = none := by
    rw [List.find?_eq_none]
    intro n hn
    obtain ⟨r, -, rfl⟩ := List.mem_map.mp hn
    simp [Need.traps]
  have hsrc : (Need.traps t ∘ fun p : Reg × Bool => Need.src p.1 p.2) = fun p => p.2 && t.isEmpty p.1 := by
    funext ⟨r, b⟩
    cases b <;> rfl
  rw [Uses.needs, List.find?_append, hdst, Option.or_none, List.find?_map, Option.map_map, Uses.trapping, hsrc]
  rfl

theorem find_waits_needs : (u.needs.find? (Need.waits t)).map Need.reg = u.missing t := by
  rw [Uses.needs, Uses.missing, List.find?_append, List.find?_map, List.find?_map, List.find?_map]
  change ((Option.map _ (u.srcs.find? (fun p => !t.isFull p.1))).or (Option.map _ (u.dsts.find? (fun r => t.isEmpty r)))).map Need.reg
    = match (u.srcs.find? (fun p => !t.isFull p.1)).map (·.1) with
      | some r => some r
      | none => u.dsts.find? (fun r => t.isEmpty r)
  cases u.srcs.find? (fun p => !t.isFull p.1) with
  | some p => rfl
  | none => cases u.dsts.find? (fun r => t.isEmpty r) <;> rfl

variable {u t} {r : Reg}

/-- R73: a source that is empty and traps comes before any wait. -/
theorem check_needs_trapEmpty (h : u.trapping t = some r) : t.check u.needs = .trapEmpty r := by
  rw [← find_traps_needs, Option.map_eq_some_iff] at h
  obtain ⟨n, hn, rfl⟩ := h
  simp only [Task.check, hn]

theorem check_needs_waitFor (ht : u.trapping t = none) (h : u.missing t = some r) : t.check u.needs = .waitFor r := by
  rw [← find_traps_needs, Option.map_eq_none_iff] at ht
  rw [← find_waits_needs, Option.map_eq_some_iff] at h
  obtain ⟨n, hn, rfl⟩ := h
  simp only [Task.check, ht, hn]

end

/-- Settles O9: every sequencer instruction is issued with the operands that the statement lists, in their order. -/
theorem guardAndPresence : Obligations.GuardAndPresence := by
  intro i u s h
  obtain ⟨priv, body, hexec, hmode⟩ := issuesWith_usesOf h
  rw [hexec]
  refine ⟨fun hg => issueP_guard_false hg _ _ _, fun hg hm r hr => ?_, fun hg hm ht r hr => ?_⟩
  · have hg' : s.me.unwait.guard u.guard = true := hg
    have hc : s.me.unwait.check u.needs = .trapEmpty r := check_needs_trapEmpty hr
    rw [hmode hm, issueP_cases, State.me_begin, if_pos hg']
    simp only [hc, traps]
    rfl
  · have hg' : s.me.unwait.guard u.guard = true := hg
    have hc : s.me.unwait.check u.needs = .waitFor r := check_needs_waitFor ht hr
    rw [hmode hm, issueP_cases, State.me_begin, if_pos hg']
    simp only [hc, State.begin_modTask, Task.waitFor_unwait]

end Sys2Proof.Cert
end

section
/-! The frame of the instructions that act on their own task (R134): the statement O10. -/

namespace Sys2Proof.Cert

open Sys2Proof.Machine
open Host (Outcome)

/-! ## What a change of a task leaves of it -/

/-- Of a task, `i` may change register `d`, predicate `p` and what the statement lists for it. -/
structure TaskFrame (i : Instr) (d : Option Reg) (p : Option (Fin 8)) (x x' : Task) : Prop where
  regs : ∀ r, d ≠ some r → x'.reg r = x.reg r ∧ x'.presence r = x.presence r
  preds : ∀ k, p ≠ some k → x'.pred k = x.pred k
  fpflags : setsFlags i = false → x'.fpflags = x.fpflags
  dz : setsDz i = false → x'.dz = x.dz
  fpmode : (∀ g ds src d a, i ≠ .fcvt g ds src .dith d a) → x'.fpmode = x.fpmode
  loops : (∀ g lv a off, i ≠ .loop g lv a off) → (x'.start0, x'.end0, x'.start1, x'.end1) = (x.start0, x.end0, x.start1, x.end1)
  prio : (∀ g n, i ≠ .tprio g n) → x'.prio = x.prio
  fixed : (x'.tvec, x'.sp, x'.ovfptr, x'.ovflim, x'.sc, x'.kmode, x'.occupied, x'.handler, x'.age, x'.wake)
      = (x.tvec, x.sp, x.ovfptr, x.ovflim, x.sc, x.kmode, x.occupied, x.handler, x.age, x.wake)
  yielding : (∀ g, i ≠ .tyield g) → x'.yielding = x.yielding
  waiting : (x'.saved, x'.parked, x'.relScope, x'.relUpto, x'.relCut, x'.asked, x'.behind)
      = (x.saved, x.parked, x.relScope, x.relUpto, x.relCut, x.asked, x.behind)

/-- The trap registers of a task stay. -/
def SameTrap (x x' : Task) : Prop := (x'.held, x'.intrap, x'.tcause, x'.tpc, x'.tval) = (x.held, x.intrap, x.tcause, x.tpc, x.tval)

/-- A change of the own task by one of its instructions. -/
def Own (i : Instr) (d : Option Reg) (p : Option (Fin 8)) (x x' : Task) : Prop := TaskFrame i d p x x' ∧ SameTrap x x'

section
variable {i : Instr} {d : Option Reg} {p : Option (Fin 8)} {x y z : Task}

theorem TaskFrame.trans (h : TaskFrame i d p x y) (h' : TaskFrame i d p y z) : TaskFrame i d p x z where
  regs r hr := ⟨(h'.regs r hr).1.trans (h.regs r hr).1, (h'.regs r hr).2.trans (h.regs r hr).2⟩
  preds k hk := (h'.preds k hk).trans (h.preds k hk)
  fpflags hi := (h'.fpflags hi).trans (h.fpflags hi)
  dz hi := (h'.dz hi).trans (h.dz hi)
  fpmode hi := (h'.fpmode hi).trans (h.fpmode hi)
  loops hi := (h'.loops hi).trans (h.loops hi)
  prio hi := (h'.prio hi).trans (h.prio hi)
  fixed := h'.fixed.trans h.fixed
  yielding hi := (h'.yielding hi).trans (h.yielding hi)
  waiting := h'.waiting.trans h.waiting

theorem Own.trans (h : Own i d p x y) (h' : Own i d p y z) : Own i d p x z :=
  ⟨h.1.trans h'.1, h'.2.trans h.2⟩

/-- A change of fields that no clause names. -/
theorem Own.of_eq (hregs : y.regs = x.regs) (hpres : y.pres = x.pres) (hpreds : y.preds = x.preds) (hflags : y.fpflags = x.fpflags)
    (hdz : y.dz = x.dz) (hmode : y.fpmode = x.fpmode)
    (hloops : (y.start0, y.end0, y.start1, y.end1) = (x.start0, x.end0, x.start1, x.end1)) (hprio : y.prio = x.prio)
    (hfixed : (y.tvec, y.sp, y.ovfptr, y.ovflim, y.sc, y.kmode, y.occupied, y.handler, y.age, y.wake)
      = (x.tvec, x.sp, x.ovfptr, x.ovflim, x.sc, x.kmode, x.occupied, x.handler, x.age, x.wake)) (hyield : y.yielding = x.yielding)
    (hwaiting : (y.saved, y.parked, y.relScope, y.relUpto, y.relCut, y.asked, y.behind)
      = (x.saved, x.parked, x.relScope, x.relUpto, x.relCut, x.asked, x.behind)) (htrap : SameTrap x y) : Own i d p x y := by
  refine ⟨⟨fun r _ => ⟨?_, ?_⟩, fun k _ => ?_, fun _ => hflags, fun _ => hdz, fun _ => hmode, fun _ => hloops, fun _ => hprio, hfixed,
    fun _ => hyield, hwaiting⟩, htrap⟩
  · rw [Task.reg, Task.reg, hregs]
  · rw [Task.presence, Task.presence, hpres]
  · rw [Task.pred, Task.pred, hpreds]

theorem Own.refl (x : Task) : Own i d p x x := Own.of_eq rfl rfl rfl rfl rfl rfl rfl rfl rfl rfl rfl rfl

theorem Own.unwait (x : Task) : Own i d p x x.unwait := Own.of_eq rfl rfl rfl rfl rfl rfl rfl rfl rfl rfl rfl rfl

theorem Own.waitFor (x : Task) (w : Wait) : Own i d p x (x.waitFor w) := Own.of_eq rfl rfl rfl rfl rfl rfl rfl rfl rfl rfl rfl rfl

theorem Own.goTo (x : Task) (pc : BitVec 12) : Own i d p x (x.goTo pc) := Own.of_eq rfl rfl rfl rfl rfl rfl rfl rfl rfl rfl rfl rfl

theorem Own.loopEnd (x : Task) : Own i d p x x.loopEnd := by
  unfold Task.loopEnd
  split
  · exact Own.of_eq rfl rfl rfl rfl rfl rfl rfl rfl rfl rfl rfl rfl
  · dsimp only
    split
    · exact Own.of_eq rfl rfl rfl rfl rfl rfl rfl rfl rfl rfl rfl rfl
    · split
      · exact Own.of_eq rfl rfl rfl rfl rfl rfl rfl rfl rfl rfl rfl rfl
      · exact Own.of_eq rfl rfl rfl rfl rfl rfl rfl rfl rfl rfl rfl rfl

theorem Own.write (x : Task) (r : Reg) (v : Word) : Own i (some r) p x (x.write r v) := by
  by_cases h0 : r = 0
  · subst h0
    exact Own.refl x
  · have hw : x.write r v = { x with regs := Sparse.put v x.regs r.val, pres := Sparse.put .full x.pres r.val } := if_neg h0
    refine ⟨⟨fun q hq => ?_, fun k _ => Task.pred_write x r v k, fun _ => ?_, fun _ => ?_, fun _ => ?_, fun _ => ?_, fun _ => ?_, ?_,
      fun _ => ?_, ?_⟩, ?_⟩
    · have hqr : q ≠ r := fun e => hq (by rw [e])
      exact ⟨Task.reg_write_ne x v hqr, by rw [Task.presence_write, if_neg hqr]⟩
    all_goals rw [hw]
    rfl

theorem Own.setPred (x : Task) (k : Fin 8) (b : Bool) : Own i d (some k) x (x.setPred k b) := by
  by_cases h0 : k = 0
  · subst h0
    exact Own.refl x
  · have hw : x.setPred k b = { x with preds := (x.preds &&& ~~~(1#8 <<< k.val)) ||| (if b then 1#8 <<< k.val else 0#8) } := if_neg h0
    refine ⟨⟨fun q _ => ⟨?_, ?_⟩, fun j hj => ?_, fun _ => ?_, fun _ => ?_, fun _ => ?_, fun _ => ?_, fun _ => ?_, ?_,
      fun _ => ?_, ?_⟩, ?_⟩
    case refine_3 =>
      have hjk : j ≠ k := fun e => hj (by rw [e])
      rw [Task.pred_setPred, if_neg (fun e => hjk e.1)]
    all_goals rw [hw]
    all_goals rfl

/-! What some instructions change beside. -/

theorem Own.flags (hi : setsFlags i = true) (x : Task) (f : Flags) : Own i d p x (x.flags f) := by
  refine ⟨⟨fun _ _ => ⟨rfl, rfl⟩, fun _ _ => rfl, fun h => ?_, fun _ => rfl, fun _ => rfl, fun _ => rfl, fun _ => rfl, rfl, fun _ => rfl,
    rfl⟩, rfl⟩
  rw [hi] at h
  cases h

theorem Own.setDz (hi : setsDz i = true) (x : Task) (b : Bool) : Own i d p x (x.setDz b) := by
  refine ⟨⟨fun _ _ => ⟨rfl, rfl⟩, fun _ _ => rfl, fun _ => rfl, fun h => ?_, fun _ => rfl, fun _ => rfl, fun _ => rfl, rfl, fun _ => rfl,
    rfl⟩, rfl⟩
  rw [hi] at h
  cases h

theorem Own.advancePhase {g : Guard} {ds src : NumTy} {r : Reg} {a : Src} (x : Task) :
    Own (.fcvt g ds src .dith r a) d p x x.advancePhase :=
  ⟨⟨fun _ _ => ⟨rfl, rfl⟩, fun _ _ => rfl, fun _ => rfl, fun _ => rfl, fun h => absurd rfl (h g ds src r a), fun _ => rfl, fun _ => rfl,
    rfl, fun _ => rfl, rfl⟩, rfl⟩

theorem Own.setLoop {g : Guard} {lv : Fin 2} {a : Src} {off : W32} (x : Task) (cnt : W32) (first last : BitVec 12) :
    Own (.loop g lv a off) d p x (x.setLoop lv cnt first last) := by
  unfold Task.setLoop
  split
  · exact ⟨⟨fun _ _ => ⟨rfl, rfl⟩, fun _ _ => rfl, fun _ => rfl, fun _ => rfl, fun _ => rfl, fun h => absurd rfl (h g lv a off),
      fun _ => rfl, rfl, fun _ => rfl, rfl⟩, rfl⟩
  · exact ⟨⟨fun _ _ => ⟨rfl, rfl⟩, fun _ _ => rfl, fun _ => rfl, fun _ => rfl, fun _ => rfl, fun h => absurd rfl (h g lv a off),
      fun _ => rfl, rfl, fun _ => rfl, rfl⟩, rfl⟩

theorem Own.yield {g : Guard} (x : Task) : Own (.tyield g) d p x { x with yielding := true } :=
  ⟨⟨fun _ _ => ⟨rfl, rfl⟩, fun _ _ => rfl, fun _ => rfl, fun _ => rfl, fun _ => rfl, fun _ => rfl, fun _ => rfl, rfl,
    fun h => absurd rfl (h g), rfl⟩, rfl⟩

theorem Own.setPrio {g : Guard} {n : Fin 4} (x : Task) (v : BitVec 2) : Own (.tprio g n) d p x { x with prio := v } :=
  ⟨⟨fun _ _ => ⟨rfl, rfl⟩, fun _ _ => rfl, fun _ => rfl, fun _ => rfl, fun _ => rfl, fun _ => rfl, fun h => absurd rfl (h g n), rfl,
    fun _ => rfl, rfl⟩, rfl⟩

/-- Trap entry leaves what the frame names. -/
theorem TaskFrame.of_sameButTrap (h : x.SameButTrap y) : TaskFrame i d p x y := by
  unfold Task.SameButTrap at h
  have hregs := congrArg Task.regs h
  have hpres := congrArg Task.pres h
  have hpreds := congrArg Task.preds h
  dsimp only at hregs hpres hpreds
  refine ⟨fun r _ => ⟨?_, ?_⟩, fun k _ => ?_, fun _ => (congrArg Task.fpflags h :), fun _ => (congrArg Task.dz h :),
    fun _ => (congrArg Task.fpmode h :), fun _ => (congrArg (fun t => (t.start0, t.end0, t.start1, t.end1)) h :),
    fun _ => (congrArg Task.prio h :),
    (congrArg (fun t => (t.tvec, t.sp, t.ovfptr, t.ovflim, t.sc, t.kmode, t.occupied, t.handler, t.age, t.wake)) h :),
    fun _ => (congrArg Task.yielding h :),
    (congrArg (fun t => (t.saved, t.parked, t.relScope, t.relUpto, t.relCut, t.asked, t.behind)) h :)⟩
  · rw [Task.reg, Task.reg, hregs]
  · rw [Task.presence, Task.presence, hpres]
  · rw [Task.pred, Task.pred, hpreds]

end

/-! ## What it leaves of the machine -/

section
variable {s : State}

theorem onlyTask_of_setTask_modBody (x : Task) {f : Body → Body} (hf : ∀ b : Body, b.SameButCauses (f b)) :
    OnlyTask s ((s.setTask s.cur x).modBody s.cur.rect f) := by
  have hcores : ∀ b, (f b).cores = b.cores := fun b => (hf b).cores_eq
  have hset : s.setTask s.cur x = s.modBody s.cur.rect (fun b => b.setCore s.cur.core (s.myCore.setTask s.cur.slot x)) := rfl
  have hrect : ((s.setTask s.cur x).modBody s.cur.rect f).myRect
      = { s.myRect with body := f (s.myRect.body.setCore s.cur.core (s.myCore.setTask s.cur.slot x)) } := by
    rw [hset, State.modBody, State.modBody, State.modRect_modRect]
    exact State.rect_modRect_same ..
  refine ⟨rfl, fun r hr => ?_, fun c hc => ?_, fun u hu => ?_, ?_, ?_, ?_⟩
  · rw [hset, State.modBody, State.modBody, State.rect_modRect, if_neg hr, State.rect_modRect, if_neg hr]
  · rw [State.core_modBody_of_cores _ _ hcores, State.setTask, State.core_modCore, if_neg hc]
  · rw [State.task_modBody_of_cores _ _ hcores, State.task_setTask, if_neg hu]
  · have hcore : ((s.setTask s.cur x).modBody s.cur.rect f).myCore = s.myCore.setTask s.cur.slot x :=
      (State.core_modBody_of_cores _ _ hcores _).trans (State.core_modCore_same ..)
    rw [hcore]
    rfl
  · rw [hrect]
  · rw [hrect]
    exact (congrArg (fun b : Body => { b with cores := s.myRect.body.cores }) (hf (s.myRect.body.setCore s.cur.core _)) :)

end

/-! ## What its steps can be -/

/-- A step of an instruction of the own task: it changes the task within its frame, or raises one of its causes. -/
def OwnStep (i : Instr) (d : Option Reg) (p : Option (Fin 8)) (s t : State) : Prop :=
  (∃ f : Task → Task, t = s.modTask s.cur f ∧ ∀ x, Own i d p x (f x))
  ∨ ∃ c v, t = traps s c v ∧ (c = 0x01 ∨ c = 0x03 ∨ c = 0x10)

/-- The end of an instruction that changes its task within its frame. -/
inductive OwnFlow (i : Instr) (d : Option Reg) (p : Option (Fin 8)) (s : State) : Flow → Prop
  | go {f : Task → Task} (h : ∀ x, Own i d p x (f x)) : OwnFlow i d p s (.go (s.modTask s.cur f))
  | jump {f : Task → Task} {pc : BitVec 12} (h : ∀ x, Own i d p x (f x)) : OwnFlow i d p s (.jump (s.modTask s.cur f) pc)
  | trap {c : Nat} {v : Word} (h : c = 0x01 ∨ c = 0x10) : OwnFlow i d p s (.trap c v)

section
variable {i : Instr} {d : Option Reg} {p : Option (Fin 8)} {s t : State}

theorem begin_raise_eq_traps (c : Nat) (v : Word) : s.begin.raise s.cur c v s.begin.me.pc = traps s c v := by
  rw [State.me_begin]
  rfl

theorem OwnFlow.ite {c : Prop} [Decidable c] {fl fl' : Flow} (h : OwnFlow i d p s fl) (h' : OwnFlow i d p s fl') :
    OwnFlow i d p s (if c then fl else fl') := by
  split
  · exact h
  · exact h'

theorem OwnFlow.finish {fl : Flow} (h : OwnFlow i d p s.begin fl) : OwnStep i d p s (s.begin.finish fl) := by
  cases h with
  | @go f h =>
    refine .inl ⟨fun x => (f x.unwait).loopEnd, ?_, fun x => (Own.unwait x).trans ((h _).trans (Own.loopEnd _))⟩
    rw [State.finish_go, State.cur_begin, State.begin_modTask, State.modTask_modTask]
  | @jump f pc h =>
    refine .inl ⟨fun x => (f x.unwait).goTo pc, ?_, fun x => (Own.unwait x).trans ((h _).trans (Own.goTo _ _))⟩
    rw [State.finish_jump, State.cur_begin, State.begin_modTask, State.modTask_modTask]
  | @trap c v h =>
    refine .inr ⟨c, v, begin_raise_eq_traps c v, ?_⟩
    obtain rfl | rfl := h <;> simp

/-- Everything that the issue of an instruction of the own task can do. -/
theorem ownStep_of_issue {g : Guard} {needs : List Need} {body : State → Flow} (hbody : ∀ s, OwnFlow i d p s (body s))
    (h : issue g needs body s = .next t) : OwnStep i d p s t := by
  rw [issue, issueP_cases, Outcome.next.injEq] at h
  subst h
  split
  · simp only []
    split
    · exact .inr ⟨_, _, begin_raise_eq_traps _ _, .inr (.inl rfl)⟩
    · refine .inl ⟨_, State.begin_modTask _ _, fun x => (Own.unwait x).trans (Own.waitFor _ _)⟩
    · exact (hbody _).finish
  · exact .inl ⟨_, State.begin_modTask _ _, fun x => (Own.unwait x).trans (Own.loopEnd _)⟩

theorem ownStep_of_issueT {g : Guard} {needs : List Need} {f : Task → Task} (hf : ∀ x, Own i d p x (f x))
    (h : issueT g needs f s = .next t) : OwnStep i d p s t := ownStep_of_issue (fun _ => .go hf) h

theorem ownFlow_branchFlow (target : Int) (x : W32) {f : Task → Task} (hf : ∀ x, Own i d p x (f x)) :
    OwnFlow i d p s (branchFlow target x f s) := by
  unfold branchFlow
  split
  · exact .trap (.inl rfl)
  · exact .jump hf

end

/-! ## Each of them -/

section
variable {i : Instr} {d : Reg} {a b : Src} {g : Guard} {s t : State}

theorem ownStep_of_alu1 {f : Word → Word} (h : alu1 g d a f s = .next t) : OwnStep i (some d) none s t :=
  ownStep_of_issueT (fun x => .write x d _) h

theorem ownStep_of_alu2 {f : Word → Word → Word} (h : alu2 g d a b f s = .next t) : OwnStep i (some d) none s t :=
  ownStep_of_issueT (fun x => .write x d _) h

theorem ownStep_of_fpu1 (hi : setsFlags i = true) {f : Word → Word × Flags} (h : fpu1 g d a f s = .next t) :
    OwnStep i (some d) none s t :=
  ownStep_of_issueT (fun x => (Own.flags hi x _).trans (.write _ d _)) h

theorem ownStep_of_fpu2 (hi : setsFlags i = true) {f : Word → Word → Word × Flags} (h : fpu2 g d a b f s = .next t) :
    OwnStep i (some d) none s t :=
  ownStep_of_issueT (fun x => (Own.flags hi x _).trans (.write _ d _)) h

theorem ownStep_of_division (hi : setsDz i = true) {wd : Width} {needs : List Need} {f : Word → Word → Word}
    (h : issueT g needs (fun t => (t.setDz (divByZero wd (t.reg b.r))).write d (f (t.reg a.r) (t.reg b.r))) s = .next t) :
    OwnStep i (some d) none s t :=
  ownStep_of_issueT (fun x => (Own.setDz hi x _).trans (.write _ d _)) h

/-- An instruction that reads a value of the machine into its register. -/
theorem ownStep_of_reading {needs : List Need} {v : State → Task → Word}
    (h : issue g needs (fun s => .go (s.modTask s.cur (fun t => t.write d (v s t)))) s = .next t) : OwnStep i (some d) none s t :=
  ownStep_of_issue (fun _ => .go (fun x => .write x d _)) h

end

/-- Each instruction that acts on its own task writes its register or its predicate, or branches. -/
theorem ownStep_of_taskWrites {i : Instr} {d : Option Reg} {p : Option (Fin 8)} {s t : State} (hi : taskWrites i = some (d, p))
    (h : exec i s = .next t) : OwnStep i d p s t := by
  cases i
  case nop g => cases hi; change issueT g [] id s = _ at h; exact ownStep_of_issueT Own.refl h
  case addi | andi | ori | xori | shli | shri | srai | clz | ctz | popc | brev | bfx | ext | fclass =>
    cases hi
    delta exec at h
    simp only [execAddi, execAndi, execOri, execXori, execShli, execShri, execSrai, execClz, execCtz, execPopc, execBrev,
      execBfx, execExt, execFclass] at h
    exact ownStep_of_alu1 h
  case add | sub | mul | mulh | mulhu | and | or | xor | andn | min | max | minu | maxu | shl | shr | sra | fsgn =>
    cases hi
    delta exec at h
    simp only [execAdd, execSub, execMul, execMulh, execMulhu, execAnd, execOr, execXor, execAndn, execMin, execMax,
      execMinu, execMaxu, execShl, execShr, execSra, execFsgn] at h
    exact ownStep_of_alu2 h
  case sel g d a b c => cases hi; change execSel g d a b c s = _ at h; exact ownStep_of_issueT (fun x => .write x d _) h
  case bfi g d a lsb n => cases hi; change execBfi g d a lsb n s = _ at h; exact ownStep_of_issueT (fun x => .write x d _) h
  case li g d imm => cases hi; change execLi g d imm s = _ at h; exact ownStep_of_issueT (fun x => .write x d _) h
  case lih g d imm => cases hi; change execLih g d imm s = _ at h; exact ownStep_of_issueT (fun x => .write x d _) h
  case div | divu | rem | remu =>
    cases hi
    delta exec at h
    simp only [execDiv, execDivu, execRem, execRemu] at h
    exact ownStep_of_division rfl h
  case fadd | fsub | fmul | fdiv | fmin | fmax =>
    cases hi
    delta exec at h
    simp only [execFadd, execFsub, execFmul, execFdiv, execFmin, execFmax] at h
    exact ownStep_of_fpu2 rfl h
  case fsqrt g ty rm d a => cases hi; change execFsqrt g ty rm d a s = _ at h; exact ownStep_of_fpu1 rfl h
  case fma g ty rm d a b c =>
    cases hi
    change execFma g ty rm d a b c s = _ at h
    exact ownStep_of_issueT (fun x => (Own.flags rfl x _).trans (.write _ d _)) h
  case fcvt g ds src rm d a =>
    cases hi
    change execFcvt g ds src rm d a s = _ at h
    refine ownStep_of_issueT (fun x => Own.trans ?_ (.write _ d _)) h
    refine Own.trans ?_ (Own.flags rfl _ _)
    split
    · next hr => subst hr; exact .advancePhase x
    · exact .refl x
  case cmp g c wd p a b => cases hi; change execCmp g c wd p a b s = _ at h; exact ownStep_of_issueT (fun x => .setPred x p _) h
  case cmpi g c p a imm => cases hi; change execCmpi g c p a imm s = _ at h; exact ownStep_of_issueT (fun x => .setPred x p _) h
  case plog g tt p pa pb =>
    cases hi
    change execPlog g tt p pa pb s = _ at h
    rw [execPlog] at h
    exact ownStep_of_issueT (fun x => .setPred x p _) h
  case fcmp g c ty p a b =>
    cases hi
    change execFcmp g c ty p a b s = _ at h
    exact ownStep_of_issueT (fun x => (Own.flags rfl x _).trans (.setPred _ p _)) h
  case br g off =>
    cases hi
    change execBr g off s = _ at h
    rw [execBr] at h
    exact ownStep_of_issue (fun _ => ownFlow_branchFlow _ _ Own.refl) h
  case call g d off =>
    cases hi
    change execCall g d off s = _ at h
    rw [execCall] at h
    exact ownStep_of_issue (fun _ => ownFlow_branchFlow _ _ (fun x => .write x d _)) h
  case jr g d a off =>
    cases hi
    change execJr g d a off s = _ at h
    rw [execJr] at h
    exact ownStep_of_issue (fun _ => ownFlow_branchFlow _ _ (fun x => .write x d _)) h
  case loop g lv a off =>
    cases hi
    change execLoop g lv a off s = _ at h
    rw [execLoop] at h
    refine ownStep_of_issue (fun s => ?_) h
    exact .ite (.trap (.inl rfl)) (.ite (.jump (fun x => .setLoop x _ _ _)) (.go (fun x => .setLoop x _ _ _)))
  case portq g d port sink =>
    cases hi
    change execPortq g d port sink s = _ at h
    rw [execPortq] at h
    refine ownStep_of_issue (fun s => ?_) h
    exact .ite (.trap (.inr rfl)) (.go (fun x => .write x d _))
  case time g d =>
    cases hi
    change execTime g d s = _ at h
    rw [execTime] at h
    exact ownStep_of_reading (v := fun s _ => s.timeOf s.cur.coreRef) h
  case cyc g d =>
    cases hi
    change execCyc g d s = _ at h
    rw [execCyc] at h
    exact ownStep_of_reading (v := fun s _ => (s.die (s.dieOfTask s.cur)).cycles) h
  case tlread g d tl =>
    cases hi
    change execTlread g d tl s = _ at h
    rw [execTlread] at h
    exact ownStep_of_reading (v := fun s _ => BitVec.ofNat 64 (s.myCore.tline tl.val).c) h
  case tlnum g d tl =>
    cases hi
    change execTlnum g d tl s = _ at h
    rw [execTlnum] at h
    exact ownStep_of_reading (v := fun s _ => BitVec.ofNat 64 (s.myCore.tline tl.val).i) h
  case lqry g d sel =>
    cases hi
    change execLqry g d sel s = _ at h
    rw [execLqry] at h
    exact ownStep_of_reading (v := fun s _ => BitVec.ofNat 64 (s.leaseQuery sel.val)) h
  case stageq g d sel =>
    cases hi
    change execStageq g d sel s = _ at h
    rw [execStageq] at h
    exact ownStep_of_reading (v := fun s _ => s.stageQuery sel.val) h
  case cntr g d n =>
    cases hi
    change execCntr g d n s = _ at h
    rw [execCntr] at h
    exact ownStep_of_reading (v := fun s _ => (s.myCore.counter n.val).setWidth 64) h
  case capr g d a =>
    cases hi
    change execCapr g d a s = _ at h
    rw [execCapr] at h
    exact ownStep_of_reading (v := fun s t => s.capWord (t.reg a.r)) h
  case tyield g =>
    cases hi
    change execTyield g s = _ at h
    rw [execTyield] at h
    exact ownStep_of_issueT Own.yield h
  case tprio g n =>
    cases hi
    change execTprio g n s = _ at h
    rw [execTprio] at h
    exact ownStep_of_issueT (fun x => .setPrio x _) h
  all_goals cases hi

/-! ## The task after a trap -/

theorem causeWord_low (c slot lx ly : Nat) (dlg f : Bool) : (causeWord c slot lx ly dlg f).setWidth 8 = BitVec.ofNat 8 c := by
  apply BitVec.eq_of_toNat_eq
  rw [causeWord, BitVec.toNat_setWidth, BitVec.toNat_ofNat, BitVec.toNat_ofNat]
  split <;> split <;> omega

theorem task_raise (s : State) (t : TaskRef) (c : Nat) (v : Word) (pc : BitVec 12) :
    ((s.raise t c v pc).task t).tpc = pc ∧ ((s.raise t c v pc).task t).tcause = (saved s t c v pc).tcause := by
  have hdel : ((delegated s t c v pc).task t).tpc = pc ∧ ((delegated s t c v pc).task t).tcause = (saved s t c v pc).tcause := by
    rw [task_delegated]
    exact ⟨rfl, rfl⟩
  have hent : ((enteredOwn s t c v pc).task t).tpc = pc ∧ ((enteredOwn s t c v pc).task t).tcause = (saved s t c v pc).tcause := by
    rw [task_enteredOwn]
    exact ⟨rfl, rfl⟩
  have hpas : ((passedOn s t c v pc).task t).tpc = pc ∧ ((passedOn s t c v pc).task t).tcause = (saved s t c v pc).tcause := by
    rw [task_passedOn]
    exact ⟨rfl, rfl⟩
  rw [raise_eq]
  split
  · exact hdel
  · split
    · exact hent
    · split
      · exact hdel
      · exact hpas

theorem traps_frame (s : State) (c : Nat) (v : Word) :
    OnlyTask s (traps s c v) ∧ SameMemory s (traps s c v) ∧ (∀ i d p, TaskFrame i d p s.me (traps s c v).me) ∧ (traps s c v).me.tpc = s.me.pc
      ∧ (traps s c v).me.tcause.setWidth 8 = BitVec.ofNat 8 c := by
  obtain ⟨x, f, hraise, hx, hf⟩ := s.begin.raise_cases s.cur c v s.me.pc
  have hset : s.begin.setTask s.cur x = s.setTask s.cur x := State.begin_modTask s (fun _ => x)
  have htraps : traps s c v = (s.setTask s.cur x).modBody s.cur.rect f := by rw [traps, hraise, hset]
  have hcores : ∀ b, (f b).cores = b.cores := fun b => (hf b).cores_eq
  have hcur : (traps s c v).cur = s.cur := by rw [htraps]; rfl
  have hme : (traps s c v).me = (s.begin.raise s.cur c v s.me.pc).task s.cur := by rw [State.me, hcur, traps]
  obtain ⟨htpc, htc⟩ := task_raise s.begin s.cur c v s.me.pc
  refine ⟨?_, ?_, ?_, by rw [hme, htpc], by rw [hme, htc, saved_tcause, causeWord_low]⟩
  · rw [htraps]
    exact onlyTask_of_setTask_modBody x hf
  · rw [htraps]
    exact (sameMemory_modTask s s.cur (fun _ => x)).trans (sameMemory_modBody _ _ hcores)
  · have hmx : (traps s c v).me = x := by
      rw [State.me, hcur, htraps, State.task_modBody_of_cores _ _ hcores, State.task_setTask_same]
    have hbegin : s.begin.task s.cur = s.me.unwait := State.me_begin s
    rw [hbegin] at hx
    intro i d p
    rw [hmx]
    exact (Own.unwait s.me).1.trans (TaskFrame.of_sameButTrap hx)

/-- The clauses of the statement, from the frame of the task and either form of its trap registers. -/
theorem TaskFrame.clauses {i : Instr} {d : Option Reg} {p : Option (Fin 8)} {x y : Task} {P : Prop} (h : TaskFrame i d p x y) (hP : P) :
    (∀ r, d ≠ some r → y.reg r = x.reg r ∧ y.presence r = x.presence r)
    ∧ (∀ k, p ≠ some k → y.pred k = x.pred k)
    ∧ (setsFlags i = false → y.fpflags = x.fpflags)
    ∧ (setsDz i = false → y.dz = x.dz)
    ∧ ((∀ g ds src d a, i ≠ .fcvt g ds src .dith d a) → y.fpmode = x.fpmode)
    ∧ ((∀ g lv a off, i ≠ .loop g lv a off) → (y.start0, y.end0, y.start1, y.end1) = (x.start0, x.end0, x.start1, x.end1))
    ∧ ((∀ g n, i ≠ .tprio g n) → y.prio = x.prio)
    ∧ (y.tvec, y.sp, y.ovfptr, y.ovflim, y.sc, y.kmode, y.occupied, y.handler, y.age, y.wake)
        = (x.tvec, x.sp, x.ovfptr, x.ovflim, x.sc, x.kmode, x.occupied, x.handler, x.age, x.wake)
    ∧ ((∀ g, i ≠ .tyield g) → y.yielding = x.yielding)
    ∧ (y.saved, y.parked, y.relScope, y.relUpto, y.relCut, y.asked, y.behind)
        = (x.saved, x.parked, x.relScope, x.relUpto, x.relCut, x.asked, x.behind)
    ∧ P :=
  ⟨h.regs, h.preds, h.fpflags, h.dz, h.fpmode, h.loops, h.prio, h.fixed, h.yielding, h.waiting, hP⟩

/-- Settles O10: a step of these instructions changes its own task within the frame, or raises one of three causes. -/
theorem taskLocalFrame : Obligations.TaskLocalFrame := by
  intro i s t d p hi h
  obtain ⟨f, rfl, hf⟩ | ⟨c, v, rfl, hc⟩ := ownStep_of_taskWrites hi h
  · have hmod : s.modTask s.cur f = (s.setTask s.cur (f s.me)).modBody s.cur.rect id := (State.setTask_modBody_id ..).symm
    have hme : (s.modTask s.cur f).me = f s.me := State.me_modTask s f
    obtain ⟨hframe, htrap⟩ := hf s.me
    refine ⟨hmod ▸ onlyTask_of_setTask_modBody _ (fun _ => rfl), sameMemory_modTask s s.cur f, ?_⟩
    rw [hme]
    exact hframe.clauses (.inl htrap)
  · obtain ⟨honly, hmem, hframe, htpc, hcause⟩ := traps_frame s c v
    refine ⟨honly, hmem, (hframe i d p).clauses (.inr ⟨htpc, ?_⟩)⟩
    rw [hcause]
    obtain rfl | rfl | rfl := hc
    · exact .inl rfl
    · exact .inr (.inl rfl)
    · exact .inr (.inr rfl)

end Sys2Proof.Cert
end

section
/-! SUPPORT. The bytes of a value, and a state whose core has other bytes. -/

namespace Sys2Proof.Machine

theorem splitBytes_getD {n i : Nat} (h : i < n) (v : Nat) : (splitBytes n v).getD i 0 = BitVec.ofNat 8 (v / 256 ^ i) := by
  induction n generalizing v i with
  | zero => omega
  | succ n ih =>
    cases i with
    | zero => simp [splitBytes]
    | succ i =>
      rw [splitBytes, List.getD_cons_succ, ih (by omega), Nat.div_div_eq_div_mul, Nat.pow_succ, Nat.mul_comm]

/-- R3: byte `i` of a word as its bits. -/
theorem splitBytes_getD_word {n i : Nat} (h : i < n) (w : Word) : (splitBytes n w.toNat).getD i 0 = w.extractLsb' (8 * i) 8 := by
  rw [splitBytes_getD h]
  apply BitVec.eq_of_toNat_eq
  simp [BitVec.extractLsb'_toNat, Nat.shiftRight_eq_div_pow, Nat.pow_mul]

/-- A change of a core that leaves its slots leaves every task. -/
theorem State.task_modCore_of_tasks (s : State) (c : CoreRef) {f : Core → Core} (h : ∀ x, (f x).tasks = x.tasks) (t : TaskRef) :
    (s.modCore c f).task t = s.task t := by
  rw [State.task, State.core_modCore, State.task]
  split
  · next e => rw [Core.task, h, ← e]; rfl
  · rfl

/-- SP, eight below it and the bounds of a part as numbers (R65). -/
theorem spillBase_toNat {spill slot : Nat} (hs : slot < 8) (hx : spill ≤ 2 ^ 20) :
    (spillBase spill slot).toNat = 2 ^ 20 - spill + slot * (spill / 8) := by
  have h : slot * (spill / 8) ≤ 7 * (spill / 8) := Nat.mul_le_mul_right _ (by omega)
  rw [spillBase, BitVec.toNat_ofNat, Nat.mod_eq_of_lt (by omega)]

theorem spillTop_toNat {spill slot : Nat} (hs : slot < 8) (hx : spill ≤ 2 ^ 20) :
    (spillBase spill slot + BitVec.ofNat 64 (spill / 8)).toNat = 2 ^ 20 - spill + slot * (spill / 8) + spill / 8 := by
  have h : slot * (spill / 8) ≤ 7 * (spill / 8) := Nat.mul_le_mul_right _ (by omega)
  rw [BitVec.toNat_add, spillBase_toNat hs hx, BitVec.toNat_ofNat]
  omega

end Sys2Proof.Machine
end

section
/-! PROOF. The spill stack in the carve-out (R158, R159, R65). -/

namespace Sys2Proof.Cert

open Sys2Proof.Machine
open Host (Outcome)

/-- What POP does to its task: the word arrives, and SP rises by a word. -/
def popped (d : Reg) (v : Word) (t : Task) : Task := { t.write d v with sp := t.sp + 8 }

/-- POP of the bytes of a memory: the word is read where SP stands. -/
def popFrom (d : Reg) (m : List Host.Cell) (t : Task) : Task := popped d (BitVec.ofNat 64 (joinBytes (cellBytes m t.sp.toNat 8))) t

theorem retire_popFrom (s : State) (d : Reg) (m : List Host.Cell) :
    (s.begin.modTask s.cur (popFrom d m)).modTask s.cur Task.loopEnd
      = retire s (popped d (BitVec.ofNat 64 (joinBytes (cellBytes m s.me.sp.toNat 8)))) :=
  (State.modTask_modTask s.begin s.cur (popFrom d m) Task.loopEnd).trans
    ((State.begin_modTask s _).trans (retire_congr (f := popFrom d m) rfl))

/-- SP falls by a word. -/
def lowered (t : Task) : Task := { t with sp := t.sp - 8 }

/-- The bytes of a word stand at an address of a core's scratchpad. -/
def stored (a : Nat) (v : Word) (c : Core) : Core := { c with scratch := setCells c.scratch a (splitBytes 8 v.toNat) }

/-- The state after PUSH has stored a word in the carve-out. -/
def pushed (s : State) (v : Word) : State :=
  (s.begin.modCore s.cur.coreRef (stored (s.me.sp.toNat - 8) v)).modTask s.cur (fun t => (lowered t).loopEnd)

section
variable {s : State} {g : Guard} {a : Src} {d : Reg} (hs : s.cur.slot < 8) (hx : s.myRect.spill ≤ 2 ^ 20) (h8 : s.me.sp.toNat % 8 = 0)

include hs hx h8

theorem exec_push (h : Executes s g [a.r] []) (hb : 2 ^ 20 - s.myRect.spill + s.cur.slot * (s.myRect.spill / 8) + 8 ≤ s.me.sp.toNat)
    (ht : s.me.sp.toNat ≤ 2 ^ 20 - s.myRect.spill + s.cur.slot * (s.myRect.spill / 8) + s.myRect.spill / 8) :
    exec (.push g a) s = .next (pushed s (val s a)) := by
  change execPush g a s = _
  rw [execPush, issue_runs (needs := [srcNeed a]) h.1 (by simpa [srcNeed] using Need.src_full (h.2.1 a.r (by simp)))]
  have hr : s.begin.myRect.spill = s.myRect.spill := by simp [State.begin]
  have hsp : s.begin.me.sp = s.me.sp := by rw [State.me_begin]; rfl
  have c1 : ¬ spillBase s.myRect.spill s.cur.slot + BitVec.ofNat 64 (s.myRect.spill / 8) < s.me.sp := by
    rw [BitVec.lt_def, spillTop_toNat hs hx]; omega
  have c2 : (spillBase s.myRect.spill s.cur.slot).toNat + 8 ≤ s.me.sp.toNat := by rw [spillBase_toNat hs hx]; exact hb
  dsimp only
  rw [hr, hsp, State.cur_begin, if_neg (not_not.mpr h8), if_neg c1, if_pos c2, State.finish_go, pushed]
  congr 1
  refine (State.modTask_modTask _ s.cur lowered Task.loopEnd).trans ?_
  rw [State.me_begin]
  rfl

theorem exec_pop (h : Executes s g [] [d]) (hb : 2 ^ 20 - s.myRect.spill + s.cur.slot * (s.myRect.spill / 8) ≤ s.me.sp.toNat)
    (ht : s.me.sp.toNat < 2 ^ 20 - s.myRect.spill + s.cur.slot * (s.myRect.spill / 8) + s.myRect.spill / 8) :
    exec (.pop g d) s = .next (retire s (popped d (BitVec.ofNat 64 (joinBytes (cellBytes s.myCore.scratch s.me.sp.toNat 8))))) := by
  change execPop g d s = _
  rw [execPop, issue_runs (needs := [.dst d]) h.1 (by simpa using Need.dst_ok (h.2.2 d (by simp)))]
  have hr : s.begin.myRect.spill = s.myRect.spill := by simp [State.begin]
  have hsp : s.begin.me.sp = s.me.sp := by rw [State.me_begin]; rfl
  have hc : s.begin.myCore.scratch = s.myCore.scratch := State.scratch_modTask s _ _ _
  have c1 : ¬ spillBase s.myRect.spill s.cur.slot + BitVec.ofNat 64 (s.myRect.spill / 8) ≤ s.me.sp := by
    rw [BitVec.le_def, spillTop_toNat hs hx]; omega
  have c2 : ¬ s.me.sp < spillBase s.myRect.spill s.cur.slot := by rw [BitVec.lt_def, spillBase_toNat hs hx]; omega
  dsimp only
  rw [hr, hsp, hc, State.cur_begin, if_neg (not_not.mpr h8), if_neg c1, if_neg c2, State.finish_go]
  exact congrArg Outcome.next (retire_popFrom s d _)

theorem exec_pop_empty (h : Executes s g [] [d])
    (ht : 2 ^ 20 - s.myRect.spill + s.cur.slot * (s.myRect.spill / 8) + s.myRect.spill / 8 ≤ s.me.sp.toNat) :
    exec (.pop g d) s = .next (traps s 0x0F s.me.sp) := by
  change execPop g d s = _
  rw [execPop, issue_runs (needs := [.dst d]) h.1 (by simpa using Need.dst_ok (h.2.2 d (by simp)))]
  have hr : s.begin.myRect.spill = s.myRect.spill := by simp [State.begin]
  have hsp : s.begin.me.sp = s.me.sp := by rw [State.me_begin]; rfl
  have c1 : spillBase s.myRect.spill s.cur.slot + BitVec.ofNat 64 (s.myRect.spill / 8) ≤ s.me.sp := by
    rw [BitVec.le_def, spillTop_toNat hs hx]; exact ht
  dsimp only
  rw [hr, hsp, State.cur_begin, if_neg (not_not.mpr h8), if_pos c1]
  exact congrArg Outcome.next (begin_raise_eq_traps 0x0F s.me.sp)

end

/-- R158: what PUSH leaves: its word below SP, and every other byte as it was. -/
theorem me_pushed (s : State) (v : Word) : (pushed s v).me = (retire s lowered).me := by
  rw [me_retire]
  refine (State.me_modTask _ _).trans ?_
  rw [State.me, State.task_modCore_of_tasks _ _ (f := stored _ v) (fun _ => rfl)]
  exact congrArg (fun t => (lowered t).loopEnd) (State.me_begin s)

theorem scratch_pushed (s : State) (v : Word) :
    (pushed s v).myCore.scratch = setCells s.myCore.scratch (s.me.sp.toNat - 8) (splitBytes 8 v.toNat) := by
  rw [State.myCore, pushed, State.scratch_modTask]
  refine (congrArg Core.scratch (State.core_modCore_same _ _ _)).trans ?_
  exact congrArg (fun m => setCells m _ _) (State.scratch_modTask s _ _ _)

theorem core_pushed (s : State) (v : Word) {c : CoreRef} (hc : c ≠ s.cur.coreRef) : (pushed s v).core c = s.core c := by
  rw [pushed, State.core_modTask, if_neg hc, State.core_modCore, if_neg hc, State.begin, State.core_modTask, if_neg hc]

/-- Settles O8: a PUSH and a POP whose SP lies in the task's part, which is no overflow, act on eight bytes of the scratchpad. -/
theorem spillStackResults : Obligations.SpillStackResults := by
  intro s g a d base top hs hx h8 hwf
  refine ⟨fun h hb ht => ⟨_, exec_push hs hx h8 h hb ht, me_pushed s _, fun k => ?_, rfl, rfl, fun c hc => core_pushed s _ hc⟩,
    exec_pop hs hx h8, exec_pop_empty hs hx h8⟩
  have h8' : 8 ≤ s.me.sp.toNat := by omega
  rw [scratch_pushed]
  refine (Memory.byte_setCells hwf _ _ _).trans ?_
  rw [splitBytes_length, Nat.sub_add_cancel h8']
  split
  · next hk => exact splitBytes_getD_word (by omega) _
  · rfl

end Sys2Proof.Cert
end

section
/-! PROOF. The commands of ports as they join (R302 to R306), pattern registers and port status (R52, R56, R307 to R309, R311). -/

namespace Sys2Proof.Cert

open Sys2Proof.Machine
open Host (Outcome)

/-! ## Bits of a pattern -/

theorem getLsbD_patSet (p : Pattern) (v : Nat) {lo w i : Nat} (hi : i < 256) :
    (patSet p lo w v).getLsbD i = if lo ≤ i ∧ i < lo + w then v.testBit (i - lo) else p.getLsbD i := by
  have e : p.toNat - p.toNat / 2 ^ lo % 2 ^ w * 2 ^ lo + v % 2 ^ w * 2 ^ lo
      = 2 ^ (lo + w) * (p.toNat / 2 ^ (lo + w)) + (2 ^ lo * (v % 2 ^ w) + p.toNat % 2 ^ lo) := by
    have h1 := Nat.div_add_mod p.toNat (2 ^ lo)
    have h2 := Nat.div_add_mod (p.toNat / 2 ^ lo) (2 ^ w)
    rw [Nat.div_div_eq_div_mul, ← Nat.pow_add] at h2
    have h3 : 2 ^ lo * (p.toNat / 2 ^ lo) = 2 ^ (lo + w) * (p.toNat / 2 ^ (lo + w)) + 2 ^ lo * (p.toNat / 2 ^ lo % 2 ^ w) := by
      calc 2 ^ lo * (p.toNat / 2 ^ lo)
          = 2 ^ lo * (2 ^ w * (p.toNat / 2 ^ (lo + w)) + p.toNat / 2 ^ lo % 2 ^ w) := by rw [h2]
        _ = _ := by rw [Nat.mul_add, ← Nat.mul_assoc, ← Nat.pow_add]
    rw [Nat.mul_comm _ (2 ^ lo), Nat.mul_comm _ (2 ^ lo)]
    omega
  have hlow : 2 ^ lo * (v % 2 ^ w) + p.toNat % 2 ^ lo < 2 ^ (lo + w) := by
    have h1 : v % 2 ^ w + 1 ≤ 2 ^ w := Nat.mod_lt _ (by positivity)
    have h2 : p.toNat % 2 ^ lo < 2 ^ lo := Nat.mod_lt _ (by positivity)
    calc _ < 2 ^ lo * (v % 2 ^ w + 1) := by rw [Nat.mul_add]; omega
      _ ≤ 2 ^ lo * 2 ^ w := Nat.mul_le_mul_left _ h1
      _ = _ := (Nat.pow_add 2 lo w).symm
  rw [patSet, BitVec.getLsbD_ofNat, e, Nat.testBit_two_pow_mul_add _ hlow,
    Nat.testBit_two_pow_mul_add _ (Nat.mod_lt _ (by positivity)), Nat.testBit_div_two_pow, Nat.testBit_mod_two_pow,
    Nat.testBit_mod_two_pow]
  simp only [hi, decide_true, Bool.true_and]
  by_cases h1 : i < lo
  · simp [show i < lo + w by omega, h1, show ¬ lo ≤ i by omega, BitVec.getLsbD]
  · by_cases h2 : i < lo + w
    · simp [h1, h2, show lo ≤ i by omega, show i - lo < w by omega]
    · simp [h2, BitVec.getLsbD, Nat.sub_add_cancel (not_lt.mp h2)]

theorem fieldSet_patSet (p : Pattern) (v : Word) (lo w : Nat) : FieldSet p (patSet p lo w v.toNat) lo w v :=
  fun i hi => getLsbD_patSet p v.toNat hi

theorem fieldSet_patField (f : QField) (p : Pattern) (v : Word) :
    FieldSet p (patField f p v) (fieldPlace f).1 (fieldPlace f).2 v := by
  cases f <;> exact fieldSet_patSet p v _ _

theorem raised_patRaise (p : Pattern) (b : Word) : raised p b (patRaise p b) := fieldSet_patSet p _ 0 64

/-! ## Commands that join a port -/

section
variable {s : State} {f : Fin 16} {cmd : StreamCmd}

/-- A port of the core of the issuing task is as it was when the instruction begins. -/
theorem feedFlow_joins (hb : (s.myCore.feed f.val).bind.isSome = true) (hw : (s.myCore.feed f.val).waiting < 4) :
    JoinsFeed s (s.begin.finish (feedFlow s.begin f cmd)) f.val cmd := by
  have hn : ¬ (s.myCore.feed f.val).bind.isNone = true := by simpa [Option.isNone_iff_eq_none, Option.isSome_iff_ne_none] using hb
  rw [feedFlow, State.myCore_begin_feed]
  rw [if_neg hn, if_neg (not_le.mpr hw), State.finish_go]
  rfl

theorem feedFlow_unbound (hb : (s.myCore.feed f.val).bind = none) :
    s.begin.finish (feedFlow s.begin f cmd) = traps s 0x10 (BitVec.ofNat 64 f.val) := by
  rw [feedFlow, State.myCore_begin_feed]
  rw [if_pos (by rw [hb]; rfl)]
  exact begin_raise_eq_traps _ _

theorem sinkFlow_joins {g : Task → Task} (hb : (s.myCore.sink f.val).bind.isSome = true) (hw : (s.myCore.sink f.val).waiting < 4) :
    JoinsSink s (s.begin.finish (sinkFlow s.begin f cmd g)) f.val cmd g := by
  have hn : ¬ (s.myCore.sink f.val).bind.isNone = true := by simpa [Option.isNone_iff_eq_none, Option.isSome_iff_ne_none] using hb
  rw [sinkFlow, State.myCore_begin_sink]
  rw [if_neg hn, if_neg (not_le.mpr hw), State.finish_go]
  rfl

end

section
variable {s : State} {g : Guard} {f q tag : Fin 16} {b : Src} {d : Reg} {pkt eok eor eos sx : Bool} {esz : EltSize} {kind : TokKind}

/-- The value of a source when the instruction has begun. -/
theorem begin_reg (s : State) (r : Reg) : s.begin.me.reg r = s.me.reg r := by rw [State.me_begin]; rfl

theorem src_ready (h : Executes s g [b.r] []) : ∀ n ∈ [srcNeed b], n.waits s.me = false := by
  simpa [srcNeed] using Need.src_full (h.2.1 b.r (by simp))

theorem dst_ready (h : Executes s g [] [d]) : ∀ n ∈ [Need.dst d], n.waits s.me = false := by
  simpa using Need.dst_ok (h.2.2 d (by simp))

theorem exec_feed (h : Executes s g [b.r] []) : exec (.feed g f q b tag pkt eok eor eos sx esz) s
    = .next (s.begin.finish (feedFlow s.begin f ⟨s.cur.slot, .feed (BitVec.ofNat 4 tag.val) pkt eok eor eos sx esz,
        patRaise (s.myCore.pattern q.val) (val s b)⟩)) := by
  change execFeed g f q b tag pkt eok eor eos sx esz s = _
  rw [execFeed, issue_runs h.1 (src_ready h), begin_reg, State.myCore_begin_pattern]
  rfl

theorem exec_sink (h : Executes s g [b.r] []) : exec (.sink g f q b pkt esz) s
    = .next (s.begin.finish (sinkFlow s.begin f ⟨s.cur.slot, .sink pkt esz, patRaise (s.myCore.pattern q.val) (val s b)⟩ id)) := by
  change execSink g f q b pkt esz s = _
  rw [execSink, issue_runs h.1 (src_ready h), begin_reg, State.myCore_begin_pattern]
  rfl

theorem exec_inj (h : Executes s g [b.r] []) : exec (.inj g f b tag) s
    = .next (s.begin.finish (feedFlow s.begin f ⟨s.cur.slot, .word ⟨.data, BitVec.ofNat 4 tag.val, (val s b).setWidth 32⟩, 0⟩)) := by
  change execInj g f b tag s = _
  rw [execInj, issue_runs h.1 (src_ready h), begin_reg]
  rfl

theorem exec_tok (h : Executes s g [b.r] []) : exec (.tok g kind f b tag) s
    = .next (s.begin.finish (feedFlow s.begin f
        ⟨s.cur.slot, .word ⟨Kind.ofCode kind.code, BitVec.ofNat 4 tag.val, (val s b).setWidth 32⟩, 0⟩)) := by
  change execTok g kind f b tag s = _
  rw [execTok, issue_runs h.1 (src_ready h), begin_reg]
  rfl

theorem exec_take (h : Executes s g [] [d]) : exec (.take g d f) s
    = .next (s.begin.finish (sinkFlow s.begin f ⟨s.cur.slot, .take d.val, 0⟩ (fun t => t.markEmpty d (.take f.val)))) := by
  change execTake g d f s = _
  rw [execTake, issue_runs h.1 (dst_ready h)]
  rfl

theorem code_ofCode_tokKind : (Kind.ofCode kind.code).code = kind.code := by cases kind <;> rfl

end

/-- Settles O19: every command of a port ends in one flow, which joins the port it names. -/
theorem portCommandsJoin : Obligations.PortCommandsJoin := by
  intro s g f q tag b pkt eok eor eos sx esz kind d tg p sl
  refine ⟨fun hb hw h => ⟨⟨_, _, exec_feed h, raised_patRaise p _, feedFlow_joins hb hw⟩, ⟨_, exec_inj h, feedFlow_joins hb hw⟩,
      ⟨_, _, exec_tok h, feedFlow_joins hb hw, code_ofCode_tokKind⟩⟩,
    fun hb hw => ⟨fun h => ⟨_, _, exec_sink h, raised_patRaise p _, sinkFlow_joins hb hw⟩, fun h => ⟨_, exec_take h, sinkFlow_joins hb hw⟩⟩,
    fun hb h => ?_⟩
  rw [exec_feed h, feedFlow_unbound hb]

end Sys2Proof.Cert
end

section
/-! SUPPORT. An access that meets the checks of R292 and is posted (R278, R279), and a read performed at issue (R311). -/

namespace Sys2Proof.Machine

theorem State.core_modRect_of_body (s : State) (r : Nat) {f : Rect → Rect} (h : ∀ x, (f x).body = x.body) (c : CoreRef) :
    (s.modRect r f).core c = s.core c := by
  simp only [State.core, State.rect_modRect]
  split
  · next e => rw [h, e]
  · rfl

theorem State.task_modRect_of_body (s : State) (r : Nat) {f : Rect → Rect} (h : ∀ x, (f x).body = x.body) (t : TaskRef) :
    (s.modRect r f).task t = s.task t := by
  rw [State.task, State.core_modRect_of_body s r h, State.task]

@[simp] theorem Rect.body_wantCut (x : Rect) (n : Nat) : (x.wantCut n).body = x.body := by
  rw [Rect.wantCut]; split <;> rfl

/-- The state with other translations in the first level. -/
def State.withTlb1 (s : State) (tl : List TlbEntry) : State := { s with tlb1 := tl }

theorem State.me_withTlb1 (s : State) (tl : List TlbEntry) : (s.withTlb1 tl).me = s.me := rfl
theorem State.task_withTlb1 (s : State) (tl : List TlbEntry) (t : TaskRef) : (s.withTlb1 tl).task t = s.task t := rfl
theorem State.core_withTlb1 (s : State) (tl : List TlbEntry) (c : CoreRef) : (s.withTlb1 tl).core c = s.core c := rfl
theorem State.cur_withTlb1 (s : State) (tl : List TlbEntry) : (s.withTlb1 tl).cur = s.cur := rfl

/-- The state with one more access pending. -/
def State.joined (s : State) (a : Access) : State := { s with nextId := s.nextId + 1, accesses := s.accesses ++ [a] }

theorem State.task_joined (s : State) (a : Access) (t : TaskRef) : (s.joined a).task t = s.task t := rfl
theorem State.core_joined (s : State) (a : Access) (c : CoreRef) : (s.joined a).core c = s.core c := rfl

/-- The register that an access fills waits for it. -/
def Task.awaits (reg : Option Reg) (id : Nat) (t : Task) : Task :=
  match reg with
  | some r => t.markEmpty r (.access id)
  | none => t

/-- The state with the access posted. -/
def State.posted (s : State) (a : Access) (reg : Option Reg) : State :=
  ((s.joined a).modTask s.cur (Task.awaits reg s.nextId)).modRect s.cur.rect (fun x => x.wantCut a.cut)

section
variable (s : State) (a : Access) (reg : Option Reg)

theorem State.task_posted_cur : (s.posted a reg).task s.cur = s.me.awaits reg s.nextId := by
  rw [State.posted, State.task_modRect_of_body _ _ (fun x => Rect.body_wantCut x _), State.task_modTask_same, State.task_joined, State.me]

theorem State.task_posted_ne {u : TaskRef} (h : u ≠ s.cur) : (s.posted a reg).task u = s.task u := by
  rw [State.posted, State.task_modRect_of_body _ _ (fun x => Rect.body_wantCut x _), State.task_modTask, if_neg h, State.task_joined]

theorem State.scratch_posted (c : CoreRef) : ((s.posted a reg).core c).scratch = (s.core c).scratch := by
  rw [State.posted, State.core_modRect_of_body _ _ (fun x => Rect.body_wantCut x _), State.core_modTask_scratch, State.core_joined]

end

theorem State.task_begin_ne (s : State) {u : TaskRef} (h : u ≠ s.cur) : s.begin.task u = s.task u :=
  (State.task_modTask s _ _ _).trans (if_neg h)

/-- A scope that an earlier release fence asks for (R279). -/
theorem Scope.code_le_fenced {sc : Scope} {n : Nat} (hn : n ≤ 7) (h : sc.code < n - 1) :
    sc.code ≤ ((Scope.ofCode (n - 1)).getD .core).code := by
  have h7 : n - 1 < 7 := by omega
  generalize n - 1 = m at *
  interval_cases m <;> simp_all [Scope.ofCode, Scope.code] <;> omega

/-- What posting an access does: it joins the accesses with the next number, its register empties, and its cut is asked for;
a write behind a release fence carries the fence's scope and cut (R279). -/
theorem State.post_eq (s : State) (reg : Option Reg) (va : Word) (l : Loc) (kind : AccKind) (pol : Policy) (o : OrderBits) :
    ∃ a : Access, s.post reg va l kind pol o = s.posted a reg
      ∧ a.id = s.nextId ∧ a.task = s.cur ∧ a.va = va ∧ a.loc = l ∧ a.kind = kind ∧ a.policy = pol ∧ a.acq = o.acq ∧ a.rel = o.rel
      ∧ a.reg = reg.bind (fun r => if r = 0 then none else some r.val)
      ∧ o.cut ≤ a.cut ∧ (s.me.relScope ≤ 7 → o.scope.code ≤ a.scope.code)
      ∧ (s.me.relScope = 0 ∨ kind.isLoad = true → a.scope = o.scope ∧ a.cut = o.cut) := by
  refine ⟨_, rfl, rfl, rfl, rfl, rfl, rfl, rfl, rfl, rfl, rfl, ?_, fun h7 => ?_, fun h => ?_⟩
  · dsimp only
    split_ifs
    · exact Nat.le_max_left _ _
    · exact Nat.le_refl _
  · dsimp only
    split_ifs with hf
    · exact Scope.code_le_fenced h7 hf.2
    · exact Nat.le_refl _
  · cases kind
    case load => exact ⟨rfl, rfl⟩
    all_goals
      have h0 : s.me.relScope = 0 := by simpa [AccKind.isLoad] using h
      simp [h0]

theorem State.touchTlb_eq (s : State) (cache die tag va : Nat) : ∃ tl, s.touchTlb cache die tag va = s.withTlb1 tl := by
  rw [State.touchTlb]
  split
  · exact ⟨s.tlb1, rfl⟩
  · split
    · exact ⟨_, rfl⟩
    · exact ⟨s.tlb1, rfl⟩

end Sys2Proof.Machine

namespace Sys2Proof.Cert

open Sys2Proof.Machine
open Host (Outcome)

theorem sameMemory_begin (s : State) : SameMemory s s.begin := sameMemory_modTask s _ _

theorem sameMemory_withTlb1 (s : State) (tl : List TlbEntry) : SameMemory s (s.withTlb1 tl) := sameMemory_of_eq rfl rfl (fun _ => rfl)

theorem sameMemory_posted (s : State) (a : Access) (reg : Option Reg) : SameMemory s (s.posted a reg) :=
  sameMemory_of_eq rfl rfl (State.scratch_posted s a reg)

section
variable {s : State} {ea : Word} {n : Nat} {write bp : Bool} {l : Loc}

/-- An access that meets the checks goes on at its location; only a translation cache has changed. -/
theorem taskAccess_at {align : Nat} (hu : s.begin.uninformed s.cur = false) (ha : ea.toNat % align = 0) (hr : ea.toNat < 2 ^ 48)
    (hl : reaches s ea n write = .at_ l bp) (pol : Policy) : ∃ tl, ∀ k : State → Loc → Policy → Flow,
    taskAccess s.begin ea n align write pol k = k (s.begin.withTlb1 tl) l (if bp then .bypass else pol) := by
  obtain ⟨tl, e⟩ := State.touchTlb_eq s.begin (coreCache ((s.begin.rect s.begin.cur.rect).phys s.begin.cur.core))
    (s.begin.dieOfTask s.begin.cur) (s.begin.rect s.begin.cur.rect).tag ea.toNat
  refine ⟨tl, fun k => ?_⟩
  unfold taskAccess
  dsimp only
  rw [← e]
  change s.begin.reach s.begin.cur.rect (.task s.begin.cur) (coreCache ((s.begin.rect s.begin.cur.rect).phys s.begin.cur.core))
    (s.begin.dieOfTask s.begin.cur) ea.toNat n write false = _ at hl
  rw [hl, if_neg (by rw [show s.begin.cur = s.cur from rfl, hu]; simp), if_neg (not_not.mpr ha), if_neg (not_le.mpr hr)]

theorem taskAccess_passes (h : Passes s ea n write l bp) (pol : Policy) : ∃ tl, ∀ k : State → Loc → Policy → Flow,
    taskAccess s.begin ea n n write pol k = k (s.begin.withTlb1 tl) l (if bp then .bypass else pol) := by
  obtain ⟨hu, ha, hr, hl⟩ := h
  exact taskAccess_at hu ha hr hl pol

/-- A posted access, seen from the state in which its instruction is issued. -/
theorem posts_post (tl : List TlbEntry) (reg : Option Reg) (kind : AccKind) (pol : Policy) (o : OrderBits) :
    Posts s (s.begin.finish (.go ((s.begin.withTlb1 tl).post reg ea l kind pol o))) reg ea l kind pol o.acq o.rel o.scope
      o.cut := by
  obtain ⟨a, e, hid, htask, hva, hloc, hkind, hpol, hacq, hrel, hreg, hcut, hscope, hplain⟩ :=
    State.post_eq (s.begin.withTlb1 tl) reg ea l kind pol o
  have hme : (s.begin.withTlb1 tl).me.relScope = s.me.relScope := by rw [State.me_withTlb1, State.me_begin]; rfl
  rw [hme] at hscope hplain
  rw [State.cur_withTlb1, State.cur_begin] at htask
  have hc : (s.begin.withTlb1 tl).cur = s.cur := rfl
  rw [e, State.finish_go, State.cur_begin]
  refine ⟨⟨a, rfl, hid, htask, hva, hloc, hkind, hpol, hacq, hrel, hcut, hscope, ?_, hplain⟩, rfl, ?_, ?_, fun u hu => ?_⟩
  · rw [hreg]; cases reg <;> rfl
  · rw [me_retire]
    refine (State.me_modTask _ Task.loopEnd).trans (congrArg Task.loopEnd ?_)
    refine (State.task_posted_cur _ a reg).trans ?_
    rw [State.me_withTlb1, State.me_begin]
    rfl
  · exact (sameMemory_begin s).trans ((sameMemory_withTlb1 s.begin tl).trans
      ((sameMemory_posted _ a reg).trans (sameMemory_modTask _ _ _)))
  · rw [State.task_modTask, if_neg hu, State.task_posted_ne _ _ _ (hc.symm ▸ hu), State.task_withTlb1, State.task_begin_ne s hu]

/-- A load or store that meets the checks is posted. -/
theorem loadFlow_posts (h : Passes s ea n false l bp) (sx : Bool) (d : Reg) (pol : Policy) (o : OrderBits) :
    Posts s (s.begin.finish (loadFlow s.begin ea n sx d pol o)) (some d) ea l (.load n sx) (if bp then .bypass else pol) o.acq o.rel
      o.scope o.cut := by
  obtain ⟨tl, e⟩ := taskAccess_passes h pol
  rw [loadFlow, e]
  exact posts_post tl _ _ _ _

theorem storeFlow_posts (h : Passes s ea n true l bp) (v : Word) (pol : Policy) (o : OrderBits) :
    Posts s (s.begin.finish (storeFlow s.begin ea n v pol o)) none ea l (.store n v) (if bp then .bypass else pol) o.acq o.rel
      o.scope o.cut := by
  obtain ⟨tl, e⟩ := taskAccess_passes h pol
  rw [storeFlow, e]
  exact posts_post tl _ _ _ _

/-- R290: a scope that is allowed is not clipped. -/
theorem clipped_allowed {sc : Scope} (h : ScopeAllowed s sc) (k : State → Scope → Flow) : clipped s.begin sc k = k s.begin sc := by
  have e : s.begin.clip sc = some (sc, false) := if_pos h
  rw [clipped, e]
  rfl

end

/-! ## Effective addresses (R292) -/

theorem eaOff_eq (x : Word) (off : BitVec 20) : eaOff x off = addrOff x off.toInt := rfl

theorem eaIndex_eq (x y : Word) (k : Fin 4) : eaIndex x y k = x + BitVec.ofNat 64 (y.toNat * 2 ^ k.val) := by
  refine congrArg (x + ·) (BitVec.eq_of_toNat_eq ?_)
  rw [BitVec.toNat_shiftLeft, BitVec.toNat_ofNat, Nat.shiftLeft_eq]

theorem ldBytes_eq (z : LdSize) : ldBytes z = bytesOfLd z := by cases z <;> rfl
theorem stBytes_eq (z : StSize) : stBytes z = bytesOfSt z := by cases z <;> rfl
theorem atBytes_eq (z : AtSize) : atBytes z = bytesOfAt z := by cases z <;> rfl
theorem ldSigned_eq (z : LdSize) : ldSigned z = decide (z = .b ∨ z = .h ∨ z = .w) := by cases z <;> rfl
theorem orderAcq_eq (o : Order) : orderAcq o = decide (o = .acq ∨ o = .ar) := by cases o <;> rfl
theorem orderRel_eq (o : Order) : orderRel o = decide (o = .rel ∨ o = .ar) := by cases o <;> rfl

theorem relCutFor_begin (s : State) (sc : Scope) : s.begin.relCutFor sc = if 2 ≤ sc.code then s.myRect.taskCut else 0 := by
  have e : s.begin.myRect.taskCut = s.myRect.taskCut := by simp [State.begin, Rect.taskCut, Rect.cutAfter]
  rw [State.relCutFor, e, Scope.wide]
  simp

end Sys2Proof.Cert
end

section
/-! PROOF. Loads, stores and atomics that meet their checks (R292 to R298). -/

namespace Sys2Proof.Cert

open Sys2Proof.Machine
open Host (Outcome)

section
variable {s : State} {g : Guard} {d : Reg} {a b : Src}

theorem src_dst_ready (h : Executes s g [a.r] [d]) : ∀ n ∈ [srcNeed a, .dst d], n.waits s.me = false := by
  simpa [srcNeed] using ⟨Need.src_full (h.2.1 a.r (by simp)), Need.dst_ok (h.2.2 d (by simp))⟩

theorem src_src_ready (h : Executes s g [a.r, b.r] []) : ∀ n ∈ [srcNeed a, srcNeed b], n.waits s.me = false := by
  simpa [srcNeed] using ⟨Need.src_full (h.2.1 a.r (by simp)), Need.src_full (h.2.1 b.r (by simp))⟩

theorem src_src_dst_ready (h : Executes s g [a.r, b.r] [d]) : ∀ n ∈ [srcNeed a, srcNeed b, .dst d], n.waits s.me = false := by
  simpa [srcNeed] using
    ⟨Need.src_full (h.2.1 a.r (by simp)), Need.src_full (h.2.1 b.r (by simp)), Need.dst_ok (h.2.2 d (by simp))⟩

theorem src_src_src_ready (h : Executes s g [a.r, b.r, d] []) : ∀ n ∈ [srcNeed a, srcNeed b, .src d false], n.waits s.me = false := by
  simpa [srcNeed] using
    ⟨Need.src_full (h.2.1 a.r (by simp)), Need.src_full (h.2.1 b.r (by simp)), Need.src_full (h.2.1 d (by simp))⟩

end

theorem loadsAndStoresPost : LoadsAndStoresPost := by
  intro s g ls ss cp sc d a b k off l bp n m sx ea ex pol relCut
  refine ⟨fun h hp => ⟨⟨_, ?ld, loadFlow_posts hp sx d cp relaxed⟩,
      fun hs => ⟨_, ?ldacq, loadFlow_posts hp sx d .keep { relaxed with acq := true, scope := sc }⟩⟩,
    fun h hp => ⟨_, ?ldx, loadFlow_posts hp sx d cp relaxed⟩,
    fun h hp => ⟨⟨_, ?st, storeFlow_posts hp (val s b) cp relaxed⟩,
      fun hs => ⟨_, ?strel, storeFlow_posts hp (val s b) .keep { relaxed with rel := true, scope := sc, cut := relCut }⟩⟩,
    fun h hp => ⟨_, ?stx, storeFlow_posts hp (s.me.reg d) cp relaxed⟩⟩
  case ld =>
    change execLd g ls cp d a off s = _
    rw [execLd, issue_runs h.1 (src_dst_ready h), begin_reg, ldBytes_eq, ldSigned_eq]
    rfl
  case ldacq =>
    change execLdacq g ls sc d a off s = _
    rw [execLdacq, issue_runs h.1 (src_dst_ready h), clipped_allowed hs, begin_reg, ldBytes_eq, ldSigned_eq]
    rfl
  case ldx =>
    change execLdx g ls cp d a b k s = _
    rw [execLdx, issue_runs h.1 (src_src_dst_ready h), begin_reg, begin_reg, ldBytes_eq, ldSigned_eq, eaIndex_eq]
    rfl
  case st =>
    change execSt g ss cp b a off s = _
    rw [execSt, issue_runs h.1 (src_src_ready h), begin_reg, begin_reg, stBytes_eq]
    rfl
  case strel =>
    change execStrel g ss sc b a off s = _
    rw [execStrel, issue_runs h.1 (src_src_ready h), clipped_allowed hs, begin_reg, begin_reg, stBytes_eq, relCutFor_begin]
    rfl
  case stx =>
    change execStx g ss cp d a b k s = _
    rw [execStx, issue_runs h.1 (src_src_src_ready h), begin_reg, begin_reg, begin_reg, stBytes_eq, eaIndex_eq]
    rfl

/-- The cut that an atomic waits for (R291, R297). -/
theorem atomicCut_touched (s : State) (tl : List TlbEntry) (l : Loc) (sc : Scope) :
    (s.begin.withTlb1 tl).atomicCut l sc = match l with
      | .window _ _ => if 2 ≤ sc.code then s.myRect.taskCut else 0
      | _ => s.myRect.taskCut := by
  cases l with
  | window c o => exact relCutFor_begin s sc
  | phys pa => exact (show s.begin.myRect.taskCut = s.myRect.taskCut by simp [State.begin, Rect.taskCut, Rect.cutAfter])
  | peer pa => exact (show s.begin.myRect.taskCut = s.myRect.taskCut by simp [State.begin, Rect.taskCut, Rect.cutAfter])

theorem atomicsPost : AtomicsPost := by
  intro s g op sz o sc d a b off off' l bp n pol acq rel cut hs
  refine ⟨fun h hp => ?_, fun h hp => ?_⟩
  · obtain ⟨tl, e⟩ := taskAccess_passes hp .keep
    refine ⟨_, ?_, posts_post tl (some d) (.amo op n (val s b)) pol { acq := acq, rel := rel, scope := sc, cut := cut }⟩
    change execAmo g op sz o sc d b a off s = _
    rw [execAmo, issue_runs h.1 (src_src_dst_ready h), clipped_allowed hs]
    dsimp only
    rw [begin_reg, begin_reg, atBytes_eq, orderAcq_eq, orderRel_eq]
    change Outcome.next (s.begin.finish (taskAccess s.begin (addrOff (val s a) off.toInt) n n true .keep _)) = _
    rw [e, atomicCut_touched]
    rfl
  · obtain ⟨tl, e⟩ := taskAccess_passes hp .keep
    refine ⟨_, ?_, posts_post tl (some d) (.cas n (s.me.reg d) (val s b)) pol { acq := acq, rel := rel, scope := sc, cut := cut }⟩
    change execCas g sz o sc d b a off' s = _
    rw [execCas, issue_runs h.1 (src_src_src_ready h), clipped_allowed hs]
    dsimp only
    rw [begin_reg, begin_reg, begin_reg, atBytes_eq, orderAcq_eq, orderRel_eq]
    change Outcome.next (s.begin.finish (taskAccess s.begin (addrOff (val s a) off'.toInt) n n true .keep _)) = _
    rw [e, atomicCut_touched]
    rfl

/-- Settles O14: each of these instructions is an access that meets its checks and is posted. -/
theorem loadsStoresAndAtomicsPost : Obligations.LoadsStoresAndAtomicsPost := ⟨loadsAndStoresPost, atomicsPost⟩

end Sys2Proof.Cert
end

section
/-! PROOF. Pattern registers and what software reads and asks of the ports (R52, R56, R307 to R309, R311). -/

namespace Sys2Proof.Machine

theorem State.modCore_congr (s : State) (c : CoreRef) {f g : Core → Core} (h : f (s.core c) = g (s.core c)) :
    s.modCore c f = s.modCore c g := by rw [State.modCore, State.modCore, h]

/-- A change of the issuing core that comes to nothing. -/
theorem State.begin_modCore_of_eq (s : State) {f : Core → Core} (h : f s.begin.myCore = s.begin.myCore) :
    s.begin.modCore s.cur.coreRef f = s.begin := by
  rw [State.modCore_congr s.begin s.cur.coreRef (g := id) h]
  exact State.modCore_modCore s _ _ id

theorem Core.pattern_setPattern_same (c : Core) (n : Nat) (p : Pattern) : (c.setPattern n p).pattern n = p := Sparse.at_put_same _ _ _ _

theorem Core.site_setSite (c : Core) (n k : Nat) (x : Site) : (c.setSite n x).site k = if k = n then x else c.site k :=
  Sparse.at_put _ _ _ _ _

/-- A change of a core that leaves its slots, seen from the task that makes it and then retires. -/
theorem State.me_modCore_loopEnd (s : State) {f : Core → Core} (h : ∀ x, (f x).tasks = x.tasks) :
    ((s.begin.modCore s.cur.coreRef f).modTask s.cur Task.loopEnd).me = s.me.unwait.loopEnd := by
  refine (State.me_modTask _ Task.loopEnd).trans (congrArg Task.loopEnd ?_)
  rw [State.me, State.task_modCore_of_tasks _ _ h]
  exact State.me_begin s

theorem Core.acSite_modTask (c : Core) (k : Nat) (f : Task → Task) (ac : Nat) : (c.modTask k f).acSite ac = c.acSite ac := rfl

theorem State.acSite_begin (s : State) (ac : Nat) : s.begin.myCore.acSite ac = s.myCore.acSite ac := by
  rw [Core.acSite, State.myCore_begin_sites]; rfl

/-- R56: the last of the resets of an accumulator stands. -/
theorem Core.site_applyResets {c : Core} {ac m : Nat} (h : c.acSite ac = some m) (v : W32) (k : Nat) :
    (({ c with acReset := c.acReset ++ [(ac, v)] } : Core).applyResets ac).site k
      = if k = m then { c.site m with st := { (c.site m).st with v := v } } else c.site k := by
  have hs : ({ c with acReset := c.acReset ++ [(ac, v)] } : Core).acSite ac = some m := h
  rw [Core.applyResets, hs]
  simp only [List.filter_append, decide_true, List.filter_cons_of_pos, List.filter_nil, List.getLast?_append, List.getLast?_singleton,
    Option.some_or]
  exact Core.site_setSite _ _ _ _

theorem Core.tasks_applyResets (c : Core) (ac : Nat) : (c.applyResets ac).tasks = c.tasks := by
  rw [Core.applyResets]
  split
  · rfl
  · split <;> rfl

theorem lastOwn_nil (n slot : Nat) : lastOwn n slot [] = 0 := rfl

end Sys2Proof.Machine

namespace Sys2Proof.Cert

open Sys2Proof.Machine
open Host (Outcome)

/-! ## Pattern registers -/

section
variable {s : State} {g : Guard} {f : QField} {q : Fin 16} {a : Src}

theorem exec_qset (h : Executes s g [a.r] []) : exec (.qset g f q a) s
    = .next (retireS s (fun s' => s'.modCore s'.cur.coreRef (fun c => c.setPattern q.val (patField f (s.myCore.pattern q.val) (val s a))))) := by
  change execQset g f q a s = _
  rw [execQset, issue_runs h.1 (src_ready h), begin_reg, modMyCore, State.finish_go, ← State.myCore_begin_pattern]
  exact congrArg (fun t : State => Outcome.next (t.modTask s.cur Task.loopEnd)) (State.modCore_congr _ _ rfl)

theorem exec_qadv (h : Executes s g [a.r] []) : exec (.qadv g q a) s
    = .next (retireS s (fun s' => s'.modCore s'.cur.coreRef (fun c => c.setPattern q.val (patRaise (s.myCore.pattern q.val) (val s a))))) := by
  change execQadv g q a s = _
  rw [execQadv, issue_runs h.1 (src_ready h), begin_reg, modMyCore, State.finish_go, ← State.myCore_begin_pattern]
  exact congrArg (fun t : State => Outcome.next (t.modTask s.cur Task.loopEnd)) (State.modCore_congr _ _ rfl)

/-- R278: with nothing of its task pending, a read at the scratchpad finds the bytes that stand there. -/
theorem directRead_settled (h : Settled s) (tl : List TlbEntry) (va : Word) (c o n : Nat) (pol : Policy) (k : State → List Byte → Flow) :
    directRead (s.begin.withTlb1 tl) va (.window c o) n pol k
      = k (s.begin.withTlb1 tl) (cellBytes (s.core ⟨s.cur.rect, c⟩).scratch o n) := by
  obtain ⟨ha, hr, hb⟩ := h
  have ha' : (s.begin.withTlb1 tl).accesses = [] := ha
  have hb' : ((s.begin.withTlb1 tl).task (s.begin.withTlb1 tl).cur).behind = [] := by
    have e : (s.begin.withTlb1 tl).task (s.begin.withTlb1 tl).cur = s.me.unwait := State.me_begin s
    rw [e]
    exact hb
  have hr' : ((s.begin.withTlb1 tl).rect (s.begin.withTlb1 tl).cur.rect).remote = [] := by
    refine Eq.trans ?_ hr
    exact State.rect_modTask_remote s _ _ _
  have hs : ((s.begin.withTlb1 tl).core ⟨(s.begin.withTlb1 tl).cur.rect, c⟩).scratch = (s.core ⟨s.cur.rect, c⟩).scratch :=
    State.scratch_modTask s _ _ _
  unfold directRead State.readBlocked State.overlay State.readLoc
  simp only [ha', hb', hr', hs, List.any_nil, Bool.or_self, Bool.false_eq_true, if_false, List.foldl_nil]

theorem exec_qld {c o : Nat} {bp : Bool} (h : Executes s g [a.r] []) (hs : Settled s)
    (hp : Passes s (val s a) 32 false (.window c o) bp) : ∃ tl, exec (.qld g q a) s = .next
      (((s.begin.withTlb1 tl).modCore s.cur.coreRef (fun k =>
        k.setPattern q.val (BitVec.ofNat 256 (joinBytes (cellBytes (s.core ⟨s.cur.rect, c⟩).scratch o 32))))).modTask s.cur Task.loopEnd) := by
  obtain ⟨tl, e⟩ := taskAccess_passes hp .keep
  refine ⟨tl, ?_⟩
  change execQld g q a s = _
  rw [execQld, issue_runs h.1 (src_ready h), begin_reg]
  dsimp only
  rw [show s.me.reg a.r = val s a from rfl, e, directRead_settled hs, State.finish_go, modMyCore]
  rfl

end

theorem patternRegisters : PatternRegisters := by
  intro s g f q a c o bp h p sets
  refine ⟨⟨_, exec_qset h, fieldSet_patField f p _⟩, ⟨_, exec_qadv h, raised_patRaise p _⟩, fun hs hp => ?_⟩
  obtain ⟨tl, e⟩ := exec_qld (q := q) h hs hp
  refine ⟨_, e, ?_, ?_, ?_⟩
  · exact (sameMemory_begin s).trans ((sameMemory_withTlb1 s.begin tl).trans ((sameMemory_modCore _ _ rfl).trans (sameMemory_modTask _ _ _)))
  · refine (State.core_modTask_pattern _ _ _ _ _).trans ?_
    refine (congrArg (fun k => Core.pattern k q.val) (State.core_modCore_same _ _ _)).trans ?_
    exact Core.pattern_setPattern_same _ _ _
  · rw [me_retire]
    refine (State.me_modTask _ Task.loopEnd).trans (congrArg Task.loopEnd ?_)
    rw [State.me, State.task_modCore_of_tasks _ _ (f := fun k => k.setPattern q.val _) (fun _ => rfl)]
    exact State.me_begin s

/-! ## Port status -/

section
variable {s : State} {g : Guard} {d : Reg} {n : Fin 16} {b : Src} {ac : Fin 8}

theorem portWord_eq (active : Bool) (queued held position : Nat) : portWord active queued held position
    = BitVec.ofNat 64 (active.toNat * 2 ^ 56 + queued % 8 * 2 ^ 53 + held % 32 * 2 ^ 48 + position % 2 ^ 48) := by
  cases active <;> simp [portWord]

theorem not_isNone {α : Type} {o : Option α} (h : o.isSome = true) : ¬ o.isNone = true := by
  cases o with
  | none => cases h
  | some x => exact Bool.false_ne_true

theorem exec_portq_feed (h : Executes s g [] [d]) (hb : (s.myCore.feed n.val).bind.isSome = true) :
    exec (.portq g d n false) s = .next (retire s (fun t => t.write d
      (portWord (s.myCore.feed n.val).active (s.myCore.feed n.val).waiting 0 (s.myCore.feed n.val).position))) := by
  change execPortq g d n false s = _
  rw [execPortq, issue_runs h.1 (dst_ready h)]
  simp only [Bool.false_eq_true, if_false, State.myCore_begin_feed, if_neg (not_isNone hb), State.finish_go, State.cur_begin,
    State.modTask_modTask, State.begin_modTask]
  rfl

theorem exec_portq_sink (h : Executes s g [] [d]) (hb : (s.myCore.sink n.val).bind.isSome = true) :
    exec (.portq g d n true) s = .next (retire s (fun t => t.write d (portWord (s.myCore.sink n.val).active
      (s.myCore.sink n.val).waiting (s.myCore.sink n.val).queue.length (s.myCore.sink n.val).position))) := by
  change execPortq g d n true s = _
  rw [execPortq, issue_runs h.1 (dst_ready h)]
  simp only [if_true, State.myCore_begin_sink, if_neg (not_isNone hb), State.finish_go, State.cur_begin, State.modTask_modTask,
    State.begin_modTask]
  rfl

/-- The ports of a mask hold no command. -/
def PortsQuiet (s : State) (m : Word) : Prop :=
  (∀ i < 16, m.getLsbD i = true → (s.myCore.feed i).bind.isSome = true ∧ (s.myCore.feed i).cmds = [])
    ∧ (∀ i < 16, m.getLsbD (16 + i) = true → (s.myCore.sink i).bind.isSome = true ∧ (s.myCore.sink i).cmds = [])

theorem PortsQuiet.find_eq_none {m : Word} (h : PortsQuiet s m) :
    (List.range 32).find? (fun i => m.getLsbD i &&
      (if i < 16 then (s.myCore.feed i).bind.isNone else (s.myCore.sink (i - 16)).bind.isNone)) = none := by
  obtain ⟨hf, hk⟩ := h
  rw [List.find?_eq_none]
  intro i hi hm
  rw [List.mem_range] at hi
  rw [Bool.and_eq_true] at hm
  obtain ⟨hm, hn⟩ := hm
  split at hn
  · next h16 => exact not_isNone (hf i h16 hm).1 hn
  · next h16 =>
    have hm' : m.getLsbD (16 + (i - 16)) = true := by rw [Nat.add_sub_cancel' (not_lt.mp h16)]; exact hm
    exact not_isNone (hk (i - 16) (by omega) hm').1 hn

theorem exec_sbar (h : Executes s g [b.r] []) (hq : PortsQuiet s (val s b)) : exec (.sbar g b) s = .next (retire s id) := by
  change execSbar g b s = _
  rw [execSbar, issue_runs h.1 (src_ready h), begin_reg]
  simp only [State.myCore_begin_feed, State.myCore_begin_sink]
  rw [show s.me.reg b.r = val s b from rfl, hq.find_eq_none]
  obtain ⟨hf, hk⟩ := hq
  have ef : ∀ p ∈ ((List.range 16).filter (fun i => (val s b).getLsbD i)).map (fun i =>
      (i, lastOwn (s.myCore.feed i).finished s.begin.cur.slot (s.myCore.feed i).cmds)), p.2 = 0 := by
    simp only [List.mem_map, List.mem_filter, List.mem_range]
    rintro p ⟨i, ⟨hi, hm⟩, rfl⟩
    rw [(hf i hi hm).2, lastOwn_nil]
  have ek : ∀ p ∈ ((List.range 16).filter (fun i => (val s b).getLsbD (16 + i))).map (fun i =>
      (i, lastOwn (s.myCore.sink i).finished s.begin.cur.slot (s.myCore.sink i).cmds)), p.2 = 0 := by
    simp only [List.mem_map, List.mem_filter, List.mem_range]
    rintro p ⟨i, ⟨hi, hm⟩, rfl⟩
    rw [(hk i hi hm).2, lastOwn_nil]
  have hw : ∀ fs ks : List (Nat × Nat), (∀ p ∈ fs, p.2 = 0) → (∀ p ∈ ks, p.2 = 0) → s.begin.waitOver s.begin.cur (.ports fs ks) = true := by
    intro fs ks hfs hks
    rw [State.waitOver, Bool.and_eq_true, List.all_eq_true, List.all_eq_true]
    exact ⟨fun p hp => by rw [hfs p hp]; simp, fun p hp => by rw [hks p hp]; simp⟩
  dsimp only
  rw [if_pos (hw _ _ ef ek), State.finish_go]
  exact congrArg Outcome.next (State.begin_modTask s _)

/-- What ACCRST does to its core. -/
def resetAc (ac : Nat) (v : W32) (c : Core) : Core :=
  match c.acSite ac with
  | none => c
  | some n =>
    if (c.site n).st.atStart && (c.site n).queues.all (·.isEmpty) then ({ c with acReset := c.acReset ++ [(ac, v)] } : Core).applyResets ac
    else { c with acReset := c.acReset ++ [(ac, v)] }

theorem tasks_resetAc (ac : Nat) (v : W32) (c : Core) : (resetAc ac v c).tasks = c.tasks := by
  rw [resetAc]
  split
  · rfl
  · split
    · exact Core.tasks_applyResets _ _
    · rfl

theorem exec_accrst (h : Executes s g [b.r] []) : exec (.accrst g ac b) s
    = .next ((s.begin.modCore s.cur.coreRef (resetAc ac.val ((val s b).setWidth 32))).modTask s.cur Task.loopEnd) := by
  change execAccrst g ac b s = _
  rw [execAccrst, issue_runs h.1 (src_ready h), begin_reg]
  rfl

end

theorem portStatus : PortStatus := by
  intro s g d n b ac c word
  refine ⟨fun h => ⟨fun hb => ?_, fun hb => ?_⟩, fun h => ⟨fun hf hk => exec_sbar h ⟨hf, hk⟩, fun hn => ?_, fun m hm hst hqs => ?_⟩⟩
  · rw [exec_portq_feed h hb, portWord_eq]
  · rw [exec_portq_sink h hb, portWord_eq]
  · have e : resetAc ac.val ((val s b).setWidth 32) s.begin.myCore = s.begin.myCore := by rw [resetAc, State.acSite_begin, hn]
    rw [exec_accrst h, State.begin_modCore_of_eq s e]
    exact congrArg Outcome.next (State.begin_modTask s _)
  · have hm' : s.begin.myCore.acSite ac.val = some m := by rw [State.acSite_begin]; exact hm
    have hall : (s.begin.myCore.site m).queues.all (·.isEmpty) = true := by
      rw [State.myCore_begin_site, List.all_eq_true]
      exact fun q hq => by rw [hqs q hq]; rfl
    have hsite : ∀ k, ((s.begin.modCore s.cur.coreRef (resetAc ac.val ((val s b).setWidth 32))).modTask s.cur Task.loopEnd).myCore.site k
        = if k = m then { c.site m with st := { (c.site m).st with v := (val s b).setWidth 32 } } else c.site k := by
      intro k
      refine (State.core_modTask_site _ _ _ _ _).trans ?_
      refine (congrArg (fun x => Core.site x k) (State.core_modCore_same s.begin s.cur.coreRef _)).trans ?_
      change (resetAc ac.val _ s.begin.myCore).site k = _
      rw [resetAc, hm']
      dsimp only
      rw [if_pos (by rw [hall, State.myCore_begin_site, hst]; rfl), Core.site_applyResets hm', State.myCore_begin_site, State.myCore_begin_site]
    refine ⟨_, exec_accrst h, ?_, fun k hk => ?_, ?_⟩
    · rw [hsite, if_pos rfl]
    · rw [hsite, if_neg hk]
    · rw [me_retire]
      exact State.me_modCore_loopEnd s (tasks_resetAc _ _)

/-- Settles O18: QLD of a settled scratchpad reads the bytes that stand there; the resets and barriers act on ports that hold no command. -/
theorem patternRegistersAndPortStatus : Obligations.PatternRegistersAndPortStatus := ⟨patternRegisters, portStatus⟩

end Sys2Proof.Cert
end

section
/-! PROOF. Timelines, time and the sleeps (R287, R321 to R323, R369). -/

namespace Sys2Proof.Machine

/-- R284: what an acquire drops are lines alone. -/
theorem State.acquireWork_eq (s : State) (tag : Nat) (sc : Scope) : ∃ ls, s.acquireWork tag sc = { s with lines := ls } := by
  rw [State.acquireWork]
  split
  · exact ⟨_, rfl⟩
  · exact ⟨s.lines, rfl⟩

end Sys2Proof.Machine

namespace Sys2Proof.Cert

open Sys2Proof.Machine
open Host (Outcome)

/-! ## How a flow of the issuing task ends when it changes nothing else -/

theorem finish_begin_go (s : State) : s.begin.finish (.go s.begin) = retire s id := State.begin_modTask s Task.loopEnd

theorem finish_begin_write (s : State) (f : Task → Task) : s.begin.finish (.go (s.begin.modTask s.cur f)) = retire s f := by
  rw [State.finish_go, State.cur_begin, State.modTask_modTask, State.begin_modTask]
  rfl

theorem finish_begin_wait (s : State) (w : Wait) : s.begin.finish (.wait s.begin w) = s.modTask s.cur (fun t => t.waitFor w) :=
  State.begin_modTask s (fun t => t.waitFor w)

theorem finish_begin_trap (s : State) (c : Nat) (v : Word) : s.begin.finish (.trap c v) = traps s c v := begin_raise_eq_traps c v

/-- The task went on, with no memory changed. -/
theorem goesOn_acquireWork (s : State) (tag : Nat) (sc : Scope) :
    (s.begin.finish (.go (s.begin.acquireWork tag sc))).me = (retire s id).me
      ∧ SameMemory s (s.begin.finish (.go (s.begin.acquireWork tag sc))) := by
  obtain ⟨ls, e⟩ := State.acquireWork_eq s.begin tag sc
  rw [e, State.finish_go]
  refine ⟨?_, (sameMemory_begin s).trans ((sameMemory_of_eq rfl rfl (fun _ => rfl)).trans (sameMemory_modTask _ _ _))⟩
  rw [me_retire]
  exact (State.me_modTask { s.begin with lines := ls } Task.loopEnd).trans (congrArg Task.loopEnd (State.me_begin s))

section
variable {s : State} {g : Guard} {d : Reg} {a b : Src} {tl : Fin 8} {sc : Option Scope}

theorem exec_tlread (h : Executes s g [] [d]) : exec (.tlread g d tl) s
    = .next (retire s (fun t => t.write d (BitVec.ofNat 64 (s.myCore.tline tl.val).c))) := by
  change execTlread g d tl s = _
  rw [execTlread, issue_runs h.1 (dst_ready h), State.myCore_begin_tline, State.cur_begin, finish_begin_write]

theorem exec_tlnum (h : Executes s g [] [d]) : exec (.tlnum g d tl) s
    = .next (retire s (fun t => t.write d (BitVec.ofNat 64 (s.myCore.tline tl.val).i))) := by
  change execTlnum g d tl s = _
  rw [execTlnum, issue_runs h.1 (dst_ready h), State.myCore_begin_tline, State.cur_begin, finish_begin_write]

theorem exec_time (h : Executes s g [] [d]) : exec (.time g d) s = .next (retire s (fun t => t.write d (s.timeOf s.cur.coreRef))) := by
  change execTime g d s = _
  rw [execTime, issue_runs h.1 (dst_ready h), State.timeOf_begin, State.cur_begin, finish_begin_write]

theorem exec_cyc (h : Executes s g [] [d]) : exec (.cyc g d) s
    = .next (retire s (fun t => t.write d (s.die (s.dieOfTask s.cur)).cycles)) := by
  change execCyc g d s = _
  rw [execCyc, issue_runs h.1 (dst_ready h), State.dieOfTask_begin, State.cur_begin, finish_begin_write]
  rfl

/-- What TLWAIT does at its scope. -/
def tlwaitFlow (tl : Fin 8) (n : Nat) (s : State) (sc : Scope) : Flow :=
  if n = 0 then .go s
  else if n ≤ (s.myCore.tline tl.val).c then .go (s.acquireWork s.myRect.tag sc)
  else .wait s (.timeline tl.val n none)

theorem exec_tlwait (h : Executes s g [a.r] []) (hsc : ∀ c, sc = some c → ScopeAllowed s c) : ∃ c,
    exec (.tlwait g sc tl a) s = .next (s.begin.finish (tlwaitFlow tl (val s a).toNat s.begin c)) := by
  change ∃ c, execTlwait g sc tl a s = _
  rw [execTlwait, issue_runs h.1 (src_ready h), begin_reg]
  cases sc with
  | none => exact ⟨s.begin.defaultScope, rfl⟩
  | some c => exact ⟨c, congrArg (fun f => Outcome.next (s.begin.finish f)) (clipped_allowed (hsc c rfl) (tlwaitFlow tl (val s a).toNat))⟩

theorem exec_sleept (h : Executes s g [a.r] []) : exec (.sleept g a) s = .next (s.begin.finish (
    if s.me.wake then .go s.begin.wokeUp
    else if (val s a).toNat ≤ (s.timeOf s.cur.coreRef).toNat then .go s.begin else .wait s.begin (.sleep (val s a)))) := by
  change execSleept g a s = _
  rw [execSleept, issue_runs h.1 (src_ready h), begin_reg, State.me_begin, State.timeOf_begin]
  rfl

theorem exec_sleeptP (h : Executes s g [a.r, b.r] []) : exec (.sleeptP g a tl b) s = .next (s.begin.finish (
    if s.me.wake then .go s.begin.wokeUp
    else if (val s b).toNat ≤ (s.myCore.tline tl.val).c then .go (s.begin.acquireWork s.begin.myRect.tag s.begin.defaultScope)
    else if (val s a).toNat ≤ (s.timeOf s.cur.coreRef).toNat then .trap 0x08 (BitVec.ofNat 64 (val s b).toNat)
    else .wait s.begin (.sleepP (val s a) tl.val (val s b).toNat))) := by
  change execSleeptP g a tl b s = _
  rw [execSleeptP, issue_runs h.1 (src_src_ready h), begin_reg, begin_reg, State.me_begin, State.timeOf_begin, State.myCore_begin_tline]
  rfl

/-- A wake ends a sleep and is spent (R369). -/
theorem finish_wokeUp : s.begin.finish (.go s.begin.wokeUp) = retire s (fun t => { t with wake := false }) := finish_begin_write s _

end

/-- Settles O26: each of these instructions writes a value of its core, goes on, waits or traps by comparing numbers. -/
theorem timelinesAndTime : Obligations.TimelinesAndTime := by
  intro s g d a b tl sc line now v writes waits goesOn woken
  refine ⟨fun h => ⟨exec_tlread h, exec_tlnum h, exec_time h, exec_cyc h⟩, fun h hsc => ?_, fun h => ?_, fun h => ?_⟩
  · obtain ⟨c, e⟩ := exec_tlwait (tl := tl) h hsc
    have el : (s.begin.myCore.tline tl.val).c = line.c := by rw [State.myCore_begin_tline]
    rw [e, tlwaitFlow, el]
    refine ⟨fun h0 => ?_, fun h0 hle => ⟨_, rfl, ?_⟩, fun hlt => ?_⟩
    · rw [if_pos (show v.toNat = 0 by rw [h0]; rfl), finish_begin_go]
    · have h0' : v.toNat ≠ 0 := fun e0 => h0 (BitVec.eq_of_toNat_eq e0)
      rw [if_neg h0', if_pos hle]
      exact goesOn_acquireWork s _ _
    · rw [if_neg (show ¬ v.toNat = 0 by omega), if_neg (not_le.mpr hlt), finish_begin_wait]
  · rw [exec_sleept h]
    refine ⟨fun hw => ?_, fun hw hle => ?_, fun hw hlt => ?_⟩
    · rw [if_pos hw, finish_wokeUp]
    · rw [hw, if_neg Bool.false_ne_true, if_pos hle, finish_begin_go]
    · rw [hw, if_neg Bool.false_ne_true, if_neg (not_le.mpr hlt), finish_begin_wait]
  · intro n
    rw [exec_sleeptP h]
    refine ⟨fun hw => ?_, fun hw hle => ⟨_, rfl, ?_⟩, fun hw hlt hle => ?_, fun hw hlt hlt' => ?_⟩
    · rw [if_pos hw, finish_wokeUp]
    · rw [hw, if_neg Bool.false_ne_true, if_pos hle]
      exact goesOn_acquireWork s _ _
    · rw [hw, if_neg Bool.false_ne_true, if_neg (not_le.mpr hlt), if_pos hle, finish_begin_trap]
    · rw [hw, if_neg Bool.false_ne_true, if_neg (not_le.mpr hlt), if_neg (not_le.mpr hlt'), finish_begin_wait]

end Sys2Proof.Cert
end

section
/-! PROOF. The instructions on tasks and virtual channels (R367 to R373). -/

namespace Sys2Proof.Machine

theorem Task.reg_start (spill slot : Nat) (entry : BitVec 12) (v : Word) (r : Reg) :
    (Task.start spill slot entry v).reg r = if r = 1 then v else 0 := by
  rw [Task.start, Task.reg_write]
  simp only [show (1 : Reg) ≠ 0 by decide, ne_eq, not_false_eq_true, and_true]
  split
  · rfl
  · rw [Task.reg]; split <;> rfl

/-- The wake flag set (R369). -/
def Task.woken (t : Task) : Task := { t with wake := true }

theorem Task.woken_woken (t : Task) : t.woken.woken = t.woken := rfl

/-- R369: what the wake mask does to one slot, and to a list of them. -/
def wakeSlot (mask : BitVec 8) (c : Core) (k : Nat) : Core :=
  if mask.getLsbD k && (c.task k).occupied then c.modTask k Task.woken else c
def wakeSlots (mask : BitVec 8) (c : Core) (ks : List Nat) : Core := ks.foldl (wakeSlot mask) c

theorem task_wakeSlot (mask : BitVec 8) (c : Core) (j k : Nat) : (wakeSlot mask c j).task k
    = if k = j ∧ (mask.getLsbD k && (c.task k).occupied) = true then (c.task k).woken else c.task k := by
  rw [wakeSlot]
  by_cases h : k = j
  · subst h
    by_cases hm : (mask.getLsbD k && (c.task k).occupied) = true
    · rw [if_pos hm, if_pos ⟨rfl, hm⟩, Core.modTask, Core.task_setTask_same]
    · rw [if_neg hm, if_neg (fun e => hm e.2)]
  · rw [if_neg (show ¬ (k = j ∧ _) from fun e => h e.1)]
    split
    · rw [Core.modTask, Core.task_setTask, if_neg h]
    · rfl

theorem task_wakeSlots (mask : BitVec 8) (ks : List Nat) (c : Core) (k : Nat) : (wakeSlots mask c ks).task k
    = if k ∈ ks ∧ (mask.getLsbD k && (c.task k).occupied) = true then (c.task k).woken else c.task k := by
  induction ks generalizing c with
  | nil => rw [if_neg (fun e => List.not_mem_nil e.1)]; rfl
  | cons j ks ih =>
    have ho : ((wakeSlot mask c j).task k).occupied = (c.task k).occupied := by rw [task_wakeSlot]; split <;> rfl
    refine (ih (wakeSlot mask c j)).trans ?_
    rw [ho, task_wakeSlot]
    simp only [List.mem_cons]
    by_cases hm : (mask.getLsbD k && (c.task k).occupied) = true
    · simp only [hm, and_true]
      by_cases hj : k = j <;> by_cases hk : k ∈ ks <;> simp [hj, hk, Task.woken_woken]
    · simp [hm]

theorem scratch_wakeSlots (mask : BitVec 8) (ks : List Nat) (c : Core) : (wakeSlots mask c ks).scratch = c.scratch := by
  induction ks generalizing c with
  | nil => rfl
  | cons j ks ih =>
    refine (ih (wakeSlot mask c j)).trans ?_
    rw [wakeSlot]
    split <;> rfl

/-- A credit depends on the channels and the packets alone. -/
theorem State.vcRoom_begin (s : State) (k vc : Nat) : s.begin.myRect.body.vcRoom k vc = s.myRect.body.vcRoom k vc := by
  have hv : (s.begin.myRect.body.core k).vc vc = (s.myRect.body.core k).vc vc := State.core_modTask_vc s s.cur _ ⟨s.cur.rect, k⟩ vc
  have hn : s.begin.myRect.body.net = s.myRect.body.net := State.body_modTask_net s _ _ _
  rw [Body.vcRoom, Body.vcRoom, hv, Body.vcFlying, Body.vcFlying, hn]

end Sys2Proof.Machine

namespace Sys2Proof.Cert

open Sys2Proof.Machine
open Host (Outcome)

section
variable {s : State} {g : Guard} {d : Reg} {a b : Src} {entry : BitVec 12} {vc : Fin 16} {mask : BitVec 8}

/-! ## TSPAWN (R367) -/

/-- A slot that TSPAWN may take. -/
def spawnable (s : State) (k : Nat) : Bool :=
  !((s.core s.cur.coreRef).task k).occupied && !(decide (k = 7) && decide (s.cur.core = 0) && s.myRect.handlerDef)

theorem spawnable_iff (k : Nat) :
    spawnable s k = true ↔ (s.myCore.task k).occupied = false ∧ ¬ (k = 7 ∧ s.cur.core = 0 ∧ s.myRect.handlerDef = true) := by
  simp [spawnable, State.myCore]
  tauto

theorem occupied_begin (k : Nat) : (s.begin.myCore.task k).occupied = (s.myCore.task k).occupied := by
  have e := State.task_modTask s s.cur ⟨s.cur.rect, s.cur.core, k⟩ Task.unwait
  change (s.begin.task ⟨s.cur.rect, s.cur.core, k⟩).occupied = (s.task ⟨s.cur.rect, s.cur.core, k⟩).occupied
  rw [State.begin, e]
  split
  · next h => rw [h]; rfl
  · rfl

theorem spawnable_begin (k : Nat) : spawnable s.begin k = spawnable s k := by
  have e := occupied_begin (s := s) k
  rw [State.myCore, State.myCore] at e
  rw [spawnable, spawnable, e, State.cur_begin, State.myRect_begin_handlerDef]

theorem freeSlotFor_begin : s.begin.freeSlotFor s.cur = (List.range 8).find? (spawnable s) :=
  congrArg (fun p => (List.range 8).find? p) (funext spawnable_begin)

/-- The task that TSPAWN starts. -/
def spawned (s : State) (k : Nat) (entry : BitVec 12) (v : Word) : Task :=
  { Task.start s.myRect.spill k entry v with behind := (s.cur, s.nextId) :: s.me.behind }

theorem exec_tspawn (h : Executes s g [a.r] [d]) (hi : Informed s) : exec (.tspawn g d a entry) s = .next (s.begin.finish
    (match (List.range 8).find? (spawnable s) with
    | none => .go (s.begin.modTask s.cur (fun t => t.write d (BitVec.allOnes 64)))
    | some k => .go ((s.begin.setTask { s.cur with slot := k } (spawned s k entry (val s a))).modTask s.cur
        (fun t => t.write d (BitVec.ofNat 64 k))))) := by
  change execTspawn g d a entry s = _
  have hm : s.begin.me.behind = s.me.behind := by rw [State.me_begin]; rfl
  rw [execTspawn, issue_runs h.1 (src_dst_ready h), State.cur_begin, if_neg (by rw [hi]; exact Bool.false_ne_true), freeSlotFor_begin]
  cases (List.range 8).find? (spawnable s) with
  | none => rfl
  | some k => dsimp only; rw [begin_reg, hm, State.myRect_begin_spill]; rfl

theorem exec_tspawn_none (h : Executes s g [a.r] [d]) (hi : Informed s) (hn : ∀ k < 8, ¬ spawnable s k = true) :
    exec (.tspawn g d a entry) s = .next (retire s (fun t => t.write d (BitVec.allOnes 64))) := by
  have e : (List.range 8).find? (spawnable s) = none := List.find?_eq_none.mpr fun k hk => hn k (List.mem_range.mp hk)
  rw [exec_tspawn h hi, e]
  exact congrArg Outcome.next (finish_begin_write s _)

/-- The state after TSPAWN has taken slot `k`. -/
def afterSpawn (s : State) (d : Reg) (k : Nat) (x : Task) : State :=
  (s.begin.setTask { s.cur with slot := k } x).modTask s.cur (fun t => (t.write d (BitVec.ofNat 64 k)).loopEnd)

theorem exec_tspawn_some {k : Nat} (h : Executes s g [a.r] [d]) (hi : Informed s) (hk : k < 8) (hs : spawnable s k = true)
    (hlow : ∀ j < k, ¬ spawnable s j = true) :
    exec (.tspawn g d a entry) s = .next (afterSpawn s d k (spawned s k entry (val s a))) := by
  have e : (List.range 8).find? (spawnable s) = some k :=
    List.find?_range_eq_some.mpr ⟨hs, List.mem_range.mpr hk, fun j hj => by simpa using hlow j hj⟩
  rw [exec_tspawn h hi, e, State.finish_go]
  exact congrArg Outcome.next (State.modTask_modTask _ s.cur _ _)

theorem task_afterSpawn {k : Nat} (x : Task) (hk : k ≠ s.cur.slot) :
    (afterSpawn s d k x).task { s.cur with slot := k } = x
      ∧ (afterSpawn s d k x).me = (retire s (fun t => t.write d (BitVec.ofNat 64 k))).me := by
  have hne : ({ s.cur with slot := k } : TaskRef) ≠ s.cur := fun e => hk (congrArg TaskRef.slot e)
  refine ⟨?_, ?_⟩
  · rw [afterSpawn, State.task_modTask, if_neg hne, State.task_setTask_same]
  · rw [me_retire]
    refine (State.me_modTask (s.begin.setTask { s.cur with slot := k } x) (fun t => (t.write d (BitVec.ofNat 64 k)).loopEnd)).trans ?_
    rw [State.me, State.task_setTask]
    refine congrArg (fun t => (Task.write t d (BitVec.ofNat 64 k)).loopEnd) ?_
    exact (if_neg hne.symm).trans (State.me_begin s)

theorem sameMemory_setTask (s : State) (t : TaskRef) (x : Task) : SameMemory s (s.setTask t x) :=
  sameMemory_modCore s t.coreRef rfl

theorem sameMemory_afterSpawn (k : Nat) (x : Task) : SameMemory s (afterSpawn s d k x) :=
  (sameMemory_begin s).trans ((sameMemory_setTask _ _ _).trans (sameMemory_modTask _ _ _))

/-! ## TWAKE and the channels (R369, R371 to R373) -/

theorem exec_twake (hg : s.me.guard g = true) : exec (.twake g mask) s
    = .next ((s.begin.modCore s.cur.coreRef (fun c => wakeSlots mask c (List.range 8))).modTask s.cur Task.loopEnd) := by
  change execTwake g mask s = _
  rw [execTwake, issue_runs (needs := []) hg (by simp)]
  rfl

theorem pc_loopEnd_woken (t : Task) : t.woken.loopEnd.pc = t.loopEnd.pc := by
  unfold Task.loopEnd Task.woken
  dsimp only
  (repeat' split) <;> rfl

theorem pc_loopEnd_unwait (t : Task) : t.unwait.loopEnd.pc = t.loopEnd.pc := by
  unfold Task.loopEnd Task.unwait
  dsimp only
  (repeat' split) <;> rfl

theorem twake_results (mask : BitVec 8) :
    let u := (s.begin.modCore s.cur.coreRef (fun c => wakeSlots mask c (List.range 8))).modTask s.cur Task.loopEnd
    SameMemory s u ∧ u.me.pc = s.me.loopEnd.pc
      ∧ ∀ k < 8, (u.myCore.task k).wake = ((s.myCore.task k).wake || (mask.getLsbD k && (s.myCore.task k).occupied)) := by
  have hcore : (s.begin.modCore s.cur.coreRef (fun c => wakeSlots mask c (List.range 8))).core s.cur.coreRef
      = wakeSlots mask s.begin.myCore (List.range 8) := State.core_modCore_same _ _ _
  have hwake : ∀ k, (s.begin.myCore.task k).wake = (s.myCore.task k).wake := by
    intro k
    have e := State.task_modTask s s.cur ⟨s.cur.rect, s.cur.core, k⟩ Task.unwait
    change (s.begin.task ⟨s.cur.rect, s.cur.core, k⟩).wake = (s.task ⟨s.cur.rect, s.cur.core, k⟩).wake
    rw [State.begin, e]
    split
    · next h => rw [h]; rfl
    · rfl
  refine ⟨(sameMemory_begin s).trans ((sameMemory_modCore _ _ (scratch_wakeSlots _ _ _)).trans (sameMemory_modTask _ _ _)), ?_, fun k hk => ?_⟩
  · refine (congrArg Task.pc (State.me_modTask _ Task.loopEnd)).trans ?_
    have e : (s.begin.modCore s.cur.coreRef (fun c => wakeSlots mask c (List.range 8))).me
        = (wakeSlots mask s.begin.myCore (List.range 8)).task s.cur.slot := congrArg (fun c => Core.task c s.cur.slot) hcore
    have em : s.begin.myCore.task s.cur.slot = s.me.unwait := State.me_begin s
    rw [e, task_wakeSlots, em]
    split
    · exact (pc_loopEnd_woken s.me.unwait).trans (pc_loopEnd_unwait s.me)
    · exact pc_loopEnd_unwait s.me
  · have ec := State.core_modTask (s.begin.modCore s.cur.coreRef (fun c => wakeSlots mask c (List.range 8))) s.cur Task.loopEnd s.cur.coreRef
    rw [if_pos rfl, hcore] at ec
    rw [State.myCore]
    refine (congrArg (fun c => (Core.task c k).wake) ec).trans ?_
    rw [Core.modTask, Core.task_setTask]
    have hw : ((wakeSlots mask s.begin.myCore (List.range 8)).task k).wake
        = ((s.myCore.task k).wake || (mask.getLsbD k && (s.myCore.task k).occupied)) := by
      rw [task_wakeSlots, occupied_begin]
      by_cases hm : (mask.getLsbD k && (s.myCore.task k).occupied) = true
      · rw [if_pos ⟨List.mem_range.mpr hk, hm⟩, hm, Bool.or_true]
        rfl
      · rw [if_neg (fun e => hm e.2), hwake]
        simp [hm]
    split
    · next e => rw [Task.loopEnd_wake, ← e, hw]
    · exact hw

theorem exec_tbind (hg : s.me.guard g = true) : ∃ u, exec (.tbind g vc) s = .next u
    ∧ CoreChange s u (fun c => c.setVc vc.val { c.vc vc.val with holder := some s.cur.slot }) id := by
  refine ⟨_, ?_, rfl⟩
  change execTbind g vc s = _
  rw [execTbind, issue_runs (needs := []) hg (by simp), modMyCore, State.finish_go]
  exact congrArg Outcome.next (State.modTask_modTask _ s.cur id Task.loopEnd).symm

theorem exec_waitv (h : Executes s g [] [d]) : exec (.waitv g d vc) s = .next (s.begin.finish
    (if (s.myCore.vc vc.val).holder ≠ some s.cur.slot then .trap 0x10 (BitVec.ofNat 64 vc.val)
    else .go ((s.begin.modCore s.cur.coreRef (fun c =>
        c.setVc vc.val { c.vc vc.val with claims := (c.vc vc.val).claims ++ [(s.cur.slot, d.val)] })).modTask s.cur
      (fun t => t.markEmpty d (.waitv vc.val))))) := by
  change execWaitv g d vc s = _
  have e : s.begin.modCore s.cur.coreRef (fun c =>
        c.setVc vc.val { s.myCore.vc vc.val with claims := (s.myCore.vc vc.val).claims ++ [(s.cur.slot, d.val)] })
      = s.begin.modCore s.cur.coreRef (fun c =>
        c.setVc vc.val { c.vc vc.val with claims := (c.vc vc.val).claims ++ [(s.cur.slot, d.val)] }) :=
    State.modCore_congr _ _ (by rw [← State.myCore_begin_vc]; rfl)
  rw [execWaitv, issue_runs h.1 (dst_ready h), State.myCore_begin_vc, ← e]
  rfl

/-- What SENDV sends. -/
def sent (s : State) (k vc : Nat) (w : Word) : Packet :=
  { id := s.nextId, router := s.myRect.phys s.cur.core, yFirst := Config.routeBit s.nextId,
    payload := .vcWord k vc ⟨.data, w⟩ (8 * s.cur.core + s.cur.slot) }

theorem exec_sendv_access (h : Executes s g [a.r, b.r] [])
    (hv : 65536 ≤ (val s a).toNat ∨ s.myRect.w ≤ (val s a).toNat % 256 ∨ s.myRect.h ≤ (val s a).toNat / 256 % 256) :
    exec (.sendv g a b vc) s = .next (traps s 0x05 (val s a)) := by
  change execSendv g a b vc s = _
  rw [execSendv, issue_runs h.1 (src_src_ready h), begin_reg]
  dsimp only
  rw [State.myRect_begin_w, State.myRect_begin_h, show s.me.reg a.r = val s a from rfl, if_pos hv, finish_begin_trap]

/-- The state after SENDV has put a packet on its way. -/
def afterSend (s : State) (p : Packet) : State :=
  (({ s.begin with nextId := s.nextId + 1 } : State).modBody s.cur.rect (fun b => { b with net := b.net ++ [p] })).modTask s.cur Task.loopEnd

theorem exec_sendv_sends (h : Executes s g [a.r, b.r] []) (hy : (val s a).toNat / 256 < 256) (hw : (val s a).toNat % 256 < s.myRect.w)
    (hh : (val s a).toNat / 256 < s.myRect.h)
    (hr : s.myRect.body.vcRoom (16 * ((val s a).toNat / 256) + (val s a).toNat % 256) vc.val = true) :
    exec (.sendv g a b vc) s
      = .next (afterSend s (sent s (16 * ((val s a).toNat / 256) + (val s a).toNat % 256) vc.val (val s b))) := by
  change execSendv g a b vc s = _
  rw [execSendv, issue_runs h.1 (src_src_ready h), begin_reg, begin_reg]
  have hy' : (val s a).toNat / 256 % 256 = (val s a).toNat / 256 := Nat.mod_eq_of_lt hy
  have hn : ¬ (65536 ≤ (val s a).toNat ∨ s.myRect.w ≤ (val s a).toNat % 256 ∨ s.myRect.h ≤ (val s a).toNat / 256) := by omega
  have hp : s.begin.myRect.phys s.cur.core = s.myRect.phys s.cur.core := Rect.phys_of (State.myRect_begin_px s) (State.myRect_begin_py s) _
  dsimp only
  rw [State.myRect_begin_w, State.myRect_begin_h, show s.me.reg a.r = val s a from rfl, hy', if_neg hn, State.vcRoom_begin, hr,
    State.cur_begin, hp]
  rfl

theorem afterSend_results (p : Packet) :
    (afterSend s p).myRect.body.net = s.myRect.body.net ++ [p] ∧ (afterSend s p).me = (retire s id).me ∧ SameMemory s (afterSend s p) := by
  have hn : s.begin.myRect.body.net = s.myRect.body.net := State.body_modTask_net s _ _ _
  refine ⟨?_, ?_, ?_⟩
  · refine (State.body_modTask_net _ _ _ _).trans ?_
    refine (congrArg Body.net (State.body_modBody_same _ _ _)).trans ?_
    exact congrArg (· ++ [p]) hn
  · rw [me_retire]
    refine (State.me_modTask _ Task.loopEnd).trans (congrArg Task.loopEnd ?_)
    rw [State.me, State.task_modBody_of_cores _ _ (f := fun b => { b with net := b.net ++ [p] }) (fun _ => rfl)]
    exact State.me_begin s
  · refine (sameMemory_begin s).trans ((sameMemory_of_eq rfl rfl (fun _ => rfl)).trans
      ((sameMemory_modBody { s.begin with nextId := s.nextId + 1 } s.cur.rect (f := fun b => { b with net := b.net ++ [p] }) (fun _ => rfl)).trans
        (sameMemory_modTask _ _ _)))

end

/-- Settles O30: the slot that TSPAWN takes is the lowest that is spawnable, and never the issuing task's own, which is occupied. -/
theorem taskInstructions : Obligations.TaskInstructions := by
  intro s g d a b entry vc mask prio c kept free spill hocc
  have hfree : ∀ k, free k ↔ k < 8 ∧ spawnable s k = true := fun k => by rw [spawnable_iff]
  refine ⟨fun h hi => ⟨fun hn => ?_, fun k hk hlow => ?_⟩, fun hg => ⟨?_, ?_, ⟨_, exec_twake hg, twake_results mask⟩, exec_tbind hg⟩,
    fun h => ⟨fun hh => ⟨_, ?_, rfl⟩, fun hh => ?_⟩, fun h => ⟨fun hy hx hyh hr => ?_, fun hv => exec_sendv_access h hv⟩⟩
  · exact exec_tspawn_none h hi fun k hk hs => hn k ((hfree k).mpr ⟨hk, hs⟩)
  · obtain ⟨hk8, hs⟩ := (hfree k).mp hk
    have hne : k ≠ s.cur.slot := by
      rintro rfl
      have ho : s.me.occupied = false := hk.2.1
      rw [hocc] at ho
      cases ho
    obtain ⟨ht, hme⟩ := task_afterSpawn (d := d) (spawned s k entry (val s a)) hne
    refine ⟨_, exec_tspawn_some h hi hk8 hs fun j hj hsj => hlow j hj ((hfree j).mpr ⟨by omega, hsj⟩), ?_, hme, sameMemory_afterSpawn _ _⟩
    rw [ht]
    have hreg : ∀ r, (spawned s k entry (val s a)).reg r = if r = 1 then val s a else 0 :=
      Task.reg_start s.myRect.spill k entry (val s a)
    exact ⟨rfl, rfl, by rw [hreg, if_pos rfl], fun r hr => by rw [hreg, if_neg hr], rfl, rfl, rfl⟩
  · change execTyield g s = _
    rw [execTyield, issueT_runs (needs := []) hg (by simp)]
    rfl
  · change execTprio g prio s = _
    rw [execTprio, issueT_runs (needs := []) hg (by simp)]
    rfl
  · rw [exec_waitv h, if_neg (not_not.mpr hh), State.finish_go]
    rfl
  · rw [exec_waitv h, if_pos hh, finish_begin_trap]
  · obtain ⟨hnet, hme, hmem⟩ := afterSend_results (s := s) (sent s (16 * ((val s a).toNat / 256) + (val s a).toNat % 256) vc.val (val s b))
    exact ⟨_, _, exec_sendv_sends h hy hx hyh hr, hnet, rfl, rfl, hme, hmem⟩

end Sys2Proof.Cert
end

section
/-! PROOF. Supervisor calls, counters, the capability list, and cuts on request (R449 to R452, R514, R519). -/

namespace Sys2Proof.Machine

theorem Rect.requested_wantCut {x : Rect} {n : Nat} (h : x.started < n) : (x.wantCut n).requested = true := by
  rw [Rect.wantCut, if_pos h]

theorem State.taskCut_begin (s : State) : s.begin.myRect.taskCut = s.myRect.taskCut := by
  simp [Rect.taskCut, Rect.cutAfter]

/-- The issuing task asks something of its rectangle and ends its instruction. -/
def State.asked (s : State) (f : Rect → Rect) (w : Task → Task) : State := (s.begin.modRect s.cur.rect f).modTask s.cur w

section
variable (s : State) (w : Task → Task) {f : Rect → Rect} (hf : ∀ x, (f x).body = x.body)

include hf in
theorem State.me_asked : (s.asked f w).me = w s.me.unwait := by
  refine (State.me_modTask (s.begin.modRect s.cur.rect f) w).trans (congrArg w ?_)
  rw [State.me, State.task_modRect_of_body _ _ hf]
  exact State.me_begin s

theorem State.requested_asked : (s.asked f w).myRect.requested = (f s.begin.myRect).requested := by
  refine (State.rect_modTask_requested _ _ _ _).trans (congrArg Rect.requested ?_)
  exact (State.rect_modRect s.begin s.cur.rect s.cur.rect f).trans (if_pos rfl)

theorem State.halting_asked : (s.asked f w).myRect.halting = (f s.begin.myRect).halting := by
  refine (State.rect_modTask_halting _ _ _ _).trans (congrArg Rect.halting ?_)
  exact (State.rect_modRect s.begin s.cur.rect s.cur.rect f).trans (if_pos rfl)

end

/-- The first word of the capability list is the header of entry 1, with its six words (R425). -/
theorem State.capList_head (s : State) : ∃ v w, s.capList = v :: w ∧ v % 2 ^ 64 % 2 ^ 16 = 1 ∧ v % 2 ^ 64 / 2 ^ 24 % 2 ^ 8 = 6 := by
  refine ⟨_, _, rfl, ?_, ?_⟩
  · have h := (Config.capVersion 1).isLt
    simp only [List.length_cons, List.length_nil, List.cons_append, List.isEmpty_cons, Bool.false_eq_true, if_false]
    omega
  · have h := (Config.capVersion 1).isLt
    simp only [List.length_cons, List.length_nil, List.cons_append, List.isEmpty_cons, Bool.false_eq_true, if_false]
    omega

end Sys2Proof.Machine

namespace Sys2Proof.Cert

open Sys2Proof.Machine
open Host (Outcome)

theorem sameMemory_modRect (s : State) (r : Nat) {f : Rect → Rect} (hf : ∀ x, (f x).body = x.body) : SameMemory s (s.modRect r f) :=
  sameMemory_of_eq rfl rfl (fun c => by rw [State.core_modRect_of_body _ _ hf])

theorem sameMemory_asked (s : State) (w : Task → Task) {f : Rect → Rect} (hf : ∀ x, (f x).body = x.body) : SameMemory s (s.asked f w) :=
  (sameMemory_begin s).trans ((sameMemory_modRect _ _ hf).trans (sameMemory_modTask _ _ _))

section
variable {s : State} {g : Guard} {d : Reg} {a : Src} {code : Fin 2} {n : Fin 8} {mask : BitVec 16} {l : Loc} {bp : Bool}

/-! ## SVC (R449) -/

/-- The mode check of the instructions of mode K. -/
theorem kernel_only {t : Task} (h : t.kmode = true) : (if t.kmode then none else some (0 : Word)) = none := if_pos h

theorem user_traps {needs : List Need} {body : State → Flow} (hg : s.me.guard g = true) (hk : s.me.kmode = false) :
    issueP g (fun t => if t.kmode then none else some 0) needs body s = .next (traps s 0x02 0) := by
  have hg' : s.begin.me.guard g = true := by rw [State.me_begin]; exact hg
  have hk' : s.begin.me.kmode = false := by rw [State.me_begin]; exact hk
  rw [issueP_cases, if_pos hg']
  simp only [hk', Bool.false_eq_true, if_false]
  exact congrArg Outcome.next (begin_raise_eq_traps 0x02 0)

theorem exec_svc_user (hg : s.me.guard g = true) (hk : s.me.kmode = false) : exec (.svc g code) s = .next (traps s 0x02 0) := by
  change execSvc g code s = _
  rw [execSvc]
  exact user_traps hg hk

theorem svc_ready (h : Executes s g [4] [5]) : ∀ n ∈ [Need.src 4 false, .dst 5], n.waits s.me = false := by
  simpa using ⟨Need.src_full (h.2.1 4 (by simp)), Need.dst_ok (h.2.2 5 (by simp))⟩

/-- The call that SVC makes. -/
def callOf (s : State) (code : Fin 2) : Call :=
  { id := s.nextId, task := s.cur, part := s.myRect.part, tag := s.myRect.tag, sup := decide (code.val = 1), addr := s.me.reg 4,
    cut := s.myRect.taskCut, submitted := false, block := none, status := none, results := [] }

/-- The state with one more call. -/
def State.called (s : State) (c : Call) : State := { s with nextId := s.nextId + 1, calls := s.calls ++ [c] }

/-- The state after SVC has passed its checks. -/
def afterSvc (s : State) (tl : List TlbEntry) (c : Call) : State :=
  (((State.called (s.begin.withTlb1 tl) c).modTask s.cur (fun t => t.markEmpty 5 (.svc s.nextId))).modRect s.cur.rect
    (fun x => x.wantCut x.taskCut)).modTask s.cur Task.loopEnd

theorem exec_svc (h : Executes s g [4] [5]) (hk : s.me.kmode = true) (hp : Passes s (s.me.reg 4) 64 false l bp)
    (hw : (s.me.reg 4).toNat < windowBase) : ∃ tl, exec (.svc g code) s = .next (afterSvc s tl (callOf s code)) := by
  obtain ⟨tl, e⟩ := taskAccess_passes hp .keep
  refine ⟨tl, ?_⟩
  change execSvc g code s = _
  rw [execSvc, issueP_runs h.1 (kernel_only hk) (svc_ready h), begin_reg]
  dsimp only
  rw [if_neg (not_not.mpr hp.2.1), if_neg (not_le.mpr hw), e, State.finish_go]
  have ec : ({ id := (s.begin.withTlb1 tl).fresh.2, task := (s.begin.withTlb1 tl).cur, part := (s.begin.withTlb1 tl).myRect.part,
               tag := (s.begin.withTlb1 tl).myRect.tag, sup := decide (code.val = 1), addr := s.me.reg 4,
               cut := (s.begin.withTlb1 tl).myRect.taskCut, submitted := false, block := none, status := none, results := [] } : Call)
      = callOf s code := by
    have h1 : (s.begin.withTlb1 tl).myRect.part = s.myRect.part := State.myRect_begin_part s
    have h2 : (s.begin.withTlb1 tl).myRect.tag = s.myRect.tag := State.myRect_begin_tag s
    have h3 : (s.begin.withTlb1 tl).myRect.taskCut = s.myRect.taskCut := State.taskCut_begin s
    rw [h1, h2, h3]
    rfl
  rw [ec]
  rfl

theorem exec_svc_misaligned (h : Executes s g [4] [5]) (hk : s.me.kmode = true) (ha : (s.me.reg 4).toNat % 64 ≠ 0) :
    exec (.svc g code) s = .next (traps s 0x04 (s.me.reg 4)) := by
  change execSvc g code s = _
  rw [execSvc, issueP_runs h.1 (kernel_only hk) (svc_ready h), begin_reg]
  dsimp only
  rw [if_pos ha, finish_begin_trap]

theorem body_wantTaskCut (x : Rect) : (x.wantCut x.taskCut).body = x.body := Rect.body_wantCut x _

theorem me_afterSvc (tl : List TlbEntry) (c : Call) : (afterSvc s tl c).me = (s.me.unwait.markEmpty 5 (.svc s.nextId)).loopEnd := by
  refine (State.me_modTask _ Task.loopEnd).trans (congrArg Task.loopEnd ?_)
  rw [State.me, State.task_modRect_of_body _ _ body_wantTaskCut]
  refine (State.task_modTask_same _ s.cur _).trans (congrArg (fun t => Task.markEmpty t 5 (.svc s.nextId)) ?_)
  exact State.me_begin s

theorem requested_afterSvc (tl : List TlbEntry) (c : Call) (h : s.myRect.started < s.myRect.taskCut) :
    (afterSvc s tl c).myRect.requested = true := by
  refine (State.rect_modTask_requested _ _ _ _).trans ?_
  refine (congrArg Rect.requested ((State.rect_modRect _ _ _ _).trans (if_pos rfl))).trans ?_
  have h1 := State.rect_modTask_started (State.called (s.begin.withTlb1 tl) c) s.cur s.cur.rect (fun t => t.markEmpty 5 (.svc s.nextId))
  have h2 := State.rect_modTask_prog (State.called (s.begin.withTlb1 tl) c) s.cur s.cur.rect (fun t => t.markEmpty 5 (.svc s.nextId))
  have h3 : ((State.called (s.begin.withTlb1 tl) c).rect s.cur.rect).started = s.myRect.started := State.myRect_begin_started s
  have h4 : ((State.called (s.begin.withTlb1 tl) c).rect s.cur.rect).prog = s.myRect.prog := State.myRect_begin_prog s
  refine Rect.requested_wantCut ?_
  rw [Rect.taskCut, Rect.cutAfter, h2, h1, h3, h4]
  exact h

theorem sameMemory_afterSvc (tl : List TlbEntry) (c : Call) : SameMemory s (afterSvc s tl c) := by
  refine (sameMemory_begin s).trans ((sameMemory_withTlb1 s.begin tl).trans ?_)
  have h1 : SameMemory (s.begin.withTlb1 tl) (State.called (s.begin.withTlb1 tl) c) := sameMemory_of_eq rfl rfl (fun _ => rfl)
  exact h1.trans ((sameMemory_modTask _ s.cur (fun t => t.markEmpty 5 (.svc s.nextId))).trans
    ((sameMemory_modRect _ s.cur.rect body_wantTaskCut).trans (sameMemory_modTask _ s.cur Task.loopEnd)))

/-! ## CNTR and CAPR (R451, R452) -/

theorem exec_cntr (h : Executes s g [] [d]) : exec (.cntr g d n) s
    = .next (retire s (fun t => t.write d ((s.myCore.counter n.val).setWidth 64))) := by
  change execCntr g d n s = _
  rw [execCntr, issue_runs h.1 (dst_ready h), State.myCore_begin_counter, State.cur_begin, finish_begin_write]

theorem exec_capr (h : Executes s g [a.r] [d]) : exec (.capr g d a) s
    = .next (retire s (fun t => t.write d (s.begin.capWord (val s a)))) := by
  change execCapr g d a s = _
  rw [execCapr, issue_runs h.1 (src_dst_ready h), State.cur_begin, finish_begin_write]
  exact congrArg Outcome.next (retire_congr rfl)

theorem capWord_zero (s : State) : (s.capWord 0).toNat % 2 ^ 16 = 1 ∧ (s.capWord 0).toNat / 2 ^ 24 % 2 ^ 8 = 6 := by
  obtain ⟨v, w, e, h1, h6⟩ := State.capList_head s
  have hz : s.capWord 0 = BitVec.ofNat 64 v := by
    rw [State.capWord, if_neg (by decide), e]
    rfl
  rw [hz, BitVec.toNat_ofNat]
  exact ⟨h1, h6⟩

/-! ## SNAP, CUTREQ and HALT (R514, R519) -/

/-- The ports of a mask, in order. -/
def portsOf (mask : BitVec 16) : List Nat := (List.range 16).filter (fun k => mask.getLsbD k)

theorem mem_portsOf {k : Nat} : k ∈ portsOf mask ↔ k < 16 ∧ mask.getLsbD k = true := by
  rw [portsOf, List.mem_filter, List.mem_range]

theorem exec_snap (hg : s.me.guard g = true) : exec (.snap g mask) s = .next (s.begin.finish
    (match (portsOf mask).find? (fun k => (s.myCore.feed k).bind.isNone) with
    | some k => .trap 0x10 (BitVec.ofNat 64 k)
    | none =>
      if (portsOf mask).all (fun k => (s.myCore.feed k).cmds.isEmpty) then
        .go (s.begin.modRect s.cur.rect (fun x => x.wantCut (x.started + 1)))
      else .go (s.begin.modBody s.cur.rect (fun b =>
        { b with snaps := b.snaps ++ [(s.cur.core, (portsOf mask).map (fun k => (k, (s.myCore.feed k).issued)))] })))) := by
  change execSnap g mask s = _
  rw [execSnap, issue_runs (needs := []) hg (by simp)]
  simp only [State.myCore_begin_feed]
  rfl

theorem find_unbound_none (hb : ∀ k < 16, mask.getLsbD k = true → (s.myCore.feed k).bind.isSome = true) :
    (portsOf mask).find? (fun k => (s.myCore.feed k).bind.isNone) = none :=
  List.find?_eq_none.mpr fun k hk => not_isNone (hb k (mem_portsOf.mp hk).1 (mem_portsOf.mp hk).2)

theorem exec_snap_now (hg : s.me.guard g = true)
    (h : ∀ k < 16, mask.getLsbD k = true → (s.myCore.feed k).bind.isSome = true ∧ (s.myCore.feed k).cmds = []) :
    exec (.snap g mask) s = .next (s.asked (fun x => x.wantCut (x.started + 1)) Task.loopEnd) := by
  have hall : (portsOf mask).all (fun k => (s.myCore.feed k).cmds.isEmpty) = true := by
    rw [List.all_eq_true]
    intro k hk
    rw [(h k (mem_portsOf.mp hk).1 (mem_portsOf.mp hk).2).2]
    rfl
  rw [exec_snap hg, find_unbound_none (fun k hk hm => (h k hk hm).1)]
  dsimp only
  rw [if_pos hall]
  rfl

/-- The state after SNAP has noted what it waits for. -/
def noted (s : State) (p : List (Nat × Nat)) : State :=
  (s.begin.modBody s.cur.rect (fun b => { b with snaps := b.snaps ++ [(s.cur.core, p)] })).modTask s.cur Task.loopEnd

theorem exec_snap_later (hg : s.me.guard g = true) (hb : ∀ k < 16, mask.getLsbD k = true → (s.myCore.feed k).bind.isSome = true)
    (hc : ∃ k < 16, mask.getLsbD k = true ∧ (s.myCore.feed k).cmds ≠ []) :
    exec (.snap g mask) s = .next (noted s ((portsOf mask).map (fun k => (k, (s.myCore.feed k).issued)))) := by
  have hall : ¬ (portsOf mask).all (fun k => (s.myCore.feed k).cmds.isEmpty) = true := by
    rw [List.all_eq_true]
    obtain ⟨k, hk, hm, hne⟩ := hc
    exact fun h => hne (List.isEmpty_iff.mp (h k (mem_portsOf.mpr ⟨hk, hm⟩)))
  rw [exec_snap hg, find_unbound_none hb]
  dsimp only
  rw [if_neg hall]
  rfl

theorem noted_results (p : List (Nat × Nat)) :
    (noted s p).myRect.body.snaps = s.myRect.body.snaps ++ [(s.cur.core, p)] ∧ (noted s p).me = (retire s id).me := by
  have hn : s.begin.myRect.body.snaps = s.myRect.body.snaps := State.body_modTask_snaps s _ _ _
  refine ⟨?_, ?_⟩
  · refine (State.body_modTask_snaps _ _ _ _).trans ?_
    refine (congrArg Body.snaps (State.body_modBody_same _ _ _)).trans ?_
    exact congrArg (· ++ [(s.cur.core, p)]) hn
  · rw [me_retire]
    refine (State.me_modTask _ Task.loopEnd).trans (congrArg Task.loopEnd ?_)
    rw [State.me, State.task_modBody_of_cores _ _ (f := fun b => { b with snaps := b.snaps ++ [(s.cur.core, p)] }) (fun _ => rfl)]
    exact State.me_begin s

theorem exec_snap_unbound (hg : s.me.guard g = true) {k : Nat} (hk : k < 16) (hm : mask.getLsbD k = true)
    (hn : (s.myCore.feed k).bind = none) (hlow : ∀ j < k, mask.getLsbD j = true → (s.myCore.feed j).bind.isSome = true) :
    exec (.snap g mask) s = .next (traps s 0x10 (BitVec.ofNat 64 k)) := by
  have e : (portsOf mask).find? (fun k => (s.myCore.feed k).bind.isNone) = some k := by
    rw [portsOf, List.find?_filter]
    refine List.find?_range_eq_some.mpr ⟨by simp [hm, hn], List.mem_range.mpr hk, fun j hj => ?_⟩
    by_cases hj' : mask.getLsbD j = true
    · simpa [hj', Option.isSome_iff_ne_none] using hlow j hj hj'
    · simp [hj']
  rw [exec_snap hg, e, finish_begin_trap]

theorem exec_cutreq (hg : s.me.guard g = true) : exec (.cutreq g) s
    = .next (s.asked (fun x => x.wantCut s.myRect.taskCut) (fun t => t.loopEnd.waitFor (.cut s.myRect.taskCut))) := by
  change execCutreq g s = _
  rw [execCutreq, issue_runs (needs := []) hg (by simp)]
  dsimp only
  rw [State.taskCut_begin, State.finish_goWait]
  rfl

theorem exec_halt (hg : s.me.guard g = true) (hh : s.myRect.halting = none) : exec (.halt g) s
    = .next (s.asked (fun x => { x.wantCut s.myRect.taskCut with halting := some (s.myRect.taskCut, s.cur.core, s.cur.slot) })
        (fun t => t.loopEnd.waitFor (.cut s.myRect.taskCut))) := by
  change execHalt g s = _
  rw [execHalt, issue_runs (needs := []) hg (by simp)]
  dsimp only
  rw [State.taskCut_begin, State.myRect_begin_halting, hh, if_neg (by simp), State.finish_goWait]
  rfl

theorem exec_halt_again (hg : s.me.guard g = true) (hh : s.myRect.halting ≠ none) : exec (.halt g) s = .next (retire s id) := by
  change execHalt g s = _
  rw [execHalt, issue_runs (needs := []) hg (by simp)]
  dsimp only
  rw [State.myRect_begin_halting, if_pos (Option.isSome_iff_ne_none.mpr hh), finish_begin_go]

end

/-- Settles O34: the calls, cuts and reads, each by the branch of its instruction. -/
theorem systemCalls : Obligations.SystemCalls := by
  intro s g d a code n mask l bp x feed cutWait
  refine ⟨fun h hk => ⟨fun hp hw => ?_, exec_svc_misaligned h hk⟩, exec_svc_user, exec_cntr,
    fun h => ⟨fun hv => ?_, fun hv => ⟨_, exec_capr h, ?_⟩, ⟨_, exec_capr h⟩⟩,
    fun hg => ⟨fun hb => ⟨_, exec_snap_now hg hb, ?_, ?_, ?_⟩, fun hb hc => ⟨_, _, exec_snap_later hg hb hc, (noted_results _).1, (noted_results _).2, ?_⟩,
      fun k hk hm hn hlow => exec_snap_unbound hg hk hm hn hlow, ⟨_, exec_cutreq hg, ?_, ?_, ?_⟩,
      fun hh => ⟨_, exec_halt hg hh, ⟨?_, ?_, ?_⟩, ?_⟩, exec_halt_again hg⟩⟩
  · obtain ⟨tl, e⟩ := exec_svc (code := code) h hk hp hw
    refine ⟨_, _, e, rfl, rfl, rfl, rfl, rfl, rfl, rfl, ?_, ?_, requested_afterSvc tl _, sameMemory_afterSvc tl _⟩
    · rw [callOf, decide_eq_true_eq, Fin.ext_iff]
      rfl
    · rw [me_afterSvc, Task.presence_loopEnd, Task.presence_markEmpty, if_pos ⟨rfl, by decide⟩]
  · rw [exec_capr h, State.capWord, if_pos hv]
  · rw [hv]
    exact capWord_zero s.begin
  · rw [State.requested_asked]
    exact Rect.requested_wantCut (Nat.lt_succ_self _)
  · rw [me_retire]
    exact State.me_asked s Task.loopEnd (fun x => Rect.body_wantCut x _)
  · exact sameMemory_asked s _ (fun x => Rect.body_wantCut x _)
  · intro k
    rw [List.mem_map, ← mem_portsOf]
    constructor
    · rintro ⟨j, hj, e⟩
      rw [← (Prod.mk.inj e).1]
      exact hj
    · exact fun hk => ⟨k, hk, rfl⟩
  · exact State.me_asked s _ (fun x => Rect.body_wantCut x _)
  · intro hlt
    rw [State.requested_asked]
    exact Rect.requested_wantCut (by rw [State.myRect_begin_started]; exact hlt)
  · exact sameMemory_asked s _ (fun x => Rect.body_wantCut x _)
  · exact State.me_asked s _ (fun x => Rect.body_wantCut x _)
  · intro hlt
    rw [State.requested_asked]
    exact Rect.requested_wantCut (x := s.begin.myRect) (by rw [State.myRect_begin_started]; exact hlt)
  · exact sameMemory_asked s _ (fun x => Rect.body_wantCut x _)
  · rw [State.halting_asked]

end Sys2Proof.Cert
end

section
/-! SUPPORT. The bytes of a task record and a slot loaded from one (Table 22.4, R505, R517). -/

namespace Sys2Proof.Machine

/-! ## Bytes at an offset of a list -/

theorem getD_append_at {α : Type} (xs ys : List α) (j : Nat) (d : α) : (xs ++ ys).getD (xs.length + j) d = ys.getD j d := by
  rw [List.getD_append_right _ _ _ _ (Nat.le_add_right _ _), Nat.add_sub_cancel_left]

theorem getD_take_of_lt {α : Type} (xs : List α) {n k : Nat} (h : k < n) (d : α) : (xs.take n).getD k d = xs.getD k d := by
  rw [List.getD_eq_getElem?_getD, List.getD_eq_getElem?_getD, List.getElem?_take, if_pos h]

theorem length_flatMap_range {α : Type} (f : Nat → List α) {n : Nat} (hf : ∀ k, (f k).length = n) (m : Nat) :
    ((List.range m).flatMap f).length = n * m := by
  induction m with
  | zero => rfl
  | succ m ih => rw [List.range_succ, List.flatMap_append, List.length_append, ih, List.flatMap_singleton, hf, Nat.mul_succ]

/-- Pieces of one length, joined: byte `j` of piece `r`. -/
theorem getD_flatMap_range {α : Type} (f : Nat → List α) {n : Nat} (hf : ∀ k, (f k).length = n) {m r j : Nat} (hr : r < m) (hj : j < n)
    (rest : List α) (d : α) : ((List.range m).flatMap f ++ rest).getD (n * r + j) d = (f r).getD j d := by
  induction m generalizing rest with
  | zero => omega
  | succ m ih =>
    rw [List.range_succ, List.flatMap_append, List.flatMap_singleton, List.append_assoc]
    by_cases h : r < m
    · exact ih h _
    · have e : r = m := by omega
      rw [e, ← length_flatMap_range f hf m, getD_append_at, List.getD_append _ _ _ _ (by rw [hf]; exact hj)]

/-! ## The record of a slot -/

/-- The flags byte of a record. -/
def flagsByte (t : Task) : Nat := 1 + (if t.handler then 2 else 0) + (if t.held then 4 else 0) + (if t.wake then 8 else 0)

theorem flagsByte_odd (t : Task) : (BitVec.ofNat 8 (flagsByte t)).getLsbD 0 = true := by
  rw [flagsByte]
  cases t.handler <;> cases t.held <;> cases t.wake <;> decide

/-- The parts of a record up to the PC: registers, presence, predicates, flags, PC. -/
theorem State.recordOf_parts (s : State) (r : TaskRef) : ∃ pres preds rest : List Byte, pres.length = 16 ∧ preds.length = 1
    ∧ s.recordOf r [] = (List.range 64).flatMap (fun k => splitBytes 8 ((s.task r).savedReg k).toNat)
        ++ (pres ++ (preds ++ (splitBytes 1 (flagsByte (s.task r)) ++ (splitBytes 2 (s.task r).pc.toNat ++ rest)))) := by
  refine ⟨splitBytes 16 (sumNat ((s.task r).pending.map (fun p => 4 ^ p.1))), splitBytes 1 ((s.task r).preds ||| 1).toNat, ?_,
    splitBytes_length 16 _, splitBytes_length 1 _, ?_⟩
  rotate_left
  rw [State.recordOf]
  simp only [List.append_assoc]
  rfl

section
variable (s : State) (r : TaskRef)

theorem State.recordOf_reg {k j : Nat} (hk : k < 64) (hj : j < 8) :
    (s.recordOf r []).getD (8 * k + j) 0 = ((s.task r).savedReg k).extractLsb' (8 * j) 8 := by
  obtain ⟨pres, preds, rest, -, -, e⟩ := s.recordOf_parts r
  rw [e, getD_flatMap_range _ (fun k => splitBytes_length 8 _) hk hj, splitBytes_getD_word hj]

theorem State.recordOf_flags : ((s.recordOf r []).getD 529 0).getLsbD 0 = true := by
  obtain ⟨pres, preds, rest, h16, h1, e⟩ := s.recordOf_parts r
  have hl := length_flatMap_range (fun k => splitBytes 8 ((s.task r).savedReg k).toNat) (fun k => splitBytes_length 8 _) 64
  rw [e, show 529 = ((List.range 64).flatMap (fun k => splitBytes 8 ((s.task r).savedReg k).toNat)).length
      + (pres.length + (preds.length + 0)) by omega, getD_append_at, getD_append_at, getD_append_at, List.getD_append _ _ _ _ (by simp)]
  exact flagsByte_odd (s.task r)

theorem State.recordOf_pc {j : Nat} (hj : j < 2) :
    (s.recordOf r []).getD (530 + j) 0 = ((s.task r).pc.setWidth 16).extractLsb' (8 * j) 8 := by
  obtain ⟨pres, preds, rest, h16, h1, e⟩ := s.recordOf_parts r
  have hl := length_flatMap_range (fun k => splitBytes 8 ((s.task r).savedReg k).toNat) (fun k => splitBytes_length 8 _) 64
  rw [e, show 530 + j = ((List.range 64).flatMap (fun k => splitBytes 8 ((s.task r).savedReg k).toNat)).length
      + (pres.length + (preds.length + ((splitBytes 1 (flagsByte (s.task r))).length + j))) by rw [splitBytes_length]; omega,
    getD_append_at, getD_append_at, getD_append_at, getD_append_at, List.getD_append _ _ _ _ (by rw [splitBytes_length]; exact hj),
    splitBytes_getD hj]
  have hp : (s.task r).pc.toNat < 2 ^ 16 := lt_of_lt_of_le (s.task r).pc.isLt (by decide)
  apply BitVec.eq_of_toNat_eq
  rw [BitVec.toNat_ofNat, BitVec.extractLsb'_toNat, BitVec.toNat_setWidth, Nat.mod_eq_of_lt hp, Nat.shiftRight_eq_div_pow, Nat.pow_mul]

theorem State.recordOf_length : 532 ≤ (s.recordOf r []).length := by
  obtain ⟨pres, preds, rest, h16, h1, e⟩ := s.recordOf_parts r
  have hl := length_flatMap_range (fun k => splitBytes 8 ((s.task r).savedReg k).toNat) (fun k => splitBytes_length 8 _) 64
  rw [e]
  simp only [List.length_append, hl, h16, h1, splitBytes_length]
  omega

end

theorem Task.savedReg_full {t : Task} (h : t.pres = []) (r : Reg) : t.savedReg r.val = t.reg r := by
  rw [Task.savedReg, Task.reg, h]
  by_cases h0 : r = 0
  · rw [if_pos (show r.val = 0 from congrArg Fin.val h0), if_pos h0]
  · rw [if_neg h0, if_neg (show ¬ r.val = 0 from fun e => h0 (Fin.ext e))]
    rfl

theorem splitBytes_zero_getD (n k : Nat) : (splitBytes n 0).getD k 0 = 0 := by
  by_cases h : k < n
  · rw [splitBytes_getD h, Nat.zero_div]; rfl
  · rw [List.getD_eq_default _ _ (by rw [splitBytes_length]; omega)]

/-! ## A slot loaded from a record (R517) -/

theorem Task.ctlSet_mode (t : Task) (n : Nat) (v : Word) : ((t.ctlSet n v).handler, (t.ctlSet n v).kmode) = (t.handler, t.kmode) := by
  unfold Task.ctlSet
  split <;> rfl

theorem Task.loadRecord_handler (t : Task) (bs : List Byte) :
    (t.loadRecord bs).handler = t.handler ∧ (t.loadRecord bs).kmode = t.kmode := by
  have h := foldl_keeps (fun t : Task => (t.handler, t.kmode)) (f := fun (t : Task) i =>
      match recordCtl.getD i 0 with
      | 0x000 => t.setStatus (BitVec.ofNat 64 (recBytes bs (536 + 8 * i) 8))
      | 0x011 => t
      | n => t.ctlSet n (BitVec.ofNat 64 (recBytes bs (536 + 8 * i) 8))) (fun t i => by
        split
        · rfl
        · rfl
        · exact Task.ctlSet_mode t _ _) (List.range 15) t
  exact ⟨congrArg Prod.fst h, congrArg Prod.snd h⟩

theorem look_map_key {β : Type} (f : Nat → β) (ks : List Nat) (k : Nat) :
    Sparse.look (ks.map (fun k => (k, f k))) k = if k ∈ ks then some (f k) else none := by
  induction ks with
  | nil => rfl
  | cons j ks ih =>
    rw [List.map_cons, Sparse.look, ih]
    by_cases h : k = j
    · simp [h]
    · simp [h]

/-- The registers that a record names. -/
def recordKeys : List Nat := (List.range 63).map (fun i => i + 1)

theorem mem_recordKeys (r : Reg) (h : r ≠ 0) : r.val ∈ recordKeys := by
  have h0 : r.val ≠ 0 := fun e => h (Fin.ext e)
  exact List.mem_map.mpr ⟨r.val - 1, List.mem_range.mpr (by omega), by omega⟩

theorem Task.loadRecord_reg (t : Task) {bs : List Byte} {r : Reg} (h0 : r ≠ 0) (h1 : recPres bs r.val ≠ 1) :
    (t.loadRecord bs).presence r = .absent
      ∧ Sparse.at 0#64 (t.loadRecord bs).saved r.val = BitVec.ofNat 64 (recBytes bs (8 * r.val) 8) := by
  constructor
  · rw [Task.presence, if_neg h0, Sparse.at]
    change (Sparse.look ((recordKeys.filter (fun k => decide (recPres bs k ≠ 1))).map (fun k => (k, Presence.absent))) r.val).getD _ = _
    rw [look_map_key, if_pos (List.mem_filter.mpr ⟨mem_recordKeys r h0, decide_eq_true h1⟩)]
    rfl
  · rw [Sparse.at]
    change (Sparse.look (recordKeys.map (fun k => (k, BitVec.ofNat 64 (recBytes bs (8 * k) 8)))) r.val).getD _ = _
    rw [look_map_key, if_pos (mem_recordKeys r h0)]
    rfl

/-- What the claims of a record leave of its slot, and of the scratchpad: the presence of one register is a part. -/
def Core.slotView (c : Core) (slot : Nat) (r : Reg) :
    List Host.Cell × Bool × BitVec 12 × Bool × Bool × Sparse Word × Presence :=
  (c.scratch, (c.task slot).occupied, (c.task slot).pc, (c.task slot).handler, (c.task slot).kmode, (c.task slot).saved,
    (c.task slot).presence r)

theorem Core.slotView_claim (c : Core) (slot reg kind port : Nat) {r : Reg} (hr : r ≠ Fin.ofNat 64 reg) :
    (c.claim slot reg kind port).slotView slot r = c.slotView slot r := by
  have hv : ∀ (c' : Core) (p : Producer), c'.scratch = c.scratch → c'.tasks = c.tasks →
      (c'.modTask slot (fun t => t.markEmpty (Fin.ofNat 64 reg) p)).slotView slot r = c.slotView slot r := by
    intro c' p hs ht
    have e : c'.task slot = c.task slot := by rw [Core.task, ht, Core.task]
    rw [Core.slotView, Core.task_modTask, if_pos rfl, e, Task.presence_markEmpty, if_neg (fun h => hr h.1)]
    rw [Core.slotView, show (c'.modTask slot _).scratch = c.scratch from hs]
    simp only [Task.markEmpty]
    split <;> rfl
  rw [Core.claim]
  split
  · exact hv _ _ rfl rfl
  · exact hv _ _ rfl rfl

theorem Core.slotView_rearm (c : Core) (slot : Nat) {bs : List Byte} {r : Reg} (hr : r = 0 ∨ recPres bs r.val ≠ 1) :
    (c.rearm slot bs).slotView slot r = c.slotView slot r := by
  rw [Core.rearm]
  refine List.foldlRecOn (motive := fun c' : Core => c'.slotView slot r = c.slotView slot r) _ _ rfl fun c' hc' k hk => ?_
  have hk' : (Fin.ofNat 64 k).val = k := Nat.mod_eq_of_lt (List.mem_range.mp hk)
  split
  · next h =>
    have hne : r ≠ Fin.ofNat 64 k := by
      rintro rfl
      rcases hr with e | e
      · exact h.1 (hk'.symm.trans (congrArg Fin.val e))
      · exact e (by rw [hk']; exact h.2)
    split
    · exact (Core.slotView_claim c' slot k _ _ hne).trans hc'
    · exact hc'
  · exact hc'

/-- What stands in a slot before its record is loaded: a held slot keeps the order of its task's earlier writes. -/
def Task.unloaded (old : Task) : Task :=
  if old.held then { Task.free with held := true, relScope := old.relScope, relUpto := old.relUpto, relCut := old.relCut, behind := old.behind }
  else Task.free

theorem Task.unloaded_mode (old : Task) : old.unloaded.handler = false ∧ old.unloaded.kmode = false := by
  rw [Task.unloaded]
  split <;> exact ⟨rfl, rfl⟩

theorem Core.loadSlot_eq (c : Core) (slot : Nat) (bs : List Byte) :
    c.loadSlot slot bs = (c.setTask slot ((c.task slot).unloaded.loadRecord bs)).rearm slot bs := rfl

/-- What loading a slot from a record leaves, and what it gives the slot. -/
theorem Core.slotView_loadSlot (c : Core) (slot : Nat) {bs : List Byte} {r : Reg} (hr : r = 0 ∨ recPres bs r.val ≠ 1) :
    (c.loadSlot slot bs).slotView slot r = (c.scratch, true, BitVec.ofNat 12 (recBytes bs 530 2), false, false,
      ((c.task slot).unloaded.loadRecord bs).saved, ((c.task slot).unloaded.loadRecord bs).presence r) := by
  obtain ⟨hh, hk⟩ := Task.loadRecord_handler (c.task slot).unloaded bs
  obtain ⟨hh', hk'⟩ := Task.unloaded_mode (c.task slot)
  rw [Core.loadSlot_eq, Core.slotView_rearm _ _ hr, Core.slotView, Core.task_setTask_same, hh, hk, hh', hk']
  rfl

end Sys2Proof.Machine
end

section
/-! PROOF. Task records (R515 to R517). -/

namespace Sys2Proof.Cert

open Sys2Proof.Machine
open Host (Outcome)

section
variable {s : State} {g : Guard} {a : Src} {slot : Fin 8} {ea : Word} {write bp : Bool} {l : Loc} {c o : Nat}

/-- R515: a record within one page is one access. -/
theorem recordAccess_at (h : RecordAt s ea write l bp) : ∃ tl, ∀ k : State → List (Loc × Nat × Policy) → Flow,
    recordAccess s.begin ea write k = k (s.begin.withTlb1 tl) [(l, 1024, if bp then .bypass else .keep)] := by
  obtain ⟨hu, ha, hr, hp, hl⟩ := h
  obtain ⟨tl, e⟩ := taskAccess_at hu ha hr hl .keep
  refine ⟨tl, fun k => ?_⟩
  have hn : min 1024 (4096 - ea.toNat % 4096) = 1024 := by omega
  unfold recordAccess
  dsimp only
  rw [hn, e, if_pos rfl]

theorem task_begin_slot {k : Nat} (hk : k ≠ s.cur.slot) : s.begin.task { s.cur with slot := k } = s.myCore.task k :=
  State.task_begin_ne s (fun e => hk (congrArg TaskRef.slot e))

theorem kernel_issue {needs : List Need} (h : s.me.guard g = true) (hk : s.me.kmode = true) (hn : ∀ n ∈ needs, n.waits s.me = false)
    (body : State → Flow) : issueP g (fun t => if t.kmode then none else some 0) needs body s = .next (s.begin.finish (body s.begin)) :=
  issueP_runs h (kernel_only hk) hn body

/-! ## XSAVE (R516) -/

/-- The state after XSAVE has written a record at the scratchpad. -/
def afterSave (s : State) (tl : List TlbEntry) (c o : Nat) (bs : List Byte) : State :=
  ((s.begin.withTlb1 tl).modCore ⟨s.cur.rect, c⟩ (fun k => { k with scratch := setCells k.scratch o bs })).modTask s.cur
    (fun t => t.loopEnd.waitFor (.accesses s.nextId true))

theorem pending_all {t : Task} (h : t.pending = []) : t.pending.all (fun p => p.2.claim.isSome) = true := by rw [h]; rfl

theorem exec_xsave (h : Executes s g [a.r] []) (hk : s.me.kmode = true) (hne : slot.val ≠ s.cur.slot)
    (hp : (s.myCore.task slot.val).pending = []) (hacc : s.accesses = []) (hr : RecordAt s (val s a) true (.window c o) bp)
    (hroom : s.myRect.undo.length + 34 ≤ 1024 * s.myRect.area) : ∃ tl, exec (.xsave g a slot) s
      = .next (afterSave s tl c o (((s.begin.withTlb1 tl).taskRecord { s.cur with slot := slot.val }).take 1024)) := by
  obtain ⟨tl, e⟩ := recordAccess_at hr
  refine ⟨tl, ?_⟩
  change execXsave g a slot s = _
  rw [execXsave, kernel_issue h.1 hk (src_ready h), begin_reg]
  dsimp only
  rw [State.cur_begin, if_neg hne, show s.me.reg a.r = val s a from rfl, e]
  have hw : (s.begin.withTlb1 tl).waitOver (s.begin.withTlb1 tl).cur (.saving slot.val) = true := by
    rw [State.waitOver]
    exact pending_all (by rw [← hp]; exact congrArg Task.pending (task_begin_slot hne))
  have ho : (s.begin.withTlb1 tl).ownPending (s.begin.withTlb1 tl).cur (s.begin.withTlb1 tl).nextId false = false := by
    rw [State.ownPending, show (s.begin.withTlb1 tl).accesses = [] from hacc]
    rfl
  have hroom' : ¬ 1024 * s.begin.myRect.area < s.begin.myRect.undo.length + 34 := by
    rw [State.myRect_begin_undo, Rect.area, State.myRect_begin_w, State.myRect_begin_h]
    exact not_lt.mpr hroom
  rw [hw, ho, if_neg (by simp), if_neg Bool.false_ne_true, if_neg hroom', if_neg (by simp [State.tagPass]), State.finish_goWait]
  rfl

theorem afterSave_results (tl : List TlbEntry) (bs : List Byte) (hwf : Memory.wf (s.core ⟨s.cur.rect, c⟩).scratch = true) :
    (afterSave s tl c o bs).me = s.me.unwait.loopEnd.waitFor (.accesses s.nextId true)
      ∧ ∀ k, byteAt ((afterSave s tl c o bs).core ⟨s.cur.rect, c⟩).scratch k
          = if o ≤ k ∧ k < o + bs.length then bs.getD (k - o) 0 else byteAt (s.core ⟨s.cur.rect, c⟩).scratch k := by
  refine ⟨?_, fun k => ?_⟩
  · refine (State.me_modTask _ (fun t => t.loopEnd.waitFor (.accesses s.nextId true))).trans ?_
    rw [State.me, State.task_modCore_of_tasks _ _ (f := fun k => { k with scratch := setCells k.scratch o bs }) (fun _ => rfl)]
    exact congrArg (fun t => (Task.loopEnd t).waitFor (.accesses s.nextId true)) (State.me_begin s)
  · have e : ((afterSave s tl c o bs).core ⟨s.cur.rect, c⟩).scratch = setCells (s.core ⟨s.cur.rect, c⟩).scratch o bs := by
      refine (State.scratch_modTask _ _ _ _).trans ?_
      refine (congrArg Core.scratch (State.core_modCore_same _ _ _)).trans ?_
      exact congrArg (fun m => setCells m o bs) (State.scratch_modTask s _ _ _)
    rw [e]
    exact Memory.byte_setCells hwf o k bs

/-- Byte `k` of a record that is written stands at its place. -/
theorem byte_afterSave (tl : List TlbEntry) (bs : List Byte) (hwf : Memory.wf (s.core ⟨s.cur.rect, c⟩).scratch = true) {k : Nat}
    (hk : k < 1024) (hl : k < bs.length) :
    byteAt ((afterSave s tl c o (bs.take 1024)).core ⟨s.cur.rect, c⟩).scratch (o + k) = bs.getD k 0 := by
  have hl' : k < (bs.take 1024).length := by rw [List.length_take]; omega
  rw [(afterSave_results tl (bs.take 1024) hwf).2, if_pos ⟨Nat.le_add_right _ _, by omega⟩, Nat.add_sub_cancel_left, getD_take_of_lt bs hk]

theorem byte_afterSave_outside (tl : List TlbEntry) (bs : List Byte) (hwf : Memory.wf (s.core ⟨s.cur.rect, c⟩).scratch = true) {k : Nat}
    (hk : k < o ∨ o + 1024 ≤ k) : byteAt ((afterSave s tl c o (bs.take 1024)).core ⟨s.cur.rect, c⟩).scratch k
      = byteAt (s.core ⟨s.cur.rect, c⟩).scratch k := by
  have hl : (bs.take 1024).length ≤ 1024 := List.length_take_le _ _
  rw [(afterSave_results tl (bs.take 1024) hwf).2, if_neg (by omega)]

/-! ## XLOAD (R517) -/

/-- The state after XLOAD has changed its slot. -/
def afterLoad (s : State) (tl : List TlbEntry) (f : Core → Core) : State :=
  ((s.begin.withTlb1 tl).modCore s.cur.coreRef f).modTask s.cur Task.loopEnd

theorem afterLoad_slot (tl : List TlbEntry) (f : Core → Core) {k : Nat} (hk : k ≠ s.cur.slot) :
    (afterLoad s tl f).myCore.task k = (f s.begin.myCore).task k := by
  have hne : ({ s.cur with slot := k } : TaskRef) ≠ s.cur := fun e => hk (congrArg TaskRef.slot e)
  refine (State.task_modTask _ s.cur { s.cur with slot := k } Task.loopEnd).trans ((if_neg hne).trans ?_)
  exact congrArg (fun x => Core.task x k) (State.core_modCore_same _ s.cur.coreRef f)

theorem sameMemory_afterLoad (tl : List TlbEntry) {f : Core → Core} (hf : (f s.begin.myCore).scratch = s.begin.myCore.scratch) :
    SameMemory s (afterLoad s tl f) :=
  (sameMemory_begin s).trans ((sameMemory_withTlb1 s.begin tl).trans ((sameMemory_modCore _ s.cur.coreRef hf).trans (sameMemory_modTask _ _ _)))

theorem exec_xload (h : Executes s g [a.r] []) (hk : s.me.kmode = true) (hne : slot.val ≠ s.cur.slot)
    (hp : (s.myCore.task slot.val).pending = []) (hs : Settled s) (hr : RecordAt s (val s a) false (.window c o) bp)
    (hheld : (s.myCore.task slot.val).occupied = true → (s.myCore.task slot.val).held = true)
    (hbad : badRecord s.myCore (cellBytes (s.core ⟨s.cur.rect, c⟩).scratch o 1024) = false) : ∃ tl, exec (.xload g a slot) s
      = .next (afterLoad s tl (if recBytes (cellBytes (s.core ⟨s.cur.rect, c⟩).scratch o 1024) 529 1 % 2 = 0
          then (fun k => if (s.myCore.task slot.val).occupied then k.freeSlot slot.val else k)
          else (fun k => k.loadSlot slot.val (cellBytes (s.core ⟨s.cur.rect, c⟩).scratch o 1024)))) := by
  obtain ⟨tl, e⟩ := recordAccess_at hr
  refine ⟨tl, ?_⟩
  have ht : (s.begin.withTlb1 tl).myCore.task slot.val = s.myCore.task slot.val := task_begin_slot hne
  have hbad' : badRecord (s.begin.withTlb1 tl).myCore (cellBytes (s.core ⟨s.cur.rect, c⟩).scratch o 1024) = false := by
    refine Eq.trans ?_ hbad
    have hsk : ∀ n, (s.begin.withTlb1 tl).myCore.sink n = s.myCore.sink n := State.myCore_begin_sink s
    simp only [badRecord, hsk]
  change execXload g a slot s = _
  rw [execXload, kernel_issue h.1 hk (src_ready h), begin_reg]
  dsimp only
  rw [State.cur_begin, if_neg hne, show s.me.reg a.r = val s a from rfl, e]
  simp only [readPieces]
  rw [ht, hp, if_neg (by simp), if_neg (by simpa using hheld), directRead_settled hs, List.nil_append, hbad', if_neg Bool.false_ne_true]
  split
  · rfl
  · rfl

end

theorem own_slot_traps {s : State} {g : Guard} {a : Src} {slot : Fin 8} (h : Executes s g [a.r] []) (hk : s.me.kmode = true)
    (he : slot.val = s.cur.slot) : exec (.xsave g a slot) s = .next (traps s 0x01 (BitVec.ofNat 64 slot.val))
      ∧ exec (.xload g a slot) s = .next (traps s 0x01 (BitVec.ofNat 64 slot.val)) := by
  constructor
  · change execXsave g a slot s = _
    rw [execXsave, kernel_issue h.1 hk (src_ready h)]
    dsimp only
    rw [State.cur_begin, if_pos he, finish_begin_trap]
  · change execXload g a slot s = _
    rw [execXload, kernel_issue h.1 hk (src_ready h)]
    dsimp only
    rw [State.cur_begin, if_pos he, finish_begin_trap]

theorem user_records {s : State} {g : Guard} {a : Src} {slot : Fin 8} (hg : s.me.guard g = true) (hk : s.me.kmode = false) :
    exec (.xsave g a slot) s = .next (traps s 0x02 0) ∧ exec (.xload g a slot) s = .next (traps s 0x02 0) := by
  constructor
  · change execXsave g a slot s = _
    rw [execXsave, user_traps hg hk]
  · change execXload g a slot s = _
    rw [execXload, user_traps hg hk]

/-- R517: a record that is not refused names an index of the instruction store. -/
theorem badRecord_pc {c : Core} {bs : List Byte} (h : badRecord c bs = false) : recBytes bs 530 2 < 4096 := by
  by_contra hge
  have h' : decide (4096 ≤ recBytes bs 530 2) = true := decide_eq_true (not_lt.mp hge)
  simp [badRecord, h'] at h

/-- Settles O35: XSAVE is a write of the record's bytes, XLOAD a read of them followed by a change of its slot alone. -/
theorem taskRecords : Obligations.TaskRecords := by
  intro s g a slot c o bp x y m bs field
  refine ⟨user_records, own_slot_traps, fun h hk hne hp hacc hrem hbeh => ⟨fun hr hroom hwf => ?_, fun hr hheld hbad => ?_⟩⟩
  · obtain ⟨tl, e⟩ := exec_xsave h hk hne hp hacc hr hroom
    have ht : (s.begin.withTlb1 tl).task { s.cur with slot := slot.val } = y := task_begin_slot hne
    refine ⟨_, e, (afterSave_results tl _ hwf).1, rfl, rfl, fun k hk => byte_afterSave_outside tl _ hwf hk, fun hocc k hk => ?_,
      fun hocc hpres => ?_⟩
    · have er : (s.begin.withTlb1 tl).taskRecord { s.cur with slot := slot.val } = splitBytes 1024 0 := by
        rw [State.taskRecord, ht, if_neg (by rw [hocc]; exact Bool.false_ne_true)]
      rw [er]
      exact (byte_afterSave tl _ hwf hk (by rw [splitBytes_length]; exact hk)).trans (splitBytes_zero_getD _ _)
    · have er : (s.begin.withTlb1 tl).taskRecord { s.cur with slot := slot.val }
          = (s.begin.withTlb1 tl).recordOf { s.cur with slot := slot.val } [] := by
        rw [State.taskRecord, ht, if_pos hocc]
      have hlen := (s.begin.withTlb1 tl).recordOf_length { s.cur with slot := slot.val }
      rw [er]
      refine ⟨fun r j hj => ?_, fun j hj => ?_, ?_⟩
      · have hr64 := r.isLt
        refine (byte_afterSave tl _ hwf (by omega) (by omega)).trans ?_
        rw [State.recordOf_reg _ _ hr64 hj, ht, Task.savedReg_full hpres]
      · refine (byte_afterSave tl _ hwf (by omega) (by omega)).trans ?_
        rw [State.recordOf_pc _ _ hj, ht]
      · refine (congrArg (fun v => BitVec.getLsbD v 0) (byte_afterSave tl _ hwf (by omega) (by omega))).trans ?_
        exact State.recordOf_flags _ _
  · obtain ⟨tl, e⟩ := exec_xload h hk hne hp ⟨hacc, hrem, hbeh⟩ hr hheld hbad
    refine ⟨fun h0 => ?_, fun h1 => ?_⟩
    · have h0' : recBytes (cellBytes (s.core ⟨s.cur.rect, c⟩).scratch o 1024) 529 1 % 2 = 0 := h0
      rw [if_pos h0'] at e
      refine ⟨_, e, ?_, sameMemory_afterLoad tl ?_⟩
      · rw [afterLoad_slot tl _ hne]
        split
        · rw [Core.task_freeSlot, if_pos rfl]
          rfl
        · next hocc => rw [occupied_begin]; simpa using hocc
      · split
        · exact Core.freeSlot_scratch _ _
        · rfl
    · have h1' : ¬ recBytes (cellBytes (s.core ⟨s.cur.rect, c⟩).scratch o 1024) 529 1 % 2 = 0 := by
        change field 529 1 % 2 = 1 at h1
        change ¬ field 529 1 % 2 = 0
        omega
      rw [if_neg h1'] at e
      have hv := Core.slotView_loadSlot s.begin.myCore slot.val (bs := bs) (r := 0) (.inl rfl)
      have hz : (afterLoad s tl (fun k => k.loadSlot slot.val bs)).myCore.task slot.val = (s.begin.myCore.loadSlot slot.val bs).task slot.val :=
        afterLoad_slot tl _ hne
      refine ⟨_, e, sameMemory_afterLoad tl (congrArg Prod.fst hv), ?_⟩
      dsimp only
      rw [hz]
      refine ⟨congrArg (·.2.1) hv, ?_, congrArg (·.2.2.2.1) hv, congrArg (·.2.2.2.2.1) hv, fun r h0 hr1 => ⟨?_, ?_⟩⟩
      · refine (congrArg (fun v => BitVec.toNat v.2.2.1) hv).trans ?_
        exact Nat.mod_eq_of_lt (badRecord_pc hbad)
      · refine (congrArg (·.2.2.2.2.2.2) (Core.slotView_loadSlot s.begin.myCore slot.val (bs := bs) (.inr hr1))).trans ?_
        exact (Task.loadRecord_reg _ h0 hr1).1
      · refine (congrArg (fun v => Sparse.at 0#64 v.2.2.2.2.2.1 r.val) hv).trans ?_
        exact (Task.loadRecord_reg (s.begin.myCore.task slot.val).unloaded h0 hr1).2

end Sys2Proof.Cert
end

section
/-! PROOF. An access performed at the scratchpad, and the values that registers receive (R256, R278, R282, R294 to R298, R44, R48, R470,
R508, R322). -/

namespace Sys2Proof.Machine

/-! ## A value that stands ready for its register (R44) -/

section
variable (s : State) (a : Access) (v : Word) (fl : Option (BitVec 5))

/-- A returned value changes its task and the records of the rectangle that already hold its register as empty. -/
theorem State.returnValue_cases : (∃ f : Task → Task, s.returnValue a v fl = s.modTask a.task f) ∨ s.returnValue a v fl = s
    ∨ ∃ (f : Task → Task) (k : Rect → Rect), (∀ x, (k x).body = x.body) ∧ s.returnValue a v fl = (s.modTask a.task f).modRect a.task.rect k := by
  unfold State.returnValue
  split
  · split
    · exact .inl ⟨_, rfl⟩
    · exact .inr (.inl rfl)
  · refine .inr (.inr ⟨_, _, ?_, rfl⟩)
    exact fun _ => rfl

theorem State.scratch_returnValue (c : CoreRef) : ((s.returnValue a v fl).core c).scratch = (s.core c).scratch := by
  obtain ⟨f, e⟩ | e | ⟨f, k, hk, e⟩ := s.returnValue_cases a v fl
  · rw [e, State.scratch_modTask]
  · rw [e]
  · rw [e, State.core_modRect_of_body _ _ hk, State.scratch_modTask]

theorem State.memories_returnValue : (s.returnValue a v fl).accesses = s.accesses ∧ (s.returnValue a v fl).mem = s.mem
    ∧ (s.returnValue a v fl).peer = s.peer := by
  obtain ⟨f, e⟩ | e | ⟨f, k, hk, e⟩ := s.returnValue_cases a v fl <;> rw [e] <;> exact ⟨rfl, rfl, rfl⟩

theorem State.ready_returnValue {r : Nat} (hr : a.reg = some r) (he : Sparse.at .full (s.task a.task).pres r = .empty (.access a.id)) :
    Sparse.at .full ((s.returnValue a v fl).task a.task).pres r = .empty (.value v fl) := by
  unfold State.returnValue
  rw [hr]
  dsimp only
  rw [State.task_modRect_of_body, State.task_modTask_same, if_pos he]
  · exact Sparse.at_put_same _ _ _ _
  · exact fun _ => rfl

end

theorem extendTo_signed (n v : Nat) : extendTo n true v = BitVec.ofInt 64 (Cert.signedBytes n v) := by
  rw [extendTo, if_pos rfl, sgn, Cert.signedBytes]
  norm_cast

theorem extendTo_eq (n : Nat) (sx : Bool) (v : Nat) :
    extendTo n sx v = if sx then BitVec.ofInt 64 (Cert.signedBytes n v) else BitVec.ofNat 64 v := by
  cases sx
  · rfl
  · exact extendTo_signed n v

end Sys2Proof.Machine

namespace Sys2Proof.Cert

open Sys2Proof.Machine
open Host (Outcome)

/-! ## An access performed at the scratchpad -/

section
variable {s : State} {a : Access} {c o : Nat}

/-- The bytes stored at a window location of the access's rectangle. -/
def storedAt (s : State) (a : Access) (c o : Nat) (bs : List Byte) : State :=
  s.modCore ⟨a.task.rect, c⟩ (fun k => { k with scratch := setCells k.scratch o bs })

/-- What a performed access leaves: the bytes of its core, and the value that stands ready. -/
structure Performed (s t : State) (a : Access) (c : Nat) (m : List Host.Cell) (v : Option Word) : Prop where
  accesses : t.accesses = []
  mem : t.mem = s.mem
  peer : t.peer = s.peer
  others : ∀ r k, (r, k) ≠ (a.task.rect, c) → (t.core ⟨r, k⟩).scratch = (s.core ⟨r, k⟩).scratch
  bytes : (t.core ⟨a.task.rect, c⟩).scratch = m
  ready : ∀ w, v = some w → ∀ r, a.reg = some r → Sparse.at .full (s.task a.task).pres r = .empty (.access a.id) →
    ∃ f, Sparse.at .full (t.task a.task).pres r = .empty (.value w f)

theorem Alone.dropAccess (h : Alone s a) : (s.dropAccess a.id).accesses = [] := by
  rw [State.dropAccess, h.only]
  simp

theorem core_storedAt (bs : List Byte) (r k : Nat) : ((storedAt s a c o bs).core ⟨r, k⟩).scratch
    = if (r, k) = (a.task.rect, c) then setCells (s.core ⟨a.task.rect, c⟩).scratch o bs else (s.core ⟨r, k⟩).scratch := by
  rw [storedAt, State.core_modCore]
  simp only [CoreRef.mk.injEq, Prod.mk.injEq]
  split <;> rfl

theorem task_storedAt (bs : List Byte) (t : TaskRef) : (storedAt s a c o bs).task t = s.task t :=
  State.task_modCore_of_tasks _ _ (f := fun k => { k with scratch := setCells k.scratch o bs }) (fun _ => rfl) t

/-- A state that has stored, or not, drops the access. -/
theorem performed_dropped (h : Alone s a) {u : State} (hu : u = s ∨ ∃ bs, u = storedAt s a c o bs) :
    Performed s (u.dropAccess a.id) a c (u.core ⟨a.task.rect, c⟩).scratch none := by
  have hd := h.dropAccess
  obtain rfl | ⟨bs, rfl⟩ := hu
  · exact ⟨hd, rfl, rfl, fun _ _ _ => rfl, rfl, fun w hw => by cases hw⟩
  · refine ⟨hd, rfl, rfl, fun r k hne => ?_, rfl, fun w hw => by cases hw⟩
    exact (core_storedAt bs r k).trans (if_neg hne)

theorem performed_returned (h : Alone s a) {u : State} (hu : u = s ∨ ∃ bs, u = storedAt s a c o bs) (v : Word) (fl : Option (BitVec 5)) :
    Performed s ((u.dropAccess a.id).returnValue a v fl) a c (u.core ⟨a.task.rect, c⟩).scratch (some v) := by
  obtain ⟨hacc, hmem, hpeer, hoth, hb, -⟩ := performed_dropped (c := c) (o := o) h hu
  obtain ⟨e1, e2, e3⟩ := (u.dropAccess a.id).memories_returnValue a v fl
  refine ⟨e1.trans hacc, e2.trans hmem, e3.trans hpeer, fun r k hne => ?_, ?_, fun w hw r hr he => ⟨fl, ?_⟩⟩
  · rw [State.scratch_returnValue, hoth r k hne]
  · rw [State.scratch_returnValue, hb]
  · obtain rfl : v = w := Option.some.inj hw
    have ht : (u.dropAccess a.id).task a.task = s.task a.task := by
      obtain rfl | ⟨bs, rfl⟩ := hu
      · rfl
      · exact task_storedAt bs a.task
    exact State.ready_returnValue _ a v fl hr (by rw [ht]; exact he)

/-! ### The effect of each kind -/

theorem perform_start (h : Alone s a) : (if a.upto ≠ 0 then s.releaseWork (s.rect a.task.rect).tag a.scope else s) = s :=
  if_neg (not_not.mpr h.plain.1)

theorem overlay_alone (h : Alone s a) (bs : List Byte) : s.overlay a.task a.id a.loc bs = bs := by
  rw [State.overlay, h.remote, h.only]
  simp

section
variable (h : Alone s a) (hl : a.loc = .window c o)
include h hl

theorem perform_load {n : Nat} {sx : Bool} (hk : a.kind = .load n sx) : s.perform a
    = (s.dropAccess a.id).returnValue a (extendTo n sx (joinBytes (cellBytes (s.core ⟨a.task.rect, c⟩).scratch o n))) none := by
  have hov := overlay_alone h (cellBytes (s.core ⟨a.task.rect, c⟩).scratch o n)
  rw [hl] at hov
  unfold State.perform
  simp only [hk, perform_start h, h.plain.2, hl, State.readLoc, AccKind.bytes, hov, Bool.false_eq_true, if_false]

theorem perform_store {n : Nat} {v : Word} (hk : a.kind = .store n v) : s.perform a
    = (storedAt s a c o (splitBytes n v.toNat)).dropAccess a.id := by
  unfold State.perform
  simp only [hk, perform_start h, hl, State.writeLoc, State.pushLine, AccKind.bytes]
  rfl

theorem perform_amo {op : AmoOp} {n : Nat} {y : Word} (hk : a.kind = .amo op n y) : ∃ fl, s.perform a
    = ((storedAt s a c o (splitBytes n
        (amoNew op n (joinBytes (cellBytes (s.core ⟨a.task.rect, c⟩).scratch o n)) (y.toNat % 2 ^ (8 * n))).1)).dropAccess a.id).returnValue a
          (extendTo n true (joinBytes (cellBytes (s.core ⟨a.task.rect, c⟩).scratch o n))) fl := by
  refine ⟨if op = .fadd then some (amoNew op n (joinBytes (cellBytes (s.core ⟨a.task.rect, c⟩).scratch o n)) (y.toNat % 2 ^ (8 * n))).2
    else none, ?_⟩
  unfold State.perform
  simp only [hk, perform_start h, h.plain.2, hl, State.atomicPlace, State.readLoc, State.writeLoc, State.pushLine, AccKind.bytes,
    Bool.false_eq_true, if_false]
  rfl

theorem perform_cas {n : Nat} {e y : Word} (hk : a.kind = .cas n e y) : s.perform a
    = ((if joinBytes (cellBytes (s.core ⟨a.task.rect, c⟩).scratch o n) = e.toNat % 2 ^ (8 * n)
        then storedAt s a c o (splitBytes n y.toNat) else s).dropAccess a.id).returnValue a
          (extendTo n true (joinBytes (cellBytes (s.core ⟨a.task.rect, c⟩).scratch o n))) none := by
  unfold State.perform
  simp only [hk, perform_start h, h.plain.2, hl, State.atomicPlace, State.readLoc, State.writeLoc, State.pushLine, AccKind.bytes,
    Bool.false_eq_true, if_false]
  rfl

/-- R278, R282: an access that is alone at the scratchpad is performed at once. -/
theorem exec_performed : exec (.accessPerformedAtNode a.id) s = .next (s.perform a) := by
  change execAccessPerformedAtNode a.id s = _
  have hfind : s.accesses.find? (fun b => decide (b.id = a.id)) = some a := by rw [h.only]; simp
  have hord : s.orderBlocked a = false := by rw [State.orderBlocked, h.only, h.behind, h.remote]; simp
  have hcut : decide ((s.rect a.task.rect).complete < a.cut) = false := decide_eq_false (not_lt.mpr h.cut)
  have hack : s.ackBlocked a = false := by rw [State.ackBlocked, h.plain.1]; simp
  have hroom : s.roomFor a = true := by rw [State.roomFor, hl]
  have hrep : s.needsReplay a = false := by rw [State.needsReplay, hl]
  have htag : s.tagPass (s.rect a.task.rect).tag a.loc (!a.kind.isLoad) = true := by simp only [State.tagPass, hl]
  rw [execAccessPerformedAtNode, hfind]
  dsimp only
  rw [hord, hcut, hack, hroom, hrep, htag, if_neg (by simp), if_neg (by simp), hl]
  rfl

end

/-- Bytes stored at the scratchpad, one by one. -/
theorem byteAt_stored {m : List Host.Cell} (hm : Memory.wf m = true) (n v k : Nat) : byteAt (setCells m o (splitBytes n v)) k
    = if o ≤ k ∧ k < o + n then BitVec.ofNat 8 (v / 256 ^ (k - o)) else byteAt m k := by
  refine (Memory.byte_setCells hm o k _).trans ?_
  rw [splitBytes_length]
  split
  · next hk => exact splitBytes_getD (by omega) v
  · rfl

end

theorem accessesPerformed : AccessesPerformed := by
  intro s a c o h hl hwf m old writes ready
  have hst : ∀ bs, ((storedAt s a c o bs).core ⟨a.task.rect, c⟩).scratch = setCells m o bs := fun bs => (core_storedAt bs _ _).trans (if_pos rfl)
  have hstored : ∀ bs, storedAt s a c o bs = s ∨ ∃ bs', storedAt s a c o bs = storedAt s a c o bs' := fun bs => .inr ⟨bs, rfl⟩
  refine ⟨s.perform a, exec_performed h hl, ?_⟩
  cases hk : a.kind with
  | load n sx =>
    rw [perform_load h hl hk]
    obtain ⟨hacc, hmem, hpeer, hoth, hb, hr⟩ := performed_returned (c := c) (o := o) h (.inl rfl)
      (extendTo n sx (joinBytes (cellBytes m o n))) none
    refine ⟨hacc, fun x => by rw [hmem], fun x => by rw [hpeer], hoth, nofun, ?_, nofun, nofun, nofun⟩
    rintro _ _ ⟨⟩
    exact ⟨hb, fun r => hr _ (congrArg some (extendTo_eq n sx _)) r⟩
  | store n v =>
    rw [perform_store h hl hk]
    obtain ⟨hacc, hmem, hpeer, hoth, hb, -⟩ := performed_dropped (c := c) (o := o) h (hstored (splitBytes n v.toNat))
    refine ⟨hacc, fun x => by rw [hmem], fun x => by rw [hpeer], hoth, ?_, nofun, nofun, nofun, nofun⟩
    rintro _ _ ⟨⟩ k
    rw [hb, hst, byteAt_stored hwf]
  | amo op n y =>
    obtain ⟨fl, e⟩ := perform_amo h hl hk
    rw [e]
    obtain ⟨hacc, hmem, hpeer, hoth, hb, hr⟩ := performed_returned (c := c) (o := o) h (hstored _)
      (extendTo n true (joinBytes (cellBytes m o n))) fl
    refine ⟨hacc, fun x => by rw [hmem], fun x => by rw [hpeer], hoth, nofun, nofun, ?_, ?_, nofun⟩
    · rintro _ _ ⟨⟩
      exact ⟨fun k => by rw [hb, hst, byteAt_stored hwf]; rfl, fun r => hr _ (congrArg some (extendTo_signed n _)) r⟩
    · rintro _ _ ⟨⟩
      exact ⟨fun k => by rw [hb, hst, byteAt_stored hwf]; rfl, fun r => hr _ (congrArg some (extendTo_signed n _)) r⟩
  | cas n e y =>
    rw [perform_cas h hl hk]
    obtain ⟨hacc, hmem, hpeer, hoth, hb, hr⟩ := performed_returned (c := c) (o := o) h
      (u := if joinBytes (cellBytes m o n) = e.toNat % 2 ^ (8 * n) then storedAt s a c o (splitBytes n y.toNat) else s)
      (by split
          · exact .inr ⟨_, rfl⟩
          · exact .inl rfl) (extendTo n true (joinBytes (cellBytes m o n))) none
    refine ⟨hacc, fun x => by rw [hmem], fun x => by rw [hpeer], hoth, nofun, nofun, nofun, nofun, ?_⟩
    rintro _ _ _ ⟨⟩
    refine ⟨fun r => hr _ (congrArg some (extendTo_signed n _)) r, fun he k => ?_, fun he => ?_⟩
    · rw [hb, if_pos he, hst, byteAt_stored hwf]
    · rw [hb, if_neg he]

/-! ## Registers (R44, R48, R470, R508, R322) -/

theorem fetchReg_absent {x : Task} {r : Reg} (h0 : r ≠ 0) (ha : Sparse.at .full x.pres r.val = .absent) :
    (x.fetchReg r.val).presence r = .full ∧ (x.fetchReg r.val).reg r = Sparse.at 0#64 x.saved r.val
      ∧ ∀ k, k ≠ r → (x.fetchReg r.val).reg k = x.reg k := by
  rw [Task.fetchReg, if_pos ha]
  refine ⟨?_, ?_, fun k hk => ?_⟩
  · rw [Task.presence, if_neg h0]
    exact Sparse.at_put_same _ _ _ _
  · rw [Task.reg, if_neg h0]
    exact Sparse.at_put_same _ _ _ _
  · have hv : k.val ≠ r.val := fun e => hk (Fin.ext e)
    simp only [Task.reg, Sparse.at_put_ne _ _ _ hv]

theorem Core.task_count (c : Core) (ev n k : Nat) : (c.count ev n).task k = c.task k ∧ (c.count ev n).scratch = c.scratch := by
  have h := foldl_keeps (fun c : Core => (c.tasks, c.scratch)) (f := fun (c : Core) (p : Nat × BitVec 18) =>
    if counting p.2 ev then
      { c with counts := Sparse.put (BitVec.ofNat 48 ((Sparse.at 0#48 c.counts p.1).toNat + n)) c.counts p.1,
               cntsel := Sparse.put (if 2 ^ 48 ≤ (Sparse.at 0#48 c.counts p.1).toNat + n then p.2 ||| (1#18 <<< 17) else p.2) c.cntsel p.1 }
    else c) (fun c p => by split <;> rfl) c.cntsel c
  exact ⟨congrArg (fun q : Sparse Task × List Host.Cell => Sparse.at Task.free q.1 k) h, congrArg Prod.snd h⟩

/-- A core whose one slot changed: the other tasks, and the scratchpad. -/
theorem slot_changed {s : State} {t : TaskRef} {f : Core → Core} {x : Task}
    (hf : ∀ k, (f (s.core t.coreRef)).task k = if k = t.slot then x else (s.core t.coreRef).task k)
    (hs : (f (s.core t.coreRef)).scratch = (s.core t.coreRef).scratch) :
    (s.modCore t.coreRef f).task t = x ∧ (∀ w, w ≠ t → (s.modCore t.coreRef f).task w = s.task w) ∧ SameMemory s (s.modCore t.coreRef f) := by
  refine ⟨?_, fun w hw => ?_, sameMemory_modCore s _ hs⟩
  · rw [State.task, State.core_modCore_same, hf, if_pos rfl]
  · rw [State.task, State.core_modCore]
    split
    · next e =>
      have hslot : w.slot ≠ t.slot := by
        intro e'
        obtain ⟨r, k, j⟩ := w
        obtain ⟨r', k', j'⟩ := t
        obtain ⟨rfl, rfl⟩ := CoreRef.mk.inj e
        exact hw (by rw [show j = j' from e'])
      rw [hf, if_neg hslot, ← e]
      rfl
    · rfl

theorem range_split {k n : Nat} (h : k < n) : List.range n = List.range k ++ k :: (List.range (n - k - 1)).map (fun i => k + 1 + i) := by
  obtain ⟨m, rfl⟩ : ∃ m, n = k + 1 + m := ⟨n - k - 1, by omega⟩
  rw [List.range_add, List.range_succ, List.append_assoc, show k + 1 + m - k - 1 = m by omega]
  rfl

theorem registerDeliveries : RegisterDeliveries := by
  intro s t r v f h0 hslot x
  have hr : Fin.ofNat 64 r.val = r := Fin.ext (Nat.mod_eq_of_lt r.isLt)
  refine ⟨fun hrun he => ?_, fun ha hw => ?_, fun hp hlow => ?_, fun hw hle => ?_⟩
  · change execProducerDeliver t r.val s = _
    rw [execProducerDeliver, hrun, he, hr]
    rfl
  · have hx := fetchReg_absent h0 ha
    have hc := Core.task_count ((s.core t.coreRef).setTask t.slot (x.fetchReg r.val)) 4 1
    obtain ⟨ht, hoth, hmem⟩ := slot_changed (s := s) (t := t) (x := x.fetchReg r.val)
      (f := fun c => (c.setTask t.slot (x.fetchReg r.val)).count 4 1) (fun k => by rw [(hc k).1, Core.task_setTask]) (hc 0).2
    refine ⟨_, if_pos ⟨ha, hw⟩, ?_, ?_, fun k hk => ?_, hoth, hmem⟩
    · rw [ht, hx.1]
    · rw [ht, hx.2.1]
    · rw [ht, hx.2.2 k hk]
  · have ha : Sparse.at .full x.pres r.val = .absent := by rw [hp]; simp [Sparse.at, Sparse.look]
    have hx := fetchReg_absent h0 ha
    have hfind : (List.range 8).findSome? (fun i =>
        (((s.core t.coreRef).task i).pres.find? (fun p => decide (p.2 = .absent))).map (fun p => (i, p.1))) = some (t.slot, r.val) := by
      refine List.findSome?_eq_some_iff.mpr ⟨List.range t.slot, t.slot, _, range_split hslot, ?_, fun k hk => ?_⟩
      · change (x.pres.find? _).map _ = _
        rw [hp]
        rfl
      · rw [hlow k (List.mem_range.mp hk)]
        rfl
    obtain ⟨ht, hoth, hmem⟩ := slot_changed (s := s) (t := t) (x := x.fetchReg r.val)
      (f := fun c => c.setTask t.slot (x.fetchReg r.val)) (fun k => Core.task_setTask _ _ _ _) rfl
    refine ⟨_, ?_, ?_, ?_, hoth, hmem⟩
    · change execBackgroundRegisterFetch t.coreRef s = _
      rw [execBackgroundRegisterFetch, hfind]
      rfl
    · rw [ht, hx.1]
    · rw [ht, hx.2.1]
  · change execSleepTimeReached t s = _
    rw [execSleepTimeReached, hw]
    dsimp only
    rw [if_pos (decide_eq_true hle)]
    rfl

/-- Settles O17: an access alone at the scratchpad is performed on the bytes of its core; a value or a context fills one register. -/
theorem accessesAndDeliveries : Obligations.AccessesAndDeliveries := ⟨accessesPerformed, registerDeliveries⟩

end Sys2Proof.Cert
end

section
/-! PROOF. The start and the completion of a cut (R471 to R475, R53). -/

namespace Sys2Proof.Machine

theorem Sparse.at_mapAll {β : Type} (d : β) (f : Nat → β → β) (m : Sparse β) (k : Nat) :
    Sparse.at d (Sparse.mapAll f m) k = ((m.look k).map (f k)).getD d := by rw [Sparse.at, Sparse.look_mapAll]

/-- A part of the entries that a map of them keeps. -/
theorem Sparse.at_mapAll_keeps {β γ : Type} (p : β → γ) (d : β) {f : Nat → β → β} (h : ∀ k v, p (f k v) = p v) (m : Sparse β) (k : Nat) :
    p (Sparse.at d (Sparse.mapAll f m) k) = p (Sparse.at d m k) := by
  rw [Sparse.at_mapAll, Sparse.at]
  cases m.look k with
  | none => rfl
  | some v => exact h k v

/-- A map of the entries that leaves the default as it is. -/
theorem Sparse.at_mapAll_of_default {β : Type} {d : β} {f : Nat → β → β} (k : Nat) (h : f k d = d) (m : Sparse β) :
    Sparse.at d (Sparse.mapAll f m) k = f k (Sparse.at d m k) := by
  rw [Sparse.at_mapAll, Sparse.at]
  cases m.look k with
  | none => exact h.symm
  | some v => rfl

/-- The slots and the scratchpad of a core. -/
def Core.held (c : Core) : Sparse Task × List Host.Cell := (c.tasks, c.scratch)

theorem Core.task_of_held {c d : Core} (h : c.held = d.held) (k : Nat) : c.task k = d.task k :=
  congrArg (fun p : Sparse Task × List Host.Cell => Sparse.at Task.free p.1 k) h

theorem Core.scratch_of_held {c d : Core} (h : c.held = d.held) : c.scratch = d.scratch := congrArg Prod.snd h

/-- A body whose cores hold what those of another hold. -/
def Body.HeldAs (b b' : Body) : Prop := ∀ k, (b'.core k).held = (b.core k).held

theorem Body.HeldAs.refl (b : Body) : b.HeldAs b := fun _ => rfl
theorem Body.HeldAs.trans {a b c : Body} (h : a.HeldAs b) (h' : b.HeldAs c) : a.HeldAs c := fun k => (h' k).trans (h k)

theorem Body.heldAs_of_cores {b b' : Body} (h : b'.cores = b.cores) : b.HeldAs b' := fun k => by rw [Body.core, h]; rfl

theorem Body.heldAs_mapAll (b : Body) {f : Nat → Core → Core} (h : ∀ k c, (f k c).held = c.held) :
    b.HeldAs { b with cores := Sparse.mapAll f b.cores } := fun k => Sparse.at_mapAll_keeps Core.held _ h b.cores k

/-- A rectangle whose body holds what it held: its tasks and scratchpads are as before. -/
theorem State.setRect_heldAs {s : State} {r : Nat} {x : Rect} (h : (s.rect r).body.HeldAs x.body) :
    (∀ u, (s.setRect r x).task u = s.task u) ∧ ∀ c, ((s.setRect r x).core c).scratch = (s.core c).scratch := by
  have hc : ∀ c, ((s.setRect r x).core c).held = (s.core c).held := by
    intro c
    rw [State.core, State.rect_setRect, State.core]
    split
    · next e => rw [h c.core, e]
    · rfl
  exact ⟨fun u => Core.task_of_held (hc u.coreRef) u.slot, fun c => Core.scratch_of_held (hc c)⟩

/-! ## What a cut leaves of the tasks and scratchpads -/

theorem Body.heldAs_landStill {b : Body} (hn : b.net = []) (still elems : List Nat) : b.HeldAs (b.landStill still elems) := by
  refine Body.heldAs_of_cores ?_
  rw [Body.landStill, hn]
  rfl

theorem Body.heldAs_clearCutBufs (w h : Nat) (marked : List Nat) (b : Body) : b.HeldAs (b.clearCutBufs w h marked) := by
  refine Body.heldAs_mapAll b fun k c => ?_
  split <;> rfl

theorem Body.heldAs_commit (n : Nat) (b : Body) : b.HeldAs (b.commit n) := Body.heldAs_mapAll b (fun _ _ => rfl)

theorem Body.heldAs_cutTaken (b : Body) : b.HeldAs b.cutTaken := Body.heldAs_of_cores rfl

/-- Timelines pass one completion whose cut is complete. -/
theorem Timeline.commit_one {n m : Nat} {t : Timeline} (h : t.done = [(t.c + 1, m)]) (hm : m ≤ n) :
    Timeline.commit n t.done.length t = { t with c := t.c + 1, done := [] } := by
  rw [h]
  simp [Timeline.commit, h, hm]

theorem Core.tline_commit (c : Core) (n k : Nat) :
    ({ c with tl := Sparse.mapAll (fun _ t => Timeline.commit n t.done.length t) c.tl } : Core).tline k
      = Timeline.commit n (c.tline k).done.length (c.tline k) :=
  Sparse.at_mapAll_of_default (f := fun _ t => Timeline.commit n t.done.length t) k rfl c.tl

theorem Body.tline_commit (b : Body) (n k i : Nat) :
    ((b.commit n).core k).tline i = Timeline.commit n ((b.core k).tline i).done.length ((b.core k).tline i) := by
  rw [Body.commit, Body.core, Sparse.at_mapAll_of_default k (by rfl), Core.tline_commit]
  rfl

theorem Core.feed_cutLive (l : List Nat) (k n : Nat) (c : Core) (h : (c.feed n).bind.isSome = true) :
    ((c.cutLive l k).feed n).markDue = true := by
  have e : (c.cutLive l k).feed n = if (c.feed n).bind.isSome then { c.feed n with markDue := true } else c.feed n :=
    Sparse.at_mapAll_of_default (d := FeedPort.idle) (f := fun _ p => if p.bind.isSome then { p with markDue := true } else p) n rfl c.feeds
  rw [e, if_pos h]

theorem Core.cutLive_launch (l : List Nat) (k : Nat) : Core.launch.cutLive l k = Core.launch := rfl

/-- The record of a cut as it starts, from the body, its sinks that MARK will reach, and the elements that it marks. -/
def Body.recordAtStart (b : Body) (w h : Nat) (sinks : List (Nat × Nat)) (still landing marked : List Nat) : Body :=
  (({ b with cores := Sparse.mapAll (Core.cutRecord sinks) b.cores } : Body).landStill still landing).clearCutBufs w h marked

theorem Body.heldAs_recordAtStart {b : Body} (hn : b.net = []) (w h : Nat) (sinks : List (Nat × Nat)) (still landing marked : List Nat) :
    b.HeldAs (b.recordAtStart w h sinks still landing marked) := by
  have h1 : b.HeldAs { b with cores := Sparse.mapAll (Core.cutRecord sinks) b.cores } := Body.heldAs_mapAll b (fun _ _ => rfl)
  have h2 := Body.heldAs_landStill (b := { b with cores := Sparse.mapAll (Core.cutRecord sinks) b.cores }) hn still landing
  rw [Body.recordAtStart]
  exact h1.trans (h2.trans (Body.heldAs_clearCutBufs w h marked _))

/-- A rectangle with the next cut started. -/
def Rect.cutStarted (x : Rect) (b : Body) (sourceless : List Nat) (g : CutProgress) : Rect :=
  { x with started := x.started + 1, requested := false, body := { b with cores := Sparse.mapAll (Core.cutLive sourceless) b.cores }, prog := some g }

/-- What starting a cut does: only the SNAPs that it answers leave the body, which is then recorded. -/
theorem State.startCut_eq (s : State) (r : Nat) : ∃ (snaps : List (Nat × List (Nat × Nat))) (sourceless : List Nat) (g : CutProgress)
    (sinks : List (Nat × Nat)) (still landing marked : List Nat),
    s.startCut r = s.setRect r ((s.rect r).cutStarted { (s.rect r).body with snaps := snaps } sourceless g)
      ∧ g.n = (s.rect r).started + 1
      ∧ g.body = ({ (s.rect r).body with snaps := snaps } : Body).recordAtStart (s.rect r).w (s.rect r).h sinks still landing marked :=
  ⟨_, _, _, _, _, _, _, rfl, rfl, rfl⟩

end Sys2Proof.Machine

namespace Sys2Proof.Cert

open Sys2Proof.Machine
open Host (Outcome)

theorem sameMemory_setRect {s : State} {r : Nat} {x : Rect} (h : (s.rect r).body.HeldAs x.body) : SameMemory s (s.setRect r x) :=
  sameMemory_of_eq rfl rfl (State.setRect_heldAs h).2

section
variable {s : State} {r : Nat}

/-- R472: with nothing pending in any register and no access, nothing is to be delivered before the records. -/
theorem settledForCut_of_full (ha : s.accesses = []) (hp : ∀ c ∈ (s.rect r).body.cores, ∀ t ∈ c.2.tasks, t.2.pres = []) :
    s.settledForCut r = true := by
  rw [State.settledForCut, ha]
  simp only [List.any_nil, Bool.not_false, Bool.true_and, Bool.not_eq_true', List.any_eq_false]
  intro c hc
  rw [Bool.not_eq_true, List.any_eq_false]
  intro t ht
  rw [Task.pending, hp c hc t ht]
  exact Bool.false_ne_true

theorem exec_cutStart (hs : (s.rect r).soft = none) (hph : (s.rect r).phase = .run ∨ (s.rect r).phase = .boundary)
    (hreq : (s.rect r).requested = true) (hprog : (s.rect r).prog = none) (hrel : (s.rect r).reload = none)
    (hset : s.settledForCut r = true) : exec (.cutStart r) s = .next (s.startCut r) := by
  have hi : (s.rect r).phase.issues = true := by rcases hph with h | h <;> rw [h] <;> rfl
  change execCutStart r s = _
  rw [execCutStart, hi, Rect.cutWanted, hreq, hprog, hs, hrel, hset]
  rfl

theorem exec_cutComplete {g : CutProgress} (hs : (s.rect r).soft = none) (hprog : (s.rect r).prog = some g) (he : g.elems = []) (hk : g.sinks = [])
    (hph : (s.rect r).phase = .run ∨ (s.rect r).phase = .boundary ∨ (s.rect r).phase = .drain) (hh : (s.rect r).halting = none) :
    exec (.cutComplete r) s = .next (s.setRect r ((s.rect r).completeCut g.n g.body)) := by
  have hf : (s.rect r).phase.fires = true := by rcases hph with h | h | h <;> rw [h] <;> rfl
  have hhalt : ((s.rect r).completeCut g.n g.body).haltAt = (s.rect r).completeCut g.n g.body := by
    rw [Rect.haltAt, show ((s.rect r).completeCut g.n g.body).halting = none from hh]
  change execCutComplete r s = _
  rw [execCutComplete, hprog]
  dsimp only
  rw [he, hk, hf, hs, hhalt]
  rfl

end

/-- Settles O37: a cut keeps every task and scratchpad of its rectangle, and so does its record. -/
theorem cutsStartAndComplete : Obligations.CutsStartAndComplete := by
  intro s r x hs
  refine ⟨fun hph hreq hprog hrel hacc hnet hpres => ?_, fun g hprog he hk hph hh => ?_⟩
  · obtain ⟨snaps, sourceless, g, sinks, still, landing, marked, e, hn, hb⟩ := s.startCut_eq r
    have hsnaps : x.body.HeldAs { x.body with snaps := snaps } := Body.heldAs_of_cores rfl
    have hlive : x.body.HeldAs (x.cutStarted { x.body with snaps := snaps } sourceless g).body :=
      hsnaps.trans (Body.heldAs_mapAll _ (fun _ _ => rfl))
    have hrec : x.body.HeldAs g.body := by
      have h := Body.heldAs_recordAtStart (b := { x.body with snaps := snaps }) hnet x.w x.h sinks still landing marked
      rw [hb]
      exact hsnaps.trans h
    refine ⟨_, g, exec_cutStart hs hph hreq hprog hrel (settledForCut_of_full hacc hpres), ?_⟩
    rw [e, State.rect_setRect_same]
    refine ⟨rfl, rfl, rfl, hn, sameMemory_setRect hlive, (State.setRect_heldAs hlive).1,
      fun c k => ⟨Core.task_of_held (hrec c) k, Core.scratch_of_held (hrec c)⟩, fun c n hbind => ?_⟩
    have ec : (x.cutStarted { x.body with snaps := snaps } sourceless g).body.core c = (x.body.core c).cutLive sourceless c :=
      Sparse.at_mapAll_of_default c (Core.cutLive_launch _ c) x.body.cores
    rw [ec]
    exact Core.feed_cutLive _ c n (x.body.core c) hbind
  · have hheld : x.body.HeldAs (x.completeCut g.n g.body).body := (Body.heldAs_commit g.n x.body).trans (Body.heldAs_cutTaken _)
    refine ⟨_, exec_cutComplete hs hprog he hk hph hh, ?_⟩
    rw [State.rect_setRect_same]
    refine ⟨rfl, rfl, rfl, ?_, sameMemory_setRect hheld, (State.setRect_heldAs hheld).1, ?_, ⟨_, rfl, fun c k => ?_⟩, fun c n m hd hm => ?_⟩
    · change (x.body.rstat ||| 0x100#64).getLsbD 8 = true
      rw [BitVec.getLsbD_or]
      simp
    · intro w hw hcut
      obtain ⟨v, -, rfl⟩ := List.mem_map.mp hw
      by_cases hv : v.cut ≤ g.n
      · rw [if_pos hv]
      · rw [if_neg hv] at hcut
        exact absurd hcut hv
    · exact Core.task_of_held (((Body.heldAs_commit g.n g.body).trans (Body.heldAs_cutTaken _)) c) k
    · have e : ((x.completeCut g.n g.body).body.core c).tline n = Timeline.commit g.n ((x.body.core c).tline n).done.length ((x.body.core c).tline n) :=
        Body.tline_commit x.body g.n c n
      rw [e, Timeline.commit_one hd hm]
      exact ⟨rfl, rfl⟩

end Sys2Proof.Cert
end

section
/-! SUPPORT. What the operations on the lines of the slices and on physical memory leave (R254, R255, R259): everything but the lines and
the bytes of the memory, which keeps its canonical form. -/

namespace Sys2Proof.Machine

/-- The state with other lines and another memory. -/
def State.withLines (s : State) (ls : List Line) (m : List Host.Cell) : State := { s with lines := ls, mem := m }

/-- Only lines and physical memory differ, and the memory is in canonical form if it was. -/
def State.OnLines (s t : State) : Prop := ∃ ls m, t = s.withLines ls m ∧ (Memory.wf s.mem = true → Memory.wf m = true)

theorem State.OnLines.refl (s : State) : s.OnLines s := ⟨s.lines, s.mem, rfl, id⟩

theorem State.OnLines.trans {s t u : State} (h : s.OnLines t) (h' : t.OnLines u) : s.OnLines u := by
  obtain ⟨ls, m, rfl, hm⟩ := h
  obtain ⟨ls', m', rfl, hm'⟩ := h'
  exact ⟨ls', m', rfl, fun h => hm' (hm h)⟩

theorem State.onLines_lines (s : State) (ls : List Line) : s.OnLines { s with lines := ls } := ⟨ls, s.mem, rfl, id⟩

theorem State.onLines_setCells (s : State) (a : Nat) (bs : List Byte) : s.OnLines { s with mem := setCells s.mem a bs } :=
  ⟨s.lines, _, rfl, Memory.wf_setCells a bs⟩

theorem State.onLines_foldl {α : Type} {f : State → α → State} (h : ∀ (s : State) (a : α), s.OnLines (f s a)) (l : List α) (s : State) : s.OnLines (l.foldl f s) := by
  induction l generalizing s with
  | nil => exact .refl s
  | cons a l ih => exact (h s a).trans (ih _)

theorem State.onLines_writeBack (s : State) (l : Line) : s.OnLines (s.writeBack l) := s.onLines_setCells _ _

theorem State.onLines_cleanLines (s : State) (p : Line → Bool) : s.OnLines (s.cleanLines p) :=
  (State.onLines_foldl State.onLines_writeBack _ s).trans (State.onLines_lines _ _)

theorem State.onLines_dropClean (s : State) (p : Line → Bool) : s.OnLines (s.dropClean p) := s.onLines_lines _

theorem State.onLines_flushLines (s : State) (p : Line → Bool) : s.OnLines (s.flushLines p) :=
  (s.onLines_cleanLines p).trans (State.onLines_dropClean _ p)

theorem State.onLines_discardLines (s : State) (p : Line → Bool) : s.OnLines (s.discardLines p) := s.onLines_lines _

/-- The state after the victim of a way has left, written back if it was dirty. -/
def State.evicted (s : State) : Option Line → State
  | none => s
  | some v => { (if v.dirty then s.writeBack v else s) with lines := (if v.dirty then s.writeBack v else s).lines.filter (fun l => decide (l ≠ v)) }

theorem State.onLines_evicted (s : State) (victim : Option Line) : s.OnLines (s.evicted victim) := by
  cases victim with
  | none => exact .refl s
  | some v =>
    rw [State.evicted]
    refine State.OnLines.trans (t := if v.dirty then s.writeBack v else s) ?_ (State.onLines_lines _ _)
    split
    · exact s.onLines_writeBack v
    · exact .refl s

theorem State.fetchLine_eq (s : State) (slice tag line : Nat) (pol : Policy) : ∃ t : State, ∃ ls : List Line,
    (t = s ∨ ∃ v, t = s.evicted v) ∧ s.fetchLine slice tag line pol = { t with lines := ls } := by
  rw [State.fetchLine]
  split
  · exact ⟨s, _, .inl rfl, rfl⟩
  · rcases s.chooseWay slice line (s.tenant tag).ways with ⟨w, _ | v⟩
    · exact ⟨s, _, .inl rfl, rfl⟩
    · exact ⟨s.evicted (some v), _, .inr ⟨some v, rfl⟩, rfl⟩

theorem State.onLines_fetchLine (s : State) (slice tag line : Nat) (pol : Policy) : s.OnLines (s.fetchLine slice tag line pol) := by
  obtain ⟨t, ls, ht, e⟩ := s.fetchLine_eq slice tag line pol
  rw [e]
  refine State.OnLines.trans (t := t) ?_ (t.onLines_lines ls)
  obtain rfl | ⟨v, rfl⟩ := ht
  · exact .refl _
  · exact s.onLines_evicted v

theorem State.onLines_readPiece (s : State) (tag pa n : Nat) (pol : Policy) : s.OnLines (s.readPiece tag pa n pol).1 := by
  rw [State.readPiece]
  split
  · exact s.onLines_fetchLine _ _ _ _
  · exact s.onLines_cleanLines _

theorem State.onLines_writePiece (s : State) (tag pa : Nat) (bs : List Byte) (pol : Policy) : s.OnLines (s.writePiece tag pa bs pol) := by
  rw [State.writePiece]
  split
  · exact (s.onLines_fetchLine _ _ _ _).trans (State.onLines_lines _ _)
  · exact (s.onLines_flushLines _).trans (State.onLines_setCells _ _ _)

theorem State.onLines_readPhys (tag : Nat) (pol : Policy) (fuel : Nat) (s : State) (pa n : Nat) :
    s.OnLines (State.readPhys tag pol fuel s pa n).1 := by
  induction fuel generalizing s pa n with
  | zero => exact .refl s
  | succ fuel ih =>
    rw [State.readPhys]
    split
    · exact .refl s
    · exact (s.onLines_readPiece _ _ _ _).trans (ih _ _ _)

theorem State.onLines_writePhys (tag : Nat) (pol : Policy) (fuel : Nat) (s : State) (pa : Nat) (bs : List Byte) :
    s.OnLines (State.writePhys tag pol fuel s pa bs) := by
  induction fuel generalizing s pa bs with
  | zero => exact .refl s
  | succ fuel ih =>
    rw [State.writePhys]
    split
    · exact .refl s
    · exact (s.onLines_writePiece _ _ _ _).trans (ih _ _ _)

theorem State.onLines_undoOne (tag : Nat) (s : State) (e : Undo) : s.OnLines (State.undoOne tag s e) :=
  State.onLines_foldl (fun (s : State) (i : Nat) => by
    split
    · exact s.onLines_writePiece _ _ _ _
    · exact .refl s) _ s

theorem State.onLines_releaseWork (s : State) (tag : Nat) (sc : Scope) : s.OnLines (s.releaseWork tag sc) := by
  rw [State.releaseWork]
  split
  · exact s.onLines_cleanLines _
  · exact .refl s

theorem State.onLines_acquireWork (s : State) (tag : Nat) (sc : Scope) : s.OnLines (s.acquireWork tag sc) := by
  rw [State.acquireWork]
  split
  · exact s.onLines_dropClean _
  · exact .refl s

/-! ## Bytes written one at a time where no slice serves them -/

/-- A piece that no slice serves, written with no line anywhere. -/
theorem State.writePiece_unserved (s : State) (m : List Host.Cell) (tag pa : Nat) (bs : List Byte) (h : s.sliceFor tag pa .keep = none) :
    (s.withLines [] m).writePiece tag pa bs .keep = s.withLines [] (setCells m pa bs) := by
  have h' : (s.withLines [] m).sliceFor tag pa .keep = none := h
  rw [State.writePiece, h']
  rfl

/-- R479 step 2: the masked bytes of one unit, restored up to byte `n`. -/
theorem State.undoOne_unserved (s : State) (m : List Host.Cell) (tag : Nat) (e : Undo) {n : Nat} (hn : n ≤ 32) (hm : Memory.wf m = true)
    (h : ∀ i < 32, s.sliceFor tag (e.addr + i) .keep = none) :
    ∃ m', (List.range n).foldl (fun s i =>
        if e.mask.getLsbD i then s.writePiece tag (e.addr + i) [e.old.extractLsb' (8 * i) 8] .keep else s) (s.withLines [] m)
          = s.withLines [] m' ∧ Memory.wf m' = true
      ∧ ∀ k, Memory.byte m' k = if e.addr ≤ k ∧ k < e.addr + n ∧ e.mask.getLsbD (k - e.addr) = true
          then e.old.extractLsb' (8 * (k - e.addr)) 8 else Memory.byte m k := by
  induction n with
  | zero => exact ⟨m, rfl, hm, fun k => by rw [if_neg (by omega)]⟩
  | succ n ih =>
    obtain ⟨m', e', hm', hb⟩ := ih (by omega)
    rw [List.range_succ, List.foldl_append, e']
    by_cases hbit : e.mask.getLsbD n = true
    · refine ⟨setCells m' (e.addr + n) [e.old.extractLsb' (8 * n) 8], ?_, Memory.wf_setCells _ _ hm', fun k => ?_⟩
      · rw [List.foldl_cons, List.foldl_nil, if_pos hbit, State.writePiece_unserved _ _ _ _ _ (h n (by omega))]
      · rw [Memory.byte_setCells hm', hb]
        by_cases hk : k = e.addr + n
        · subst hk
          simp [hbit]
        · rw [if_neg (by simp; omega)]
          refine if_congr ?_ rfl rfl
          constructor
          · exact fun ⟨h1, h2, h3⟩ => ⟨h1, by omega, h3⟩
          · exact fun ⟨h1, h2, h3⟩ => ⟨h1, by omega, h3⟩
    · refine ⟨m', ?_, hm', fun k => ?_⟩
      · rw [List.foldl_cons, List.foldl_nil, if_neg hbit]
      · rw [hb]
        refine if_congr ?_ rfl rfl
        constructor
        · exact fun ⟨h1, h2, h3⟩ => ⟨h1, by omega, h3⟩
        · rintro ⟨h1, h2, h3⟩
          refine ⟨h1, ?_, h3⟩
          by_contra hge
          rw [show k - e.addr = n by omega] at h3
          exact hbit h3

end Sys2Proof.Machine
end

section
/-! PROOF. Errors that roll back (R477 to R482). -/

namespace Sys2Proof.Machine

theorem Task.absentAll_full {t : Task} (ho : t.occupied = true) : t.absentAll.pc = t.pc ∧ ∀ q : Reg, q ≠ 0 → t.presence q = .full →
    t.absentAll.presence q = .absent ∧ Sparse.at 0#64 t.absentAll.saved q.val = t.reg q := by
  rw [Task.absentAll, if_pos ho]
  refine ⟨rfl, fun q h0 hp => ?_⟩
  rw [Task.presence, if_neg h0] at hp
  have hk := mem_recordKeys q h0
  have hsaved : t.savedReg q.val = t.reg q := by
    rw [Task.savedReg, if_neg (show ¬ q.val = 0 from fun e => h0 (Fin.ext e)), hp, Task.reg, if_neg h0]
  have hpres : ∀ ks : List Nat, ks.filterMap (fun k => match Sparse.at .full t.pres k with
      | .empty p => some (k, Presence.empty p)
      | _ => some (k, Presence.absent)) = ks.map (fun k => (k, match Sparse.at .full t.pres k with
      | .empty p => Presence.empty p
      | _ => Presence.absent)) := by
    intro ks
    rw [← List.filterMap_eq_map]
    refine congrArg (fun f => List.filterMap f ks) (funext fun k => ?_)
    dsimp only [Function.comp]
    split <;> rfl
  constructor
  · rw [Task.presence, if_neg h0]
    refine (congrArg (fun m => Sparse.at Presence.full m q.val) (hpres recordKeys)).trans ?_
    rw [Sparse.at, look_map_key, if_pos hk, hp]
    rfl
  · dsimp only
    rw [Sparse.at]
    change (Sparse.look (recordKeys.map _) q.val).getD _ = _
    rw [look_map_key, if_pos hk, hsaved]
    rfl

theorem Task.absentAll_free : Task.free.absentAll = Task.free := rfl

theorem Rect.core_restored (x : Rect) (b : Body) (c : Nat) :
    (x.restored b).core c = { b.core c with tasks := Sparse.mapAll (fun _ t => t.absentAll) (b.core c).tasks } :=
  Sparse.at_mapAll_of_default (d := Core.launch) (f := fun _ c => { c with tasks := Sparse.mapAll (fun _ t => t.absentAll) c.tasks }) c rfl b.cores

theorem Body.heldAs_waitNext (n : Nat) (b : Body) : b.HeldAs (b.waitNext n) := Body.heldAs_mapAll b (fun _ _ => rfl)

/-- The logical state that a rollback gives back holds the scratchpads of the record and its tasks, their registers absent. -/
theorem Rect.heldAs_rolledBack (x : Rect) (b : Body) (n : Nat) : (x.restored b).HeldAs (((x.restored b).commit n).waitNext n) :=
  (Body.heldAs_commit n _).trans (Body.heldAs_waitNext n _)

theorem Rect.task_rolledBack (x : Rect) (b : Body) (n c k : Nat) :
    ((((x.restored b).commit n).waitNext n).core c).task k = ((b.core c).task k).absentAll := by
  rw [Core.task_of_held (x.heldAs_rolledBack b n c) k, Rect.core_restored]
  exact Sparse.at_mapAll_of_default (d := Task.free) (f := fun _ t => t.absentAll) k rfl (b.core c).tasks

theorem Rect.scratch_rolledBack (x : Rect) (b : Body) (n c : Nat) :
    ((((x.restored b).commit n).waitNext n).core c).scratch = (b.core c).scratch := by
  rw [Core.scratch_of_held (x.heldAs_rolledBack b n c), Rect.core_restored]

theorem State.damage_length (s : State) (r reason : Nat) : (s.damage r reason).length = 64 := by
  simp only [State.damage, List.length_append, splitBytes_length]

/-- What the rollback undoes in memory comes first. -/
def State.undone (s : State) (r : Nat) : State :=
  (((s.rect r).undo.filter (fun u => decide ((s.rect r).complete ≤ u.seg))).reverse).foldl (State.undoOne (s.rect r).tag) s

theorem State.onLines_undone (s : State) (r : Nat) : s.OnLines (s.undone r) :=
  State.onLines_foldl (State.onLines_undoOne _) _ s

theorem State.rollTo_memory (s : State) (r : Nat) (b : Body) : (s.rollTo r b).mem = (s.undone r).mem ∧ (s.rollTo r b).peer = s.peer
    ∧ (s.accesses = [] → (s.rollTo r b).accesses = []) := by
  obtain ⟨ls, m, e, -⟩ := s.onLines_undone r
  refine ⟨rfl, ?_, fun ha => ?_⟩
  · change (s.undone r).peer = s.peer
    rw [e]
    rfl
  · change (s.undone r).accesses.filter _ = []
    rw [e, show (s.withLines ls m).accesses = [] from ha]
    rfl

theorem State.rect_rollTo (s : State) (r : Nat) (b : Body) : ∃ x : Rect, (s.rollTo r b).rect r = x ∧ x.soft = none ∧ x.started = (s.rect r).complete
    ∧ x.complete = (s.rect r).complete ∧ x.prog = none ∧ x.repeats = (s.rect r).repeats + 1
    ∧ x.body = (((s.rect r).restored b).commit (s.rect r).complete).waitNext (s.rect r).complete := by
  refine ⟨_, State.rect_setRect_same _ _ _, rfl, rfl, rfl, rfl, rfl, rfl⟩

end Sys2Proof.Machine

namespace Sys2Proof.Cert

open Sys2Proof.Machine
open Host (Outcome)

section
variable {s : State} {r : Nat}

theorem exec_softErrorDetect {unit : FaultUnit} {core addr len : Nat} (hrun : (s.rect r).phase = .run) (hs : (s.rect r).soft = none) :
    exec (.softErrorDetect r unit core addr len) s = .next (s.setRect r { s.rect r with soft := some (unit, core, addr, len) }) := by
  change execSoftErrorDetect r unit core addr len s = _
  rw [execSoftErrorDetect, hrun, hs]
  rfl

theorem exec_rollback {b : Body} (hrun : (s.rect r).phase = .run) (hs : (s.rect r).soft ≠ none) (hrep : (s.rect r).repeats < 3)
    (hrec : (s.rect r).record = some b) : exec (.rollback r) s = .next (s.rollTo r b) := by
  have hn : ((s.rect r).soft.isNone || decide ((s.rect r).phase ≠ .run)) = false := by
    rw [hrun, Option.isNone_eq_false_iff.mpr (Option.isSome_iff_ne_none.mpr hs)]
    rfl
  change execRollback r s = _
  rw [execRollback, hn, if_neg Bool.false_ne_true, if_neg (not_le.mpr hrep), hrec]

theorem exec_rollback_stops (hrun : (s.rect r).phase = .run) (hs : (s.rect r).soft ≠ none)
    (h : 3 ≤ (s.rect r).repeats ∨ ((s.rect r).record = none ∧ s.cutZero r = none)) :
    ∃ reason, exec (.rollback r) s = .next (s.unrecoverable r reason) := by
  have hn : ((s.rect r).soft.isNone || decide ((s.rect r).phase ≠ .run)) = false := by
    rw [hrun, Option.isNone_eq_false_iff.mpr (Option.isSome_iff_ne_none.mpr hs)]
    rfl
  change ∃ reason, execRollback r s = _
  rw [execRollback, hn, if_neg Bool.false_ne_true]
  by_cases h3 : 3 ≤ (s.rect r).repeats
  · exact ⟨2, by rw [if_pos h3]⟩
  · obtain ⟨hrec, hz⟩ := h.resolve_left h3
    exact ⟨1, by rw [if_neg h3, hrec, hz]⟩

end

/-- Settles O38: the undo log is the only thing that a rollback writes to memory; the record gives the logical state. -/
theorem rollingFaults : Obligations.RollingFaults := by
  intro s r unit core addr len x
  refine ⟨exec_softErrorDetect, fun hrun hs hrep b hrec hlines hacc => ?_, fun hrun hs h => ?_⟩
  · obtain ⟨y, ey, h1, h2, h3, h4, h5, hb⟩ := s.rect_rollTo r b
    obtain ⟨hmem, hpeer, hacc'⟩ := s.rollTo_memory r b
    refine ⟨_, exec_rollback hrun (by rw [hs]; exact Option.some_ne_none _) hrep hrec, ?_⟩
    rw [ey, hb]
    refine ⟨h1, h2, h3, h4, h5, hacc' hacc, hpeer, fun c => Rect.scratch_rolledBack _ b _ c, fun c k ho => ?_, fun hu => ?_,
      fun u hu hseg hwf hsl k => ?_⟩
    · dsimp only
      rw [Rect.task_rolledBack]
      exact Task.absentAll_full ho
    · rw [hmem, State.undone, show (s.rect r).undo = [] from hu]
      rfl
    · have hfil : ((s.rect r).undo.filter (fun u => decide ((s.rect r).complete ≤ u.seg))).reverse = [u] := by
        rw [show (s.rect r).undo = [u] from hu]
        exact congrArg List.reverse (List.filter_cons_of_pos (p := fun u : Undo => decide (x.complete ≤ u.seg)) (decide_eq_true hseg))
      obtain ⟨m', e', -, hb'⟩ := State.undoOne_unserved s s.mem x.tag u (le_refl 32) hwf hsl
      have hst : s.withLines [] s.mem = s := by rw [State.withLines, ← hlines]
      have hund : s.undone r = s.withLines [] m' := by
        rw [State.undone, hfil, List.foldl_cons, List.foldl_nil, State.undoOne]
        rw [hst] at e'
        exact e'
      rw [hmem, hund]
      exact hb' k
  · obtain ⟨reason, e⟩ := exec_rollback_stops hrun hs h
    refine ⟨_, e, ?_, ?_, ?_, ?_⟩
    · exact congrArg Rect.phase (State.rect_setRect_same s r _)
    · exact ⟨_, congrArg Rect.verdict (State.rect_setRect_same s r _)⟩
    · exact (sameMemory_setRect (x := { s.rect r with phase := .stopped, verdict := some (1, 0x24, (s.freeWord 1).toNat % 2 ^ 32) })
        (Body.HeldAs.refl _)).trans (sameMemory_of_eq rfl rfl (fun _ => rfl))
    · rw [State.unrecoverable, Sparse.at_put_same, State.damage_length]

end Sys2Proof.Cert
end

section
/-! PROOF. Walks, acknowledgments of remote writes, refresh, reissue (R264, R269, R270, R284, R458). -/

namespace Sys2Proof.Machine

theorem find?_singleton_of {α : Type} {p : α → Bool} {a : α} (h : p a = true) : [a].find? p = some a := by
  rw [List.find?_cons, h]

/-- A leaf of level 0, found where only it is mapped. -/
def leafEntry (tag va : Nat) (e : Word) : TlbEntry :=
  { cache := 0, tag := tag, base := va / pageBytes (leafPs e) * pageBytes (leafPs e), ps := leafPs e, leaf := e }

/-- The physical address of a leaf stands in the bits of the leaf. -/
theorem leaf_with_address (e : Word) : (e &&& 0xFFF0000000000FFF#64) ||| BitVec.ofNat 64 (leafPa e) = e := by
  have h : BitVec.ofNat 64 (leafPa e) = (e.extractLsb' 12 40).setWidth 64 <<< 12 := by
    apply BitVec.eq_of_toNat_eq
    rw [leafPa, BitVec.toNat_ofNat, BitVec.toNat_shiftLeft, Nat.shiftLeft_eq, BitVec.toNat_setWidth, Nat.mod_mul_mod]
  rw [h]
  refine BitVec.eq_of_getLsbD_eq fun i hi => ?_
  have hmask : (0xFFF0000000000FFF#64).getLsbD i = (decide (i < 12) || decide (52 ≤ i)) := by
    revert hi
    revert i
    decide
  simp only [BitVec.getLsbD_or, BitVec.getLsbD_and, BitVec.getLsbD_shiftLeft, BitVec.getLsbD_setWidth, BitVec.getLsbD_extractLsb', hmask]
  by_cases h1 : i < 12
  · simp [h1]
  · by_cases h2 : 52 ≤ i
    · simp [h2, show ¬ i - 12 < 40 by omega]
    · simp [h1, h2, hi, show i - 12 < 40 by omega, show i - 12 < 64 by omega, show 12 + (i - 12) = i by omega]

/-- With one leaf of level 0 in a tenant's table, the walk reads nothing at the levels above. -/
theorem look_upper_level {va lv : Nat} (e : Word) (hva : va < 2 ^ 48) (hl : 1 ≤ lv) :
    Sparse.at 0#64 [(va / 4096, e)] (lv * 2 ^ 36 + va / 2 ^ (12 + 9 * lv)) = 0#64 := by
  have hlt : va / 4096 < lv * 2 ^ 36 := by omega
  have hne : lv * 2 ^ 36 + va / 2 ^ (12 + 9 * lv) ≠ va / 4096 := (hlt.trans_le (Nat.le_add_right _ _)).ne'
  rw [Sparse.at, Sparse.look, if_neg hne]
  rfl

section
variable {s : State}

theorem State.walkLeaf_unmapped (h : s.pages = []) (tag va : Nat) (write : Bool) : s.walkLeaf tag va write = none := by
  simp [State.walkLeaf, h]

theorem State.leafOf_unmapped (h : s.pages = []) (tag va : Nat) : s.leafOf tag va = none := by
  simp [State.leafOf, h]

/-- R405, R406: what the walk finds for the one leaf of a table. -/
theorem State.walkLeaf_single {tag va : Nat} {write : Bool} {e : Word} (hp : s.pages = [(tag, [(va / 4096, e)])]) (hva : va < 2 ^ 48)
    (hv : e.extractLsb' 0 2 = 3#2) (h12 : e.extractLsb' 52 12 = 0) (h2 : e.extractLsb' 6 2 = 0) (hps : leafPs e ≤ 4)
    (hal : leafPa e % pageBytes (leafPs e) = 0) (hw : leafAllows e write = true) : s.walkLeaf tag va write = some (leafEntry tag va e) := by
  have h0 : e.getLsbD 0 = true := by
    have := congrArg (fun b => b.getLsbD 0) hv
    simpa using this
  have h1 : e.getLsbD 1 = true := by
    have := congrArg (fun b => b.getLsbD 1) hv
    simpa using this
  have ht : Sparse.at [] s.pages tag = [(va / 4096, e)] := by
    rw [hp, Sparse.at, Sparse.look, if_pos rfl]
    rfl
  have hl : Sparse.at 0#64 [(va / 4096, e)] (0 * 2 ^ 36 + va / 2 ^ (12 + 9 * 0)) = e := by
    rw [Sparse.at, Sparse.look, if_pos (by omega)]
    rfl
  have hd : decide (leafPs e ≤ 4) = true := decide_eq_true hps
  have ha : decide (leafPa e % pageBytes (leafPs e) = 0) = true := decide_eq_true hal
  rw [State.walkLeaf, ht]
  dsimp only
  rw [List.findSome?_cons, look_upper_level e hva (by omega), List.findSome?_cons, look_upper_level e hva (by omega),
    List.findSome?_cons, look_upper_level e hva (by omega), List.findSome?_cons, hl]
  simp only [BitVec.getLsbD_zero, Bool.false_and, Bool.false_eq_true, if_false, if_true, h0, h1, h12, h2, hd, ha, hw, Bool.and_self,
    decide_true, show ((0 : Nat) = 3) = False by simp, Nat.add_zero, leaf_with_address]
  rfl

end

theorem tlbInsert_empty {cap : Nat} (h : 0 < cap) (e : TlbEntry) : tlbInsert cap [] e = [e] := by
  rw [tlbInsert]
  exact if_pos h

/-- A translation that both levels hold for a page hits for every address of the page, whatever first-level cache asks. -/
theorem State.translate_filled {t : State} {tag va va' c d : Nat} {e : Word} {write : Bool} (who : Requester) (cache : Nat)
    (h1 : t.tlb1 = [{ leafEntry tag va e with cache := c }]) (h2 : t.tlb2 = [{ leafEntry tag va e with cache := d }]) (hr : t.refused = [])
    (hw : leafAllows e write = true) (hp : va' / pageBytes (leafPs e) = va / pageBytes (leafPs e)) :
    t.translate who cache d tag va' write = .hit (leafPa e + va' % pageBytes (leafPs e)) (e.getLsbD 4) := by
  have hcov : ∀ k, ({ leafEntry tag va e with cache := k } : TlbEntry).covers k tag va' = true := by
    intro k
    simp [TlbEntry.covers, leafEntry, hp]
  have hfind : ∃ k, t.tlbFind cache d tag va' = some { leafEntry tag va e with cache := k } := by
    rw [State.tlbFind, h1, h2, find?_singleton_of (p := fun e : TlbEntry => e.covers d tag va') (hcov d)]
    by_cases hc : c = cache
    · subst hc
      exact ⟨c, by rw [find?_singleton_of (p := fun e : TlbEntry => e.covers c tag va') (hcov c)]⟩
    · refine ⟨d, ?_⟩
      have : ({ leafEntry tag va e with cache := c } : TlbEntry).covers cache tag va' = false := by
        simp [TlbEntry.covers, hc]
      rw [List.find?_cons, this]
      rfl
  obtain ⟨k, hk⟩ := hfind
  rw [State.translate, hr, List.any_nil, if_neg Bool.false_ne_true, hk]
  exact if_pos hw

end Sys2Proof.Machine

namespace Sys2Proof.Cert

open Sys2Proof.Machine
open Host (Outcome)

section
variable {s : State} {w : Walk}

theorem walkRuns_alone (h : s.walks = [w]) : s.walkRuns w = true := by
  simp [State.walkRuns, h]

theorem pageWalkComplete_fills {e : Word} (hw : s.walks = [w]) (hf : w.faulted = false) (h1 : s.tlb1 = []) (h2 : s.tlb2 = [])
    (hl : s.walkLeaf w.tag w.va w.write = some (leafEntry w.tag w.va e)) :
    ∃ c t, exec (.pageWalkComplete w.id) s = .next t ∧ t.walks = [] ∧ t.tlb1 = [{ leafEntry w.tag w.va e with cache := c }]
      ∧ t.tlb2 = [{ leafEntry w.tag w.va e with cache := w.die }] ∧ t.refused = s.refused ∧ SameMemory s t := by
  have hgo : (w.faulted || !s.walkRuns w) = false := by rw [hf, walkRuns_alone hw]; rfl
  have hne : [w].filter (fun v => decide (v.id ≠ w.id)) = [] := by simp
  refine ⟨?_, ?_, ?_, ?_, ?_, ?_, ?_, ?_⟩
  rotate_left 2
  · change execPageWalkComplete w.id s = _
    rw [execPageWalkComplete, hw, find?_singleton_of (p := fun v : Walk => decide (v.id = w.id)) (decide_eq_true rfl)]
    dsimp only
    rw [hgo, if_neg Bool.false_ne_true, hl]
  · exact hne
  · rw [h1]
    exact tlbInsert_empty (cap := 64) (by omega) _
  · rw [h2]
    exact tlbInsert_empty (cap := 4096) (by omega) _
  · rfl
  · exact sameMemory_of_eq rfl rfl (fun _ => rfl)

theorem pageWalkComplete_stalls (hw : s.walks = [w]) (hf : w.faulted = false) (hp : s.pages = []) :
    exec (.pageWalkComplete w.id) s = .next { s with walks := [{ w with faulted := true }] } := by
  have hgo : (w.faulted || !s.walkRuns w) = false := by rw [hf, walkRuns_alone hw]; rfl
  change execPageWalkComplete w.id s = _
  rw [execPageWalkComplete, hw, find?_singleton_of (p := fun v : Walk => decide (v.id = w.id)) (decide_eq_true rfl)]
  dsimp only
  rw [hgo, if_neg Bool.false_ne_true, State.walkLeaf_unmapped hp]
  dsimp only
  rw [List.map_cons, if_pos rfl]
  rfl

theorem gelesqueFaultResolve_of (hw : s.walks = [w]) (hf : w.faulted = true) (hp : s.pages = []) :
    exec (.gelesqueFaultResolve w.id true) s = .next { s with walks := [], refused := s.refused ++ [w] }
      ∧ exec (.gelesqueFaultResolve w.id false) s = .next { s with walks := [] } := by
  have hne : [w].filter (fun v => decide (v.id ≠ w.id)) = [] := by simp
  constructor
  · change execGelesqueFaultResolve w.id true s = _
    rw [execGelesqueFaultResolve, hw, find?_singleton_of (p := fun v : Walk => decide (v.id = w.id)) (decide_eq_true rfl)]
    dsimp only
    rw [hf, State.walkLeaf_unmapped hp, State.leafOf_unmapped hp, hne]
    simp
  · change execGelesqueFaultResolve w.id false s = _
    rw [execGelesqueFaultResolve, hw, find?_singleton_of (p := fun v : Walk => decide (v.id = w.id)) (decide_eq_true rfl)]
    dsimp only
    rw [hf, hne]
    rfl

end

section
variable {s : State} {r : Nat} {x : Rect} {w : RemoteWrite}

/-- The state once a remote write has left its buffer. -/
def settledRemote (s : State) (r id : Nat) : State :=
  s.modRect r (fun x => { x with remote := x.remote.filter (fun v => decide (v.id ≠ id)) })

theorem remoteWriteAcknowledgment_of (hr : s.rects = [(r, x)]) (hx : x.remote = [w]) (hw : w.sent = true) (o : AckOutcome) :
    exec (.remoteWriteAcknowledgment w.id o) s = match o with
      | .acked => .next { settledRemote s r w.id with peer := setCells s.peer w.pa w.bytes }
      | .refused | .gaveUp => if x.fabricBusy then .next s else
          .next ((settledRemote s r w.id).raiseFabric r 0x05 w.va ((w.task.map (·.core)).getD 0)) := by
  have hany : (x.remote.any (fun v => decide (v.id = w.id) && v.sent)) = true := by
    rw [hx]
    simp [hw]
  have hlt : (x.remote.any (fun v => decide (v.id < w.id) && overlaps (.peer w.pa) w.bytes.length (.peer v.pa) v.bytes.length)) = false := by
    rw [hx]
    simp
  change execRemoteWriteAcknowledgment w.id o s = _
  rw [execRemoteWriteAcknowledgment, hr, find?_singleton_of (p := fun p : Nat × Rect => p.2.remote.any (fun w' => decide (w'.id = w.id) && w'.sent)) hany]
  dsimp only
  rw [show x.remote.find? (fun v => decide (v.id = w.id)) = some w by rw [hx, find?_singleton_of (p := fun v : RemoteWrite => decide (v.id = w.id)) (decide_eq_true rfl)]]
  dsimp only
  rw [hlt, if_neg Bool.false_ne_true]
  cases o <;> rfl

theorem rect_of_single (hr : s.rects = [(r, x)]) : s.rect r = x := by
  rw [State.rect, hr, Sparse.at, Sparse.look, if_pos rfl]
  rfl

theorem settledRemote_remote (hr : s.rects = [(r, x)]) (hx : x.remote = [w]) : ((settledRemote s r w.id).rect r).remote = [] := by
  rw [settledRemote, State.rect_modRect_same, rect_of_single hr]
  dsimp only
  rw [hx]
  simp

theorem settledRemote_body (s : State) (r id : Nat) : ((settledRemote s r id).rect r).body = (s.rect r).body := by
  rw [settledRemote, State.rect_modRect_same]

theorem sameMemory_settledRemote (s : State) (r id : Nat) : SameMemory s (settledRemote s r id) :=
  sameMemory_modRect s r (fun _ => rfl)

/-- A fabric cause as it is raised (R464). -/
def fabricCause (c core : Nat) (v : Word) : QCause :=
  { seq := 0, fabric := true, core := core, slot := 0, cause := c, tval := v, tpc := 0, lx := core % 16, ly := core / 16 }

/-- R464, R466: a fabric cause that none stands before is queued for the handler task, or passes to the supervisor. -/
theorem raiseFabric_stands (s : State) (r c core : Nat) (v : Word) (h : (s.rect r).fabricBusy = false) :
    (∃ f : Body → Body, s.raiseFabric r c v core = s.modBody r f ∧ (∀ b, (f b).cores = b.cores))
      ∧ ∃ q ∈ ((s.raiseFabric r c v core).rect r).body.dq ++ ((s.raiseFabric r c v core).rect r).body.atSup,
        q.fabric = true ∧ q.cause = c ∧ q.tval = v := by
  rw [State.raiseFabric]
  rw [h, if_neg Bool.false_ne_true]
  split
  · refine ⟨⟨_, rfl, fun _ => rfl⟩, { fabricCause c core v with seq := (s.rect r).body.nseq }, List.mem_append_left _ ?_, rfl, rfl, rfl⟩
    rw [State.body_modBody_same]
    exact List.mem_append_right _ (List.mem_singleton.mpr rfl)
  · refine ⟨⟨_, rfl, fun _ => rfl⟩, fabricCause c core v, List.mem_append_right _ ?_, rfl, rfl, rfl⟩
    rw [State.body_modBody_same]
    exact List.mem_append_right _ (List.mem_singleton.mpr rfl)

end

theorem sliceReplayReissue_of {s : State} {a : Access} (ha : s.accesses = [a]) (he : a.epoch < (s.part (s.rect a.task.rect).part).epoch) :
    ∃ t, exec (.sliceReplayReissue a.id) s = .next t ∧ t.accesses = [{ a with epoch := (s.part (s.rect a.task.rect).part).epoch }]
      ∧ (t.part (s.rect a.task.rect).part).replays = (s.part (s.rect a.task.rect).part).replays + 1 ∧ SameMemory s t := by
  refine ⟨?_, ?_, ?_, ?_, ?_⟩
  rotate_left
  · change execSliceReplayReissue a.id s = _
    rw [execSliceReplayReissue, ha, find?_singleton_of (p := fun v : Access => decide (v.id = a.id)) (decide_eq_true rfl)]
    dsimp only
    rw [if_pos he]
  · rw [State.modPart_accesses]
    dsimp only
    rw [List.map_cons, if_pos rfl]
    rfl
  · rw [State.modPart, State.part, Sparse.at_put_same]
    rfl
  · exact sameMemory_of_eq rfl rfl (fun _ => rfl)

theorem walksAndAcknowledgments : WalksAndAcknowledgments := by
  intro s
  refine ⟨fun w e hw hf h1 h2 hr hva => ⟨fun hp hv h12 h6 hps hal hwr hrd => ?_, pageWalkComplete_stalls hw hf⟩,
    fun w hw hf hp => gelesqueFaultResolve_of hw hf hp, fun r x w hrs hx hsent => ⟨fun hwf => ?_, fun hbusy => ?_⟩, fun d ha hlt => ?_,
    fun a ha he => sliceReplayReissue_of ha he⟩
  · have hallow : leafAllows e w.write = true := by
      rw [leafAllows]
      cases hb : w.write with
      | true =>
        obtain ⟨h3, h5⟩ := hwr hb
        rw [leafW, leafMig, h3, h5]
        rfl
      | false => simpa [leafR] using hrd hb
    obtain ⟨c, t, ht, hwalks, ht1, ht2, href, hsame⟩ := pageWalkComplete_fills hw hf h1 h2 (State.walkLeaf_single hp hva hv h12 h6 hps hal hallow)
    exact ⟨t, ht, hwalks, hsame, fun who cache va hpage => State.translate_filled who cache ht1 ht2 (href.trans hr) hallow hpage⟩
  · refine ⟨_, remoteWriteAcknowledgment_of hrs hx hsent .acked, settledRemote_remote hrs hx, rfl, fun k => ?_⟩
    exact Memory.byte_setCells hwf _ _ _
  · have hb : ((settledRemote s r w.id).rect r).fabricBusy = false := by
      rw [Rect.fabricBusy, settledRemote_body, rect_of_single hrs]
      exact hbusy
    obtain ⟨⟨f, e, hf⟩, hq⟩ := raiseFabric_stands (settledRemote s r w.id) r 0x05 ((w.task.map (·.core)).getD 0) w.va hb
    refine ⟨_, (remoteWriteAcknowledgment_of hrs hx hsent .refused).trans (by dsimp only; rw [if_neg (by rw [hbusy]; exact Bool.false_ne_true)]), ?_, ?_, hq⟩
    · rw [e, State.rect_modBody_remote]
      exact settledRemote_remote hrs hx
    · rw [e]
      exact (sameMemory_settledRemote s r w.id).trans (sameMemory_modBody _ r hf)
  · change execWeightStoreRefresh d s = _
    rw [execWeightStoreRefresh, if_pos ⟨ha, hlt⟩]

end Sys2Proof.Cert
end

section
/-! PROOF. The translations that an invalidation takes away, and its acknowledgments (R409, R410). -/

namespace Sys2Proof.Cert

open Sys2Proof.Machine
open Host (Outcome)

theorem inRanges_iff_meets (e : TlbEntry) (ranges : List (Nat × Nat × Nat)) :
    inRanges ranges e.tag e.base (e.base + pageBytes e.ps) = true ↔ Meets e ranges := by
  rw [inRanges, List.any_eq_true]
  refine exists_congr fun r => and_congr_right fun _ => ?_
  rw [Bool.and_eq_true, Bool.and_eq_true, decide_eq_true_iff, decide_eq_true_iff, decide_eq_true_iff, and_assoc]
  exact and_congr_left fun _ => eq_comm

/-- The caches of a die, as an invalidation of the die meets them. -/
theorem cacheOf_first (d : Nat) (e : TlbEntry) : cacheOf d e false = true ↔ (e.cache < 256 ∧ dieOf e.cache = d) ∨ e.cache = 256 + d := by
  rw [cacheOf, if_neg Bool.false_ne_true, Bool.or_eq_true, Bool.and_eq_true, decide_eq_true_iff, decide_eq_true_iff, decide_eq_true_iff, or_comm]
  rfl

theorem cacheOf_second (d : Nat) (e : TlbEntry) : cacheOf d e true = true ↔ e.cache = d := by
  simp [cacheOf]

/-- What a die that runs keeps of its caches. -/
theorem mem_kept {l : List TlbEntry} {c : TlbEntry → Bool} {ranges : List (Nat × Nat × Nat)} (e : TlbEntry) :
    e ∈ l.filter (fun e => !(true && c e && inRanges ranges e.tag e.base (e.base + pageBytes e.ps))) ↔ e ∈ l ∧ (c e = true → ¬ Meets e ranges) := by
  rw [List.mem_filter, ← inRanges_iff_meets]
  cases c e <;> simp

section
variable {s : State} {v : Inval} {d : Fin 4}

theorem invalidationReceive_of (hv : s.invals = [v]) (hnew : v.received.contains d.val = false) (ha : (s.die d.val).announced = true) :
    ∃ t v', exec (.invalidationReceive v.id d) s = .next t ∧ t.invals = [v'] ∧ v'.received = v.received ++ [d.val] ∧ v'.acked = v.acked
      ∧ (∀ e, e ∈ t.tlb1 ↔ e ∈ s.tlb1 ∧ (cacheOf d.val e false = true → ¬ Meets e v.ranges))
      ∧ (∀ e, e ∈ t.tlb2 ↔ e ∈ s.tlb2 ∧ (cacheOf d.val e true = true → ¬ Meets e v.ranges)) ∧ SameMemory s t := by
  refine ⟨?_, ?_, ?_, ?_, ?_, ?_, fun e => ?_, fun e => ?_, ?_⟩
  rotate_left 2
  · change execInvalidationReceive v.id d s = _
    rw [execInvalidationReceive, hv, find?_singleton_of (p := fun w : Inval => decide (w.id = v.id)) (decide_eq_true rfl)]
    dsimp only
    rw [hnew, if_neg Bool.false_ne_true, ha]
  · dsimp only
    rw [List.map_cons, if_pos rfl]
    rfl
  · rfl
  · rfl
  · exact mem_kept (c := fun e => cacheOf d.val e false) e
  · exact mem_kept (c := fun e => cacheOf d.val e true) e
  · exact sameMemory_of_eq rfl rfl (fun _ => rfl)

/-- An acknowledgment that nothing is awaited for. -/
theorem invalidationAck_quiet (hv : s.invals = [v]) (hr : v.received.contains d.val = true) (hack : v.acked.contains d.val = false)
    (ha : s.accesses = []) (hrs : s.rects = []) : exec (.invalidationAck v.id d) s =
      if v.acked.length + 1 < 4 then .next { s with invals := [{ v with acked := v.acked ++ [d.val] }] }
      else .next (({ s with invals := [] } : State).afterInval v.after) := by
  have hpend : (v.marked.any (fun m => decide (m % 4 = d.val) &&
      (s.accesses.any (fun a => decide (a.id = m / 4)) || s.rects.any (fun p => p.2.remote.any (fun w => decide (w.id = m / 4)))))) = false := by
    rw [ha, hrs]
    simp
  have hmap : [v].map (fun w => if w.id = v.id then { v with acked := v.acked ++ [d.val] } else w) = [{ v with acked := v.acked ++ [d.val] }] := by
    rw [List.map_cons, if_pos rfl]
    rfl
  have hfil : [v].filter (fun w => decide (w.id ≠ v.id)) = [] := by simp
  change execInvalidationAck v.id d s = _
  rw [execInvalidationAck, hv, find?_singleton_of (p := fun w : Inval => decide (w.id = v.id)) (decide_eq_true rfl)]
  dsimp only
  rw [hpend, hr, hack, hmap, hfil, List.length_append, List.length_singleton]
  rfl

theorem invalidationAck_waits {a : Access} (hv : s.invals = [v]) (ha : s.accesses = [a]) (hm : v.marked = [4 * a.id + d.val]) :
    exec (.invalidationAck v.id d) s = .next s := by
  have hd : d.val < 4 := d.isLt
  have hpend : (v.marked.any (fun m => decide (m % 4 = d.val) &&
      (s.accesses.any (fun a => decide (a.id = m / 4)) || s.rects.any (fun p => p.2.remote.any (fun w => decide (w.id = m / 4)))))) = true := by
    rw [ha, hm, List.any_cons, List.any_cons, decide_eq_true (by omega : (4 * a.id + d.val) % 4 = d.val),
      decide_eq_true (by omega : a.id = (4 * a.id + d.val) / 4)]
    rfl
  change execInvalidationAck v.id d s = _
  rw [execInvalidationAck, hv, find?_singleton_of (p := fun w : Inval => decide (w.id = v.id)) (decide_eq_true rfl)]
  dsimp only
  rw [hpend, Bool.or_true, if_pos rfl]

end

theorem invalidations : Invalidations := by
  intro s v d hv
  refine ⟨fun hnew ha => ?_, fun hr hack => ⟨fun hlen ha hrs => ?_, fun a ha hm => invalidationAck_waits hv ha hm, fun id rs hlen ha hrs hafter => ?_⟩⟩
  · obtain ⟨t, v', e, h1, h2, h3, ht1, ht2, hsame⟩ := invalidationReceive_of hv hnew ha
    refine ⟨t, v', e, h1, h2, h3, fun x hx => ?_, fun x hx hno => (ht1 x).mpr ⟨hx, fun _ => hno⟩, fun x hx => ?_,
      fun x hx hno => (ht2 x).mpr ⟨hx, fun _ => hno⟩, hsame⟩
    · obtain ⟨hm, hno⟩ := (ht1 x).mp hx
      exact ⟨hm, fun hc => hno ((cacheOf_first d.val x).mpr hc)⟩
    · obtain ⟨hm, hno⟩ := (ht2 x).mp hx
      exact ⟨hm, fun hc => hno ((cacheOf_second d.val x).mpr hc)⟩
  · rw [invalidationAck_quiet hv hr hack ha hrs, if_pos (by omega)]
  · refine ⟨_, (invalidationAck_quiet hv hr hack ha hrs).trans (if_neg (by omega)), ?_, ?_, ?_⟩ <;> rw [hafter]
    · rfl
    · rfl
    · exact sameMemory_of_eq rfl rfl (fun _ => rfl)

/-- Settles O36. -/
theorem translationsAndInvalidations : Obligations.TranslationsAndInvalidations := ⟨walksAndAcknowledgments, invalidations⟩

end Sys2Proof.Cert
end

section
/-! SUPPORT. What the time slices of a partition leave (R350): they ask rectangles to be pre-empted and turn tenants, and change nothing
else; what a rectangle that leaves its cores leaves (R403). -/

namespace Sys2Proof.Machine

theorem Sparse.look_filter {β : Type} (q : Nat → Bool) (m : Sparse β) (k : Nat) :
    Sparse.look (m.filter (fun p => q p.1)) k = if q k then Sparse.look m k else none := by
  induction m with
  | nil => simp
  | cons p m ih =>
    obtain ⟨j, v⟩ := p
    by_cases hj : q j = true
    · rw [List.filter_cons_of_pos (p := fun p : Nat × β => q p.1) hj, Sparse.look, Sparse.look, ih]
      by_cases hk : k = j
      · subst hk
        simp [hj]
      · simp [hk]
    · rw [List.filter_cons_of_neg (p := fun p : Nat × β => q p.1) hj, Sparse.look, ih]
      by_cases hk : k = j
      · subst hk
        simp [hj]
      · simp [hk]

theorem Sparse.look_del {β : Type} (m : Sparse β) (k k' : Nat) : Sparse.look (Sparse.del m k) k' = if k' = k then none else Sparse.look m k' := by
  rw [Sparse.del, Sparse.look_filter (fun j => decide (j ≠ k))]
  by_cases h : k' = k <;> simp [h]

theorem Sparse.mem_put {β : Type} {v : β} {m : Sparse β} {k : Nat} {p : Nat × β} (h : p ∈ Sparse.put v m k) : p = (k, v) ∨ p ∈ m := by
  induction m with
  | nil => exact .inl (List.mem_singleton.mp h)
  | cons q m ih =>
    obtain ⟨j, u⟩ := q
    rw [Sparse.put] at h
    split at h
    · exact (List.mem_cons.mp h).imp id (List.mem_cons_of_mem _)
    · split at h
      · exact List.mem_cons.mp h
      · obtain rfl | h := List.mem_cons.mp h
        · exact .inr List.mem_cons_self
        · exact (ih h).imp id (List.mem_cons_of_mem _)

theorem Sparse.mapAll_mapAll {β : Type} (f g : Nat → β → β) (m : Sparse β) :
    Sparse.mapAll g (Sparse.mapAll f m) = Sparse.mapAll (fun k v => g k (f k v)) m := by
  rw [Sparse.mapAll, Sparse.mapAll, List.map_map]
  rfl

theorem Sparse.mapAll_id {β : Type} {f : Nat → β → β} (h : ∀ k v, f k v = v) (m : Sparse β) : Sparse.mapAll f m = m := by
  rw [Sparse.mapAll]
  exact (List.map_congr_left fun p _ => by rw [h]; rfl).trans (List.map_id m)

/-- Rectangles with other requests to move. -/
def movedBy (g : Nat → Rect → Option MoveKind) (rs : Sparse Rect) : Sparse Rect := Sparse.mapAll (fun r x => { x with moving := g r x }) rs

/-- The state with its rectangles asked to move and other tenants. -/
def State.slicedBy (s : State) (g : Nat → Rect → Option MoveKind) (ts : Sparse Tenant) : State := { s with rects := movedBy g s.rects, tenants := ts }

/-- Only tenants differ, and what rectangles are asked to do. -/
def State.Sliced (s t : State) : Prop := ∃ g ts, t = s.slicedBy g ts

theorem movedBy_same (rs : Sparse Rect) : movedBy (fun _ x => x.moving) rs = rs := Sparse.mapAll_id (fun _ _ => rfl) rs

theorem State.sliced_modTenant (s : State) (k : Nat) (f : Tenant → Tenant) : s.Sliced (s.modTenant k f) :=
  ⟨fun _ x => x.moving, _, by rw [State.slicedBy, movedBy_same]; rfl⟩

theorem State.Sliced.refl (s : State) : s.Sliced s := ⟨fun _ x => x.moving, s.tenants, by rw [State.slicedBy, movedBy_same]⟩

theorem State.Sliced.trans {s t u : State} (h : s.Sliced t) (h' : t.Sliced u) : s.Sliced u := by
  obtain ⟨g, ts, rfl⟩ := h
  obtain ⟨g', ts', rfl⟩ := h'
  refine ⟨fun r x => g' r { x with moving := g r x }, ts', ?_⟩
  have : movedBy g' (movedBy g s.rects) = movedBy (fun r x => g' r { x with moving := g r x }) s.rects := Sparse.mapAll_mapAll _ _ _
  rw [State.slicedBy, State.slicedBy, State.slicedBy, this]

theorem State.sliced_swapOut (s : State) (part tag : Nat) : s.Sliced (s.swapOut part tag) := by
  refine State.Sliced.trans (t := s.slicedBy (fun _ x => if x.tag = tag ∧ x.phase.occupies ∧ x.moving.isNone then some .preempt else x.moving) s.tenants)
    ⟨_, _, rfl⟩ ?_
  have : movedBy (fun _ x => if x.tag = tag ∧ x.phase.occupies ∧ x.moving.isNone then some .preempt else x.moving) s.rects
      = Sparse.mapAll (fun _ x => if x.tag = tag ∧ x.phase.occupies ∧ x.moving.isNone then { x with moving := some .preempt } else x) s.rects := by
    refine congrArg (fun f => Sparse.mapAll f s.rects) (funext fun r => funext fun x => ?_)
    dsimp only
    by_cases h : x.tag = tag ∧ x.phase.occupies ∧ x.moving.isNone
    · rw [if_pos h, if_pos h]
    · rw [if_neg h, if_neg h]
  rw [State.slicedBy, this, State.swapOut]
  exact State.sliced_modTenant _ _ _

theorem State.sliced_makeRoom (part need fuel : Nat) {s t : State} (h : State.makeRoom part need fuel s = some t) : s.Sliced t := by
  induction fuel generalizing s with
  | zero => cases h
  | succ fuel ih =>
    rw [State.makeRoom] at h
    split at h
    · cases h
      exact .refl _
    · split at h
      · cases h
      · split at h
        · exact (s.sliced_swapOut _ _).trans (ih h)
        · cases h

theorem State.sliced_timeSlice (s : State) (part : Nat) : s.Sliced (s.timeSlice part) := by
  rw [State.timeSlice]
  split
  · exact .refl _
  · split
    · exact .refl _
    · split
      · exact .refl _
      · next h => exact (State.sliced_makeRoom _ _ _ h).trans (State.sliced_modTenant _ _ _)

theorem State.sliced_releaseIdle (s : State) (part tag : Nat) : s.Sliced (s.releaseIdle part tag) := by
  rw [State.releaseIdle]
  split
  · exact (s.sliced_modTenant _ _).trans (State.sliced_timeSlice _ _)
  · exact .refl _

theorem State.Sliced.mem {s t : State} (h : s.Sliced t) : t.mem = s.mem := by
  obtain ⟨_, _, rfl⟩ := h
  rfl

theorem State.Sliced.peer {s t : State} (h : s.Sliced t) : t.peer = s.peer := by
  obtain ⟨_, _, rfl⟩ := h
  rfl

theorem State.Sliced.parts {s t : State} (h : s.Sliced t) : t.parts = s.parts := by
  obtain ⟨_, _, rfl⟩ := h
  rfl

theorem State.Sliced.rect {s t : State} (h : s.Sliced t) (r : Nat) : ∃ m, t.rect r = { s.rect r with moving := m } := by
  obtain ⟨g, ts, rfl⟩ := h
  rw [State.rect, State.rect, State.slicedBy, movedBy, Sparse.at_mapAll, Sparse.at]
  cases s.rects.look r with
  | none => exact ⟨_, rfl⟩
  | some x => exact ⟨g r x, rfl⟩

theorem State.Sliced.look_none {s t : State} (h : s.Sliced t) {r : Nat} (hr : s.rects.look r = none) : t.rects.look r = none := by
  obtain ⟨g, ts, rfl⟩ := h
  rw [State.slicedBy, movedBy, Sparse.look_mapAll, hr]
  rfl

theorem State.Sliced.core {s t : State} (h : s.Sliced t) (c : CoreRef) : t.core c = s.core c := by
  obtain ⟨m, e⟩ := h.rect c.rect
  rw [State.core, State.core, e]

/-! ## A block of switch boxes -/

/-- The state with other tags and masks on its switch boxes. -/
def State.stamped (s : State) (bt : Sparse Nat) (em : Sparse (BitVec 4)) : State := { s with boxTags := bt, edgeMasks := em }

theorem State.stamp_eq (s : State) (px py w h tag : Nat) : ∃ bt em, s.stamp px py w h tag = s.stamped bt em := by
  rw [State.stamp]
  generalize blockAt px py w h = l
  suffices H : ∀ bt em, ∃ bt' em', l.foldl _ (s.stamped bt em) = s.stamped bt' em' from H s.boxTags s.edgeMasks
  induction l with
  | nil => exact fun bt em => ⟨bt, em, rfl⟩
  | cons p l ih => exact fun bt em => ih _ _

/-- The state once a rectangle has left its cores with every request of it, before the slices are turned (R403). -/
def State.leftBy (s : State) (r : Nat) : State :=
  let x := s.rect r
  let s1 := if x.phase.occupies then s.stamp x.px x.py x.w x.h 0 else s
  { s1 with
    rects := Sparse.del s1.rects r,
    accesses := s1.accesses.filter (fun a => decide (a.task.rect ≠ r)),
    walks := s1.walks.filter (fun w => !x.asks r w.who),
    refused := s1.refused.filter (fun w => !x.asks r w.who),
    launches := s1.launches.filter (fun (l : Launch) => !(l.src.ofRect r && decide (l.phase = AdmPhase.reserved))),
    calls := s1.calls.filter (fun c => !(decide (c.task.rect = r) && !c.submitted)),
    stages := Sparse.mapAll (fun _ g => { g with rects := g.rects.filter (fun k => decide (k ≠ r)) }) s1.stages }

theorem State.leftBy_keeps (s : State) (r : Nat) : (s.leftBy r).mem = s.mem ∧ (s.leftBy r).peer = s.peer ∧ (s.leftBy r).rects = Sparse.del s.rects r := by
  rw [State.leftBy]
  dsimp only
  split
  · obtain ⟨bt, em, e⟩ := s.stamp_eq (s.rect r).px (s.rect r).py (s.rect r).w (s.rect r).h 0
    rw [e]
    exact ⟨rfl, rfl, rfl⟩
  · exact ⟨rfl, rfl, rfl⟩

theorem State.sliced_removeRect (s : State) (r : Nat) : (s.leftBy r).Sliced (s.removeRect r) := State.sliced_releaseIdle _ _ _

/-- R403: a rectangle that leaves its cores is gone; the memories stand. -/
theorem State.removeRect_keeps (s : State) (r : Nat) : (s.removeRect r).mem = s.mem ∧ (s.removeRect r).peer = s.peer ∧ (s.removeRect r).rects.look r = none := by
  obtain ⟨hm, hp, hr⟩ := s.leftBy_keeps r
  have h := s.sliced_removeRect r
  exact ⟨h.mem.trans hm, h.peer.trans hp, h.look_none (by rw [hr, Sparse.look_del, if_pos rfl])⟩

end Sys2Proof.Machine
end

section
/-! PROOF. Quanta and replicas (R350, R353 to R355). -/

namespace Sys2Proof.Cert

open Sys2Proof.Machine
open Host (Outcome)

section
variable {s : State} {part k : Nat}

/-- R350: what a quantum's end gives to a tenant that is resident. -/
def turned (t : Tenant) : Tenant :=
  if t.resident then { t with vs := t.vs.add (Q.div (Q.ofInt 1) (Q.ofInt t.wt)), quanta := t.quanta + 1 } else t

theorem mem_tenantsOf_modTenant {f : Tenant → Tenant} {j : Nat} (h : j ∈ (s.modTenant k f).tenantsOf part) : j = k ∨ j ∈ s.tenantsOf part := by
  obtain ⟨p, hp, rfl⟩ := List.mem_map.mp h
  obtain ⟨hmem, hpart⟩ := List.mem_filter.mp hp
  obtain rfl | hmem := Sparse.mem_put hmem
  · exact .inl rfl
  · exact .inr (List.mem_map.mpr ⟨p, List.mem_filter.mpr ⟨hmem, hpart⟩, rfl⟩)

/-- R350: where every tenant is resident, no slice is turned. -/
theorem timeSlice_of_resident (h : ∀ j ∈ s.tenantsOf part, (s.tenant j).resident = true) : s.timeSlice part = s := by
  have hw : s.waiters part = [] := by
    rw [State.waiters, List.filter_eq_nil_iff]
    intro j hj
    rw [h j hj]
    exact Bool.false_ne_true
  rw [State.timeSlice, State.nextWaiter, hw]
  exact ite_self _

theorem quantumEnd_turns {p : Part} (hp : Sparse.look s.parts part = some p) (hdue : p.lastQ + s.quantum * 250000 ≤ s.partTime part)
    (ht : s.tenantsOf part = [k]) (hres : (s.tenant k).resident = true) : exec (.quantumEnd part) s = .next
      ((s.modTenant k (fun t => { t with vs := t.vs.add (Q.div (Q.ofInt 1) (Q.ofInt t.wt)), quanta := t.quanta + 1 })).modPart part
        (fun p => { p with lastQ := p.lastQ + s.quantumTicks })) := by
  have hpart : s.part part = p := by rw [State.part, Sparse.at, hp]; rfl
  have hturn : s.modTenant k (fun t => if t.resident then { t with vs := t.vs.add (Q.div (Q.ofInt 1) (Q.ofInt t.wt)), quanta := t.quanta + 1 }
      else if (s.pendingOf k).isEmpty then t else { t with quanta := t.quanta + 1 })
        = s.modTenant k (fun t => { t with vs := t.vs.add (Q.div (Q.ofInt 1) (Q.ofInt t.wt)), quanta := t.quanta + 1 }) := by
    rw [State.modTenant, State.modTenant, hres, if_pos rfl]
  change execQuantumEnd part s = _
  rw [execQuantumEnd, ht, hp, hpart]
  dsimp only
  rw [if_neg (by rw [State.quantumTicks]; simpa using hdue), List.foldl_cons, List.foldl_nil, hturn]
  refine congrArg Outcome.next (timeSlice_of_resident fun j hj => ?_)
  have hj' : j = k := by
    have hmem : j ∈ (s.modTenant k (fun t => { t with vs := t.vs.add (Q.div (Q.ofInt 1) (Q.ofInt t.wt)), quanta := t.quanta + 1 })).tenantsOf part := hj
    obtain rfl | h := mem_tenantsOf_modTenant hmem
    · rfl
    · rw [ht] at h
      exact List.mem_singleton.mp h
  subst hj'
  change (Sparse.at Tenant.absent (Sparse.put _ s.tenants j) j).resident = true
  rw [Sparse.at_put_same]
  exact hres

end

section
variable {s : State} {stage : Nat} {g : Stage}

/-- R354: nothing of a tenant is being swapped where none of its rectangles is asked to move. -/
theorem not_swapping (hruns : s.runs g.tag = true) (hm : ∀ p ∈ s.rects, p.2.moving = none) :
    (!s.runs g.tag || s.rects.any (fun p => decide (p.2.tag = g.tag) && p.2.moving == some MoveKind.preempt)) = false := by
  rw [hruns, Bool.not_true, Bool.false_or, List.any_eq_false]
  intro p hp
  rw [hm p hp]
  simp

/-- The launch that a replica is placed by (R354). -/
def replicaLaunch (s : State) (stage : Nat) (g : Stage) : Launch :=
  { id := s.nextId, part := g.part, tag := g.tag, src := .replica stage, addr := 0, cut := 0, phase := .chosen, lrec := g.lrec,
    frames := g.frames, arrival := s.nextId, head := none, boost := 0, copies := 1, stage := some stage }

/-- The state with one replica more on its way. -/
def addsReplica (s : State) (stage : Nat) (g : Stage) : State :=
  ({ s with nextId := s.nextId + 1, launches := s.launches ++ [replicaLaunch s stage g],
            stages := Sparse.put { g with changed := BitVec.ofNat 64 (s.partTime g.part) } s.stages stage } : State).modPart g.part
    (fun p => { p with chosen := some s.nextId, moved := [] })

theorem replicaEvaluate_adds (hg : Sparse.look s.stages stage = some g) (htp : (s.tenant g.tag).part = g.part) (hruns : s.runs g.tag = true)
    (hm : ∀ p ∈ s.rects, p.2.moving = none) (hmax : g.rects.length < g.rmax) (hmin : g.rects.length ≤ g.rmin)
    (harea : recBytes g.lrec 8 1 * recBytes g.lrec 9 1 ≤ s.freeArea g.tag) (hold : g.changed.toNat + 2000 ≤ s.partTime g.part)
    (hch : (s.part g.part).chosen = none) : exec (.replicaEvaluate g.part stage) s =
      if (s.freeWord 4).getLsbD 0 then .next (addsReplica s stage g) else .next s := by
  change execReplicaEvaluate g.part stage s = _
  rw [execReplicaEvaluate, hg]
  dsimp only
  rw [not_swapping hruns hm, htp, if_neg (by simp)]
  cases hb : (s.freeWord 4).getLsbD 0 with
  | true =>
    rw [if_pos ⟨rfl, hmax, harea, hold, by rw [hch]; rfl⟩]
    rfl
  | false => rw [if_neg (fun h => Bool.false_ne_true h.1), if_neg (fun h => absurd h.2.1 (not_lt.mpr hmin)), if_neg Bool.false_ne_true]

theorem replicaEvaluate_retires {r : Nat} (hg : Sparse.look s.stages stage = some g) (htp : (s.tenant g.tag).part = g.part)
    (hruns : s.runs g.tag = true) (hm : ∀ p ∈ s.rects, p.2.moving = none) (hr : g.rects.getLast? = some r) (hmax : g.rmax ≤ g.rects.length)
    (hmin : g.rmin < g.rects.length) (hold : g.changed.toNat + 16000 ≤ s.partTime g.part) (hret : (s.rect r).retiring = false)
    (hrun : (s.rect r).phase = .run) : exec (.replicaEvaluate g.part stage) s = if (s.freeWord 4).getLsbD 1 then
      .next { s.modRect r (fun x => { x with retiring := true }) with
        stages := Sparse.put { g with changed := BitVec.ofNat 64 (s.partTime g.part) } s.stages stage } else .next s := by
  change execReplicaEvaluate g.part stage s = _
  rw [execReplicaEvaluate, hg]
  dsimp only
  rw [not_swapping hruns hm, htp, if_neg (by simp), if_neg (fun h => absurd h.2.1 (not_lt.mpr hmax)), hr]
  dsimp only
  rw [hret, hrun]
  cases hb : (s.freeWord 4).getLsbD 1 with
  | true =>
    rw [if_pos ⟨rfl, hmin, hold⟩, if_pos rfl]
    exact if_neg (by simp)
  | false => rw [if_neg (fun h => Bool.false_ne_true h.1), if_neg Bool.false_ne_true]

end

/-- Settles O41. -/
theorem quantaAndReplicas : Obligations.QuantaAndReplicas := by
  intro s
  refine ⟨fun part k p hp hdue ht hres _ => ?_, fun stage g hg htp hruns hm => ⟨fun hmax hmin harea hold hch => ?_,
    fun r hr hmax hmin hold hret hrun => ?_⟩, fun r hret hrun hmov => ?_⟩
  · refine ⟨_, quantumEnd_turns hp hdue ht hres, ?_, ?_, ?_, sameMemory_of_eq rfl rfl (fun _ => rfl)⟩
    · rw [State.part, State.modPart, Sparse.at_put_same]
      change (Sparse.at _ s.parts part).lastQ + s.quantum * 250000 = _
      rw [Sparse.at, hp]
      rfl
    · exact congrArg Tenant.vs (Sparse.at_put_same _ _ s.tenants k)
    · exact congrArg Tenant.quanta (Sparse.at_put_same _ _ s.tenants k)
  · rw [replicaEvaluate_adds hg htp hruns hm hmax hmin harea hold hch]
    cases (s.freeWord 4).getLsbD 0 with
    | false => exact ⟨s, rfl, fun _ => rfl, nofun⟩
    | true =>
      refine ⟨_, rfl, nofun, fun _ => ⟨?_, replicaLaunch s stage g, rfl, rfl, rfl, rfl, rfl, rfl, rfl⟩⟩
      exact congrArg Part.chosen (Sparse.at_put_same _ _ _ _)
  · rw [replicaEvaluate_retires hg htp hruns hm hr hmax hmin hold hret hrun]
    cases (s.freeWord 4).getLsbD 1 with
    | false => exact ⟨s, rfl, hret, SameMemory.refl s⟩
    | true =>
      refine ⟨_, rfl, congrArg Rect.retiring (State.rect_modRect_same s r (fun x => { x with retiring := true })), ?_⟩
      exact (sameMemory_modRect s r (f := fun x => { x with retiring := true }) (fun _ => rfl)).trans (sameMemory_of_eq rfl rfl (fun _ => rfl))
  · have e : exec (.replicaRetireEnd r) s = if (s.freeWord 5).getLsbD 0 then .next (s.removeRect r) else .next s := by
      change execReplicaRetireEnd r s = _
      rw [execReplicaRetireEnd, hret, hrun, hmov]
      simp
    rw [e]
    cases (s.freeWord 5).getLsbD 0 with
    | false => exact ⟨s, rfl, rfl, rfl, nofun, fun _ => rfl⟩
    | true =>
      obtain ⟨h1, h2, h3⟩ := s.removeRect_keeps r
      exact ⟨_, rfl, h1, h2, fun _ => h3, nofun⟩

end Sys2Proof.Cert
end

section
/-! PROOF. Wear, power, cooling and the resets (R485, R486, R526 to R531). -/

namespace Sys2Proof.Cert

open Sys2Proof.Machine
open Host (Outcome)

theorem die_of_freshDies (k : Nat) : Sparse.at Die.off freshDies k = Die.off := by
  by_cases h : k < 4
  · interval_cases k <;> rfl
  · rw [Sparse.at, freshDies, Sparse.look, if_neg (by omega), Sparse.look, if_neg (by omega), Sparse.look, if_neg (by omega), Sparse.look,
      if_neg (by omega)]
    rfl

section
variable {s : State} {core hours : Nat}

theorem coreUnsafe_marks (hc : core < 256) (hd : s.disabled.contains core = false) (ha : (s.die (dieOf core)).announced = true)
    (hw : s.worn.contains core = false) (hh : hours < 720) :
    exec (.coreUnsafe core hours) s = .next { s with worn := s.worn ++ [core], wear := Sparse.put hours s.wear core } := by
  change execCoreUnsafe core hours s = _
  rw [execCoreUnsafe, hd, ha, hw, if_neg (by simpa using hc), if_neg Bool.false_ne_true, if_pos hh]

theorem coreUnsafe_disables (hc : core < 256) (hd : s.disabled.contains core = false) (ha : (s.die (dieOf core)).announced = true)
    (hw : s.worn.contains core = true) (hr : s.rects = []) :
    ∃ t, exec (.coreUnsafe core hours) s = .next t ∧ core ∈ t.disabled ∧ core ∉ t.worn := by
  refine ⟨?_, ?_, ?_, ?_⟩
  rotate_left
  · change execCoreUnsafe core hours s = _
    rw [execCoreUnsafe, hd, ha, hw, hr, if_neg (by simpa using hc), if_pos rfl, List.any_nil, if_neg Bool.false_ne_true]
  · exact List.mem_append_right _ (List.mem_singleton.mpr rfl)
  · intro h
    exact absurd (List.mem_filter.mp h).2 (by simp)

end

section
variable {s : State} {d : Fin 4} {v : Word}

theorem clampCap_range (v : Word) : 600 ≤ clampCap v ∧ clampCap v ≤ 2400
    ∧ (600 ≤ v.toNat % 65536 → v.toNat % 65536 ≤ 2400 → clampCap v = v.toNat % 65536) := by
  rw [clampCap]
  omega

/-- R526, R527: what the loss of MAIN leaves. -/
theorem mainLost_keeps (s : State) : s.mainLost.house.main = false ∧ s.mainLost.house.pfail = true ∧ s.mainLost.house.ready = false
    ∧ s.mainLost.rects = [] ∧ s.mainLost.mem = [] ∧ s.mainLost.minVersion = s.minVersion := ⟨rfl, rfl, rfl, rfl, rfl, rfl⟩

/-- R530: what a module reset leaves. -/
theorem moduleReset_keeps (s : State) : s.moduleReset.house.stage = 3 ∧ s.moduleReset.house.ready = false ∧ s.moduleReset.rects = []
    ∧ s.moduleReset.tenants = [] ∧ s.moduleReset.launches = [] ∧ s.moduleReset.store = s.store ∧ s.moduleReset.staged = s.staged
    ∧ s.moduleReset.minVersion = s.minVersion ∧ s.moduleReset.house.cap = s.house.cap
    ∧ ∀ k, (s.moduleReset.die k).announced = false ∧ (s.moduleReset.die k).timebase = 0 := by
  refine ⟨rfl, rfl, rfl, rfl, rfl, rfl, rfl, rfl, rfl, fun k => ?_⟩
  rw [show s.moduleReset.die k = Die.off from die_of_freshDies k]
  exact ⟨rfl, rfl⟩

theorem mainGood_starts (ha : s.house.aux = true) (hm : s.house.main = false) :
    ∃ t, exec .mainGood s = .next t ∧ t.house.main = true ∧ t.house.stage = 3 ∧ ∀ k, (t.die k).timebase = 0 := by
  refine ⟨?_, ?_, ?_, ?_, fun k => ?_⟩
  rotate_left
  · change execMainGood s = _
    rw [execMainGood, ha, hm, if_pos (by simp)]
  · rfl
  · rfl
  · exact congrArg Die.timebase (die_of_freshDies k)

theorem powerWindow_settles (watts : Nat) (hm : s.house.main = true) :
    ∃ t, exec (.powerWindow watts) s = .next t ∧ t.house.now = watts % 65536 ∧ (s.house.cap < watts % 65536 → t.house.capped = true)
      ∧ (100 * (watts % 65536) ≤ 97 * s.house.cap → t.house.capped = false) ∧ SameMemory s t := by
  refine ⟨?_, ?_, ?_, fun h => ?_, fun h => ?_, ?_⟩
  rotate_left
  · change execPowerWindow watts s = _
    rw [execPowerWindow, hm, if_neg (by simp)]
  · rfl
  · simp [h]
  · have h1 : ¬ s.house.cap < watts % 65536 := by omega
    have h2 : ¬ 97 * s.house.cap < 100 * (watts % 65536) := by omega
    simp [h1, h2]
  · exact sameMemory_of_eq rfl rfl (fun _ => rfl)

theorem auxGood_answers (ha : s.house.aux = false) :
    ∃ t, exec .auxGood s = .next t ∧ t.house.aux = true ∧ t.house.cap = 2400 ∧ t.house.pfail = false ∧ SameMemory s t := by
  refine ⟨?_, ?_, ?_, ?_, ?_, ?_⟩
  rotate_left
  · change execAuxGood s = _
    rw [execAuxGood, ha, if_neg Bool.false_ne_true]
  · rfl
  · rfl
  · rfl
  · exact sameMemory_of_eq rfl rfl (fun _ => rfl)

theorem auxLoss_silences (ha : s.house.aux = true) : ∃ t, exec .auxLoss s = .next t ∧ t.house.aux = false ∧ SameMemory s t := by
  refine ⟨?_, ?_, ?_, ?_⟩
  rotate_left
  · change execAuxLoss s = _
    rw [execAuxLoss, ha, if_pos rfl]
  · rfl
  · exact sameMemory_of_eq rfl rfl (fun _ => rfl)

end

/-- Settles O54. -/
theorem wearPowerAndResets : Obligations.WearPowerAndResets := by
  intro s d v temp core hours watts
  refine ⟨fun hr hw => if_pos ⟨hr, hw⟩, fun hc hd ha => ⟨coreUnsafe_marks hc hd ha, coreUnsafe_disables hc hd ha⟩,
    fun ha => ⟨⟨clampCap v, if_pos ha, clampCap_range v⟩, fun hb => if_pos ⟨ha, rfl, hb⟩, auxLoss_silences ha,
      fun hm => ⟨s.moduleReset, if_pos ⟨ha, hm, rfl⟩, moduleReset_keeps s⟩, fun hv => if_neg fun h => hv h.2.2, mainGood_starts ha⟩,
    auxGood_answers, fun hm => ⟨powerWindow_settles watts hm, fun h1 h2 => if_pos ⟨hm, h1, h2⟩, fun h1 h2 => if_pos ⟨hm, h1, h2⟩,
      fun h => ⟨s.mainLost, if_pos ⟨hm, h⟩, mainLost_keeps s⟩, ⟨s.mainLost, if_pos hm, mainLost_keeps s⟩,
      ⟨s.moduleReset, if_pos hm, moduleReset_keeps s⟩⟩⟩

end Sys2Proof.Cert
end

section
/-! PROOF. Boot, election and the broadcast (R13, R14, R420, R421). -/

namespace Sys2Proof.Machine

section
variable (s : State) (d k : Nat) (f : Die → Die)

@[simp] theorem State.die_modDie_same : (s.modDie d f).die d = f (s.die d) := Sparse.at_put_same _ _ _ _

theorem State.die_modDie_ne {k : Nat} (h : k ≠ d) : (s.modDie d f).die k = s.die k := Sparse.at_put_ne _ _ _ h

/-- A part of a die that a change of a die leaves. -/
theorem State.die_modDie_keeps {α : Type} (p : Die → α) (h : ∀ x, p (f x) = p x) : p ((s.modDie d f).die k) = p (s.die k) := by
  by_cases hk : k = d
  · subst hk
    rw [State.die_modDie_same, h]
  · rw [State.die_modDie_ne s d f hk]

end

theorem State.modDie_congr (s : State) (d : Nat) {f g : Die → Die} (h : f (s.die d) = g (s.die d)) : s.modDie d f = s.modDie d g := by
  rw [State.modDie, State.modDie, h]

theorem State.dieOfPart_congr {s t : State} (hm : t.mode = s.mode) (h : ∀ k, (t.die k).announced = (s.die k).announced) (p : Nat) :
    t.dieOfPart p = s.dieOfPart p := by
  rw [State.dieOfPart, State.dieOfPart, hm]
  simp only [h]

/-- R421: the first announced die, with none before it, heads the announced ones. -/
theorem State.announcedDies_head {s : State} {d : Nat} (hd : d < 4) (ha : (s.die d).announced = true) (hno : ∀ k < d, (s.die k).announced = false) :
    ∃ ds, s.announcedDies = d :: ds := by
  obtain ⟨n, hn⟩ := Nat.exists_eq_add_of_lt hd
  have hl : List.range 4 = List.range d ++ d :: (List.range n).map (fun i => d + 1 + i) := by
    rw [show 4 = d + 1 + n by omega, List.range_add, List.range_succ, List.append_assoc]
    rfl
  have hnil : (List.range d).filter (fun d => (s.die d).announced) = [] :=
    List.filter_eq_nil_iff.mpr fun k hk => by rw [hno k (List.mem_range.mp hk)]; exact Bool.false_ne_true
  rw [State.announcedDies, hl, List.filter_append, hnil, List.nil_append, List.filter_cons_of_pos (p := fun d => (s.die d).announced) ha]
  exact ⟨_, rfl⟩

theorem State.mem_announcedDies {s : State} {k : Nat} : k ∈ s.announcedDies ↔ k < 4 ∧ (s.die k).announced = true := by
  rw [State.announcedDies, List.mem_filter, List.mem_range]

/-- The state with dies held that differ in version (R421). -/
def State.holdDies (s : State) (v : Word) (ds : List Nat) : State :=
  ds.foldl (fun (s : State) d => s.modDie d (fun x => { x with held := decide (x.version ≠ v) })) s

/-- The state with other dies. -/
def State.withDies (s : State) (ds : Sparse Die) : State := { s with dies := ds }

theorem State.holdDies_eq (s : State) (v : Word) (ds : List Nat) : ∃ l, s.holdDies v ds = s.withDies l ∧ ∀ k,
    (s.withDies l).die k = if k ∈ ds then { s.die k with held := decide ((s.die k).version ≠ v) } else s.die k := by
  induction ds generalizing s with
  | nil => exact ⟨s.dies, rfl, fun k => rfl⟩
  | cons d ds ih =>
    obtain ⟨l, e, h⟩ := ih (s.modDie d (fun x => { x with held := decide (x.version ≠ v) }))
    refine ⟨l, e, fun k => ?_⟩
    refine (h k).trans ?_
    by_cases hk : k = d
    · subst hk
      rw [State.die_modDie_same, if_pos List.mem_cons_self]
      exact ite_self _
    · rw [State.die_modDie_ne _ _ _ hk]
      exact if_congr (by simp [hk]) rfl rfl

end Sys2Proof.Machine

namespace Sys2Proof.Cert

open Sys2Proof.Machine
open Host (Outcome)

section
variable {s : State} {d : Fin 4}

/-- A die that has booted the baseline image (R420). -/
def baselineDie (x : Die) : Die :=
  { x with announced := true, version := Config.baselineVersion, stagedFailed := false, m0 := extended Config.romMeasure,
           m1 := extended (Config.imageMeasure []), active := 0, failed := 0, adopter := none }

/-- The state once it has announced itself with clear granules. -/
def bootedBaseline (s : State) (d : Nat) : State :=
  { s.modDie d baselineDie with granules := s.granules.filter (fun g => decide (granuleDie g.1 ≠ d)),
                                house := { s.house with stage := max 4 s.house.stage } }

theorem dieBoot_eq (hm : s.house.main = true) (hst : 3 ≤ s.house.stage) (hr : s.house.ready = false) (ha : (s.die d.val).announced = false)
    (hs : s.staged = false) : exec (.dieBoot d none) s = .next (bootedBaseline s d.val) := by
  change execDieBoot d none s = _
  rw [execDieBoot, hm, hr, ha, hs]
  dsimp only
  rw [if_neg (by simpa using hst), if_neg Bool.false_ne_true, if_pos rfl]
  rfl

theorem dieBoot_baseline (hm : s.house.main = true) (hst : 3 ≤ s.house.stage) (hr : s.house.ready = false) (ha : (s.die d.val).announced = false)
    (hs : s.staged = false) : ∃ t, exec (.dieBoot d none) s = .next t ∧ (t.die d.val).announced = true ∧ (t.die d.val).version = Config.baselineVersion
      ∧ (t.die d.val).failed = 0 ∧ (t.die d.val).stagedFailed = false ∧ (∀ g ∈ t.granules, granuleDie g.1 ≠ d.val) ∧ 4 ≤ t.house.stage
      ∧ (∀ k, k ≠ d.val → t.die k = s.die k) ∧ SameMemory s t := by
  have hd : (bootedBaseline s d.val).die d.val = baselineDie (s.die d.val) := State.die_modDie_same s d.val baselineDie
  refine ⟨_, dieBoot_eq hm hst hr ha hs, ?_, ?_, ?_, ?_, fun g hg => of_decide_eq_true (List.mem_filter.mp hg).2, le_max_left 4 s.house.stage,
    fun k hk => State.die_modDie_ne s d.val _ hk, sameMemory_of_eq rfl rfl (fun _ => rfl)⟩ <;> rw [hd] <;> rfl

theorem election_takes_lowest (hr : s.house.ready = false) (ha : (s.die d.val).announced = true) (hno : ∀ k, k < d.val → (s.die k).announced = false) :
    ∃ t, exec .election s = .next t ∧ t.primary = some d.val ∧ t.timeDie = some d.val ∧ t.house.ready = true ∧ t.house.stage = 5
      ∧ (∀ k, k < 4 → (s.die k).announced = true → (t.die k).held = decide ((s.die k).version ≠ (s.die d.val).version)) ∧ SameMemory s t := by
  obtain ⟨ds, hds⟩ := State.announcedDies_head d.isLt ha hno
  obtain ⟨l, hl, hdie⟩ := s.holdDies_eq (s.die d.val).version (d.val :: ds)
  refine ⟨?_, ?_, ?_, ?_, ?_, ?_, fun k hk hak => ?_, ?_⟩
  rotate_left
  · change execElection s = _
    rw [execElection, hds]
    dsimp only
    rw [hr, if_neg Bool.false_ne_true, ← State.holdDies, hl]
  · rfl
  · rfl
  · rfl
  · rfl
  · have hmem : k ∈ d.val :: ds := hds ▸ State.mem_announcedDies.mpr ⟨hk, hak⟩
    refine (congrArg Die.held (hdie k)).trans ?_
    rw [if_pos hmem]
  · exact sameMemory_of_eq rfl rfl (fun _ => rfl)

theorem timeBroadcastReceive_of {p : Nat} (hp : s.timeDie = some p) (hne : p ≠ d.val) (ha : (s.die d.val).announced = true)
    (hf : (s.die p).failed ≠ 3#2) : exec (.timeBroadcastReceive d) s = .next (s.modDie d.val (fun x =>
      if (s.die p).timebase < x.timebase then { x with hold := true } else { x with timebase := (s.die p).timebase, hold := false })) := by
  change execTimeBroadcastReceive d s = _
  rw [execTimeBroadcastReceive, hp]
  dsimp only
  rw [if_neg (by rw [ha]; simp [hne.symm, hf])]

end

theorem bootAndElection : BootAndElection := by
  intro s d
  refine ⟨dieBoot_baseline, election_takes_lowest, fun p hp hne ha hf => ⟨fun h => ?_, fun h => ?_⟩⟩
  · rw [timeBroadcastReceive_of hp hne ha hf]
    exact congrArg Outcome.next (State.modDie_congr _ _ (if_pos h))
  · rw [timeBroadcastReceive_of hp hne ha hf]
    exact congrArg Outcome.next (State.modDie_congr _ _ (if_neg h))

end Sys2Proof.Cert
end

section
/-! PROOF. Failover, adoption and the decisions of the supervisor (R440 to R444). -/

namespace Sys2Proof.Machine

/-- The state with other work queues. -/
def State.withQueues (s : State) (qs : Sparse WorkQueue) : State := { s with queues := qs }

theorem State.admitTail_eq (s : State) (q tail : Nat) : ∃ qs, s.admitTail q tail = s.withQueues qs := by
  rw [State.admitTail]
  split
  · exact ⟨s.queues, rfl⟩
  · exact ⟨_, rfl⟩

theorem State.replayQueues_eq (s : State) (d : Nat) : ∃ qs, s.replayQueues d = s.withQueues qs := by
  rw [State.replayQueues]
  generalize s.queues = l
  induction l generalizing s with
  | nil => exact ⟨s.queues, rfl⟩
  | cons p l ih =>
    rw [List.foldl_cons]
    split
    · obtain ⟨qs, e⟩ := s.admitTail_eq p.1 p.2.vt
      obtain ⟨qs', e'⟩ := ih (s.admitTail p.1 p.2.vt)
      exact ⟨qs', e'.trans (by rw [e]; rfl)⟩
    · exact ih s

/-- R440: the one queue of a die reaches its verified tail. -/
theorem State.replayQueues_single {s : State} {d q : Nat} {k : WorkQueue} (hq : s.queues = [(q, k)]) (hd : s.dieOfPart (s.tenant k.tag).part = d) :
    s.replayQueues d = s.withQueues [(q, { k with tail := max k.tail k.vt })] := by
  have hlook : Sparse.look s.queues q = some k := by rw [hq, Sparse.look, if_pos rfl]
  have hqd : s.queueDie q = d := by rw [State.queueDie, hlook]; exact hd
  rw [State.replayQueues, hq, List.foldl_cons, List.foldl_nil, if_pos hqd, State.admitTail, hlook]
  dsimp only
  rw [hq, Sparse.put, if_pos rfl]
  rfl

/-- The least of the numbers below `n` that pass a test. -/
theorem find?_filter_range {n k : Nat} {p q : Nat → Bool} (hk : k ∈ (List.range n).filter p) (hq : q k = true)
    (hno : ∀ j ∈ (List.range n).filter p, j < k → q j = false) : ((List.range n).filter p).find? q = some k := by
  obtain ⟨hkn, hpk⟩ := List.mem_filter.mp hk
  rw [List.find?_filter, List.find?_range_eq_some]
  refine ⟨by rw [hpk, hq]; rfl, hkn, fun j hj => ?_⟩
  cases hpj : p j with
  | false => rfl
  | true => rw [hno j (List.mem_filter.mpr ⟨List.mem_range.mpr (hj.trans (List.mem_range.mp hkn)), hpj⟩) hj]; rfl

end Sys2Proof.Machine

namespace Sys2Proof.Cert

open Sys2Proof.Machine
open Host (Outcome)

section
variable {s : State} {d : Nat}

/-- A die whose standby takes over (R440). -/
def takenOver (x : Die) : Die := { x with failed := 1#2 <<< x.active.val, active := if x.active = 0 then 1 else 0 }

theorem failover_of (ha : (s.die d).announced = true) (hf : (s.die d).failed = 0) : s.failover d = (s.modDie d takenOver).replayQueues d := by
  have hne : ¬ ((0 : BitVec 2) ||| 1#2 <<< (s.die d).active.val = 3#2) := by
    generalize (s.die d).active = a
    revert a
    decide
  have hz : (0 : BitVec 2) ||| 1#2 <<< (s.die d).active.val = 1#2 <<< (s.die d).active.val := BitVec.zero_or
  rw [State.failover]
  dsimp only
  rw [ha, hf, if_neg (by decide), if_neg hne, hz]
  exact congrArg (fun t => State.replayQueues t d) (State.modDie_congr _ _ rfl)

theorem failover_takesOver (ha : (s.die d).announced = true) (hf : (s.die d).failed = 0) :
    (s.failover d).die d = takenOver (s.die d) ∧ (s.failover d).rects = s.rects ∧ SameMemory s (s.failover d)
      ∧ ∀ q k, s.queues = [(q, k)] → s.dieOfPart (s.tenant k.tag).part = d → (s.failover d).queues = [(q, { k with tail := max k.tail k.vt })] := by
  rw [failover_of ha hf]
  obtain ⟨qs, e⟩ := (s.modDie d takenOver).replayQueues_eq d
  refine ⟨?_, ?_, ?_, fun q k hq hd => ?_⟩
  · rw [e]
    exact State.die_modDie_same s d takenOver
  · rw [e]
    rfl
  · rw [e]
    exact sameMemory_of_eq rfl rfl (fun _ => rfl)
  · have hd' : (s.modDie d takenOver).dieOfPart ((s.modDie d takenOver).tenant k.tag).part = d :=
      (State.dieOfPart_congr (s := s) (t := s.modDie d takenOver) rfl (fun j => State.die_modDie_keeps s d j takenOver Die.announced (fun _ => rfl)) _).trans hd
    rw [State.replayQueues_single (s := s.modDie d takenOver) hq hd']
    rfl

theorem dieAdoption_adopts {d : Fin 4} {k : Nat} (ha : (s.die d.val).announced = true) (hf : (s.die d.val).failed = 3#2) (had : (s.die d.val).adopter = none)
    (hk : k ∈ dieNeighbours d.val) (hka : (s.die k).announced = true) (hkf : (s.die k).failed ≠ 3#2)
    (hno : ∀ j, j ∈ dieNeighbours d.val → j < k → (s.die j).announced = false ∨ (s.die j).failed = 3#2) :
    exec (.dieAdoption d) s = .next ((s.modDie d.val (fun x => { x with adopter := some k })).replayQueues d.val) := by
  have hfind : (dieNeighbours d.val).find? (fun k => (s.die k).announced && (s.die k).failed != 3#2) = some k := by
    refine find?_filter_range hk (by simp [hka, hkf]) fun j hj hlt => ?_
    obtain h | h := hno j hj hlt <;> simp [h]
  change execDieAdoption d s = _
  rw [execDieAdoption, ha, hf, had, hfind, if_neg (by decide)]

end

section
variable {s : State} {r : Nat} {q : QCause} {rest : List QCause}

theorem decision_of (hph : (s.rect r).phase = .run ∨ (s.rect r).phase = .boundary) (hs : (s.rect r).soft = none) (hq : (s.rect r).body.atSup = q :: rest)
    (hc : s.complexRuns (s.dieOfPart (s.rect r).part) = true) (dec : Decision) : exec (.partitionSupervisorDecision r dec) s = match dec with
      | .resume regs =>
        if (s.part (s.rect r).part).sup ∧ !(q.fabric ∧ (q.cause = 6 ∨ q.cause = 7)) then .next (s.resumeCause r q regs)
        else .next (s.endFor r q.cause)
      | .endRect | .pass => .next (s.endFor r q.cause) := by
  have hi : (s.rect r).phase.issues = true := by
    obtain h | h := hph <;> rw [h] <;> rfl
  change execPartitionSupervisorDecision r dec s = _
  rw [execPartitionSupervisorDecision, hq]
  dsimp only
  refine (if_neg ?_).trans ?_
  · rw [hi, hs, hc]
    decide
  · cases dec <;> rfl

theorem endFor_stops (s : State) (r cause : Nat) : ((s.endFor r cause).rect r).phase = .stopped
    ∧ (∃ detail, ((s.endFor r cause).rect r).verdict = some (1, 0x10 + cause, detail)) ∧ SameMemory s (s.endFor r cause) :=
  ⟨congrArg Rect.phase (State.rect_modRect_same s r _), ⟨_, congrArg Rect.verdict (State.rect_modRect_same s r _)⟩,
    sameMemory_modRect s r (fun _ => rfl)⟩

/-- R444: a task resumes at its TPC with one register set. -/
theorem resumeCause_sets (hq : (s.rect r).body.atSup = q :: rest) (hf : q.fabric = false) {n : Reg} (hn : n ≠ 0) (v : Word) :
    ((s.resumeCause r q [(n.val, v)]).rect r).body.atSup = rest ∧ SameMemory s (s.resumeCause r q [(n.val, v)])
      ∧ (let z := (s.resumeCause r q [(n.val, v)]).task ⟨r, q.core, q.slot⟩
         z.held = false ∧ z.pc = (s.task ⟨r, q.core, q.slot⟩).tpc ∧ z.wait = none ∧ z.reg n = v ∧ z.presence n = .full
         ∧ ∀ m, m ≠ n → z.reg m = (s.task ⟨r, q.core, q.slot⟩).reg m) := by
  have hfin : Fin.ofNat 64 n.val = n := Fin.ofNat_val_eq_self n
  have htask : (s.modBody r (fun b => { b with atSup := b.atSup.drop 1 })).task ⟨r, q.core, q.slot⟩ = s.task ⟨r, q.core, q.slot⟩ :=
    State.task_modBody_of_cores s r (f := fun b => { b with atSup := b.atSup.drop 1 }) (fun _ => rfl) _
  rw [State.resumeCause, hf, if_neg Bool.false_ne_true]
  refine ⟨?_, (sameMemory_modBody s r (f := fun b => { b with atSup := b.atSup.drop 1 }) (fun _ => rfl)).trans (sameMemory_modTask _ _ _), ?_⟩
  · rw [State.body_modTask_atSup, State.body_modBody_same]
    dsimp only
    rw [hq]
    rfl
  · rw [State.task_modTask_same, htask, List.foldl_cons, List.foldl_nil, if_pos n.isLt, hfin]
    exact ⟨rfl, rfl, rfl, Task.reg_write_same _ n v hn, (Task.presence_write _ n n v).trans (by simp), fun m hm => Task.reg_write_ne _ v hm⟩

end

theorem failoverAndDecisions : FailoverAndDecisions := by
  intro s d
  refine ⟨fun ha hf i hi => ?_, fun ha hf had k hk hka hkf hno => ?_, fun ha hf => ?_, fun r q rest => ?_⟩
  · have hi' : exec i s = .next (s.failover d.val) := by
      obtain rfl | rfl | rfl : i = .lockstepMismatch d ∨ i = .heartbeatTimeout d ∨ i = .doubleFault d := by simpa using hi
      · rfl
      · rfl
      · rfl
    exact ⟨_, hi', failover_takesOver ha hf⟩
  · refine ⟨_, dieAdoption_adopts ha hf had hk hka hkf hno, ?_⟩
    obtain ⟨qs, e⟩ := (s.modDie d.val (fun x => { x with adopter := some k })).replayQueues_eq d.val
    rw [e]
    exact ⟨State.die_modDie_same s d.val (fun x => { x with adopter := some k }), rfl, sameMemory_of_eq rfl rfl (fun _ => rfl)⟩
  · exact if_pos (by rw [ha]; simp [hf])
  · intro y hph hs hq hc
    refine ⟨fun n v hsup hfab hn => ⟨_, (decision_of hph hs hq hc _).trans (if_pos ⟨hsup, by simp [hfab]⟩), resumeCause_sets hq hfab hn v⟩, fun dec hdec => ?_⟩
    have he : exec (.partitionSupervisorDecision r dec) s = .next (s.endFor r q.cause) := by
      rw [decision_of hph hs hq hc]
      cases dec with
      | resume regs =>
        refine if_neg fun ⟨hsup, hno⟩ => ?_
        obtain h | h | h | h := hdec
        · cases h
        · cases h
        · exact Bool.false_ne_true (h.symm.trans hsup)
        · simp [h] at hno
      | endRect => rfl
      | pass => rfl
    obtain ⟨h1, ⟨detail, h2⟩, h3⟩ := endFor_stops s r q.cause
    exact ⟨_, detail, he, h1, h2, h3⟩

/-- Settles O53. -/
theorem bootElectionAndFailover : Obligations.BootElectionAndFailover := ⟨bootAndElection, failoverAndDecisions⟩

end Sys2Proof.Cert
end

section
/-! SUPPORT. Answers to a launch (R377, R379): they change rectangles alone; what the register and the timeline of the launcher hold then. -/

namespace Sys2Proof.Machine

/-- The state with other rectangles. -/
def State.withRects (s : State) (rs : Sparse Rect) : State := { s with rects := rs }

section
variable {s : State} {t : TaskRef} {y : Rect}

theorem State.rect_of_look {r : Nat} (h : s.rects.look r = some y) : s.rect r = y := by
  rw [State.rect, Sparse.at, h]
  rfl

theorem State.answer_eq (s : State) (t : TaskRef) (reg : Nat) (p : Producer) (v : Word) : ∃ rs, s.answer t reg p v = s.withRects rs := by
  rw [State.answer]
  split
  · exact ⟨s.rects, rfl⟩
  · exact ⟨_, rfl⟩

theorem State.answerNumber_eq (s : State) (t : TaskRef) (tl num : Nat) : ∃ rs, s.answerNumber t tl num = s.withRects rs := by
  rw [State.answerNumber]
  split
  · exact ⟨s.rects, rfl⟩
  · exact ⟨_, rfl⟩

theorem State.answerLaunch_eq (s : State) (id : Nat) (src : LaunchSrc) (v : Option Word) : ∃ rs, s.answerLaunch id src v = s.withRects rs := by
  have hs : s = s.withRects s.rects := rfl
  match src with
  | .local t reg tl num =>
    obtain ⟨rs, e⟩ := s.answer_eq t reg (.launch id) (v.getD (BitVec.ofNat 64 num))
    obtain ⟨rs', e'⟩ := (s.withRects rs).answerNumber_eq t tl num
    rw [State.answerLaunch, e]
    split
    · exact ⟨rs', e'⟩
    · exact ⟨rs, rfl⟩
  | .remote t reg => exact s.answer_eq t reg _ _
  | .queue q e => exact ⟨_, hs⟩
  | .imported => exact ⟨_, hs⟩
  | .replica k => exact ⟨_, hs⟩

theorem State.look_answer (h : s.rects.look t.rect = some y) (reg : Nat) (p : Producer) (v : Word) :
    ∃ z, (s.answer t reg p v).rects.look t.rect = some z ∧ z.body = y.body.answer t reg p v true := by
  rw [State.answer, h, if_neg (show ¬ (some y).isNone = true from Bool.false_ne_true)]
  refine ⟨_, Sparse.look_put_same _ _ _, ?_⟩
  dsimp only
  rw [State.rect_of_look h]

theorem State.body_answerNumber (h : s.rects.look t.rect = some y) (tl num : Nat) :
    ((s.answerNumber t tl num).rect t.rect).body = y.body.modCore t.core (fun c => c.completeNumber tl num (y.cutAfter true)) := by
  rw [State.answerNumber, h]
  dsimp only
  rw [State.rect_modRect_same, Rect.body_wantCut, State.rect_setRect_same]

end

theorem Body.core_modCore_same (b : Body) (k : Nat) (f : Core → Core) : (b.modCore k f).core k = f (b.core k) := Body.core_setCore_same _ _ _

theorem Core.tasks_completeNumber (c : Core) (tl n cut : Nat) : (c.completeNumber tl n cut).tasks = c.tasks := rfl

/-- R377 step 6: the register of the LAUNCH, pending, has its value ready. -/
theorem Body.pres_answer {b : Body} {t : TaskRef} {reg : Nat} {p : Producer} (v : Word)
    (h : Sparse.at .full ((b.core t.core).task t.slot).pres reg = .empty p) :
    Sparse.at .full (((b.answer t reg p v true).core t.core).task t.slot).pres reg = .empty (.value v none) := by
  rw [Body.answer, Body.core_modCore_same, Core.task_modTask, if_pos rfl, if_pos h, if_pos rfl]
  exact Sparse.at_put_same _ _ _ _

end Sys2Proof.Machine
end

section
/-! PROOF. Launches submitted, received and refused (R377, R378). -/

namespace Sys2Proof.Cert

open Sys2Proof.Machine
open Host (Outcome)

/-- A field of one byte. -/
theorem recBytes_one (bs : List Byte) (o : Nat) : recBytes bs o 1 = (bs.getD o 0).toNat := by
  rw [recBytes, List.getD_eq_getElem?_getD]
  cases h : bs[o]? with
  | none =>
    rw [List.drop_eq_nil_of_le (List.getElem?_eq_none_iff.mp h)]
    rfl
  | some b =>
    obtain ⟨hlt, rfl⟩ := List.getElem?_eq_some_iff.mp h
    rw [List.drop_eq_getElem_cons hlt]
    change (bs[o]).toNat + 256 * joinBytes [] = _
    rw [joinBytes]
    rfl

section
variable {s : State} {l : Launch}

theorem launch_single (hl : s.launches = [l]) : s.launch l.id = some l := by
  rw [State.launch, hl, find?_singleton_of (p := fun m : Launch => decide (m.id = l.id)) (decide_eq_true rfl)]

theorem modLaunch_single (hl : s.launches = [l]) (f : Launch → Launch) : s.modLaunch l.id f = { s with launches := [f l] } := by
  rw [State.modLaunch, hl, List.map_cons, if_pos rfl]
  rfl

theorem launches_modLaunch (hl : s.launches = [l]) (f : Launch → Launch) : (s.modLaunch l.id f).launches = [f l] := by
  rw [modLaunch_single hl]

theorem launchSubmit_submits {t : TaskRef} {reg tl num : Nat} (hl : s.launches = [l]) (hsrc : l.src = .local t reg tl num) (hph : l.phase = .reserved)
    (hcut : l.cut ≤ (s.rect t.rect).complete) (ha : s.accesses = []) :
    exec (.launchSubmit l.id) s = .next { s with launches := [{ l with phase := .submitted }] } := by
  refine Eq.trans ?_ (congrArg Outcome.next (modLaunch_single hl fun l => { l with phase := .submitted }))
  change execLaunchSubmit l.id s = _
  rw [execLaunchSubmit, launch_single hl]
  dsimp only
  rw [hsrc]
  dsimp only
  rw [if_pos ⟨hph, hcut, by simp [ha], by simp [ha]⟩]

theorem pendingOf_none (hl : s.launches = [l]) (h : l.phase ≠ .pending) (tag : Nat) : s.pendingOf tag = [] := by
  rw [State.pendingOf, hl]
  simp [h]

/-- R346, R378: a launch that passed joins an empty queue at its head. -/
theorem joinQueue_alone (hl : s.launches = [l]) (hph : l.phase = .submitted) (rec_ : List Byte) (fs : List Frame) :
    ∃ n, (s.joinQueue l rec_ fs).launches = [{ l with
        phase := .pending, lrec := rec_, frames := fs, arrival := n, head := some (s.partTime l.part), copies := joinBytes ((rec_.drop 12).take 2) }]
      ∧ (s.joinQueue l rec_ fs).mem = s.mem ∧ (s.joinQueue l rec_ fs).peer = s.peer := by
  have hno : ∀ tag, s.pendingOf tag = [] := pendingOf_none hl (by rw [hph]; decide)
  obtain ⟨ts, e⟩ : ∃ ts, s.joinTurn l.part l.tag (recBytes rec_ 34 1 % 16) = { s with tenants := ts } := by
    rw [State.joinTurn, hno]
    exact ⟨_, rfl⟩
  rw [State.joinQueue]
  dsimp only
  rw [hno, e]
  refine ⟨s.nextId, ?_, rfl, rfl⟩
  refine (launches_modLaunch (s := ({ s with tenants := ts } : State).fresh.1) hl _).trans ?_
  rfl

theorem admissionReceive_passes {s1 s2 s3 : State} {rec_ hb bs : List Byte} (hl : s.launches = [l]) (hph : l.phase = .submitted) (hlrec : l.lrec = [])
    (h1 : s.tenantRead l.id l.part l.tag l.addr.toNat 64 = .ok s1 rec_)
    (h2 : s1.tenantRead l.id l.part l.tag (joinBytes (rec_.take 8)) 32 = .ok s2 hb)
    (hf : s2.recordFault l.tag rec_ (BitVec.ofNat 256 (joinBytes hb)) = none)
    (h3 : s2.tenantRead l.id l.part l.tag (joinBytes (rec_.take 8)) (32 * max 1 (imageCount (BitVec.ofNat 256 (joinBytes hb)))) = .ok s3 bs)
    (hi : imageFault (s3.tenant l.tag).scopeMax (s3.tenant l.tag).scopeStrict (4096 * (rec_.getD 32 0).toNat)
      (framesOf (max 1 (imageCount (BitVec.ofNat 256 (joinBytes hb)))) bs) = none) :
    exec (.admissionReceive l.id) s = .next (s3.joinQueue l rec_ (framesOf (max 1 (imageCount (BitVec.ofNat 256 (joinBytes hb)))) bs)) := by
  have himg : recBytes rec_ 0 8 = joinBytes (rec_.take 8) := rfl
  change execAdmissionReceive l.id s = _
  rw [execAdmissionReceive, launch_single hl]
  dsimp only
  rw [hph, hlrec, if_neg (by simp), List.isEmpty_nil, if_pos rfl, h1]
  dsimp only
  rw [himg, h2]
  dsimp only
  rw [hf]
  dsimp only
  rw [h3]
  dsimp only
  rw [recBytes_one, hi]

theorem admissionReceive_refuses {s1 s2 : State} {rec_ hb : List Byte} {reason detail : Nat} (hl : s.launches = [l]) (hph : l.phase = .submitted)
    (hlrec : l.lrec = []) (h1 : s.tenantRead l.id l.part l.tag l.addr.toNat 64 = .ok s1 rec_)
    (h2 : s1.tenantRead l.id l.part l.tag (joinBytes (rec_.take 8)) 32 = .ok s2 hb)
    (hf : s2.recordFault l.tag rec_ (BitVec.ofNat 256 (joinBytes hb)) = some (reason, detail)) :
    exec (.admissionReceive l.id) s = .next (s2.refuseLaunch l reason detail) := by
  have himg : recBytes rec_ 0 8 = joinBytes (rec_.take 8) := rfl
  change execAdmissionReceive l.id s = _
  rw [execAdmissionReceive, launch_single hl]
  dsimp only
  rw [hph, hlrec, if_neg (by simp), List.isEmpty_nil, if_pos rfl, h1]
  dsimp only
  rw [himg, h2]
  dsimp only
  rw [hf]

theorem launches_sliced {s t : State} (h : s.Sliced t) : t.launches = s.launches := by
  obtain ⟨_, _, rfl⟩ := h
  rfl

/-- R377 step 6: a launch of a core that is refused is gone, and its register has the reason and the detail. -/
theorem refuseLaunch_local {t : TaskRef} {reg tl num reason detail : Nat} {y : Rect} (hl : s.launches = [l]) (hsrc : l.src = .local t reg tl num)
    (hy : s.rects.look t.rect = some y) (hp : Sparse.at .full (s.task t).pres reg = .empty (.launch l.id)) :
    (s.refuseLaunch l reason detail).launches = [] ∧ Sparse.at .full ((s.refuseLaunch l reason detail).task t).pres reg
      = .empty (.value (BitVec.ofNat 64 (2 ^ 63 + reason * 2 ^ 32 + detail % 2 ^ 32)) none) := by
  obtain ⟨v, hv⟩ : ∃ v, v = BitVec.ofNat 64 (2 ^ 63 + reason * 2 ^ 32 + detail % 2 ^ 32) := ⟨_, rfl⟩
  obtain ⟨rs, e⟩ := s.answerLaunch_eq l.id l.src (some v)
  have href : s.refuseLaunch l reason detail = ((s.answerLaunch l.id l.src (some v)).dropLaunch l.id).releaseIdle l.part l.tag := by
    rw [State.refuseLaunch, hv, hsrc]
  have hsl := State.sliced_releaseIdle ((s.answerLaunch l.id l.src (some v)).dropLaunch l.id) l.part l.tag
  rw [← hv]
  constructor
  · rw [href, launches_sliced hsl, e]
    change s.launches.filter _ = []
    rw [hl]
    simp
  · have hcore : (s.refuseLaunch l reason detail).core t.coreRef = (s.answerLaunch l.id l.src (some v)).core t.coreRef := by
      rw [href]
      exact hsl.core _
    obtain ⟨z, hz, hzb⟩ := State.look_answer hy reg (.launch l.id) v
    have hb : ((s.answerLaunch l.id l.src (some v)).rect t.rect).body = z.body.modCore t.core (fun c => c.completeNumber tl num (z.cutAfter true)) := by
      rw [hsrc]
      exact State.body_answerNumber hz tl num
    have htask : (s.refuseLaunch l reason detail).task t = (z.body.core t.core).task t.slot := by
      rw [State.task, hcore, State.core]
      change (((s.answerLaunch l.id l.src (some v)).rect t.rect).body.core t.core).task t.slot = _
      rw [hb, Body.core_modCore_same, Core.task, Core.tasks_completeNumber]
      rfl
    rw [htask, hzb]
    refine Body.pres_answer v ?_
    rw [State.task, State.core] at hp
    change Sparse.at .full (((s.rect t.rect).body.core t.core).task t.slot).pres reg = _ at hp
    rwa [State.rect_of_look hy] at hp

theorem recordFault_shape (tag : Nat) (rec_ : List Byte) (hd : Frame) (h : recBytes rec_ 8 1 = 0 ∨ 16 < recBytes rec_ 8 1 ∨ recBytes rec_ 9 1 = 0
      ∨ 16 < recBytes rec_ 9 1 ∨ recBytes rec_ 8 1 ≠ imageW hd ∨ recBytes rec_ 9 1 ≠ imageH hd) :
    s.recordFault tag rec_ hd = some (0x01, recBytes rec_ 8 1 * 256 + recBytes rec_ 9 1) := by
  rw [State.recordFault]
  exact if_pos (by rwa [Nat.lt_one_iff, Nat.lt_one_iff])

theorem recordFault_lease (tag : Nat) (rec_ : List Byte) (hd : Frame) (hw1 : 1 ≤ recBytes rec_ 8 1) (hw : recBytes rec_ 8 1 ≤ 16)
    (hh1 : 1 ≤ recBytes rec_ 9 1) (hh : recBytes rec_ 9 1 ≤ 16) (hwi : recBytes rec_ 8 1 = imageW hd) (hhi : recBytes rec_ 9 1 = imageH hd)
    (hlease : (s.tenant tag).lease < recBytes rec_ 8 1 * recBytes rec_ 9 1 * recBytes rec_ 12 2) :
    s.recordFault tag rec_ hd = some (0x02, recBytes rec_ 8 1 * recBytes rec_ 9 1 * recBytes rec_ 12 2) := by
  rw [State.recordFault]
  refine (if_neg ?_).trans (if_pos (.inr (.inr hlease)))
  rintro (h | h | h | h | h | h)
  · exact absurd hw1 (not_le.mpr h)
  · exact absurd hw (not_le.mpr h)
  · exact absurd hh1 (not_le.mpr h)
  · exact absurd hh (not_le.mpr h)
  · exact h hwi
  · exact h hhi

end

theorem launchesReceived : LaunchesReceived := by
  intro s l hl
  refine ⟨fun t reg tl num hsrc hph hcut ha => launchSubmit_submits hl hsrc hph hcut ha,
    fun s1 s2 s3 rec_ hb bs hph hlrec h1 h2 => ⟨fun hf h3 hi hl3 => ?_, fun reason detail t reg tl num y hf hsrc hl2 hy _ _ hp => ?_⟩,
    fun rec_ hd tag => ⟨recordFault_shape tag rec_ hd, recordFault_lease tag rec_ hd⟩⟩
  · obtain ⟨n, hn⟩ := joinQueue_alone (s := s3) (hl3.trans hl) hph rec_ (framesOf (max 1 (imageCount (BitVec.ofNat 256 (joinBytes hb)))) bs)
    exact ⟨_, n, admissionReceive_passes hl hph hlrec h1 h2 hf h3 hi, hn⟩
  · exact ⟨_, admissionReceive_refuses hl hph hlrec h1 h2 hf, refuseLaunch_local (hl2.trans hl) hsrc hy hp⟩

end Sys2Proof.Cert
end

section
/-! PROOF. The choice among the launches that wait (R345 to R347). -/

namespace Sys2Proof.Cert

open Sys2Proof.Machine
open Host (Outcome)

section
variable {s : State} {l : Launch}

theorem pendingOf_single (hl : s.launches = [l]) (hph : l.phase = .pending) : s.pendingOf l.tag = [l] := by
  rw [State.pendingOf, hl]
  simp [hph]

theorem headsOf_single (hl : s.launches = [l]) (hph : l.phase = .pending) : s.headsOf l.tag = [l] := by
  rw [State.headsOf, pendingOf_single hl hph]
  simp

theorem headAt_single (hl : s.launches = [l]) (hph : l.phase = .pending) : s.headAt l.tag l.proc l.prio = some l := by
  rw [State.headAt, headsOf_single hl hph, find?_singleton_of (p := fun m : Launch => decide (m.proc = l.proc) && decide (m.prio = l.prio)) (by simp)]

theorem choice_single (hl : s.launches = [l]) (hph : l.phase = .pending) (ht : s.tenantsOf l.part = [l.tag]) (hr : (s.tenant l.tag).reserved = none)
    (ha : s.admissible l = true) : s.choice l.part = some l := by
  have hmay : s.mayChoose l.tag = [l] := by
    rw [State.mayChoose, headsOf_single hl hph, hr]
    simp [ha]
  have hfil : (s.tenantsOf l.part).filter (fun k => !(s.mayChoose k).isEmpty) = [l.tag] := by
    rw [ht, List.filter_cons_of_pos (by rw [hmay]; rfl)]
    rfl
  have hproc : [l].filter (fun m => decide (m.proc = l.proc)) = [l] := by simp
  rw [State.choice, hfil]
  change (match leastTurn _ ((s.mayChoose l.tag).map Launch.proc).eraseDups with
    | none => none
    | some p => firstLaunch ((s.mayChoose l.tag).filter (fun m => decide (m.proc = p)))) = some l
  rw [hmay]
  change firstLaunch ([l].filter (fun m => decide (m.proc = l.proc))) = some l
  rw [hproc]
  rfl

/-- The state once a launch is chosen, before the next of its queue comes to the head (R346). -/
def chosenState (s : State) (part : Nat) (l : Launch) : State :=
  ((s.modLaunch l.id (fun l => { l with phase := .chosen })).modTenant l.tag (fun t => { t with
    vt := t.vt.add (Q.div (Q.ofInt ((l.w * l.h * l.rmin : Nat) : Int)) (Q.ofInt t.wt)),
    vps := Sparse.put ((Sparse.at Q.zero t.vps l.proc).add (Q.div (Q.ofInt ((l.w * l.h * l.rmin : Nat) : Int))
      (Q.ofInt ((Sparse.at (1 : Nat) t.wps l.proc : Nat) : Int)))) t.vps l.proc,
    reserved := if t.reserved = some l.id then none else t.reserved })).modPart part (fun p => { p with chosen := some l.id, moved := [] })

theorem choose_single (hl : s.launches = [l]) (part : Nat) : s.choose part l = chosenState s part l := by
  have hls : (chosenState s part l).launches = [{ l with phase := .chosen }] := launches_modLaunch hl _
  have hno : (chosenState s part l).headsOf l.tag = [] := by
    rw [State.headsOf, pendingOf_none hls nofun]
    rfl
  change (match ((chosenState s part l).headsOf l.tag).find? (fun m => decide (m.proc = l.proc) && decide (m.prio = l.prio)) with
    | none => chosenState s part l
    | some m => _) = _
  rw [hno]
  rfl

theorem admissionChoice_chooses (hl : s.launches = [l]) (hph : l.phase = .pending) (hch : (s.part l.part).chosen = none)
    (ht : s.tenantsOf l.part = [l.tag]) (hr : (s.tenant l.tag).reserved = none) (ha : s.admissible l = true) :
    exec (.admissionChoice l.part) s = .next (chosenState s l.part l) := by
  change execAdmissionChoice l.part s = _
  rw [execAdmissionChoice, hch, if_neg (by decide), choice_single hl hph ht hr ha]
  dsimp only
  rw [choose_single hl]

theorem launchAgeing_gains {t : Nat} (hl : s.launches = [l]) (hph : l.phase = .pending) (hh : l.head = some t) (hb : l.boost < 3)
    (hdue : t + 250000 * (l.boost + 1) ≤ s.partTime l.part) :
    exec (.launchAgeing l.part l.tag l.proc l.prio) s = .next { s with launches := [{ l with boost := l.boost + 1 }] } := by
  refine Eq.trans ?_ (congrArg Outcome.next (modLaunch_single hl fun l => { l with boost := l.boost + 1 }))
  change execLaunchAgeing l.part l.tag l.proc l.prio s = _
  rw [execLaunchAgeing, headAt_single hl hph]
  dsimp only
  rw [hh]
  dsimp only
  rw [if_pos ⟨rfl, hb, hdue⟩]

theorem tenantReserve_reserves {t : Nat} (hl : s.launches = [l]) (hph : l.phase = .pending) (hh : l.head = some t)
    (hr : (s.tenant l.tag).reserved = none) (hfull : s.freeArea l.tag < l.w * l.h * l.rmin) (hdue : t + 25000 ≤ s.partTime l.part) :
    exec (.tenantReserve l.part l.tag l.proc l.prio) s = .next (s.modTenant l.tag (fun x => { x with reserved := some l.id })) := by
  have hadm : s.admissible l = false := by
    rw [State.admissible, decide_eq_false (not_le.mpr hfull)]
    rfl
  change execTenantReserve l.part l.tag l.proc l.prio s = _
  rw [execTenantReserve, headAt_single hl hph]
  dsimp only
  rw [hh]
  dsimp only
  rw [if_pos ⟨rfl, by rw [hr]; rfl, by rw [hadm]; rfl, hdue⟩]

end

theorem admissionChoice : AdmissionChoice := by
  intro s l t hl hph
  refine ⟨fun hch ht hr harea hruns => ?_, launchAgeing_gains hl hph, tenantReserve_reserves hl hph⟩
  refine ⟨_, admissionChoice_chooses hl hph hch ht hr ?_, launches_modLaunch hl _, ?_, ?_, sameMemory_of_eq rfl rfl (fun _ => rfl)⟩
  · rw [State.admissible, decide_eq_true harea, hruns]
    rfl
  · exact congrArg Part.chosen (Sparse.at_put_same _ _ _ _)
  · exact congrArg Tenant.vt (Sparse.at_put_same _ _ s.tenants _)

/-- Settles O39. -/
theorem launchesReceivedAndChosen : Obligations.LaunchesReceivedAndChosen := ⟨launchesReceived, admissionChoice⟩

end Sys2Proof.Cert
end

section
/-! PROOF. A launch placed, and a rectangle that ends (R348, R379, R403). -/

namespace Sys2Proof.Machine

theorem mem_blockAt {px py w h i j : Nat} (hi : i < w) (hj : j < h) : 16 * (py + j) + (px + i) ∈ blockAt px py w h :=
  List.mem_flatMap.mpr ⟨j, List.mem_range.mpr hj, List.mem_map.mpr ⟨i, List.mem_range.mpr hi, rfl⟩⟩

/-- R400: after the stamp of a block every switch box of it has the tag. -/
theorem State.boxTags_stamp {s : State} (px py w h tag : Nat) (hwf : Sparse.wf 0 s.boxTags = true) {p : Nat} (hp : p ∈ blockAt px py w h) :
    Sparse.get 0 (s.stamp px py w h tag).boxTags p = tag := by
  have key : ∀ (l : List Nat) (f : State → Nat → State), (∀ s q, (f s q).boxTags = Sparse.set 0 tag s.boxTags q) →
      ∀ s : State, Sparse.wf 0 s.boxTags = true → (p ∈ l ∨ Sparse.get 0 s.boxTags p = tag) → Sparse.get 0 (l.foldl f s).boxTags p = tag := by
    intro l f hf
    induction l with
    | nil => exact fun s _ h => h.resolve_left List.not_mem_nil
    | cons q l ih =>
      intro s hs h
      refine ih (f s q) (by rw [hf]; exact Sparse.wf_set tag q hs) ?_
      rw [hf, Sparse.get_set hs]
      by_cases hpq : p = q
      · exact .inr (if_pos hpq)
      · rw [if_neg hpq]
        exact h.imp (fun hm => (List.mem_cons.mp hm).resolve_left hpq) id
  exact key _ _ (fun _ _ => rfl) s hwf (.inl hp)

end Sys2Proof.Machine

namespace Sys2Proof.Cert

open Sys2Proof.Machine
open Host (Outcome)

section
variable {s : State} {l : Launch} {part px py : Nat}

/-- The state with the rectangle of a launch on its block (R348). -/
def placed (s : State) (l : Launch) (part px py : Nat) : State :=
  ((((s.fresh.1.stamp px py l.w l.h l.tag).setRect s.nextId { s.newRect l px py with stage := none }).modTenant l.tag
    (fun t => { t with resident := true })).dropLaunch l.id).modPart part (fun p => { p with chosen := none, moved := [] })

theorem launchPlace_places (hl : s.launches = [l]) (hch : (s.part part).chosen = some l.id) (hfree : s.freeBlock part 0 px py l.w l.h = true)
    (hseam : seamClash (s.newRect l px py).body.cores px py l.w l.h = false) (hbind : framesBind l.frames = false) (hcopies : l.copies ≤ 1)
    (hstage : l.stage = none) (hrmax : l.rmax ≤ 1) : exec (.launchPlace part px py) s = .next (placed s l part px py) := by
  have hst : (if l.stage.isSome then l.stage else if 1 < l.rmax then some l.id else none) = none := by
    rw [hstage]
    exact if_neg (not_lt.mpr hrmax)
  change execLaunchPlace part px py s = _
  rw [execLaunchPlace, hch, Option.bind_some, launch_single hl]
  dsimp only
  rw [hfree, hseam, hbind, hst, if_neg (by simp), if_pos hcopies]
  rfl

theorem rect_placed (s : State) (l : Launch) (part px py : Nat) :
    (placed s l part px py).rect s.nextId = { s.newRect l px py with stage := none } := State.rect_setRect_same _ _ _

theorem rect_placed_ne (s : State) (l : Launch) (part px py : Nat) {r : Nat} (h : r ≠ s.nextId) :
    (placed s l part px py).rect r = s.rect r := by
  obtain ⟨bt, em, e⟩ := s.fresh.1.stamp_eq px py l.w l.h l.tag
  change ((s.fresh.1.stamp px py l.w l.h l.tag).setRect s.nextId _).rect r = _
  rw [e]
  exact Sparse.at_put_ne _ _ _ h

theorem boxTags_placed (s : State) (l : Launch) (part px py : Nat) :
    (placed s l part px py).boxTags = (s.fresh.1.stamp px py l.w l.h l.tag).boxTags := by
  obtain ⟨bt, em, e⟩ := s.fresh.1.stamp_eq px py l.w l.h l.tag
  rw [placed, e]
  rfl

theorem placed_keeps (s : State) (l : Launch) (part px py : Nat) : (placed s l part px py).mem = s.mem ∧ (placed s l part px py).peer = s.peer
    ∧ (placed s l part px py).launches = s.launches.filter (fun m => decide (m.id ≠ l.id)) := by
  obtain ⟨bt, em, e⟩ := s.fresh.1.stamp_eq px py l.w l.h l.tag
  rw [placed, e]
  exact ⟨rfl, rfl, rfl⟩

/-- A number that completes joins what its timeline holds (R53). -/
theorem done_completeNumber (c : Core) (tl n cut : Nat) : ((c.completeNumber tl n cut).tline tl).done = (c.tline tl).done ++ [(n, cut)] := by
  rw [Core.completeNumber]
  exact congrArg Timeline.done (Sparse.at_put_same _ _ _ _)

end

section
variable {s : State} {r : Nat}

theorem atEnd_of (he : (s.rect r).body.eng = []) (ha : ∀ a ∈ s.accesses, a.task.rect ≠ r)
    (hc : ∀ c ∈ (s.rect r).body.cores, (∀ t ∈ c.2.tasks, t.2.occupied = false) ∧ (∀ p ∈ c.2.feeds, p.2.cmds = []) ∧ (∀ p ∈ c.2.sinks, p.2.cmds = [])
      ∧ c.2.engine.cmds = []) : s.atEnd r = true := by
  rw [State.atEnd, he, Bool.and_eq_true, Bool.and_eq_true, List.all_eq_true]
  refine ⟨⟨fun c hm => ?_, rfl⟩, ?_⟩
  · obtain ⟨ht, hf, hs, hm⟩ := hc c hm
    rw [Bool.and_eq_true, Bool.and_eq_true, Bool.and_eq_true, List.all_eq_true, List.all_eq_true, List.all_eq_true, hm]
    refine ⟨⟨⟨fun t hm => by rw [ht t hm]; rfl, fun p hm => by rw [hf p hm]; rfl⟩, fun p hm => by rw [hs p hm]; rfl⟩, rfl⟩
  · rw [Bool.not_eq_true', List.any_eq_false]
    exact fun a hm => by simpa using ha a hm

/-- RECTANGLE_COMPLETE of a rectangle with nothing left to do. -/
theorem rectangleComplete_atEnd (hv : (s.rect r).verdict = none) (hph : (s.rect r).phase = .run ∨ (s.rect r).phase = .boundary)
    (hs : (s.rect r).soft = none) (hret : (s.rect r).retiring = false) (hend : s.atEnd r = true) :
    exec (.rectangleComplete r) s = match (s.rect r).ending with
      | none => .next (s.modRect r (fun x => { x.wantCut (x.started + 1) with ending := some (x.started + 1) }))
      | some n => if n ≤ (s.rect r).complete ∧ (s.rect r).remote.isEmpty then
          .next (s.finishRect r 0 ((s.freeWord 2).toNat % 2 ^ 16) ((s.freeWord 3).toNat % 2 ^ 32)) else .next s := by
  have hi : (s.rect r).phase.issues = true := by
    obtain h | h := hph <;> rw [h] <;> rfl
  change execRectangleComplete r s = _
  rw [execRectangleComplete, hv]
  dsimp only
  refine (if_neg ?_).trans (if_neg ?_)
  · rw [hi, hs, hret]
    decide
  · rw [hend]
    decide

/-- R379: the number of the LAUNCH completes where the launcher runs, and the rectangle leaves. -/
theorem finishRect_local {u : TaskRef} {reg tl num status reason detail : Nat} (hstage : (s.rect r).stage = none)
    (hrem : recBytes (s.rect r).lrec 10 2 % 2 = 0) (han : (s.rect r).announced = true) (hsrc : (s.rect r).src = .local u reg tl num) :
    s.finishRect r status reason detail = (s.answerNumber u tl num).removeRect r := by
  have hp : s.posts r = true := by rw [State.posts, hstage]
  have hd : s.remoteDone r = .ok s () := by
    rw [State.remoteDone]
    exact if_neg (by rw [hrem]; decide)
  rw [State.finishRect, hp, if_neg (by decide), hd]
  dsimp only
  rw [han, hsrc]
  dsimp only
  rw [hstage]
  rfl

theorem core_removeRect {c : CoreRef} (h : c.rect ≠ r) : (s.removeRect r).core c = s.core c := by
  rw [(s.sliced_removeRect r).core]
  obtain ⟨-, -, hr⟩ := s.leftBy_keeps r
  rw [State.core, State.core, State.rect, State.rect, hr, Sparse.at, Sparse.look_del, if_neg h]
  rfl

end

/-- Settles O40. -/
theorem rectanglesStartAndEnd : Obligations.RectanglesStartAndEnd := by
  intro s
  refine ⟨fun part px py l hl hch hfree hseam hbind hcopies hstage hrmax hbt htag => ?_, fun r hv hph hs hret he ha hc => ⟨fun hend => ?_, ?_⟩⟩
  · obtain ⟨hm, hp, hls⟩ := placed_keeps s l part px py
    refine ⟨_, launchPlace_places hl hch hfree hseam hbind hcopies hstage hrmax, ?_, ?_, ?_, ?_, fun i j hi hj => ?_, hm, hp,
      fun r hr => rect_placed_ne s l part px py hr⟩
    · rw [hls, hl]
      simp
    · exact congrArg Part.chosen (Sparse.at_put_same _ _ _ _)
    · exact congrArg Tenant.resident (Sparse.at_put_same _ _ _ _)
    · dsimp only
      rw [rect_placed]
      exact ⟨rfl, rfl, rfl, rfl, rfl, rfl, rfl, rfl, rfl, rfl, rfl, rfl⟩
    · have hwf : Sparse.wf 0 s.fresh.1.boxTags = true := (congrArg (Sparse.wf 0) hbt).trans rfl
      rw [boxTags_placed]
      exact State.boxTags_stamp px py l.w l.h l.tag hwf (mem_blockAt hi hj)
  · refine ⟨s.modRect r (fun x => { x.wantCut (x.started + 1) with ending := some (x.started + 1) }), ?_, ?_, ?_, ?_⟩
    · rw [rectangleComplete_atEnd hv hph hs hret (atEnd_of he ha hc), hend]
    · exact congrArg Rect.ending (State.rect_modRect_same s r _)
    · rw [State.rect_modRect_same]
      exact Rect.requested_wantCut (Nat.lt_succ_self _)
    · exact sameMemory_modRect s r (fun x => Rect.body_wantCut x _)
  · intro n u reg tl num y hend hn hrem hstage hlrec han hsrc hu hy
    obtain ⟨rs, e⟩ := s.answerNumber_eq u tl num
    obtain ⟨hm, hp, hlook⟩ := (s.answerNumber u tl num).removeRect_keeps r
    refine ⟨(s.answerNumber u tl num).removeRect r, ?_, hlook, hm.trans (by rw [e]; rfl), hp.trans (by rw [e]; rfl), ?_⟩
    · rw [rectangleComplete_atEnd hv hph hs hret (atEnd_of he ha hc), hend]
      dsimp only
      rw [if_pos ⟨hn, by rw [hrem]; rfl⟩, finishRect_local hstage hlrec han hsrc]
    · rw [core_removeRect hu, State.core]
      change ((((s.answerNumber u tl num).rect u.rect).body.core u.core).tline tl).done = _
      rw [State.body_answerNumber hy, Body.core_modCore_same, done_completeNumber, State.core]
      change _ = (((s.rect u.rect).body.core u.core).tline tl).done ++ _
      rw [State.rect_of_look hy]

end Sys2Proof.Cert
end

section
/-! PROOF. Contexts saved, restored, exported and imported (R502 to R504, R507 to R509). -/

namespace Sys2Proof.Machine

/-- What a task and a scratchpad show of a core: the bytes, and the registers and the PC of every slot. -/
def Core.shown (c : Core) : List Host.Cell × (Nat → Sparse Word × BitVec 12) := (c.scratch, fun k => ((c.task k).regs, (c.task k).pc))

theorem Core.shown_of_held {c d : Core} (h : c.held = d.held) : c.shown = d.shown :=
  congrArg (fun p : Sparse Task × List Host.Cell => (p.2, fun k => ((Sparse.at Task.free p.1 k).regs, (Sparse.at Task.free p.1 k).pc))) h

theorem Core.shown_cutAtMost (n : Nat) (c : Core) : (c.cutAtMost n).shown = c.shown :=
  Prod.ext rfl (funext fun k => Sparse.at_mapAll_keeps (fun t : Task => (t.regs, t.pc)) Task.free (f := fun _ t => t.cutAtMost n) (fun _ _ => rfl) c.tasks k)

theorem Core.shown_dropMarks (c : Core) : c.dropMarks.shown = c.shown := rfl

theorem Task.reg_congr {t u : Task} (h : t.regs = u.regs) (r : Reg) : t.reg r = u.reg r := by
  rw [Task.reg, Task.reg, h]

/-- The logical state of a context, before its cut is complete (R503). -/
def Body.saved (b : Body) (n : Nat) : Body := { b with cores := Sparse.mapAll (fun _ c => (c.dropMarks).cutAtMost n) b.cores }

theorem Body.shown_saved (b : Body) (n c : Nat) : ((((b.saved n).commit n).cutTaken).core c).shown = (b.core c).shown := by
  rw [Core.shown_of_held (((b.saved n).heldAs_commit n).trans (Body.heldAs_cutTaken _) c)]
  exact Sparse.at_mapAll_keeps Core.shown Core.launch (f := fun _ c => (c.dropMarks).cutAtMost n)
    (fun _ c => (Core.shown_cutAtMost n _).trans (Core.shown_dropMarks c)) b.cores c

theorem Rect.haltAt_none {x : Rect} (h : x.halting = none) : x.haltAt = x := by rw [Rect.haltAt, h]

section
variable {s : State} {r : Nat}

theorem State.shown_setRect {x : Rect} (h : ∀ c, (x.body.core c).shown = ((s.rect r).body.core c).shown) (c : CoreRef) :
    ((s.setRect r x).core c).shown = (s.core c).shown := by
  rw [State.core, State.rect_setRect, State.core]
  split
  · next e => rw [h c.core, e]
  · rfl

theorem State.rects_stamp (s : State) (px py w h tag : Nat) : (s.stamp px py w h tag).rects = s.rects ∧ (s.stamp px py w h tag).mem = s.mem
    ∧ (s.stamp px py w h tag).peer = s.peer := by
  obtain ⟨bt, em, e⟩ := s.stamp_eq px py w h tag
  rw [e]
  exact ⟨rfl, rfl, rfl⟩

/-- The rectangle of a context that is saved with no cut in progress (R503). -/
def savedRect (s : State) (x : Rect) : Rect :=
  ({ x with
    started := x.started + 1, requested := false, undo := [],
    remote := x.remote.map (fun w => { w with cut := min w.cut (x.started + 1), seg := min w.seg (x.started + 1 - 1) }),
    ending := x.ending.map (fun m => min m (x.started + 1)), halting := none,
    body := x.body.saved (x.started + 1), phase := .swapped, moving := none, capsig := s.capSignature } : Rect).completeCut (x.started + 1)
      (x.body.saved (x.started + 1))

/-- R503: what a context that is saved at cut `started + 1` holds. -/
theorem State.saveContext_holds (hp : (s.rect r).prog = none) (hh : (s.rect r).halting = none) : ∃ y : Rect,
    (s.saveContext r).rects = Sparse.put y s.rects r ∧ (s.saveContext r).mem = s.mem ∧ (s.saveContext r).peer = s.peer
      ∧ y.phase = .swapped ∧ y.moving = none ∧ y.complete = (s.rect r).started + 1 ∧ y.capsig = s.capSignature ∧ (∃ b, y.record = some b)
      ∧ y.body = (((s.rect r).body.saved ((s.rect r).started + 1)).commit ((s.rect r).started + 1)).cutTaken := by
  obtain ⟨hr, hm, hpeer⟩ := (s.withdrawWalks r).rects_stamp (s.rect r).px (s.rect r).py (s.rect r).w (s.rect r).h 0
  rw [State.saveContext]
  dsimp only
  rw [hp, hh]
  refine ⟨savedRect s (s.rect r), ?_, hm, hpeer, rfl, rfl, rfl, rfl, ⟨_, rfl⟩, rfl⟩
  rw [Rect.haltAt_none rfl, State.setRect, hr]
  rfl

theorem bigBytes_length (n v : Nat) : (bigBytes n v).length = n := by rw [bigBytes, List.length_reverse, splitBytes_length]

theorem ecdsaSign_length (d k : Nat) (msg : List Byte) : (ecdsaSign d k msg).length = 96 := by
  rw [ecdsaSign, List.length_append, bigBytes_length, bigBytes_length]

end

theorem foldl_max_ge (l : List Nat) (n : Nat) : n ≤ l.foldl max n := by
  induction l generalizing n with
  | nil => exact le_refl n
  | cons a l ih => exact (le_max_left n a).trans (ih _)

end Sys2Proof.Machine

namespace Sys2Proof.Cert

open Sys2Proof.Machine
open Host (Outcome)

section
variable {s : State} {r : Nat}

theorem preempt_forbids (hph : (s.rect r).phase = .run) (hl : (s.rect r).reload = none) (hs : (s.rect r).soft = none)
    (hm : (s.rect r).moving = some .preempt) :
    exec (.preempt r) s = .next (s.setRect r { s.rect r with phase := .boundary, clock := s.rectClock r, bound := false }) := by
  refine (if_neg (by rw [hph]; decide)).trans ((if_neg (by rw [hph, hl, hs]; decide)).trans ?_)
  split
  · rfl
  · next h => exact absurd (hm.symm.trans h) nofun
  · next h => exact absurd (hm.symm.trans h) nofun

theorem preempt_freezes (hph : (s.rect r).phase = .boundary) (hc : ∀ c ∈ (s.rect r).body.cores, c.2.engine.cmds = []) :
    exec (.preempt r) s = .next (s.setRect r { s.rect r with phase := .freeze, frozen := true, bound := true }) := by
  have hb : (s.rect r).body.atBoundary = true := by
    rw [Body.atBoundary, List.all_eq_true]
    intro c hm
    rw [hc c hm]
    rfl
  change execPreempt r s = _
  rw [execPreempt, hph, if_pos rfl, hb, if_pos rfl]

theorem contextSaveComplete_saves (hph : (s.rect r).phase = .freeze) (hm : (s.rect r).moving = some .preempt) (hst : Still s r) :
    exec (.contextSaveComplete r) s = .next (s.saveContext r) := by
  obtain ⟨hnet, hacc⟩ := hst
  have hf : s.frozenStill r = true := by
    rw [State.frozenStill, hnet, Bool.and_eq_true, Bool.not_eq_true', List.any_eq_false]
    exact ⟨rfl, fun a ha => by simp [hacc a ha]⟩
  exact if_pos ⟨hph, hm, hf⟩

theorem contextSave_keeps (hp : (s.rect r).prog = none) (hh : (s.rect r).halting = none) :
    (((s.saveContext r).rect r).phase = .swapped ∧ ((s.saveContext r).rect r).moving = none
      ∧ ((s.saveContext r).rect r).complete = (s.rect r).started + 1 ∧ ((s.saveContext r).rect r).capsig = s.capSignature
      ∧ (∃ b, ((s.saveContext r).rect r).record = some b) ∧ SameMemory s (s.saveContext r)
      ∧ ∀ u k, ((s.saveContext r).task u).reg k = (s.task u).reg k ∧ ((s.saveContext r).task u).pc = (s.task u).pc) := by
  obtain ⟨y, hr, hm, hpeer, h1, h2, h3, h4, h5, hbody⟩ := State.saveContext_holds hp hh
  have hy : (s.saveContext r).rect r = y := by rw [State.rect, hr, Sparse.at_put_same]
  have hcore : ∀ c, ((s.saveContext r).core c).shown = (s.core c).shown := fun c =>
    (show ((s.saveContext r).core c).shown = ((s.setRect r y).core c).shown by
      rw [State.core, State.rect, hr]; rfl).trans (State.shown_setRect (fun c => by rw [hbody, Body.shown_saved]) c)
  rw [hy]
  refine ⟨h1, h2, h3, h4, h5, sameMemory_of_eq hm hpeer (fun c => congrArg Prod.fst (hcore c)), fun u k => ?_⟩
  have hu := congrFun (congrArg Prod.snd (hcore u.coreRef)) u.slot
  exact ⟨Task.reg_congr (congrArg Prod.fst hu) k, congrArg Prod.snd hu⟩

/-- A rectangle that is restored at a place (R508). -/
def restoredAt (x : Rect) (px py : Nat) : Rect :=
  { x with px := px, py := py, phase := .run, body := ({ x with px := px, py := py } : Rect).restored x.body }

theorem contextRestore_restores {px py : Nat} (hph : (s.rect r).phase = .swapped) (hv : (s.rect r).verdict = none)
    (hr : s.runs (s.rect r).tag = true) (hcap : (s.rect r).capsig = s.capSignature)
    (hfree : s.freeBlock (s.rect r).part r px py (s.rect r).w (s.rect r).h = true)
    (hseam : seamClash (s.rect r).body.cores px py (s.rect r).w (s.rect r).h = false) : exec (.contextRestore r px py) s =
      .next ((s.stamp px py (s.rect r).w (s.rect r).h (s.rect r).tag).setRect r (restoredAt (s.rect r) px py)) := by
  refine (if_neg ?_).trans ((if_neg (not_not.mpr hcap)).trans (if_pos ?_))
  · rw [hph, hv, hr]
    decide
  · rw [hfree, hseam]
    rfl

theorem contextRestore_refuses {px py : Nat} (hph : (s.rect r).phase = .swapped) (hv : (s.rect r).verdict = none)
    (hr : s.runs (s.rect r).tag = true) (hcap : (s.rect r).capsig ≠ s.capSignature) :
    exec (.contextRestore r px py) s = .next ((s.unrecoverable r 3).modRect r (fun y => { y with phase := .swapped })) := by
  refine (if_neg ?_).trans (if_pos hcap)
  rw [hph, hv, hr]
  decide

theorem sameMemory_unrecoverable (s : State) (r reason : Nat) : SameMemory s (s.unrecoverable r reason) :=
  (sameMemory_setRect (x := { s.rect r with phase := .stopped, verdict := some (1, 0x24, (s.freeWord 1).toNat % 2 ^ 32) }) (Body.HeldAs.refl _)).trans
    (sameMemory_of_eq rfl rfl (fun _ => rfl))

theorem rect_unrecoverable (s : State) (r reason : Nat) :
    (s.unrecoverable r reason).rect r = { s.rect r with phase := .stopped, verdict := some (1, 0x24, (s.freeWord 1).toNat % 2 ^ 32) } :=
  State.rect_setRect_same s r _

theorem sameMemory_stamp (s : State) (px py w h tag : Nat) : SameMemory s (s.stamp px py w h tag) := by
  obtain ⟨bt, em, e⟩ := s.stamp_eq px py w h tag
  rw [e]
  exact sameMemory_of_eq rfl rfl (fun _ => rfl)

theorem sameMemory_restored {s : State} {r : Nat} (px py : Nat) : SameMemory s (s.setRect r (restoredAt (s.rect r) px py)) := by
  refine sameMemory_of_eq rfl rfl fun c => ?_
  rw [State.core, State.rect_setRect, State.core]
  split
  · next e =>
    rw [e]
    change (((({ s.rect r with px := px, py := py } : Rect).restored (s.rect r).body).core c.core)).scratch = _
    rw [Rect.core_restored]
  · rfl

/-- R508: a task of a restored rectangle has its registers absent, their values saved. -/
theorem task_restoredAt (x : Rect) (px py c k : Nat) : ((restoredAt x px py).body.core c).task k = ((x.body.core c).task k).absentAll := by
  change ((({ x with px := px, py := py } : Rect).restored x.body).core c).task k = _
  rw [Rect.core_restored]
  exact Sparse.at_mapAll_of_default (d := Task.free) (f := fun _ t => t.absentAll) k rfl _

theorem contextExport_signs (hph : (s.rect r).phase = .swapped) (hv : (s.rect r).verdict = none) (ha : s.accesses = [])
    (he : (s.rect r).body.eng = []) (hrem : (s.rect r).remote = []) (hsup : (s.rect r).body.atSup = []) :
    ∃ t sig, exec (.contextExport r) s = .next t ∧ Sparse.at [] t.mailbox (s.rect r).part = s.contextOf r ++ sig ∧ sig.length = 96
      ∧ t.rect r = s.rect r ∧ SameMemory s t := by
  have hin : s.allInside r = true := by
    rw [State.allInside, ha, he, hrem, hsup]
    rfl
  exact ⟨_, _, if_pos ⟨hph, by rw [hv]; rfl, hin⟩, Sparse.at_put_same _ _ _ _, ecdsaSign_length _ _ _, rfl, sameMemory_of_eq rfl rfl (fun _ => rfl)⟩

end

theorem contextImport_of {s : State} {part tag : Nat} {bytes sig : List Byte} {tn : Tenant} (ht : s.tenants.look tag = some tn) (hp : tn.part = part) :
    ∃ t, exec (.contextImport part tag bytes sig) s = .next t ∧ t.mem = s.mem ∧ t.peer = s.peer ∧ (genuine bytes sig = false → t = s)
      ∧ ∀ b, genuine bytes sig = true → s.headerFits bytes = true → s.crockRoom tag = true →
          bodyFrom bytes (recBytes bytes 6 1) (recBytes bytes 7 1) = some b →
          ∃ n, s.nextId ≤ n ∧ (t.rect n).phase = .swapped ∧ (t.rect n).tag = tag ∧ (t.rect n).part = part ∧ (t.rect n).body = b := by
  have hpart : (s.tenant tag).part = part := by
    rw [State.tenant, Sparse.at, ht]
    exact hp
  change ∃ t, execContextImport part tag bytes sig s = _ ∧ _
  rw [execContextImport, ht]
  dsimp only
  rw [if_neg (by simp [hpart])]
  by_cases hg : (!genuine bytes sig || !s.headerFits bytes || !s.crockRoom tag) = true
  · rw [if_pos hg]
    refine ⟨s, rfl, rfl, rfl, fun _ => rfl, fun b h1 h2 h3 => ?_⟩
    rw [h1, h2, h3] at hg
    cases hg
  · rw [if_neg hg]
    have hgen : genuine bytes sig ≠ false := fun h => hg (by rw [h]; rfl)
    cases hb : bodyFrom bytes (recBytes bytes 6 1) (recBytes bytes 7 1) with
    | none => exact ⟨s, rfl, rfl, rfl, fun _ => rfl, nofun⟩
    | some b =>
      refine ⟨_, rfl, rfl, rfl, fun h => absurd h hgen, fun b' _ _ _ e => ?_⟩
      cases e
      refine ⟨(b.cores.flatMap (fun c => c.2.engine.cmds.map (·.id))).foldl max s.nextId + 1, (foldl_max_ge _ _).trans (Nat.le_succ _), ?_⟩
      exact ⟨congrArg Rect.phase (State.rect_setRect_same _ _ _), congrArg Rect.tag (State.rect_setRect_same _ _ _),
        congrArg Rect.part (State.rect_setRect_same _ _ _), congrArg Rect.body (State.rect_setRect_same _ _ _)⟩

/-- Settles O43. -/
theorem contextsSwapAndTravel : Obligations.ContextsSwapAndTravel := by
  intro s r
  refine ⟨fun hph hl hs hm => ?_, preempt_freezes, fun hph hd => if_pos ⟨hph, hd⟩, fun hph hm hst hp hh => ?_,
    fun px py hph hv hr => ⟨fun hcap hfree hseam => ?_, fun hcap => ?_⟩, contextExport_signs, fun part tag bytes sig tn => contextImport_of⟩
  · refine ⟨_, preempt_forbids hph hl hs hm, ?_, ?_, sameMemory_setRect (Body.HeldAs.refl _)⟩ <;> rw [State.rect_setRect_same]
  · exact ⟨_, contextSaveComplete_saves hph hm hst, contextSave_keeps hp hh⟩
  · obtain ⟨bt, em, e⟩ := s.stamp_eq px py (s.rect r).w (s.rect r).h (s.rect r).tag
    refine ⟨_, contextRestore_restores hph hv hr hcap hfree hseam, ?_, ?_, ?_, ?_, fun c k q ho h0 hf => ?_⟩
    · rw [State.rect_setRect_same]
      rfl
    · rw [State.rect_setRect_same]
      rfl
    · rw [State.rect_setRect_same]
      rfl
    · have hx : s.rect r = (s.stamp px py (s.rect r).w (s.rect r).h (s.rect r).tag).rect r := by rw [e]; rfl
      refine (sameMemory_stamp s px py (s.rect r).w (s.rect r).h (s.rect r).tag).trans ?_
      generalize s.stamp px py (s.rect r).w (s.rect r).h (s.rect r).tag = t at hx
      rw [hx]
      exact sameMemory_restored px py
    · obtain ⟨hpc, hreg⟩ := Task.absentAll_full ho
      dsimp only
      rw [State.rect_setRect_same, task_restoredAt]
      exact ⟨hpc, hreg q h0 hf⟩
  · refine ⟨_, (s.freeWord 1).toNat % 2 ^ 32, contextRestore_refuses hph hv hr hcap, ?_, ?_, ?_⟩
    · rw [State.rect_modRect_same]
    · rw [State.rect_modRect_same, rect_unrecoverable]
    · exact (sameMemory_unrecoverable s r 3).trans (sameMemory_modRect _ r (fun _ => rfl))

end Sys2Proof.Cert
end

section
/-! PROOF. The commands on work queues (R433, R435). -/

namespace Sys2Proof.Machine

theorem State.journaled_eq (s : State) (c : Cmd) (code : Nat) : ∃ j, s.journaled c code = { s with journal := j } := by
  rw [State.journaled]
  split
  · exact ⟨s.journal, rfl⟩
  · exact ⟨_, rfl⟩

end Sys2Proof.Machine

namespace Sys2Proof.Cert

open Sys2Proof.Machine
open Host (Outcome)

section
variable {s : State} {die tag : Nat} {args : List Word}

/-- How the result of a direct command is delivered (R427, R409). -/
def delivered (s0 : State) (c : Cmd) : CmdRes → State
  | .fail st => s0.finishCommand c.id true st []
  | .wait s1 => s1
  | .held s1 => s1
  | .done s1 rs => s1.finishCommand c.id true 0 rs
  | .inval s1 ranges rs => s1.startInval c.die ranges (.command c.id true rs)

/-- A direct command of a tenant that may give it has its effect (Table 18.1). -/
theorem runCommand_tenant {code op : Nat} {may : State → Cmd → Bool} {body : State → Cmd → CmdRes} (ht : Takes s die)
    (hs : (Sparse.look s.tenants tag).isSome = true) (hcode : code ≠ 5) (hmay : may s (tenantCmd s die tag args) = true) :
    runCommand code op may body (.direct die (.tenant tag) args) s
      = .next (delivered (inCommand s (tenantCmd s die tag args) code) (tenantCmd s die tag args)
          (body (inCommand s (tenantCmd s die tag args) code) (tenantCmd s die tag args))) := by
  obtain ⟨hready, hruns⟩ := ht
  have hcmd : s.cmdOf (.direct die (.tenant tag) args) code op = some (tenantCmd s die tag args) := if_neg fun h => hcode h.1
  have hiss : s.issuerOk (tenantCmd s die tag args) = true := hs
  rw [runCommand, hcmd]
  change (if (true && !s.house.ready) = true then _ else if (!s.complexRuns die) = true then _ else _) = _
  rw [hready, hruns, if_neg (by decide), if_neg (by decide)]
  dsimp only
  rw [hiss, hmay, if_neg (by decide)]
  change (match body (inCommand s (tenantCmd s die tag args) code) (tenantCmd s die tag args) with
    | .fail st => Outcome.next _
    | .wait s1 => _
    | .held s1 => _
    | .done s1 rs => _
    | .inval s1 ranges rs => _) = _
  cases body (inCommand s (tenantCmd s die tag args) code) (tenantCmd s die tag args) <;> rfl

theorem delivered_fail (s0 : State) (c : Cmd) (st : Nat) : (delivered s0 c (.fail st)).reply = (st, []) ∧ (delivered s0 c (.fail st)).queues = s0.queues :=
  ⟨rfl, rfl⟩

theorem delivered_done (s0 : State) (c : Cmd) (s1 : State) (rs : List (Nat × Word)) : (delivered s0 c (.done s1 rs)).reply = (0, rs)
    ∧ (delivered s0 c (.done s1 rs)).queues = s1.queues ∧ SameMemory s1 (delivered s0 c (.done s1 rs)) :=
  ⟨rfl, rfl, sameMemory_of_eq rfl rfl (fun _ => rfl)⟩

theorem inCommand_keeps (s : State) (c : Cmd) (code : Nat) : (inCommand s c code).queues = s.queues ∧ SameMemory s (inCommand s c code) := by
  obtain ⟨j, e⟩ := s.fresh.1.journaled_eq c code
  rw [inCommand, e]
  exact ⟨rfl, sameMemory_of_eq rfl rfl (fun _ => rfl)⟩

/-- Agreement on a key with a peer whose key is a point of the curve (R435). -/
theorem agreed_of {c : Cmd} {s0 s1 s2 s3 : State} {id va slot : Nat} {qp key reply : List Byte} {k : State → List Byte → List (Nat × Word) → CmdRes}
    (hr : c.read s0 va 96 = .ok s1 qp) (ha : s1.agree id qp = some (s2, key, reply)) (hw : c.write s2 (va + 96) reply = .ok s3 ()) :
    c.agreed s0 id va k slot = k s3 key [(slot, BitVec.ofNat 64 (va + 96))] := by
  rw [Cmd.agreed, Cmd.reading, hr]
  dsimp only
  rw [ha]
  dsimp only
  rw [Cmd.writing, hw]

theorem agreed_refused {c : Cmd} {s0 s1 : State} {id va slot : Nat} {qp : List Byte} {k : State → List Byte → List (Nat × Word) → CmdRes}
    (hr : c.read s0 va 96 = .ok s1 qp) (ho : onCurve (bigEndian (qp.take 48)) (bigEndian (qp.drop 48)) = false) :
    c.agreed s0 id va k slot = .fail 4 := by
  have ha : s1.agree id qp = none := by
    rw [State.agree]
    exact if_pos (by rw [ho]; rfl)
  rw [Cmd.agreed, Cmd.reading, hr]
  dsimp only
  rw [ha]

/-- The state with one queue other. -/
def withQueue (s : State) (id : Nat) (q : WorkQueue) : State := { s with queues := Sparse.put q s.queues id }

/-- A queue as QUEUE_CREATE makes it (R433). -/
def newQueue (c : Cmd) (key : List Byte) : WorkQueue :=
  { tag := c.arg 0, ring := BitVec.ofNat 64 (c.arg 1), logn := c.arg 2, comp := BitVec.ofNat 64 (c.arg 3), key := key, old := none, seq := 0, vt := 0,
    head := 0, tail := 0, drops := 0, done := 0, fails := [], quarantined := false, stopped := false }

/-- A queue with another key, the old one accepted for 1 ms (R435, R438). -/
def rekeyed (s : State) (q : WorkQueue) (key : List Byte) : WorkQueue :=
  { q with key := key, old := some (q.key, BitVec.ofNat 64 (s.partTime (s.tenant q.tag).part + 250000)), quarantined := false }

/-- QUEUE_CREATE where no queue stands: number 0 is free. -/
theorem queueCreate_agrees (ht : Takes s die) (hs : (Sparse.look s.tenants tag).isSome = true) (h0 : arg args 0 = tag) (h2 : 4 ≤ arg args 2)
    (h2' : arg args 2 ≤ 16) (h1 : arg args 1 < windowBase) (h3 : arg args 3 < windowBase) (hq : s.queues = []) :
    exec (.queueCreate (.direct die (.tenant tag) args)) s = .next (delivered (inCommand s (tenantCmd s die tag args) 0x0A) (tenantCmd s die tag args)
      ((tenantCmd s die tag args).agreed (inCommand s (tenantCmd s die tag args) 0x0A) 0 (arg args 4) (fun s3 key rs =>
        .done (withQueue s3 0 (newQueue (tenantCmd s die tag args) key)) ((0, 0) :: rs)) 1)) := by
  obtain ⟨hqs, -⟩ := inCommand_keeps s (tenantCmd s die tag args) 0x0A
  have hown : (tenantCmd s die tag args).own ((tenantCmd s die tag args).arg 0) = true := decide_eq_true h0.symm
  change execQueueCreate (.direct die (.tenant tag) args) s = _
  rw [execQueueCreate]
  refine (runCommand_tenant (code := 0x0A) ht hs (by decide) hown).trans (congrArg (fun b => Outcome.next (delivered _ _ b)) ?_)
  refine (if_neg ?_).trans ((if_neg ?_).trans ?_)
  · rintro (h | h | h | h)
    · exact absurd h2 (not_le.mpr h)
    · exact absurd h2' (not_le.mpr h)
    · exact absurd h1 (not_lt.mpr h)
    · exact absurd h3 (not_lt.mpr h)
  · rw [hqs, hq]
    decide
  · rw [hqs, hq]
    rfl

theorem ownQueue_of {q : WorkQueue} (hq : Sparse.look s.queues (arg args 0) = some q) (htag : q.tag = tag) (hst : q.stopped = false) :
    s.ownQueue (tenantCmd s die tag args) = true := by
  have hl : Sparse.look s.queues ((tenantCmd s die tag args).arg 0) = some q := hq
  have ho : (tenantCmd s die tag args).own q.tag = true := decide_eq_true htag.symm
  rw [State.ownQueue, hl]
  dsimp only
  rw [ho, hst]
  rfl

theorem queueKey_agrees {q : WorkQueue} (ht : Takes s die) (hs : (Sparse.look s.tenants tag).isSome = true)
    (hq : Sparse.look s.queues (arg args 0) = some q) (htag : q.tag = tag) (hst : q.stopped = false) :
    exec (.queueKey (.direct die (.tenant tag) args)) s = .next (delivered (inCommand s (tenantCmd s die tag args) 0x0B) (tenantCmd s die tag args)
      ((tenantCmd s die tag args).agreed (inCommand s (tenantCmd s die tag args) 0x0B) (arg args 0) (arg args 1) (fun s3 key rs =>
        .done (withQueue s3 (arg args 0) (rekeyed s3 q key)) rs) 0)) := by
  obtain ⟨hqs, -⟩ := inCommand_keeps s (tenantCmd s die tag args) 0x0B
  change execQueueKey (.direct die (.tenant tag) args) s = _
  rw [execQueueKey]
  refine (runCommand_tenant (code := 0x0B) ht hs (by decide) (ownQueue_of hq htag hst)).trans (congrArg (fun b => Outcome.next (delivered _ _ b)) ?_)
  have hl : Sparse.look (inCommand s (tenantCmd s die tag args) 0x0B).queues ((tenantCmd s die tag args).arg 0) = some q := by
    rw [hqs]
    exact hq
  rw [hl]
  rfl

theorem queueDestroy_stops {q : WorkQueue} (ht : Takes s die) (hs : (Sparse.look s.tenants tag).isSome = true)
    (hq : Sparse.look s.queues (arg args 0) = some q) (htag : q.tag = tag) (hst : q.stopped = false) :
    exec (.queueDestroy (.direct die (.tenant tag) args)) s = .next (delivered (inCommand s (tenantCmd s die tag args) 0x0C) (tenantCmd s die tag args)
      (.done (withQueue (inCommand s (tenantCmd s die tag args) 0x0C) (arg args 0) { q with stopped := true }) [])) := by
  obtain ⟨hqs, -⟩ := inCommand_keeps s (tenantCmd s die tag args) 0x0C
  change execQueueDestroy (.direct die (.tenant tag) args) s = _
  rw [execQueueDestroy]
  refine (runCommand_tenant (code := 0x0C) ht hs (by decide) (ownQueue_of hq htag hst)).trans (congrArg (fun b => Outcome.next (delivered _ _ b)) ?_)
  have hl : Sparse.look (inCommand s (tenantCmd s die tag args) 0x0C).queues ((tenantCmd s die tag args).arg 0) = some q := by
    rw [hqs]
    exact hq
  rw [hl]
  rfl

end

/-- Settles O48. -/
theorem queueCommands : Obligations.QueueCommands := by
  intro s die tag args a cmd c ht hs
  refine ⟨fun h0 h2 h2' h1 h3 hq s1 qp hr => ⟨fun _ s2 key reply s3 hag hw hq3 => ?_, fun ho => ?_⟩,
    fun q hq htag hst => ⟨fun s1 qp s2 key reply s3 hr hag hw => ?_, ?_⟩⟩
  · have e := queueCreate_agrees ht hs h0 h2 h2' h1 h3 hq
    rw [agreed_of hr hag hw] at e
    obtain ⟨hrep, hqs, -⟩ := delivered_done (inCommand s c 0x0A) c (withQueue s3 0 (newQueue c key)) [(0, 0), (1, BitVec.ofNat 64 (a 4 + 96))]
    refine ⟨_, e, hrep, newQueue c key, (congrArg (fun m => Sparse.look m 0) hqs).trans (Sparse.look_put_same _ _ _), h0, ?_, rfl, ?_, rfl, rfl, rfl, rfl,
      rfl, rfl, rfl, rfl⟩
    · exact (BitVec.ofNat_toNat _ _).trans (BitVec.setWidth_eq _)
    · exact (BitVec.ofNat_toNat _ _).trans (BitVec.setWidth_eq _)
  · have e := queueCreate_agrees ht hs h0 h2 h2' h1 h3 hq
    rw [agreed_refused hr ho] at e
    obtain ⟨hrep, hqs⟩ := delivered_fail (inCommand s c 0x0A) c 4
    exact ⟨_, e, hrep, hqs.trans ((inCommand_keeps s c 0x0A).1.trans hq)⟩
  · have e := queueKey_agrees ht hs hq htag hst
    rw [agreed_of hr hag hw] at e
    obtain ⟨hrep, hqs, -⟩ := delivered_done (inCommand s c 0x0B) c (withQueue s3 (a 0) (rekeyed s3 q key)) [(0, BitVec.ofNat 64 (a 1 + 96))]
    refine ⟨_, e, hrep, rekeyed s3 q key, (congrArg (fun m => Sparse.look m (a 0)) hqs).trans (Sparse.look_put_same _ _ _), rfl, ?_, rfl, rfl, rfl, rfl⟩
    rw [rekeyed, htag]
  · obtain ⟨hrep, hqs, hsame⟩ := delivered_done (inCommand s c 0x0C) c (withQueue (inCommand s c 0x0C) (a 0) { q with stopped := true }) []
    exact ⟨_, queueDestroy_stops ht hs hq htag hst, hrep, (congrArg (fun m => Sparse.look m (a 0)) hqs).trans (Sparse.look_put_same _ _ _),
      ((inCommand_keeps s c 0x0C).2.trans (sameMemory_of_eq rfl rfl (fun _ => rfl))).trans hsame⟩

end Sys2Proof.Cert
end

section
/-! SUPPORT. What an access with a tenant's tag leaves (R269, R378, R379): everything but the translation state, the walks, the lines and
the bytes of memory, which keep their canonical form. -/

namespace Sys2Proof.Machine

/-- The fields that an access with a tenant's tag may change. -/
structure AccessPart where
  nextId : Nat
  walks : List Walk
  refused : List Walk
  tlb1 : List TlbEntry
  parts : Sparse Part
  lines : List Line
  mem : List Host.Cell
  peer : List Host.Cell

/-- The state with those fields other. -/
def State.reached (s : State) (x : AccessPart) : State :=
  { s with nextId := x.nextId, walks := x.walks, refused := x.refused, tlb1 := x.tlb1, parts := x.parts, lines := x.lines, mem := x.mem, peer := x.peer }

/-- Those fields as they stand. -/
def State.accessPart (s : State) : AccessPart :=
  { nextId := s.nextId, walks := s.walks, refused := s.refused, tlb1 := s.tlb1, parts := s.parts, lines := s.lines, mem := s.mem, peer := s.peer }

/-- Only those fields differ, and the memories are in canonical form if they were. -/
def State.Reaches (s t : State) : Prop :=
  ∃ x : AccessPart, t = s.reached x ∧ (Memory.wf s.mem = true → Memory.wf x.mem = true) ∧ (Memory.wf s.peer = true → Memory.wf x.peer = true)

theorem State.Reaches.refl (s : State) : s.Reaches s := ⟨s.accessPart, rfl, id, id⟩

theorem State.Reaches.trans {s t u : State} (h : s.Reaches t) (h' : t.Reaches u) : s.Reaches u := by
  obtain ⟨x, rfl, hm, hp⟩ := h
  obtain ⟨y, rfl, hm', hp'⟩ := h'
  exact ⟨y, rfl, fun h => hm' (hm h), fun h => hp' (hp h)⟩

theorem State.OnLines.reaches {s t : State} (h : s.OnLines t) : s.Reaches t := by
  obtain ⟨ls, m, rfl, hm⟩ := h
  exact ⟨{ s.accessPart with lines := ls, mem := m }, rfl, hm, id⟩

section
variable (s : State)

theorem State.reaches_setPeer (a : Nat) (bs : List Byte) : s.Reaches { s with peer := setCells s.peer a bs } :=
  ⟨{ s.accessPart with peer := setCells s.peer a bs }, rfl, id, Memory.wf_setCells a bs⟩

theorem State.reaches_touchTlb (cache die tag va : Nat) : s.Reaches (s.touchTlb cache die tag va) := by
  rw [State.touchTlb]
  split
  · exact .refl s
  · split
    · next e _ => exact ⟨{ s.accessPart with tlb1 := tlbInsert 64 s.tlb1 { e with cache := cache } }, rfl, id, id⟩
    · exact .refl s

theorem State.reaches_startWalk (who : Requester) (die part tag va : Nat) (write : Bool) : s.Reaches (s.startWalk who die part tag va write).1 := by
  rw [State.startWalk]
  split
  · exact .refl s
  · exact ⟨{ s.accessPart with
      nextId := s.nextId + 1,
      walks := s.walks ++ [{ id := s.nextId, die := die, part := part, tag := tag, va := va, write := write, who := who, faulted := false }],
      parts := Sparse.put { s.part part with walks := (s.part part).walks + 1 } s.parts part }, rfl, id, id⟩

theorem State.reaches_forgetRefusal (who : Requester) : s.Reaches (s.forgetRefusal who) :=
  ⟨{ s.accessPart with refused := s.refused.filter (fun w => decide (w.who ≠ who)) }, rfl, id, id⟩

theorem State.reaches_modPart (p : Nat) (f : Part → Part) : s.Reaches (s.modPart p f) :=
  ⟨{ s.accessPart with parts := Sparse.put (f (s.part p)) s.parts p }, rfl, id, id⟩

theorem State.reaches_fresh : s.Reaches s.fresh.1 := ⟨{ s.accessPart with nextId := s.nextId + 1 }, rfl, id, id⟩

end

/-- The state that a result carries. -/
def EngRes.state {α : Type} : EngRes α → State
  | .ok s _ => s
  | .wait s => s
  | .fault s _ _ => s

theorem State.reaches_admReach (s : State) (id part tag va : Nat) (write : Bool) : s.Reaches (s.admReach id part tag va write).state := by
  rw [State.admReach]
  split
  · exact .refl s
  · split
    · exact s.reaches_forgetRefusal _
    · exact s.reaches_startWalk _ _ _ _ _ _
    · split
      · exact s.reaches_touchTlb _ _ _ _
      · exact .refl s

theorem State.reaches_tenantWrite (s : State) (id part tag va : Nat) (bs : List Byte) : s.Reaches (s.tenantWrite id part tag va bs).state := by
  have h := s.reaches_admReach id part tag va true
  rw [State.tenantWrite]
  cases hr : s.admReach id part tag va true with
  | wait s1 => rwa [hr] at h
  | fault s1 c v => rwa [hr] at h
  | ok s1 l =>
    rw [hr] at h
    refine h.trans ((s1.onLines_releaseWork tag .sys).reaches.trans ?_)
    cases l with
    | phys pa => exact ((State.onLines_writePhys _ _ _ _ _ _).trans (State.onLines_cleanLines _ _)).reaches
    | peer pa => exact State.reaches_setPeer _ _ _
    | window c o => exact .refl _

theorem State.reaches_admRead (id part tag fuel va n : Nat) (s : State) : s.Reaches (State.admRead id part tag fuel va n s).state := by
  induction fuel generalizing va n s with
  | zero => exact .refl s
  | succ fuel ih =>
    have h := s.reaches_admReach id part tag va false
    rw [State.admRead]
    split
    · exact .refl s
    · dsimp only
      cases hr : s.admReach id part tag va false with
      | wait s1 => rwa [hr] at h
      | fault s1 c v => rwa [hr] at h
      | ok s1 l =>
        rw [hr] at h
        refine h.trans ?_
        cases l with
        | phys pa =>
          have h2 := ih (va + min n (4096 - va % 4096)) (n - min n (4096 - va % 4096))
            (State.readPhys tag .keep (pieces pa (min n (4096 - va % 4096))) s1 pa (min n (4096 - va % 4096))).1
          refine (State.onLines_readPhys tag .keep (pieces pa (min n (4096 - va % 4096))) s1 pa (min n (4096 - va % 4096))).reaches.trans ?_
          dsimp only
          generalize State.admRead id part tag fuel _ _ _ = res at h2
          cases res <;> exact h2
        | peer pa =>
          have h2 := ih (va + min n (4096 - va % 4096)) (n - min n (4096 - va % 4096)) s1
          dsimp only
          generalize State.admRead id part tag fuel _ _ _ = res at h2
          cases res <;> exact h2
        | window c o =>
          have h2 := ih (va + min n (4096 - va % 4096)) (n - min n (4096 - va % 4096)) s1
          dsimp only
          generalize State.admRead id part tag fuel _ _ _ = res at h2
          cases res <;> exact h2

theorem State.reaches_tenantRead (s : State) (id part tag va n : Nat) : s.Reaches (s.tenantRead id part tag va n).state :=
  State.reaches_admRead id part tag _ va n s

/-- The queue that a header is written for, put back as it is given, with its interface's access made (R433). -/
theorem State.queueHeader_eq (s : State) (id q : Nat) (k : WorkQueue) :
    ∃ t, s.Reaches t ∧ s.queueHeader id q k = { t with queues := Sparse.put k s.queues q } := by
  have h := s.reaches_tenantWrite id (s.tenant k.tag).part k.tag k.comp.toNat (splitBytes 8 k.head ++ splitBytes 8 k.drops)
  rw [State.queueHeader]
  cases hr : s.tenantWrite id (s.tenant k.tag).part k.tag k.comp.toNat (splitBytes 8 k.head ++ splitBytes 8 k.drops) with
  | wait s1 =>
    rw [hr] at h
    obtain ⟨x, rfl, h1, h2⟩ := h
    exact ⟨_, ⟨x, rfl, h1, h2⟩, rfl⟩
  | ok s1 l =>
    rw [hr] at h
    obtain ⟨x, rfl, h1, h2⟩ := h
    exact ⟨_, ⟨x, rfl, h1, h2⟩, rfl⟩
  | fault s1 c v =>
    rw [hr] at h
    obtain ⟨x, rfl, h1, h2⟩ := h
    exact ⟨_, State.Reaches.trans ⟨x, rfl, h1, h2⟩ (State.reaches_modPart (s.reached x) (s.tenant k.tag).part (fun p => { p with refusals := p.refusals + 1 })), rfl⟩

end Sys2Proof.Machine
end

section
/-! PROOF. Notify writes, the doorbell, and the entry that admission reads (R433 to R439). -/

namespace Sys2Proof.Cert

open Sys2Proof.Machine
open Host (Outcome)

section
variable {s : State} {id : Nat} {k : WorkQueue}

theorem put_single {β : Type} (u v : β) (n : Nat) : Sparse.put v [(n, u)] n = [(n, v)] := if_pos rfl

theorem look_queue (hq : s.queues = [(id, k)]) : Sparse.look s.queues id = some k := by rw [hq]; exact if_pos rfl

/-- What is left of a write to the notify page that is well formed and names a queue that runs (R436, R437). -/
theorem notifyWrite_of {sender offset : Nat} {bytes : List Byte} (hq : s.queues = [(id, k)]) (hlen : bytes.length = 32) (hal : offset % 32 = 0)
    (hlo : 0x1FFFFF000 ≤ offset) (hhi : offset < 0x200000000) (hid : recBytes bytes 0 4 = id) (hres : recBytes bytes 28 4 = 0) (hst : k.stopped = false) :
    exec (.notifyWrite sender offset true bytes) s =
      if k.accepts id (recBytes bytes 4 4) (recBytes bytes 8 8) ((bytes.drop 16).take 12) (s.partTime (s.tenant k.tag).part) then
        .next { s with
          queues := Sparse.put { k with seq := BitVec.ofNat 64 (recBytes bytes 8 8), vt := k.vt + k.added (recBytes bytes 4 4) } s.queues id,
          doorbell := s.doorbell ++ [(id, k.vt + k.added (recBytes bytes 4 4))] }
      else .next (s.queueHeader 0 id (k.failed (s.partTime (s.tenant k.tag).part))) := by
  refine (if_neg (by omega)).trans ((if_neg (by simp [hlen, hal, hres])).trans ?_)
  dsimp only
  rw [hid, look_queue hq]
  dsimp only
  rw [hst, if_neg Bool.false_ne_true]

theorem notifyWrite_unordered {sender offset : Nat} {bytes : List Byte} (hlo : 0x1FFFFF000 ≤ offset) (hhi : offset < 0x200000000) :
    exec (.notifyWrite sender offset false bytes) s = .next { s with notifyDrops := s.notifyDrops + 1 } :=
  (if_neg (by omega)).trans (if_pos (.inr (.inr (.inr rfl))))

theorem accepts_of {t q now : Nat} {tag : List Byte} (hqu : k.quarantined = false) (htag : notifyTag k.key id t q = tag) (hseq : k.seq.toNat < q)
    (hadd : k.added t ≤ 2 ^ k.logn - (k.vt - k.head)) : k.accepts id t q tag now = true := by
  rw [WorkQueue.accepts, WorkQueue.keys, List.any_cons, hqu, decide_eq_true htag, decide_eq_true hseq, decide_eq_true hadd]
  rfl

theorem not_accepts {t q now : Nat} {tag : List Byte} (hold : k.old = none) (htag : notifyTag k.key id t q ≠ tag) :
    k.accepts id t q tag now = false := by
  rw [WorkQueue.accepts, WorkQueue.keys, hold, List.any_cons, decide_eq_false htag, List.any_nil]
  simp

/-- R438: fewer than 16 failures quarantine nothing, and the 16th does within a second of the first. -/
theorem quarantined_failed (now : Nat) (hqu : k.quarantined = false) : (k.fails.length < 15 → (k.failed now).quarantined = false)
    ∧ ∀ old, k.fails[14]? = some old → ((k.failed now).quarantined = true ↔ now ≤ old.toNat + 250000000) := by
  have h15 : ((BitVec.ofNat 64 now :: k.fails).take 16)[15]? = k.fails[14]? := by
    rw [List.getElem?_take_of_lt (by omega), List.getElem?_cons_succ]
  have hq : (k.failed now).quarantined = match k.fails[14]? with
      | some t => decide (now ≤ t.toNat + 250000000)
      | none => false := by
    rw [WorkQueue.failed]
    dsimp only
    rw [hqu, h15, Bool.false_or]
    rfl
  rw [hq]
  constructor
  · intro hlen
    rw [List.getElem?_eq_none (by omega)]
  · intro old ho
    rw [ho]
    exact decide_eq_true_iff

theorem queueOldKeyExpiry_ends {key : List Byte} {t : Word} (hq : s.queues = [(id, k)]) (ho : k.old = some (key, t))
    (hdue : t.toNat ≤ s.partTime (s.tenant k.tag).part) :
    exec (.queueOldKeyExpiry id) s = .next { s with queues := [(id, { k with old := none })] } := by
  refine Eq.trans (b := .next { s with queues := Sparse.put { k with old := none } s.queues id }) ?_ ?_
  · change execQueueOldKeyExpiry id s = _
    rw [execQueueOldKeyExpiry, look_queue hq]
    dsimp only
    rw [ho]
    exact if_pos hdue
  · rw [hq, put_single]

/-- The record of an admitted tail (R439). -/
def doorbellRecord (s : State) (die id vt : Nat) : Journal :=
  { id := s.nextId, die := die, code := 0, args := [BitVec.ofNat 64 id, BitVec.ofNat 64 vt], done := true }

theorem doorbellProcess_raises {die : Fin 4} {vt : Nat} (hq : s.queues = [(id, k)]) (hd : s.doorbell = [(id, vt)])
    (hr : s.complexRuns die.val = true) (hdie : s.dieOfPart (s.tenant k.tag).part = die.val) :
    exec (.doorbellProcess die) s = .next { s with
      nextId := s.nextId + 1, doorbell := s.doorbell.erase (id, vt), journal := s.journal ++ [doorbellRecord s die.val id vt],
      queues := Sparse.put { k with tail := max k.tail vt } s.queues id } := by
  have hqd : s.queueDie id = die.val := by
    rw [State.queueDie, look_queue hq]
    exact hdie
  refine (if_neg (by rw [hr]; decide)).trans ?_
  have hf : s.doorbell.find? (fun d => decide (s.queueDie d.1 = die.val)) = some (id, vt) := by
    rw [hd, find?_singleton_of (p := fun d : Nat × Nat => decide (s.queueDie d.1 = die.val)) (decide_eq_true hqd)]
  rw [hf]
  refine congrArg Outcome.next ?_
  rw [State.admitTail]
  change (match Sparse.look s.queues id with
    | none => _
    | some k => _) = _
  rw [look_queue hq]
  rfl

/-- The launch that an entry of a work queue brings (R344, R433). -/
def entryLaunch (s : State) (id : Nat) (k : WorkQueue) (n : Nat) (bs : List Byte) : Launch :=
  { id := n, part := (s.tenant k.tag).part, tag := k.tag, src := .queue id k.head, addr := BitVec.ofNat 64 (k.ring.toNat + 64 * (k.head % 2 ^ k.logn)),
    cut := 0, phase := .submitted, lrec := bs, frames := [], arrival := n, head := none, boost := 0, copies := 1, stage := none }

theorem workQueueEntryRead_takes {s1 : State} {bs : List Byte} (hq : s.queues = [(id, k)]) (hlt : k.head < k.tail) (hst : k.stopped = false)
    (hfree : s.freeEntry (s.tenant k.tag).part = true)
    (hread : s.tenantRead 0 (s.tenant k.tag).part k.tag (k.ring.toNat + 64 * (k.head % 2 ^ k.logn)) 64 = .ok s1 bs) :
    exec (.workQueueEntryRead id) s = .next (State.queueHeader { s1 with
      nextId := s1.nextId + 1, launches := s1.launches ++ [entryLaunch s id k s1.nextId bs] } 0 id { k with head := k.head + 1 }) := by
  have hgo : (k.tail ≤ k.head || k.stopped || !s.freeEntry (s.tenant k.tag).part) = false := by
    rw [hst, hfree, decide_eq_false (not_le.mpr hlt)]
    rfl
  change execWorkQueueEntryRead id s = _
  rw [execWorkQueueEntryRead, look_queue hq]
  dsimp only
  rw [hgo, if_neg Bool.false_ne_true, hread]
  rfl

end

/-- Settles O51. -/
theorem workQueues : Obligations.WorkQueues := by
  intro s id k hq
  refine ⟨fun sender bytes offset hlen hal hlo hhi hid hres hst hqu => ⟨fun htag hseq hadd => ?_, fun hold htag => ?_, notifyWrite_unordered hlo hhi⟩,
    fun key t => queueOldKeyExpiry_ends hq, fun die vt hd hr hdie => ?_, fun s1 bs hlt hst hfree hread hl hqs => ?_⟩
  · refine (notifyWrite_of hq hlen hal hlo hhi hid hres hst).trans ((if_pos (accepts_of hqu htag hseq hadd)).trans ?_)
    rw [hq, put_single]
    rfl
  · obtain ⟨t, ht, e⟩ := s.queueHeader_eq 0 id (k.failed (s.partTime (s.tenant k.tag).part))
    refine ⟨_, k.failed (s.partTime (s.tenant k.tag).part), (notifyWrite_of hq hlen hal hlo hhi hid hres hst).trans
      (if_neg (by rw [not_accepts hold htag]; exact Bool.false_ne_true)), ?_, rfl, rfl, rfl, ?_, quarantined_failed _ hqu⟩
    · rw [e]
      exact (congrArg (fun m => Sparse.put _ m id) hq).trans (put_single _ _ _)
    · obtain ⟨x, rfl, -⟩ := ht
      rw [e]
      rfl
  · exact ⟨_, doorbellRecord s die.val id vt, doorbellProcess_raises hq hd hr hdie,
      (congrArg (fun l => l.erase (id, vt)) hd).trans (List.erase_cons_head _ _),
      (congrArg (fun m => Sparse.put _ m id) hq).trans (put_single _ _ _), rfl, rfl, rfl, rfl⟩
  · obtain ⟨t, ⟨x, rfl, -⟩, e⟩ := State.queueHeader_eq ({ s1 with
      nextId := s1.nextId + 1, launches := s1.launches ++ [entryLaunch s id k s1.nextId bs] } : State) 0 id { k with head := k.head + 1 }
    refine ⟨_, entryLaunch s id k s1.nextId bs, (workQueueEntryRead_takes hq hlt hst hfree hread).trans (congrArg Outcome.next e), ?_, rfl, rfl, rfl, rfl,
      rfl, ?_⟩
    · exact congrArg (fun ls => ls ++ _) hl
    · exact (congrArg (fun m => Sparse.put _ m id) (hqs.trans hq)).trans (put_single _ _ _)

end Sys2Proof.Cert
end

section
/-! PROOF. The matrix instructions that act at issue on slots and tiles (R196, R197, R215, R216, R220, R221, R229, R240, R241, R244). -/

namespace Sys2Proof.Machine

section
variable (e : Engine) (n k : Nat)

theorem Engine.slot_setSlot (m : MxSlot) : (e.setSlot n m).slot k = if k = n then m else e.slot k := Sparse.at_put _ _ _ _ _
theorem Engine.tile_setTile (t : Tile) : (e.setTile n t).tile k = if k = n then t else e.tile k := Sparse.at_put _ _ _ _ _
@[simp] theorem Engine.tile_setSlot (m : MxSlot) : (e.setSlot n m).tile k = e.tile k := rfl
@[simp] theorem Engine.slot_setTile (t : Tile) : (e.setTile n t).slot k = e.slot k := rfl

end

/-- A field of a word as a number and as bits. -/
theorem bitsOf_toNat (v : Word) (lo len hi : Nat) (h : hi + 1 - lo = len) : bitsOf v.toNat hi lo = (v.extractLsb' lo len).toNat := by
  rw [bitsOf, h, BitVec.extractLsb'_toNat, Nat.shiftRight_eq_div_pow]

theorem bitOf_toNat (v : Word) (n : Nat) : bitOf v.toNat n = v.getLsbD n := by
  rw [bitOf, BitVec.getLsbD, Nat.testBit_eq_decide_div_mod_eq]
  rfl

theorem ofNat_bitsOf (v : Word) (lo len hi : Nat) (h : hi + 1 - lo = len) : BitVec.ofNat len (bitsOf v.toNat hi lo) = v.extractLsb' lo len := by
  rw [bitsOf_toNat v lo len hi h, BitVec.ofNat_toNat, BitVec.setWidth_eq]

theorem bitsOf_eq_zero (v : Word) (lo len hi : Nat) (h : hi + 1 - lo = len) : bitsOf v.toNat hi lo = 0 ↔ v.extractLsb' lo len = 0 := by
  rw [bitsOf_toNat v lo len hi h]
  exact ⟨fun e => BitVec.eq_of_toNat_eq (e.trans BitVec.toNat_zero.symm), fun e => by rw [e]; rfl⟩

/-- Table 7.1: the fields of a slot, as MXCFG loads them. -/
theorem MxSlot.load_eq (m : MxSlot) (v : Word) : m.load v =
    { m with rowid := (v.extractLsb' 56 8).toNat, colid := (v.extractLsb' 48 8).toNat, fda := v.extractLsb' 32 16, fdb := v.extractLsb' 16 16,
             blk := (v.extractLsb' 14 2).toNat, mm1 := (v.extractLsb' 7 7).toNat, nm1 := (v.extractLsb' 0 7).toNat } := by
  rw [MxSlot.load, bitsOf_toNat v 56 8 63 rfl, bitsOf_toNat v 48 8 55 rfl, ofNat_bitsOf v 32 16 47 rfl, ofNat_bitsOf v 16 16 31 rfl, bitsOf_toNat v 14 2 15 rfl,
    bitsOf_toNat v 7 7 13 rfl, bitsOf_toNat v 0 7 6 rfl]

/-! ## Plans (Table 8.1) -/

theorem planCodes_eq (v : Word) : planCodes v = (List.range 13).map (fun k => (v.extractLsb' (3 * k) 3).toNat) :=
  List.map_congr_left fun k _ => bitsOf_toNat v (3 * k) 3 (3 * k + 2) (by omega)

theorem planCodes_take (v : Word) {n : Nat} (h : n ≤ 13) : (planCodes v).take n = (List.range n).map (fun k => (v.extractLsb' (3 * k) 3).toNat) := by
  rw [planCodes_eq, ← List.map_take, List.take_range, min_eq_left h]

/-- A sound plan has from one to thirteen stages. -/
theorem plan_stages {v : Word} (h : planBad v = false) : ∃ n, 1 ≤ n ∧ n ≤ 13
    ∧ (planCodes v).takeWhile (fun c => c != 0) = (List.range n).map (fun k => (v.extractLsb' (3 * k) 3).toNat) := by
  have hle : ((planCodes v).takeWhile (fun c => c != 0)).length ≤ 13 := by
    refine ((List.takeWhile_prefix _).length_le).trans ?_
    rw [planCodes_eq, List.length_map, List.length_range]
  have hpos : ((planCodes v).takeWhile (fun c => c != 0)).length ≠ 0 := by
    intro h0
    simp [planBad, h0] at h
  refine ⟨_, Nat.pos_of_ne_zero hpos, hle, ?_⟩
  rw [← planCodes_take v hle]
  exact List.prefix_iff_eq_take.mp (List.takeWhile_prefix _)

end Sys2Proof.Machine

namespace Sys2Proof.Cert

open Sys2Proof.Machine
open Host (Outcome)

section
variable {s : State} {g : Guard}

/-- The state after an instruction that changes the engine of its core by `f` and retires. -/
def engineState (s : State) (f : Engine → Engine) : State := (modEngine s.begin f).modTask s.cur Task.loopEnd

theorem engine_engineState (s : State) (f : Engine → Engine) : (engineState s f).myCore.engine = f s.myCore.engine := by
  refine (State.core_modTask_engine _ _ _ _).trans ?_
  refine (congrArg Core.engine (State.core_modCore_same _ _ _)).trans ?_
  exact congrArg f (State.myCore_begin_engine s)

theorem me_engineState (s : State) (f : Engine → Engine) : (engineState s f).me = (retire s id).me := by
  rw [me_retire]
  exact State.me_modCore_loopEnd s (f := fun c => { c with engine := f c.engine }) (fun _ => rfl)

theorem sameMemory_engineState (s : State) (f : Engine → Engine) : SameMemory s (engineState s f) :=
  (sameMemory_begin s).trans ((sameMemory_modCore _ _ rfl).trans (sameMemory_modTask _ _ _))

theorem issue_engine {needs : List Need} {F : State → Flow} {f : Engine → Engine} (hg : s.me.guard g = true) (hn : ∀ n ∈ needs, n.waits s.me = false)
    (hF : F s.begin = .go (modEngine s.begin f)) : issue g needs F s = .next (engineState s f) := by
  rw [issue_runs hg hn, hF, State.finish_go]
  rfl

theorem issue_traps {needs : List Need} {F : State → Flow} {c : Nat} {v : Word} (hg : s.me.guard g = true) (hn : ∀ n ∈ needs, n.waits s.me = false)
    (hF : F s.begin = .trap c v) : issue g needs F s = .next (traps s c v) := by
  rw [issue_runs hg hn, hF, finish_begin_trap]

theorem no_needs (t : Task) : ∀ n ∈ ([] : List Need), n.waits t = false := fun _ h => absurd h List.not_mem_nil

/-- An engine with one slot other. -/
theorem slot_sets (e : Engine) (slot : Fin 4) (m : MxSlot) :
    (e.setSlot slot.val m).slot slot.val = m ∧ (∀ j, j ≠ slot.val → (e.setSlot slot.val m).slot j = e.slot j)
      ∧ ∀ k, (e.setSlot slot.val m).tile k = e.tile k :=
  ⟨(Engine.slot_setSlot _ _ _ _).trans (if_pos rfl), fun _ hj => (Engine.slot_setSlot _ _ _ _).trans (if_neg hj), fun _ => rfl⟩

/-- An engine with one tile other. -/
theorem tile_sets (e : Engine) (t : Fin 4) (x : Tile) :
    (e.setTile t.val x).tile t.val = x ∧ (∀ k, k ≠ t.val → (e.setTile t.val x).tile k = e.tile k) ∧ ∀ j, (e.setTile t.val x).slot j = e.slot j :=
  ⟨(Engine.tile_setTile _ _ _ _).trans (if_pos rfl), fun _ hk => (Engine.tile_setTile _ _ _ _).trans (if_neg hk), fun _ => rfl⟩

/-- What is left of an instruction that gives the slot of its operand a value. -/
theorem slot_does {i : Instr} {slot : Fin 4} {m : Engine → MxSlot} (h : exec i s = .next (engineState s (fun e => e.setSlot slot.val (m e)))) :
    ∃ u, exec i s = .next u ∧ (u.myCore.engine.slot slot.val = m s.myCore.engine ∧ (∀ j, j ≠ slot.val → u.myCore.engine.slot j = s.myCore.engine.slot j)
      ∧ ∀ k, u.myCore.engine.tile k = s.myCore.engine.tile k) ∧ u.me = (retire s id).me ∧ SameMemory s u := by
  refine ⟨_, h, ?_, me_engineState s _, sameMemory_engineState s _⟩
  rw [engine_engineState]
  exact slot_sets _ slot _

/-- What is left of an instruction that gives the tile of its operand a value. -/
theorem tile_does {i : Instr} {t : Fin 4} {x : Engine → Tile} (h : exec i s = .next (engineState s (fun e => e.setTile t.val (x e)))) :
    ∃ u, exec i s = .next u ∧ (u.myCore.engine.tile t.val = x s.myCore.engine ∧ (∀ k, k ≠ t.val → u.myCore.engine.tile k = s.myCore.engine.tile k)
      ∧ ∀ j, u.myCore.engine.slot j = s.myCore.engine.slot j) ∧ u.me = (retire s id).me ∧ SameMemory s u := by
  refine ⟨_, h, ?_, me_engineState s _, sameMemory_engineState s _⟩
  rw [engine_engineState]
  exact tile_sets _ t _

/-- A tile that no command names and that is not in use (R197). -/
def Idle (e : Engine) (k : Nat) : Prop := e.armed k = false ∧ (e.tile k).inUse = false

theorem idle_iff (e : Engine) (k : Nat) : (e.armed k || (e.tile k).inUse) = false ↔ Idle e k := Bool.or_eq_false_iff

/-! ## MXCFG -/

/-- The tile of a slot that MXCFG gives it to: zeroed unless the slot had it (R215). -/
def cfgTile (slot : Fin 4) (x : Tile) : Tile := { (if x.owner = some slot then x else x.zeroed) with owner := some slot }

theorem cfgTile_owned {slot : Fin 4} {x : Tile} (h : x.owner = some slot) : cfgTile slot x = x := by
  rw [cfgTile, if_pos h, ← h]

theorem cfgTile_zeroed {slot : Fin 4} {x : Tile} (h : x.owner ≠ some slot) :
    (cfgTile slot x).vals = [] ∧ (cfgTile slot x).c = [] ∧ (cfgTile slot x).r = [] := by
  rw [cfgTile, if_neg h]
  exact ⟨rfl, rfl, rfl⟩

/-- What MXCFG makes of the engine. -/
def mxcfgEngine (keep : Bool) (t slot : Fin 4) (v : Word) (e : Engine) : Engine :=
  let e1 := e.setTile t.val (cfgTile slot (e.tile t.val))
  if keep then e1 else e1.setSlot slot.val ((e1.slot slot.val).load v)

/-- The tiles that MXCFG asks to be idle. -/
def cfgAffects (e : Engine) (keep : Bool) (t slot : Fin 4) (k : Nat) : Bool := decide (k = t.val) || (!keep && decide (e.ownerOf k = some slot.val))

theorem cfgAffects_iff (e : Engine) (keep : Bool) (t slot k : Fin 4) :
    cfgAffects e keep t slot k.val = true ↔ k = t ∨ (keep = false ∧ (e.tile k.val).owner = some slot) := by
  rw [cfgAffects, Engine.ownerOf, Bool.or_eq_true, Bool.and_eq_true, decide_eq_true_iff, decide_eq_true_iff, Bool.not_eq_true', Fin.val_inj]
  refine or_congr_right (and_congr_right fun _ => ?_)
  cases (e.tile k.val).owner with
  | none => simp
  | some o => simp [Fin.val_inj]

/-- The tiles that stand in the way of MXCFG. -/
def cfgBusy (e : Engine) (keep : Bool) (t slot : Fin 4) : List Nat :=
  ((List.range 4).filter (cfgAffects e keep t slot)).filter (fun k => e.armed k || (e.tile k).inUse)

theorem mem_cfgBusy (e : Engine) (keep : Bool) (t slot k : Fin 4) :
    k.val ∈ cfgBusy e keep t slot ↔ (k = t ∨ (keep = false ∧ (e.tile k.val).owner = some slot)) ∧ ¬ Idle e k.val := by
  rw [cfgBusy, List.mem_filter, List.mem_filter, cfgAffects_iff, List.mem_range, ← idle_iff, Bool.not_eq_false]
  exact and_congr_left fun _ => and_iff_right k.isLt

theorem lt_of_mem_cfgBusy {e : Engine} {keep : Bool} {t slot : Fin 4} {k : Nat} (h : k ∈ cfgBusy e keep t slot) : k < 4 :=
  List.mem_range.mp (List.mem_filter.mp (List.mem_filter.mp h).1).1

/-- The four tiles, one of them picked. -/
theorem filter_range_tile (t : Fin 4) : (List.range 4).filter (fun k => decide (k = t.val)) = [t.val] := by
  revert t
  decide

theorem exec_mxcfg {a : Src} {keep : Bool} {t slot : Fin 4} (h : Executes s g [a.r] [])
    (hi : ∀ k : Fin 4, k = t ∨ (keep = false ∧ (s.myCore.engine.tile k.val).owner = some slot) → Idle s.myCore.engine k.val) :
    exec (.mxcfg g keep t a slot) s = .next (engineState s (mxcfgEngine keep t slot (val s a))) := by
  have hb : cfgBusy s.myCore.engine keep t slot = [] := by
    rw [List.eq_nil_iff_forall_not_mem]
    intro k hk
    obtain ⟨hor, hno⟩ := (mem_cfgBusy s.myCore.engine keep t slot ⟨k, lt_of_mem_cfgBusy hk⟩).mp hk
    exact hno (hi _ hor)
  change execMxcfg g keep t a slot s = _
  rw [execMxcfg]
  refine issue_engine h.1 (src_ready h) ?_
  dsimp only
  rw [State.myCore_begin_engine, begin_reg]
  change (if !(cfgBusy s.myCore.engine keep t slot).isEmpty then _ else _) = _
  rw [hb]
  rfl

theorem exec_mxcfg_busy {a : Src} {keep : Bool} {t slot : Fin 4} (h : Executes s g [a.r] []) (ht : ¬ Idle s.myCore.engine t.val)
    (ho : ∀ k : Fin 4, k ≠ t → (s.myCore.engine.tile k.val).owner ≠ some slot) :
    exec (.mxcfg g keep t a slot) s = .next (traps s 0x09 (BitVec.ofNat 64 (2 ^ t.val))) := by
  have ha : (List.range 4).filter (cfgAffects s.myCore.engine keep t slot) = [t.val] := by
    have hf : ∀ k ∈ List.range 4, cfgAffects s.myCore.engine keep t slot k = decide (k = t.val) := by
      intro k hk
      have hiff := cfgAffects_iff s.myCore.engine keep t slot ⟨k, List.mem_range.mp hk⟩
      rw [Bool.eq_iff_iff, decide_eq_true_iff]
      refine hiff.trans ⟨fun h' => ?_, fun h' => .inl (Fin.ext h')⟩
      obtain h' | ⟨-, h'⟩ := h'
      · exact congrArg Fin.val h'
      · by_contra hne
        exact ho _ (fun h'' => hne (congrArg Fin.val h'')) h'
    rw [List.filter_congr hf, filter_range_tile]
  have hb : cfgBusy s.myCore.engine keep t slot = [t.val] := by
    rw [cfgBusy, ha, List.filter_cons_of_pos (p := fun k => s.myCore.engine.armed k || (s.myCore.engine.tile k).inUse)
      (by rw [← Bool.not_eq_false, idle_iff]; exact ht)]
    rfl
  change execMxcfg g keep t a slot s = _
  rw [execMxcfg]
  refine issue_traps h.1 (src_ready h) ?_
  dsimp only
  rw [State.myCore_begin_engine]
  change (if !(cfgBusy s.myCore.engine keep t slot).isEmpty then Flow.trap 0x09 (tileMask (cfgBusy s.myCore.engine keep t slot)) else _) = _
  rw [hb]
  refine congrArg (fun n => Flow.trap 0x09 (BitVec.ofNat 64 n)) ?_
  exact Nat.zero_add _

theorem mxcfg_gives (keep : Bool) (t slot : Fin 4) (v : Word) (e : Engine) :
    ((mxcfgEngine keep t slot v e).tile t.val).owner = some slot
      ∧ ((e.tile t.val).owner = some slot → (mxcfgEngine keep t slot v e).tile t.val = e.tile t.val)
      ∧ ((e.tile t.val).owner ≠ some slot → ((mxcfgEngine keep t slot v e).tile t.val).vals = [] ∧ ((mxcfgEngine keep t slot v e).tile t.val).c = []
        ∧ ((mxcfgEngine keep t slot v e).tile t.val).r = [])
      ∧ (∀ k, k ≠ t.val → (mxcfgEngine keep t slot v e).tile k = e.tile k)
      ∧ (keep = true → ∀ j, (mxcfgEngine keep t slot v e).slot j = e.slot j)
      ∧ (keep = false → (∀ j, j ≠ slot.val → (mxcfgEngine keep t slot v e).slot j = e.slot j)
        ∧ (mxcfgEngine keep t slot v e).slot slot.val = (e.slot slot.val).load v) := by
  have htile : ∀ k, (mxcfgEngine keep t slot v e).tile k = (e.setTile t.val (cfgTile slot (e.tile t.val))).tile k := by
    intro k
    rw [mxcfgEngine]
    split <;> rfl
  obtain ⟨h1, h2, -⟩ := tile_sets e t (cfgTile slot (e.tile t.val))
  rw [htile, h1]
  refine ⟨rfl, cfgTile_owned, cfgTile_zeroed, fun k hk => (htile k).trans (h2 k hk), fun hk j => ?_, fun hk => ?_⟩
  · subst hk
    rfl
  · subst hk
    obtain ⟨h3, h4, -⟩ := slot_sets (e.setTile t.val (cfgTile slot (e.tile t.val))) slot ((e.slot slot.val).load v)
    exact ⟨h4, h3⟩

/-! ## The others -/

section
variable {a b : Src} {slot t : Fin 4}

/-- A sound RKCUT word (R244). -/
theorem exec_rkcut (h : Executes s g [a.r] []) (hk1 : 1 ≤ ((val s a).extractLsb' 0 9).toNat) (hk : ((val s a).extractLsb' 0 9).toNat ≤ 256)
    (hnan : (decodeNum fp32 ((val s a).extractLsb' 32 32).toNat).isNan = false) (h26 : (val s a).extractLsb' 26 5 = 0)
    (h9 : (val s a).extractLsb' 9 7 = 0) : exec (.rkcut g slot a) s = .next (engineState s (fun e => e.setSlot slot.val { e.slot slot.val with
      theta := (val s a).extractLsb' 32 32, th := (val s a).getLsbD 31, vm1 := ((val s a).extractLsb' 16 10).toNat,
      k := ((val s a).extractLsb' 0 9).toNat })) := by
  change execRkcut g slot a s = _
  rw [execRkcut]
  refine issue_engine h.1 (src_ready h) ?_
  dsimp only
  rw [begin_reg, show s.me.reg a.r = val s a from rfl, ofNat_bitsOf (val s a) 32 32 63 rfl, bitsOf_toNat (val s a) 0 9 8 rfl,
    bitsOf_toNat (val s a) 16 10 25 rfl, bitOf_toNat]
  refine if_neg ?_
  rintro (h' | h' | h' | h' | h')
  · omega
  · omega
  · rw [val32, hnan] at h'
    exact Bool.false_ne_true h'
  · exact h' ((bitsOf_eq_zero (val s a) 26 5 30 rfl).mpr h26)
  · exact h' ((bitsOf_eq_zero (val s a) 9 7 15 rfl).mpr h9)

theorem exec_rkcut_bad (h : Executes s g [a.r] []) (hbad : ((val s a).extractLsb' 0 9).toNat = 0 ∨ 256 < ((val s a).extractLsb' 0 9).toNat
    ∨ (val s a).extractLsb' 26 5 ≠ 0) : exec (.rkcut g slot a) s = .next (traps s 0x10 (val s a)) := by
  change execRkcut g slot a s = _
  rw [execRkcut]
  refine issue_traps h.1 (src_ready h) ?_
  dsimp only
  rw [begin_reg, show s.me.reg a.r = val s a from rfl, bitsOf_toNat (val s a) 0 9 8 rfl]
  refine if_pos ?_
  obtain h' | h' | h' := hbad
  · exact .inl h'
  · exact .inr (.inl h')
  · exact .inr (.inr (.inr (.inl fun h0 => h' ((bitsOf_eq_zero (val s a) 26 5 30 rfl).mp h0))))

theorem exec_bfplan (h : Executes s g [a.r, b.r] []) (ha : planBad (val s a) = false) (hb : planBadB (val s a) (val s b) = false) :
    ∃ n, 1 ≤ n ∧ n ≤ 13 ∧ exec (.bfplan g slot a b) s = .next (engineState s (fun e => e.setSlot slot.val { e.slot slot.val with
      rads := (List.range n).map (fun k => radixOf ((val s a).extractLsb' (3 * k) 3).toNat),
      shs := (List.range n).map (fun k => ((val s b).extractLsb' (3 * k) 3).toNat), bm1 := ((val s b).extractLsb' 52 12).toNat })) := by
  obtain ⟨n, h1, h13, hn⟩ := plan_stages ha
  refine ⟨n, h1, h13, ?_⟩
  change execBfplan g slot a b s = _
  rw [execBfplan]
  refine issue_engine h.1 (src_src_ready h) ?_
  dsimp only
  rw [begin_reg, begin_reg, show s.me.reg a.r = val s a from rfl, show s.me.reg b.r = val s b from rfl, ha, hb, if_neg Bool.false_ne_true,
    if_neg Bool.false_ne_true, hn, List.length_map, List.length_range, List.map_map, planCodes_take _ h13, bitsOf_toNat (val s b) 52 12 63 rfl]
  rfl

theorem exec_bfplan_bad (h : Executes s g [a.r, b.r] []) (ha : planBad (val s a) = true) :
    exec (.bfplan g slot a b) s = .next (traps s 0x10 (val s a)) := by
  change execBfplan g slot a b s = _
  rw [execBfplan]
  refine issue_traps h.1 (src_src_ready h) ?_
  dsimp only
  rw [begin_reg, show s.me.reg a.r = val s a from rfl, ha, if_pos rfl]

theorem exec_mxrel (hg : s.me.guard g = true) (hi : Idle s.myCore.engine t.val) :
    exec (.mxrel g t) s = .next (engineState s (fun e => e.setTile t.val { (e.tile t.val).zeroed with owner := none })) := by
  change execMxrel g t s = _
  rw [execMxrel]
  refine issue_engine hg (no_needs _) ?_
  dsimp only
  rw [State.myCore_begin_engine, (idle_iff _ _).mpr hi, if_neg Bool.false_ne_true]

theorem exec_mxrel_busy (hg : s.me.guard g = true) (hi : ¬ Idle s.myCore.engine t.val) :
    exec (.mxrel g t) s = .next (traps s 0x09 (BitVec.ofNat 64 (2 ^ t.val))) := by
  have hb : (s.myCore.engine.armed t.val || (s.myCore.engine.tile t.val).inUse) = true := by
    rw [← Bool.not_eq_false, idle_iff]
    exact hi
  change execMxrel g t s = _
  rw [execMxrel]
  refine issue_traps hg (no_needs _) ?_
  dsimp only
  rw [State.myCore_begin_engine, hb, if_pos rfl]
  exact congrArg (fun n => Flow.trap 0x09 (BitVec.ofNat 64 n)) (Nat.zero_add _)

theorem exec_mxfmt {fd : BitVec 16} {rm : Rm} {ph step : Fin 16} (hg : s.me.guard g = true) : exec (.mxfmt g slot fd rm ph step) s
    = .next (engineState s (fun e => e.setSlot slot.val { e.slot slot.val with fdo := fd, rm := rm.code, phase := ph.val, step := step.val })) := by
  change execMxfmt g slot fd rm ph step s = _
  rw [execMxfmt]
  exact issue_engine hg (no_needs _) rfl

theorem exec_twset {inv : Bool} (hg : s.me.guard g = true) :
    exec (.twset g inv slot) s = .next (engineState s (fun e => e.setSlot slot.val { e.slot slot.val with inv := inv })) := by
  change execTwset g inv slot s = _
  rw [execTwset]
  exact issue_engine hg (no_needs _) rfl

theorem exec_mxrt {route : Route} (hg : s.me.guard g = true) (ho : (s.myCore.engine.tile t.val).owner ≠ none) :
    exec (.mxrt g route t) s = .next (engineState s (fun e => e.setTile t.val { e.tile t.val with route := route })) := by
  change execMxrt g route t s = _
  rw [execMxrt]
  refine issue_engine hg (no_needs _) ?_
  dsimp only
  rw [State.myCore_begin_engine, if_neg]
  rwa [Option.isNone_iff_eq_none]

theorem exec_mxrt_free {route : Route} (hg : s.me.guard g = true) (ho : (s.myCore.engine.tile t.val).owner = none) :
    exec (.mxrt g route t) s = .next (traps s 0x10 (BitVec.ofNat 64 t.val)) := by
  change execMxrt g route t s = _
  rw [execMxrt]
  refine issue_traps hg (no_needs _) ?_
  dsimp only
  rw [State.myCore_begin_engine, ho, Option.isNone_none, if_pos rfl]

end

end

/-- Settles O28. -/
theorem matrixSlotsAndTiles : Obligations.MatrixSlotsAndTiles := by
  intro s g keep inv t slot a b fd rm ph step route
  refine ⟨fun h => ⟨fun hi hown => ?_, fun hi ho => exec_mxcfg_busy h hi ho, fun hk1 hk hnan h26 h9 => ?_, exec_rkcut_bad h⟩,
    fun h => ⟨fun ha hb => ?_, exec_bfplan_bad h⟩, fun hg => ⟨fun hi => ?_, exec_mxrel_busy hg, ?_, ?_, fun ho => ?_, exec_mxrt_free hg⟩⟩
  · refine ⟨_, exec_mxcfg h fun k hk => ?_, ?_, me_engineState s _, sameMemory_engineState s _⟩
    · obtain rfl | ⟨hkeep, hk⟩ := hk
      · exact hi
      · exact hown k hkeep hk
    · obtain ⟨h1, h2, h3, h4, h5, h6⟩ := mxcfg_gives keep t slot (val s a) s.myCore.engine
      rw [engine_engineState]
      exact ⟨h1, h2, h3, h4, h5, fun hk => ⟨(h6 hk).1, (h6 hk).2.trans (MxSlot.load_eq _ _)⟩⟩
  · exact slot_does (exec_rkcut h hk1 hk hnan h26 h9)
  · obtain ⟨n, h1, h13, e⟩ := exec_bfplan h ha hb
    exact ⟨n, h1, h13, slot_does e⟩
  · obtain ⟨u, e, ⟨h1, h2, h3⟩, hme, hsame⟩ := tile_does (exec_mxrel hg hi)
    exact ⟨u, e, ⟨by rw [h1], by rw [h1]; rfl, h2, h3⟩, hme, hsame⟩
  · exact slot_does (exec_mxfmt hg)
  · exact slot_does (exec_twset hg)
  · exact tile_does (exec_mxrt hg ho)

end Sys2Proof.Cert
end

section
/-! PROOF. The steps of a matrix engine (R198 to R200, R207, R208, R217, R237, R246, R249). -/

namespace Sys2Proof.Machine

/-- The same change of several cores of a body. -/
theorem Body.core_modCores (f : Core → Core) {ks : List Nat} (h : ks.Nodup) (b : Body) (j : Nat) :
    (ks.foldl (fun b k => b.modCore k f) b).core j = if j ∈ ks then f (b.core j) else b.core j := by
  induction ks generalizing b with
  | nil => rfl
  | cons k ks ih =>
    obtain ⟨hk, hks⟩ := List.nodup_cons.mp h
    rw [List.foldl_cons, ih hks, Body.modCore, Body.core_setCore]
    by_cases hj : j = k
    · subst hj
      rw [if_neg hk, if_pos rfl, if_pos List.mem_cons_self]
    · simp only [List.mem_cons, hj, false_or, if_false]

/-- A core with one more item at the input buffer of a group. -/
def Core.busPut (n : Nat) (i : BusItem) (c : Core) : Core := { c with engine := c.engine.setGroup n (c.engine.group n ++ [i]) }

theorem Core.group_busPut (n : Nat) (i : BusItem) (c : Core) : (c.busPut n i).engine.group n = c.engine.group n ++ [i] := Sparse.at_put_same _ _ _ _

end Sys2Proof.Machine

namespace Sys2Proof.Cert

open Sys2Proof.Machine
open Host (Outcome)

section
variable {s : State} {c : CoreRef}

/-! ## Buses -/

/-- A rectangle whose cores `ks` took what a bus carries, and so did the records of a cut that the sender is in. -/
def busTaken (x : Rect) (at_ : Nat × Nat) (n : Nat) (i : BusItem) (ks : List Nat) : Rect :=
  let put := fun (b : Body) => ks.foldl (fun b k => b.modCore k (Core.busPut n i)) b
  ({ x with body := put x.body } : Rect).modProg (fun g => if g.elems.contains at_ then { g with body := put g.body } else g)

/-- The state after a bus carried `i` from a site to the cores `ks`. -/
def busCarried (s : State) (e : SiteRef) (n : Nat) (i : BusItem) (ks : List Nat) : State :=
  (s.setSite e { s.site e with st := { (s.site e).st with busOut := none } }).modRect e.rect (fun x => busTaken x (e.core, e.site) n i ks)

theorem exec_busBeat {site dest : Nat} {cfg : MeCfg} {ws : List W32} (hf : (s.rect c.rect).fires = true)
    (hcfg : ((s.core c).site site).cfg = .me cfg) (hout : ((s.core c).site site).st.busOut = some (.beat dest ws))
    (hroom : ∀ k ∈ (s.rect c.rect).busCores c.core (cfg.modex.getLsbD 8) dest,
      (((s.rect c.rect).body.core k).engine.group (meIndex site % 16 + (if cfg.modex.getLsbD 8 then 16 else 0))).length < 4) :
    exec (.matrixBusBeat ⟨c.rect, c.core, site⟩) s = .next (busCarried s ⟨c.rect, c.core, site⟩
      (meIndex site % 16 + (if cfg.modex.getLsbD 8 then 16 else 0)) (.beat dest ws) ((s.rect c.rect).busCores c.core (cfg.modex.getLsbD 8) dest)) := by
  have hcfg' : (s.site ⟨c.rect, c.core, site⟩).cfg = .me cfg := hcfg
  have hout' : (s.site ⟨c.rect, c.core, site⟩).st.busOut = some (.beat dest ws) := hout
  have hcol : bitOf cfg.modex.toNat 8 = cfg.modex.getLsbD 8 := (Nat.testBit_eq_decide_div_mod_eq.symm : _)
  have hall : ((s.rect c.rect).busCores c.core (cfg.modex.getLsbD 8) dest).all (fun k =>
      decide ((((s.rect c.rect).body.core k).engine.group (meIndex site % 16 + (if cfg.modex.getLsbD 8 then 16 else 0))).length < busRoom)) = true :=
    List.all_eq_true.mpr fun k hk => decide_eq_true (hroom k hk)
  change execMatrixBusBeat _ s = _
  rw [execMatrixBusBeat]
  dsimp only
  split
  · next h1 h2 =>
    obtain rfl := ElemCfg.me.inj (hcfg'.symm.trans h1)
    obtain rfl := Option.some.inj (hout'.symm.trans h2)
    rw [hf, hcol]
    exact (if_neg Bool.false_ne_true).trans ((if_neg Bool.false_ne_true).trans (if_pos hall))
  · next h => exact absurd hout' (h _ _ hcfg')

theorem core_busCarried (e : SiteRef) (n : Nat) (i : BusItem) {ks : List Nat} (h : ks.Nodup) (r k : Nat) :
    (busCarried s e n i ks).core ⟨r, k⟩
      = (let d := (s.setSite e { s.site e with st := { (s.site e).st with busOut := none } }).core ⟨r, k⟩
        if r = e.rect ∧ k ∈ ks then d.busPut n i else d) := by
  rw [busCarried, State.core, State.rect_modRect]
  split
  · next hr =>
    obtain rfl : r = e.rect := hr
    refine (Body.core_modCores (Core.busPut n i) h _ k).trans ?_
    simp only [true_and]
    rfl
  · next hr =>
    simp only [show ¬ r = e.rect from hr, false_and, if_false]
    rfl

theorem sameMemory_busCarried (e : SiteRef) (n : Nat) (i : BusItem) {ks : List Nat} (h : ks.Nodup) : SameMemory s (busCarried s e n i ks) := by
  refine sameMemory_of_eq rfl rfl fun ⟨r, k⟩ => ?_
  rw [core_busCarried e n i h]
  have hs : ((s.setSite e { s.site e with st := { (s.site e).st with busOut := none } }).core ⟨r, k⟩).scratch = (s.core ⟨r, k⟩).scratch := by
    rw [State.setSite, State.core_modCore]
    split
    · next e => rw [e]; rfl
    · rfl
  dsimp only
  split
  · exact hs
  · exact hs

theorem group_busCarried (e : SiteRef) (n : Nat) (i : BusItem) {ks : List Nat} (h : ks.Nodup) (k : Nat) :
    ((busCarried s e n i ks).core ⟨e.rect, k⟩).engine.group n
      = if k ∈ ks then (s.core ⟨e.rect, k⟩).engine.group n ++ [i] else (s.core ⟨e.rect, k⟩).engine.group n := by
  have hs : ((s.setSite e { s.site e with st := { (s.site e).st with busOut := none } }).core ⟨e.rect, k⟩).engine = (s.core ⟨e.rect, k⟩).engine := by
    rw [State.setSite, State.core_modCore]
    split
    · next e => rw [e]; rfl
    · rfl
  rw [core_busCarried e n i h]
  simp only [true_and]
  split
  · rw [Core.group_busPut, hs]
  · rw [hs]

theorem busOut_busCarried (e : SiteRef) (n : Nat) (i : BusItem) {ks : List Nat} (h : ks.Nodup) :
    (((busCarried s e n i ks).core e.coreRef).site e.site).st.busOut = none := by
  have hs : ((s.setSite e { s.site e with st := { (s.site e).st with busOut := none } }).core e.coreRef).site e.site
      = { s.site e with st := { (s.site e).st with busOut := none } } := by
    rw [State.setSite, State.core_modCore_same, Core.site_setSite, if_pos rfl]
  rw [SiteRef.coreRef, core_busCarried e n i h]
  dsimp only
  split
  · exact congrArg (fun y : Site => y.st.busOut) hs
  · exact congrArg (fun y : Site => y.st.busOut) hs

/-! ## The only command of an engine -/

section
variable {m : MxCmd}

theorem mxCmd_lone (h : (s.core c).engine.cmds = [m]) : s.mxCmd c m.id = some m := by
  rw [State.mxCmd, h]
  exact find?_singleton_of (p := fun x : MxCmd => decide (x.id = m.id)) (decide_eq_true rfl)

theorem engine_modCore {f : Core → Core} : ((s.modCore c f).core c).engine = (f (s.core c)).engine := by rw [State.core_modCore_same]

theorem engine_modMx (f : MxCmd → MxCmd) (id : Nat) : ((s.modMx c id f).core c).engine
    = { (s.core c).engine with cmds := (s.core c).engine.cmds.map (fun x => if x.id = id then f x else x) } := engine_modCore

theorem engine_modTile (f : Tile → Tile) (t : Nat) : ((s.modTile c t f).core c).engine
    = (s.core c).engine.setTile t (f ((s.core c).engine.tile t)) := engine_modCore

theorem cmds_modMx (h : (s.core c).engine.cmds = [m]) (f : MxCmd → MxCmd) : ((s.modMx c m.id f).core c).engine.cmds = [f m] := by
  rw [engine_modMx, h]
  exact congrArg (· :: []) (if_pos rfl)

theorem sameMemory_modMx (f : MxCmd → MxCmd) (id : Nat) : SameMemory s (s.modMx c id f) := sameMemory_modCore _ _ rfl

theorem sameMemory_modTile (f : Tile → Tile) (t : Nat) : SameMemory s (s.modTile c t f) := sameMemory_modCore _ _ rfl

/-- R207: the only command of an engine starts. -/
theorem mayStart_lone (h : (s.core c).engine.cmds = [m]) (hf : (s.rect c.rect).fires = true) (hw : s.walks = []) (hq : m.phase = .queued)
    (hs : (s.core c).engine.noStart = false) (hg : (s.core c).engine.gates = []) (hb : (s.rect c.rect).phase ≠ .boundary) : s.mxMayStart c m = true := by
  rw [State.mxMayStart]
  rw [h, hf, hw, hs, hg]
  simp [hq, hb]

theorem matrixZeroStarts (h : (s.core c).engine.cmds = [m]) (hm : s.mxMayStart c m = true) (hz : m.op = .z) :
    ∃ t, exec (.matrixCommandStart c m.id) s = .next t ∧ ((t.core c).engine.tile m.tile).vals = []
      ∧ (t.core c).engine.cmds = [{ m with phase := .finished }] ∧ SameMemory s t := by
  refine ⟨(s.modTile c m.tile Tile.zeroed).mxDone c m, ?_, ?_, ?_, (sameMemory_modTile _ _).trans (sameMemory_modMx _ _)⟩
  · change execMatrixCommandStart c m.id s = _
    rw [execMatrixCommandStart, mxCmd_lone h]
    refine (if_pos hm).trans ?_
    rw [State.startMx, hz]
  · rw [State.mxDone, engine_modMx, engine_modTile]
    exact congrArg Tile.vals ((Engine.tile_setTile _ _ _ _).trans (if_pos rfl))
  · refine cmds_modMx ?_ _
    rw [engine_modTile]
    exact h

theorem matrixIndexTaken {row0 nv : Nat} {w : FWord} {rest : List FWord} (h : (s.core c).engine.cmds = [m]) (hf : (s.rect c.rect).fires = true)
    (hw : s.walks = []) (hr : m.phase = .running) (hop : m.op = .val .idx row0 nv) (hi : (s.core c).engine.index = w :: rest) (hk : w.kind = .data)
    (hn : m.vecs.length ≤ nv) (hl : (m.vecs.getLastD []).length < m.cfg.k) (hv : w.data.toNat ≤ m.cfg.vm1) :
    ∃ t, exec (.matrixBlock c m.id) s = .next t ∧ (t.core c).engine.index = rest ∧ SameMemory s t
      ∧ (t.core c).engine.cmds = [{ m with vecs := m.vecs.dropLast ++ [m.vecs.getLastD [] ++ [w.data.toNat]], emitted := m.emitted + 1 }] := by
  refine ⟨(s.modCore c (fun x => { x with engine := { x.engine with index := rest } })).modMx c m.id (fun y => y.pushIndex w.data.toNat),
    ?_, ?_, (sameMemory_modCore _ _ rfl).trans (sameMemory_modMx _ _), ?_⟩
  · change execMatrixBlock c m.id s = _
    rw [execMatrixBlock, mxCmd_lone h]
    refine (if_neg ?_).trans ?_
    · rw [hf, hw, hr]
      simp
    rw [hop]
    dsimp only
    rw [State.streamStep, if_neg (not_lt.mpr hn)]
    dsimp only
    rw [hi]
    dsimp only
    rw [if_pos hk, if_neg (not_le.mpr hl), State.arrive]
    dsimp only
    rw [if_neg (by omega), hop]
  · rw [engine_modMx, engine_modCore]
  · refine cmds_modMx ?_ _
    rw [engine_modCore]
    exact h

/-! ## Indices stored at the scratchpad -/

/-- An agent reaches a place of the window of its rectangle. -/
theorem agentReach_window {who : Requester} {va : Word} {n align k o : Nat} {write : Bool} (ha : va.toNat % align = 0) (h48 : va.toNat < 2 ^ 48)
    (hb : windowBase ≤ va.toNat) (hl : (s.rect c.rect).windowLoc va.toNat n = some (.window k o)) :
    ∃ tl, s.agentReach who c va n align write = .ok (s.withTlb1 tl) (.window k o) .keep := by
  obtain ⟨tl, e⟩ := State.touchTlb_eq s (coreCache ((s.rect c.rect).phys c.core)) (dieOf ((s.rect c.rect).phys c.core)) (s.rect c.rect).tag va.toNat
  refine ⟨tl, ?_⟩
  rw [State.agentReach, if_neg (not_not.mpr ha), if_neg (not_le.mpr h48), State.reach, if_pos hb, hl, e]
  rfl

/-- The state after a command stored bytes at a place of the scratchpad, by its own part `f`. -/
def mxStored (s : State) (c : CoreRef) (id : Nat) (tl : List TlbEntry) (k o : Nat) (bs : List Byte) (f : MxCmd → MxCmd) : State :=
  ((s.withTlb1 tl).modCore ⟨c.rect, k⟩ (fun x => { x with scratch := setCells x.scratch o bs })).modMx c id f

theorem mxWrite_window {va : Word} {bs : List Byte} {k o : Nat} (ha : va.toNat % bs.length = 0) (h48 : va.toNat < 2 ^ 48)
    (hb : windowBase ≤ va.toNat) (hl : (s.rect c.rect).windowLoc va.toNat bs.length = some (.window k o)) :
    ∃ tl, s.mxWrite c m va bs
      = .ok ((s.withTlb1 tl).modCore ⟨c.rect, k⟩ (fun x => { x with scratch := setCells x.scratch o bs })) () := by
  obtain ⟨tl, e⟩ := agentReach_window (who := .mx c m.id) (n := bs.length) (write := true) ha h48 hb hl
  refine ⟨tl, ?_⟩
  rw [State.mxWrite, e]
  rfl

theorem cmds_mxStored (h : (s.core c).engine.cmds = [m]) (tl : List TlbEntry) (k o : Nat) (bs : List Byte) (f : MxCmd → MxCmd) :
    ((mxStored s c m.id tl k o bs f).core c).engine.cmds = [f m] := by
  refine cmds_modMx ?_ f
  rw [State.core_modCore]
  split
  · next e =>
    rw [← e]
    exact h
  · exact h

theorem byteAt_mxStored (tl : List TlbEntry) (id k o : Nat) (bs : List Byte) (f : MxCmd → MxCmd)
    (hwf : Memory.wf (s.core ⟨c.rect, k⟩).scratch = true) (i : Nat) : byteAt ((mxStored s c id tl k o bs f).core ⟨c.rect, k⟩).scratch i
      = if o ≤ i ∧ i < o + bs.length then bs.getD (i - o) 0 else byteAt (s.core ⟨c.rect, k⟩).scratch i := by
  have e : ((mxStored s c id tl k o bs f).core ⟨c.rect, k⟩).scratch = setCells (s.core ⟨c.rect, k⟩).scratch o bs := by
    have hs : (((s.withTlb1 tl).modCore ⟨c.rect, k⟩ (fun x => { x with scratch := setCells x.scratch o bs })).core ⟨c.rect, k⟩).scratch
        = setCells (s.core ⟨c.rect, k⟩).scratch o bs := by
      rw [State.core_modCore_same]
      rfl
    rw [mxStored, State.modMx, State.core_modCore]
    split
    · next e => exact (congrArg (fun c => (State.core _ c).scratch) e.symm).trans hs
    · exact hs
  rw [e]
  exact Memory.byte_setCells hwf o i bs

theorem rankIndexStored {va : Word} {w : W32} {rest : List (Nat × FWord)} {ws : Bool} {q : Fin 16} {row0 nv st reg k o : Nat} (h : (s.core c).engine.cmds = [m])
    (hf : (s.rect c.rect).fires = true) (hw : s.walks = []) (hr : m.phase = .running) (hop : m.op = .net ws (.direct q) row0 nv st reg)
    (hst : m.staged = (0, ⟨.data, 0, w⟩) :: rest) (hva : patAddr m.patA m.block = va) (ha : va.toNat % 4 = 0) (h48 : va.toNat < 2 ^ 48)
    (hb : windowBase ≤ va.toNat) (hl : (s.rect c.rect).windowLoc va.toNat 4 = some (.window k o)) :
    ∃ tl, exec (.rankIndexEmit c m.id) s = .next (mxStored s c m.id tl k o (splitBytes 4 w.toNat)
      (fun x => { x with staged := x.staged.drop 1, block := x.block + 1, emitted := x.emitted + 1 })) := by
  obtain ⟨tl, e⟩ := mxWrite_window (m := m) (bs := splitBytes 4 w.toNat) ha h48 hb hl
  refine ⟨tl, ?_⟩
  change execRankIndexEmit c m.id s = _
  rw [execRankIndexEmit, mxCmd_lone h]
  refine (if_neg ?_).trans ?_
  · rw [hf, hw, hr, hst]
    simp
  rw [hop, hst]
  refine (if_pos rfl).trans (congrArg Outcome.next ?_)
  rw [State.indexOut, hop]
  dsimp only
  rw [State.rankStore, hva, hst]
  refine (congrArg _ ((congrArg (s.mxWrite c m va) (List.append_nil _)).trans e)).trans ?_
  rfl

/-! ## A command that is done -/

theorem rankCount_other (hn : ∀ ws dst a b d f, m.op ≠ .net ws dst a b d f) (ht : ∀ a b d f, m.op ≠ .trc a b d f) : s.rankCount c m = s := by
  rw [State.rankCount]
  dsimp only
  split
  · next h => exact absurd h (hn _ _ _ _ _ _)
  · next h => exact absurd h (ht _ _ _ _)
  · rfl

/-- The tile of a command that is done: no longer in use where the command clears it. -/
def leftTile (m : MxCmd) (e : Engine) : Engine := if m.op.clears then e.setTile m.tile { e.tile m.tile with inUse := false } else e

/-- The core of a command that is done, with the cut that its number waits for. -/
def mxRetired (m : MxCmd) (cut : Nat) (k : Core) : Core :=
  ({ k with engine := { leftTile m k.engine with cmds := (leftTile m k.engine).cmds.filter (fun x => decide (x.id ≠ m.id)) } } : Core).completeNumber m.tl m.num cut

/-- The state after a command that is done. -/
def retiredMx (s : State) (c : CoreRef) (m : MxCmd) : State :=
  (s.modCore c (mxRetired m ((s.rect c.rect).cutAfter true))).modRect c.rect (fun x => x.wantCut ((s.rect c.rect).cutAfter true))

theorem retireMx_eq (h : s.rankCount c m = s) : s.retireMx c m = retiredMx s c m := by
  have hcut : ∀ f, ((s.modCore c f).rect c.rect).cutAfter true = (s.rect c.rect).cutAfter true := fun f => by
    rw [Rect.cutAfter, Rect.cutAfter, State.rect_modCore_prog, State.rect_modCore_started]
  have hleft : ∀ f, (∀ k, f k = mxRetired m ((s.rect c.rect).cutAfter true) k) →
      (s.modCore c f).modRect c.rect (fun x => x.wantCut ((s.rect c.rect).cutAfter true)) = retiredMx s c m := fun f hf => by
    rw [retiredMx, funext hf]
  rw [State.retireMx, h]
  dsimp only
  by_cases hc : m.op.clears = true
  · rw [if_pos hc, State.modTile, State.modCore_modCore, State.complete, hcut, State.modCore_modCore]
    refine hleft _ fun k => ?_
    rw [mxRetired, leftTile, if_pos hc]
  · rw [if_neg hc, State.complete, hcut, State.modCore_modCore]
    refine hleft _ fun k => ?_
    rw [mxRetired, leftTile, if_neg hc]

theorem core_retiredMx (s : State) (c : CoreRef) (m : MxCmd) : (retiredMx s c m).core c = mxRetired m ((s.rect c.rect).cutAfter true) (s.core c) := by
  rw [retiredMx, State.core_modRect_of_body _ _ (fun x => Rect.body_wantCut x _), State.core_modCore_same]

theorem sameMemory_retiredMx (s : State) (c : CoreRef) (m : MxCmd) : SameMemory s (retiredMx s c m) :=
  (sameMemory_modCore s c (f := mxRetired m _) rfl).trans (sameMemory_modRect _ _ (fun x => Rect.body_wantCut x _))

theorem matrixCompletes (h : (s.core c).engine.cmds = [m]) (hf : (s.rect c.rect).fires = true) (hw : s.walks = []) (hp : m.phase = .finished)
    (hn : ∀ ws dst a b d f, m.op ≠ .net ws dst a b d f) (ht : ∀ a b d f, m.op ≠ .trc a b d f) :
    ∃ t, exec (.matrixCommandComplete c m.id) s = .next t ∧ (t.core c).engine.cmds = [] ∧ SameMemory s t
      ∧ ((t.core c).tline m.tl).done = ((s.core c).tline m.tl).done ++ [(m.num, (s.rect c.rect).cutAfter true)]
      ∧ ((t.core c).engine.tile m.tile).inUse = (if m.op.clears then false else ((s.core c).engine.tile m.tile).inUse) := by
  refine ⟨retiredMx s c m, ?_, ?_, sameMemory_retiredMx s c m, ?_, ?_⟩
  · change execMatrixCommandComplete c m.id s = _
    rw [execMatrixCommandComplete, mxCmd_lone h]
    refine (if_neg ?_).trans ((if_pos hp).trans (congrArg Outcome.next (retireMx_eq (rankCount_other hn ht))))
    rw [hf, hw, hp]
    simp
  · have hl : (leftTile m (s.core c).engine).cmds = [m] := by
      rw [leftTile]
      split
      · exact h
      · exact h
    rw [core_retiredMx]
    change (leftTile m (s.core c).engine).cmds.filter (fun x => decide (x.id ≠ m.id)) = []
    rw [hl]
    simp
  · rw [core_retiredMx]
    exact done_completeNumber _ _ _ _
  · rw [core_retiredMx]
    change ((leftTile m (s.core c).engine).tile m.tile).inUse = _
    rw [leftTile]
    split
    · rw [Engine.tile_setTile, if_pos rfl]
    · rfl

end

end

/-- Settles O29. -/
theorem matrixEngineSteps : Obligations.MatrixEngineSteps := by
  intro s c m x e hf hw
  refine ⟨fun site dest cfg ws hcfg hout hnd hroom => ?_, fun h => ⟨fun hq hz hs hg hb => ?_, ?_, ?_, ?_⟩⟩
  · refine ⟨_, exec_busBeat hf hcfg hout hroom, busOut_busCarried ⟨c.rect, c.core, site⟩ _ _ hnd, sameMemory_busCarried _ _ _ hnd, fun k => ?_⟩
    exact group_busCarried ⟨c.rect, c.core, site⟩ _ _ hnd k
  · exact matrixZeroStarts h (mayStart_lone h hf hw hq hs hg hb) hz
  · exact fun row0 nv w rest hr hop hi hk hn hl hv => matrixIndexTaken h hf hw hr hop hi hk hn hl hv
  · intro ws q row0 nv st reg w rest k o hr hop hst va old ha h48 hb hl hwf
    obtain ⟨tl, e⟩ := rankIndexStored h hf hw hr hop hst rfl ha h48 hb hl
    refine ⟨_, e, ?_, fun i => ?_, rfl, rfl⟩
    · rw [cmds_mxStored h, hst]
      rfl
    · refine (byteAt_mxStored tl m.id k o _ _ hwf i).trans ?_
      rw [splitBytes_length]
      split
      · next hi =>
        rw [splitBytes_getD (by omega)]
        apply BitVec.eq_of_toNat_eq
        simp [BitVec.extractLsb'_toNat, Nat.shiftRight_eq_div_pow, Nat.pow_mul]
      · rfl
  · exact fun hp hn ht => matrixCompletes h hf hw hp hn ht

end Sys2Proof.Cert
end

section
/-! PROOF. The dynamic network (R361 to R363, R373, R392, R394). -/

namespace Sys2Proof.Machine

/-! ## The dimension order -/

/-- The output towards the goal along the rows, and along the columns (R361). -/
def stepEw (at_ goal : Nat) : Option HopOut := if at_ % 16 < goal % 16 then some .east else if goal % 16 < at_ % 16 then some .west else none
def stepNs (at_ goal : Nat) : Option HopOut := if at_ / 16 < goal / 16 then some .south else if goal / 16 < at_ / 16 then some .north else none

theorem routeStep_eq (y : Bool) (at_ goal : Nat) : routeStep y at_ goal
    = ((if y then (stepNs at_ goal).or (stepEw at_ goal) else (stepEw at_ goal).or (stepNs at_ goal)).getD .here) := by
  have h : ∀ a b : Option HopOut, (match a.orElse (fun _ => b) with | some o => o | none => HopOut.here) = (a.or b).getD .here := by
    intro a b
    cases a <;> cases b <;> rfl
  cases y
  · exact h _ _
  · exact h _ _

theorem stepEw_none {a g : Nat} : stepEw a g = none ↔ a % 16 = g % 16 := by
  rw [stepEw]
  split
  · exact iff_of_false nofun (by omega)
  · split
    · exact iff_of_false nofun (by omega)
    · exact iff_of_true rfl (by omega)

theorem stepNs_none {a g : Nat} : stepNs a g = none ↔ a / 16 = g / 16 := by
  rw [stepNs]
  split
  · exact iff_of_false nofun (by omega)
  · split
    · exact iff_of_false nofun (by omega)
    · exact iff_of_true rfl (by omega)

/-- An output towards the goal leads to a router of the die. -/
theorem stepEw_stays {a g : Nat} (ha : a < 256) {o : HopOut} (h : stepEw a g = some o) : o ≠ .here ∧ hopNext o a < 256 := by
  rw [stepEw] at h
  split at h
  · obtain rfl := Option.some.inj h
    exact ⟨nofun, show a + 1 < 256 by omega⟩
  · split at h
    · obtain rfl := Option.some.inj h
      exact ⟨nofun, show a - 1 < 256 by omega⟩
    · cases h

theorem stepNs_stays {a g : Nat} (ha : a < 256) (hg : g < 256) {o : HopOut} (h : stepNs a g = some o) : o ≠ .here ∧ hopNext o a < 256 := by
  rw [stepNs] at h
  split at h
  · obtain rfl := Option.some.inj h
    exact ⟨nofun, show a + 16 < 256 by omega⟩
  · split at h
    · obtain rfl := Option.some.inj h
      exact ⟨nofun, show a - 16 < 256 by omega⟩
    · cases h

theorem routeStep_here {y : Bool} {a : Nat} : routeStep y a a = .here := by
  rw [routeStep_eq, stepEw_none.mpr rfl, stepNs_none.mpr rfl]
  cases y <;> rfl

/-- Away from the goal, a route takes one of the two outputs towards it. -/
theorem routeStep_towards {y : Bool} {a g : Nat} (h : a ≠ g) : stepEw a g = some (routeStep y a g) ∨ stepNs a g = some (routeStep y a g) := by
  rw [routeStep_eq]
  rcases he : stepEw a g with _ | e <;> rcases hn : stepNs a g with _ | n
  · have h1 := stepEw_none.mp he
    have h2 := stepNs_none.mp hn
    omega
  · cases y <;> exact .inr rfl
  · cases y <;> exact .inl rfl
  · cases y
    · exact .inl rfl
    · exact .inr rfl

end Sys2Proof.Machine

namespace Sys2Proof.Cert

open Sys2Proof.Machine
open Host (Outcome)

theorem dimensionOrder : DimensionOrder := by
  intro a g ha hg
  refine ⟨fun h y => ?_, fun h y => ?_, fun o h => ?_, fun o h => ?_, fun hx o h => ?_⟩
  · rw [← h]
    exact routeStep_here
  · obtain he | hn := routeStep_towards (y := y) h
    · exact stepEw_stays ha he
    · exact stepNs_stays ha hg hn
  · rw [routeStep_eq, if_neg Bool.false_ne_true, show stepEw a g = some o from h]
    rfl
  · rw [routeStep_eq, if_pos rfl, show stepNs a g = some o from h]
    rfl
  · rw [routeStep_eq, if_neg Bool.false_ne_true, show stepEw a g = none from hx, show stepNs a g = some o from h]
    rfl

/-! ## The only packet of the only rectangle -/

section
variable {s : State} {r : Nat} {x : Rect} {p : Packet} {out : HopOut}

theorem inOrder_lone (h : x.body.net = [p]) : x.body.outOfOrder p = false := by
  rw [Body.outOfOrder, h]
  simp

theorem nextPacket_lone (hs : s.rects = [(r, x)]) (hph : x.phase = .run) (hn : x.body.net = [p])
    (ho : routeStep p.yFirst p.router (x.packetGoal p) = out) : s.nextPacket p.router out = some (r, p) := by
  have hf : (x.body.net.filter (fun k => decide (k.router = p.router) && decide (routeStep k.yFirst p.router (x.packetGoal k) = out)
      && !(decide (out = .here) && x.body.outOfOrder k))) = [p] := by
    rw [hn]
    refine List.filter_eq_self.mpr fun k hk => ?_
    obtain rfl := List.mem_singleton.mp hk
    rw [inOrder_lone hn, ho]
    simp
  have hc : x.phase.carries = true := by rw [hph]; rfl
  rw [State.nextPacket, hs]
  rw [List.flatMap_singleton, if_pos hc, hf]
  rfl

theorem dropPacket_lone (h : x.body.net = [p]) : (x.body.dropPacket p.id).net = [] := by
  rw [Body.dropPacket, h]
  simp

theorem hop_crosses (hs : s.rects = [(r, x)]) (hph : x.phase = .run) (hn : x.body.net = [p])
    (ho : routeStep p.yFirst p.router (x.packetGoal p) = out) (hne : out ≠ .here) (hq : s.edgeRefusal p.router (hopNext out p.router) out = none) :
    ∃ t, exec (.dynamicPacketHop p.router out) s = .next t ∧ (t.rect r).body.net = [{ p with router := hopNext out p.router }] ∧ SameMemory s t := by
  refine ⟨s.modBody r (fun b => { b with net := b.net.map (fun q => if q.id = p.id then { q with router := hopNext out p.router } else q) }), ?_, ?_,
    sameMemory_modBody _ _ fun _ => rfl⟩
  · change execDynamicPacketHop _ _ s = _
    rw [execDynamicPacketHop, nextPacket_lone hs hph hn ho]
    refine (if_neg hne).trans ?_
    dsimp only
    rw [hq]
  · rw [State.body_modBody_same, rect_of_single hs, hn]
    exact congrArg (· :: []) (if_pos rfl)

theorem raiseFabric_keeps {s : State} {r c core : Nat} {v : Word} : ((s.raiseFabric r c v core).rect r).body.net = (s.rect r).body.net
    ∧ ((s.raiseFabric r c v core).rect r).body.fabricStop = (s.rect r).body.fabricStop ∧ (s.raiseFabric r c v core).parts = s.parts := by
  rw [State.raiseFabric]
  split
  · exact ⟨rfl, rfl, rfl⟩
  · split
    · rw [State.body_modBody_same]
      exact ⟨rfl, rfl, rfl⟩
    · rw [State.body_modBody_same]
      exact ⟨rfl, rfl, rfl⟩

/-- The core that a packet came from. -/
def sourceCore (p : Packet) : Nat :=
  match p.payload with
  | .fabric _ _ src => src / 128
  | .vcWord _ _ _ u => u / 8

theorem hop_refused {c : Nat} {v : Word} (hs : s.rects = [(r, x)]) (hph : x.phase = .run) (hn : x.body.net = [p])
    (ho : routeStep p.yFirst p.router (x.packetGoal p) = out) (hne : out ≠ .here) (hq : s.edgeRefusal p.router (hopNext out p.router) out = some (c, v))
    (hb : x.fabricBusy = false) :
    ∃ t, exec (.dynamicPacketHop p.router out) s = .next t ∧ (t.rect r).body.net = [] ∧ (t.rect r).body.fabricStop = true
      ∧ (t.part x.part).refusals = (s.part x.part).refusals + 1 := by
  have hr := rect_of_single hs
  have hd : ∀ core, ∃ t, ((s.modBody r (fun b => b.dropPacket p.id)).elementFault r c v core).modPart x.part (fun p => { p with refusals := p.refusals + 1 }) = t
      ∧ (t.rect r).body.net = [] ∧ (t.rect r).body.fabricStop = true ∧ (t.part x.part).refusals = (s.part x.part).refusals + 1 := by
    intro core
    obtain ⟨h1, h2, h3⟩ := raiseFabric_keeps (s := (s.modBody r (fun b => b.dropPacket p.id)).modBody r (fun b => { b with fabricStop := true })) (r := r) (c := c)
      (core := core) (v := v)
    refine ⟨_, rfl, ?_, ?_, ?_⟩
    · refine h1.trans ?_
      rw [State.body_modBody_same, State.body_modBody_same, hr]
      exact dropPacket_lone hn
    · refine h2.trans ?_
      rw [State.body_modBody_same]
    · refine (congrArg Part.refusals (Sparse.at_put_same _ _ _ _)).trans ?_
      change (Sparse.at _ (State.parts _) _).refusals + 1 = _
      rw [State.elementFault, h3]
      rfl
  have he : exec (.dynamicPacketHop p.router out) s = .next (((s.modBody r (fun b => b.dropPacket p.id)).elementFault r c v (sourceCore p)).modPart x.part
      (fun p => { p with refusals := p.refusals + 1 })) := by
    change execDynamicPacketHop _ _ s = _
    rw [execDynamicPacketHop, nextPacket_lone hs hph hn ho]
    refine (if_neg hne).trans ?_
    dsimp only
    rw [hq]
    dsimp only
    rw [hr, hb]
    rfl
  obtain ⟨t, rfl, ht⟩ := hd (sourceCore p)
  exact ⟨_, he, ht⟩

/-- A queue of a site that has it, or a buffer of the engine, takes what is set. -/
theorem Core.inQueue_setInQueue {c : Core} {site q : Nat} (l : List FWord) (h : q < (c.site site).queues.length ∨ (q = 0 ∧ (site = 7 ∨ site = 23))) :
    (c.setInQueue site q l).inQueue site q = l := by
  rw [Core.setInQueue, Core.inQueue]
  by_cases h7 : site = 7 ∧ q = 0
  · rw [if_pos h7, if_pos h7]
  rw [if_neg h7, if_neg h7]
  by_cases h23 : site = 23 ∧ q = 0
  · rw [if_pos h23, if_pos h23]
  rw [if_neg h23, if_neg h23]
  have hq : q < (c.site site).queues.length := h.resolve_right fun ⟨h0, hsite⟩ => hsite.elim (fun h => h7 ⟨h, h0⟩) (fun h => h23 ⟨h, h0⟩)
  dsimp only
  rw [Core.site_setSite, if_pos rfl]
  simp [List.getD_eq_getElem?_getD, hq]

theorem hop_lands {d : Dest} {w : FWord} {u : Nat} (hs : s.rects = [(r, x)]) (hph : x.phase = .run) (hn : x.body.net = [p])
    (ho : routeStep p.yFirst p.router (x.packetGoal p) = .here) (hp : p.payload = .fabric d w u)
    (hq : d.queue < (((x.body.core d.core)).site d.site).queues.length ∨ (d.queue = 0 ∧ (d.site = 7 ∨ d.site = 23))) :
    ∃ t, exec (.dynamicPacketHop p.router .here) s = .next t ∧ (t.rect r).body.net = []
      ∧ ((t.rect r).body.core d.core).inQueue d.site d.queue = (x.body.core d.core).inQueue d.site d.queue ++ [w] := by
  refine ⟨s.landWord r p d w u, ?_, ?_⟩
  · change execDynamicPacketHop _ _ s = _
    rw [execDynamicPacketHop, nextPacket_lone hs hph hn ho]
    refine (if_pos rfl).trans ?_
    rw [hp]
  · have hb : ((s.landWord r p d w u).rect r).body = (x.body.dropPacket p.id).modCore d.core
        (fun c => c.setInQueue d.site d.queue (c.inQueue d.site d.queue ++ [w])) := by
      rw [State.landWord, State.rect_modRect_same]
      exact (State.body_modBody_same _ _ _).trans (by rw [rect_of_single hs])
    rw [hb]
    refine ⟨dropPacket_lone hn, ?_⟩
    rw [Body.core_modCore_same]
    exact Core.inQueue_setInQueue _ hq

theorem vcWord_arrives {k : Nat} {v : Fin 16} {w : VcWord} {u : Nat} (hs : s.rects = [(r, x)]) (hph : x.phase = .run) (hn : x.body.net = [p])
    (hp : p.payload = .vcWord k v.val w u) (hr : p.router = x.phys k) :
    ∃ t, exec (.vcWordArrive ⟨r, k⟩ v p.id) s = .next t ∧ (t.rect r).body.net = []
      ∧ (((t.rect r).body.core k).vc v.val).queue = ((x.body.core k).vc v.val).queue ++ [w]
      ∧ (((t.rect r).body.core k).vc v.val).holder = ((x.body.core k).vc v.val).holder := by
  refine ⟨s.modBody r (fun b => (b.dropPacket p.id).modCore k (fun c => c.setVc v { c.vc v with queue := (c.vc v).queue ++ [w] })), ?_, ?_⟩
  · change execVcWordArrive _ v p.id s = _
    rw [execVcWordArrive]
    dsimp only
    rw [rect_of_single hs, hn, find?_singleton_of (p := fun q : Packet => decide (q.id = p.id)) (decide_eq_true rfl)]
    dsimp only
    rw [hp]
    refine if_pos ⟨rfl, rfl, hr, ?_, ?_⟩
    · rw [hph]
      rfl
    · rw [inOrder_lone hn]
      rfl
  · have hv : ∀ (c : Core) (y : Vc), (c.setVc v y).vc v.val = y := fun c y => Sparse.at_put_same _ _ _ _
    rw [State.body_modBody_same, rect_of_single hs, Body.core_modCore_same, hv]
    exact ⟨dropPacket_lone hn, rfl, rfl⟩

end

/-- Settles O22. -/
theorem networkSteps : Obligations.NetworkSteps := by
  refine ⟨?_, dimensionOrder⟩
  intro s r x p out hs hph hn _ goal ho
  refine ⟨fun hne hq => hop_crosses hs hph hn ho hne hq, fun hne c v hq hb => hop_refused hs hph hn ho hne hq hb,
    fun h d w u hp hq => hop_lands hs hph hn (ho.trans h) hp hq, fun k v w u hp hr => vcWord_arrives hs hph hn hp hr⟩

end Sys2Proof.Cert
end

section
/-! SUPPORT. The only consumer of an output, and what a firing changes at its core (R161, R162). -/

theorem List.eraseDups_eq_singleton {α : Type} [BEq α] [LawfulBEq α] {l : List α} {a : α} : l.eraseDups = [a] ↔ l ≠ [] ∧ ∀ b ∈ l, b = a := by
  cases l with
  | nil => exact iff_of_false nofun (fun h => h.1 rfl)
  | cons c l =>
    rw [List.eraseDups_cons, List.cons.injEq]
    constructor
    · rintro ⟨rfl, h⟩
      refine ⟨nofun, fun b hb => ?_⟩
      obtain rfl | hb := List.mem_cons.mp hb
      · rfl
      · by_contra hne
        have : b ∈ (l.filter (fun x => !x == c)).eraseDups := List.mem_eraseDups.mpr (List.mem_filter.mpr ⟨hb, by simpa using hne⟩)
        rw [h] at this
        cases this
    · rintro ⟨-, h⟩
      have hc := h c List.mem_cons_self
      refine ⟨hc, ?_⟩
      have : l.filter (fun x => !x == c) = [] := by
        refine List.filter_eq_nil_iff.mpr fun b hb => ?_
        rw [h b (List.mem_cons_of_mem _ hb), hc]
        simp
      rw [this]
      rfl

namespace Sys2Proof.Machine

theorem Sparse.mem_put_same {β : Type} (v : β) (m : Sparse β) (k : Nat) : (k, v) ∈ Sparse.put v m k :=
  Sparse.look_some_mem (Sparse.look_put_same v m k)

theorem Sparse.mem_put_ne {β : Type} {v : β} {m : Sparse β} {k : Nat} {p : Nat × β} (h : p ∈ m) (hne : p.1 ≠ k) : p ∈ Sparse.put v m k := by
  induction m with
  | nil => cases h
  | cons q m ih =>
    obtain ⟨j, u⟩ := q
    rw [Sparse.put]
    split
    · next hk =>
      obtain rfl | h := List.mem_cons.mp h
      · exact absurd hk.symm hne
      · exact List.mem_cons_of_mem _ h
    · split
      · exact List.mem_cons_of_mem _ h
      · obtain rfl | h := List.mem_cons.mp h
        · exact List.mem_cons_self
        · exact List.mem_cons_of_mem _ (ih h)

/-! ## Wiring -/

/-- Two cores between which no switch, no port and no configuration of an element differs. -/
structure Core.Wiring (c c' : Core) : Prop where
  switches : c'.switches = c.switches
  feeds : c'.feeds = c.feeds
  cfg : ∀ t, (c'.site t).cfg = (c.site t).cfg
  keys : ∀ t, (∃ p ∈ c'.sites, p.1 = t) ↔ ∃ p ∈ c.sites, p.1 = t

theorem Core.Wiring.of_sites {c c' : Core} (hs : c'.switches = c.switches) (hf : c'.feeds = c.feeds) (ht : c'.sites = c.sites) : c.Wiring c' :=
  ⟨hs, hf, fun t => by rw [Core.site, ht, Core.site], fun t => by rw [ht]⟩

/-- A listed site keeps its configuration. -/
theorem Core.wiring_setSite {c : Core} {n : Nat} {y : Site} (hy : y.cfg = (c.site n).cfg) (hn : ∃ p ∈ c.sites, p.1 = n) : c.Wiring (c.setSite n y) := by
  refine ⟨rfl, rfl, fun t => ?_, fun t => ⟨?_, ?_⟩⟩
  · rw [Core.site_setSite]
    split
    · next e => rw [e, hy]
    · rfl
  · rintro ⟨p, hp, rfl⟩
    obtain rfl | hp := Sparse.mem_put hp
    · exact hn
    · exact ⟨p, hp, rfl⟩
  · rintro ⟨p, hp, rfl⟩
    by_cases e : p.1 = n
    · exact ⟨_, Sparse.mem_put_same y c.sites n, e.symm⟩
    · exact ⟨p, Sparse.mem_put_ne hp e, rfl⟩

theorem agTarget_wiring {c c' : Core} (h : c.Wiring c') (t : Nat) : agTarget c' t = agTarget c t := by
  obtain ⟨hs, hf, hc, -⟩ := h
  rw [agTarget, agTarget, hc]
  cases (c.site t).cfg with
  | ag g =>
    dsimp only
    rw [hc, Core.switch, hs, hf]
    rfl
  | empty => rfl
  | ce _ => rfl
  | me _ => rfl

section
variable {cores : Sparse Core} {k : Nat} {c c' : Core}

theorem switch_put (hc : cores.look k = some c) (h : c.Wiring c') (j n : Nat) :
    (Sparse.at Core.launch (Sparse.put c' cores k) j).switch n = (Sparse.at Core.launch cores j).switch n := by
  rw [Sparse.at_put]
  split
  · next e =>
    rw [e, Sparse.at, hc, Core.switch, h.switches]
    rfl
  · rfl

theorem traceBack_put (hc : cores.look k = some c) (h : c.Wiring c') (w ht : Nat) (fuel : Nat) (p : HopAt) (acc : List HopAt) :
    traceBack (Sparse.put c' cores k) w ht fuel p acc = traceBack cores w ht fuel p acc := by
  induction fuel generalizing p acc with
  | zero => rfl
  | succ fuel ih =>
    rw [traceBack, traceBack, switch_put hc h]
    simp only [ih]

theorem mem_staticChannels_put (hc : cores.look k = some c) (h : c.Wiring c') {w ht : Nat} {ch : Channel}
    (hm : ch ∈ staticChannels (Sparse.put c' cores k) w ht) : ch ∈ staticChannels cores w ht := by
  simp only [staticChannels, traceBack_put hc h, List.mem_flatMap] at hm ⊢
  obtain ⟨p, hp, hm⟩ := hm
  obtain rfl | hp := Sparse.mem_put hp
  · exact ⟨(k, c), Sparse.look_some_mem hc, by rwa [← h.switches]⟩
  · exact ⟨p, hp, hm⟩

theorem any_lower_wiring (h : c.Wiring c') (t m : Nat) :
    c'.sites.any (fun y => decide (y.1 < t) && agTarget c' y.1 == some m) = c.sites.any (fun y => decide (y.1 < t) && agTarget c y.1 == some m) := by
  rw [Bool.eq_iff_iff, List.any_eq_true, List.any_eq_true]
  constructor
  · rintro ⟨y, hy, ht⟩
    obtain ⟨z, hz, e⟩ := (h.keys y.1).mp ⟨y, hy, rfl⟩
    exact ⟨z, hz, by rw [e, ← agTarget_wiring h]; exact ht⟩
  · rintro ⟨y, hy, ht⟩
    obtain ⟨z, hz, e⟩ := (h.keys y.1).mpr ⟨y, hy, rfl⟩
    exact ⟨z, hz, by rw [e, agTarget_wiring h]; exact ht⟩

theorem mem_agChannels_put (hc : cores.look k = some c) (h : c.Wiring c') {ch : Channel}
    (hm : ch ∈ agChannels (Sparse.put c' cores k)) : ch ∈ agChannels cores := by
  rw [agChannels, List.mem_flatMap] at hm ⊢
  obtain ⟨p, hp, hm⟩ := hm
  obtain rfl | hp := Sparse.mem_put hp
  · refine ⟨(k, c), Sparse.look_some_mem hc, ?_⟩
    obtain ⟨y, hy, hm⟩ := List.mem_filterMap.mp hm
    obtain ⟨z, hz, e⟩ := (h.keys y.1).mp ⟨y, hy, rfl⟩
    refine List.mem_filterMap.mpr ⟨z, hz, ?_⟩
    simp only [agTarget_wiring h] at hm
    rw [e, ← hm]
    cases ht : agTarget c y.1 with
    | none => rfl
    | some m =>
      dsimp only
      rw [← any_lower_wiring h]
      simp only [agTarget_wiring h]
  · exact ⟨p, hp, hm⟩

end

/-! ## The only consumer of an output -/

/-- The destination that an element itself names (R90). -/
def ElemCfg.netPlaces (cfg : ElemCfg) (out : Nat) : List Place :=
  match cfg with
  | .ce c => ((if out = 0 then c.xdest else c.ydest).map Place.net).toList
  | _ => []

/-- The stream unit that an address generator serves. -/
def ElemCfg.unitPlaces (cfg : ElemCfg) (core out : Nat) : List Place :=
  match cfg with
  | .ag g => if g.tgtsu && out == 0 then [Place.unit core g.tgt] else []
  | _ => []

/-- A connection leaves an output of an element. -/
def Channel.leaves (e : SiteRef) (out : Nat) (c : Channel) : Bool := c.score == e.core && c.ssite == e.site && c.out == out

/-- What a word on a connection meets first. -/
def State.routePlace (s : State) (x : Rect) (c : Channel) : Place :=
  match s.crossing x c.hops with
  | some p => p
  | none => match x.cutPoint c.hops with
    | some h => .cutBuf h.core h.site h.out
    | none => c.place

/-- The connections between switches, and those that an address generator makes. -/
def Rect.routes (x : Rect) : List Channel := staticChannels x.body.cores x.w x.h ++ agChannels x.body.cores

/-- A sink port is bound to an output. -/
def sinkOf (e : SiteRef) (out : Nat) (p : Nat × SinkPort) : Bool := p.2.bind == some (e.site, out)

/-- Only the sink port `n` of its core takes an output. -/
structure Outlet (s : State) (e : SiteRef) (out n : Nat) : Prop where
  routes : ∀ ch ∈ (s.rect e.rect).routes, ch.leaves e out = false
  net : (s.site e).cfg.netPlaces out = []
  unit : (s.site e).cfg.unitPlaces e.core out = []
  bound : ∃ p ∈ (s.core e.coreRef).sinks, sinkOf e out p = true
  only : ∀ p ∈ (s.core e.coreRef).sinks, sinkOf e out p = true → p.1 = n

/-- A route leads to no sink port. -/
theorem crossing_ne_sink (s : State) (x : Rect) (core n : Nat) (hops : List HopAt) : s.crossing x hops ≠ some (.sink core n) := by
  fun_induction State.crossing s x hops <;> simp_all

theorem routePlace_ne_sink (s : State) (x : Rect) (c : Channel) (core n : Nat) : s.routePlace x c ≠ .sink core n := by
  rw [State.routePlace]
  split
  · next p h =>
    rintro rfl
    exact crossing_ne_sink s x core n _ h
  · split
    · nofun
    · nofun

theorem netPlaces_ne_sink {cfg : ElemCfg} {out core n : Nat} (h : ∀ p ∈ cfg.netPlaces out, p = .sink core n) : cfg.netPlaces out = [] := by
  rw [List.eq_nil_iff_forall_not_mem]
  intro p hp
  obtain rfl := h p hp
  cases cfg with
  | ce c => simp [ElemCfg.netPlaces] at hp
  | empty => cases hp
  | me _ => cases hp
  | ag _ => cases hp

theorem unitPlaces_ne_sink {cfg : ElemCfg} {out core n : Nat} (h : ∀ p ∈ cfg.unitPlaces core out, p = .sink core n) : cfg.unitPlaces core out = [] := by
  rw [List.eq_nil_iff_forall_not_mem]
  intro p hp
  obtain rfl := h p hp
  cases cfg with
  | ag g =>
    rw [ElemCfg.unitPlaces] at hp
    split at hp
    · exact absurd (List.mem_singleton.mp hp) nofun
    · cases hp
  | empty => cases hp
  | me _ => cases hp
  | ce _ => cases hp

theorem placesOf_eq (s : State) (e : SiteRef) (out : Nat) : s.placesOf e out
    = (((s.rect e.rect).routes.filter (Channel.leaves e out)).map (s.routePlace (s.rect e.rect)) ++ (s.site e).cfg.netPlaces out
      ++ ((s.core e.coreRef).sinks.filter (sinkOf e out)).map (fun p => Place.sink e.core p.1) ++ (s.site e).cfg.unitPlaces e.core out).eraseDups := rfl

theorem placesOf_iff (s : State) (e : SiteRef) (out n : Nat) : s.placesOf e out = [.sink e.core n] ↔ Outlet s e out n := by
  rw [placesOf_eq, List.eraseDups_eq_singleton]
  simp only [List.mem_append, List.mem_map, List.mem_filter]
  constructor
  · rintro ⟨hne, h⟩
    have hr : ∀ ch ∈ (s.rect e.rect).routes, ch.leaves e out = false := fun ch hm => by
      rw [← Bool.not_eq_true]
      exact fun hl => routePlace_ne_sink s _ ch e.core n (h _ (.inl (.inl (.inl ⟨ch, ⟨hm, hl⟩, rfl⟩))))
    have hn := netPlaces_ne_sink fun p hp => h p (.inl (.inl (.inr hp)))
    have hu := unitPlaces_ne_sink fun p hp => h p (.inr hp)
    refine ⟨hr, hn, hu, ?_, fun p hm hb => ?_⟩
    · by_contra hb
      refine hne ?_
      rw [List.filter_eq_nil_iff.mpr (fun ch hm => by simp [hr ch hm]), hn, hu, List.filter_eq_nil_iff.mpr (fun p hm hs => hb ⟨p, hm, hs⟩)]
      rfl
    · exact (Place.sink.inj (h _ (.inl (.inr ⟨p, ⟨hm, hb⟩, rfl⟩)))).2
  · rintro ⟨hr, hn, hu, ⟨p, hm, hb⟩, ho⟩
    refine ⟨fun hnil => ?_, ?_⟩
    · have : Place.sink e.core p.1 ∈ ([] : List Place) := by
        rw [← hnil]
        simp only [List.mem_append, List.mem_map, List.mem_filter]
        exact .inl (.inr ⟨p, ⟨hm, hb⟩, rfl⟩)
      cases this
    · rintro q (((⟨ch, ⟨hch, hl⟩, -⟩ | hq) | ⟨p, ⟨hp, hs⟩, rfl⟩) | hq)
      · rw [hr ch hch] at hl
        cases hl
      · rw [hn] at hq
        cases hq
      · rw [ho p hp hs]
      · rw [hu] at hq
        cases hq

section
variable {s : State} {e : SiteRef} {out n : Nat}

/-- The core of an element with a sink port is listed. -/
theorem Outlet.look (h : Outlet s e out n) : (s.rect e.rect).body.cores.look e.core = some (s.core e.coreRef) := by
  obtain ⟨p, hp, -⟩ := h.bound
  change p ∈ ((Sparse.look (s.rect e.rect).body.cores e.core).getD Core.launch).sinks at hp
  change _ = some ((Sparse.look (s.rect e.rect).body.cores e.core).getD Core.launch)
  cases hl : Sparse.look (s.rect e.rect).body.cores e.core with
  | none =>
    rw [hl] at hp
    cases hp
  | some c => rfl

/-- A change of a core that leaves its wiring, and the sink ports bound to an output, leaves what takes the output. -/
theorem Outlet.modCore (h : Outlet s e out n) {f : Core → Core} (hw : (s.core e.coreRef).Wiring (f (s.core e.coreRef)))
    (hs : ∀ p, sinkOf e out p = true → (p ∈ (f (s.core e.coreRef)).sinks ↔ p ∈ (s.core e.coreRef).sinks)) : Outlet (s.modCore e.coreRef f) e out n := by
  have hl := h.look
  obtain ⟨hr, hn, hu, ⟨p, hp, hb⟩, ho⟩ := h
  have hc : (s.modCore e.coreRef f).core e.coreRef = f (s.core e.coreRef) := State.core_modCore_same _ _ _
  have hx : ∀ ch ∈ ((s.modCore e.coreRef f).rect e.rect).routes, ch ∈ (s.rect e.rect).routes := fun ch hm => by
    have hb : ((s.modCore e.coreRef f).rect e.rect) = { s.rect e.rect with
        body := (s.rect e.rect).body.setCore e.core (f (s.core e.coreRef)) } := State.rect_modRect_same _ _ _
    rw [hb, Rect.routes, List.mem_append] at hm
    rw [Rect.routes, List.mem_append]
    exact hm.imp (mem_staticChannels_put hl hw) (mem_agChannels_put hl hw)
  have hcfg : ((s.modCore e.coreRef f).site e).cfg = (s.site e).cfg := by
    rw [State.site, hc, hw.cfg]
    rfl
  refine ⟨fun ch hm => hr ch (hx ch hm), by rw [hcfg, hn], by rw [hcfg, hu], ?_, ?_⟩
  · rw [hc]
    exact ⟨p, (hs p hb).mpr hp, hb⟩
  · rw [hc]
    exact fun p hp hb => ho p ((hs p hb).mp hp) hb

/-- So does a change of the rectangle beside its cores. -/
theorem Outlet.modRect (h : Outlet s e out n) {f : Rect → Rect} (hb : ∀ x, (f x).body.cores = x.body.cores)
    (hx : ∀ x, (f x).w = x.w ∧ (f x).h = x.h) : Outlet (s.modRect e.rect f) e out n := by
  have hr : ((s.modRect e.rect f).rect e.rect) = f (s.rect e.rect) := State.rect_modRect_same _ _ _
  have hc : (s.modRect e.rect f).core e.coreRef = s.core e.coreRef := by
    rw [State.core, State.core, show e.coreRef.rect = e.rect from rfl, hr, Body.core, hb]
    rfl
  obtain ⟨h1, h2, h3, h4, h5⟩ := h
  refine ⟨?_, ?_, ?_, ?_, ?_⟩
  · rw [Rect.routes, hr, hb, (hx _).1, (hx _).2]
    exact h1
  · rw [State.site, hc]
    exact h2
  · rw [State.site, hc]
    exact h3
  · rw [hc]
    exact h4
  · rw [hc]
    exact h5

/-- Another value of the state beside its rectangles. -/
theorem Outlet.of_rects (h : Outlet s e out n) {t : State} (ht : t.rects = s.rects) : Outlet t e out n := by
  have hr : t.rect e.rect = s.rect e.rect := by rw [State.rect, ht, State.rect]
  have hc : t.core e.coreRef = s.core e.coreRef := by
    rw [State.core, State.core, show e.coreRef.rect = e.rect from rfl, hr]
  obtain ⟨h1, h2, h3, h4, h5⟩ := h
  refine ⟨?_, ?_, ?_, ?_, ?_⟩
  · rw [hr]
    exact h1
  · rw [State.site, hc]
    exact h2
  · rw [State.site, hc]
    exact h3
  · rw [hc]
    exact h4
  · rw [hc]
    exact h5

end

end Sys2Proof.Machine
end

section
/-! PROOF. Firing of elements, and words that wait on a release (R161, R162, R170 to R194, R475). -/

namespace Sys2Proof.Machine

/-! ## What an element's firing changes at its core -/

/-- What an element and the ports of its core show. -/
structure Seen where
  site : Site
  queue : Nat → List FWord
  rstat : Word
  scratch : List Host.Cell
  resets : List (Nat × W32)
  mem : List Host.Cell
  peer : List Host.Cell

def State.seen (s : State) (e : SiteRef) : Seen :=
  ⟨s.site e, fun n => ((s.core e.coreRef).sink n).queue, (s.rect e.rect).body.rstat, (s.core e.coreRef).scratch, (s.core e.coreRef).acReset, s.mem, s.peer⟩

/-- A part of a firing: what the element shows after it; the consumers of its outputs stay. -/
structure Turns (s t : State) (e : SiteRef) (v : Seen) : Prop where
  seen : t.seen e = v
  outlets : ∀ out n, Outlet s e out n → Outlet t e out n

theorem Turns.refl (s : State) (e : SiteRef) : Turns s s e (s.seen e) := ⟨rfl, fun _ _ h => h⟩

section
variable {s : State} {e : SiteRef}

theorem seen_modCore (f : Core → Core) : (s.modCore e.coreRef f).seen e
    = ⟨(f (s.core e.coreRef)).site e.site, fun n => ((f (s.core e.coreRef)).sink n).queue, (s.rect e.rect).body.rstat, (f (s.core e.coreRef)).scratch,
        (f (s.core e.coreRef)).acReset, s.mem, s.peer⟩ := by
  have hc := State.core_modCore_same s e.coreRef f
  have hb : ((s.modCore e.coreRef f).rect e.rect).body.rstat = (s.rect e.rect).body.rstat :=
    (congrArg Body.rstat (State.body_modBody_same s e.rect fun b => b.setCore e.core (f (s.core e.coreRef)))).trans rfl
  rw [State.seen, State.site, hc, hb]
  rfl

theorem seen_modRect {f : Rect → Rect} (hb : ∀ x, (f x).body = x.body) : (s.modRect e.rect f).seen e = s.seen e := by
  have hc := State.core_modRect_of_body s e.rect hb e.coreRef
  have hr : ((s.modRect e.rect f).rect e.rect).body = (s.rect e.rect).body := by rw [State.rect_modRect_same, hb]
  rw [State.seen, State.site, hc, hr]
  rfl

/-- What follows the first words of a firing stands ready. -/
theorem seen_pend (rest : List Emission) :
    (s.modCore e.coreRef (fun k => k.setSite e.site { k.site e.site with st := { (k.site e.site).st with pend := rest } })).seen e
      = { s.seen e with site := { (s.seen e).site with st := { (s.seen e).site.st with pend := rest } } } := by
  rw [seen_modCore, Core.site_setSite, if_pos rfl]
  rfl

/-- An element that is configured is listed at its core. -/
theorem site_listed (hc : (s.site e).cfg ≠ .empty) : ∃ p ∈ (s.core e.coreRef).sites, p.1 = e.site := by
  by_contra h
  refine hc ?_
  rw [State.site, Core.site, Sparse.at]
  cases hl : Sparse.look (s.core e.coreRef).sites e.site with
  | none => rfl
  | some y => exact absurd ⟨_, Sparse.look_some_mem hl, rfl⟩ h

/-- A word that an element holds until what precedes it is performed and, with a cut, complete. -/
def heldFrom (upto cut : Nat) (h : FWord × Bool) : HeldWord := { word := h.1, onX := h.2, upto := upto, cut := cut }

theorem holdWords_eq (scope : Nat) {hs : List (FWord × Bool)} (h : hs ≠ []) : ∃ cut, s.holdWords e scope hs
    = (s.setSite e { s.site e with st := { (s.site e).st with held := (s.site e).st.held ++ hs.map (heldFrom s.nextId cut) } }).modRect e.rect
      (fun x => x.wantCut cut) :=
  ⟨_, by
    rw [State.holdWords, if_neg (by rwa [List.isEmpty_iff])]
    rfl⟩

/-- With nothing set for the accumulators of a core, applying what is set changes nothing. -/
theorem applyResets_none {c : Core} (h : c.acReset = []) (ac : Nat) : c.applyResets ac = c := by
  rw [Core.applyResets]
  split
  · rw [h, List.filter_nil, ← h]
  · rw [h]
    rfl

/-- The queues of an element after a firing took the heads of some. -/
def taken (qs : List (List FWord)) (take : List Nat) : List (List FWord) :=
  (List.range 4).map (fun q => let l := qs.getD q []; if take.contains q then l.drop 1 else l)

theorem taken_getD (qs : List (List FWord)) (take : List Nat) {q : Nat} (h : q < 4) :
    (taken qs take).getD q [] = if q ∈ take then (qs.getD q []).tail else qs.getD q [] := by
  rw [taken, List.getD_eq_getElem?_getD, List.getElem?_map, List.getElem?_range h]
  simp

/-- The bytes of a core after a firing. -/
def firedBytes (site : Nat) (r : Fire) (m : List Host.Cell) : List Host.Cell :=
  match r.store with
  | some (o, n, v) => setCells m (meOrigin site + o) (splitBytes n v)
  | none => m

/-- What an element shows once a firing took its words, before what it sends leaves. -/
def Seen.consumed (v : Seen) (site : Nat) (r : Fire) (held : List HeldWord) : Seen :=
  { v with site := { v.site with queues := taken v.site.queues r.take, st := { r.st with held := r.st.held ++ held }, stallX := 0, stallY := 0 },
           rstat := v.rstat ||| r.flags.setWidth 64, scratch := firedBytes site r v.scratch }

end

section
variable {s t : State} {e : SiteRef} {v : Seen}

theorem Turns.setSite (h : Turns s t e v) {y : Site} (hy : y.cfg = v.site.cfg) (hc : v.site.cfg ≠ .empty) : Turns s (t.setSite e y) e { v with site := y } := by
  obtain ⟨rfl, ho⟩ := h
  refine ⟨?_, fun out n h => (ho out n h).modCore (Core.wiring_setSite hy (site_listed hc)) fun _ _ => Iff.rfl⟩
  rw [State.setSite, seen_modCore, Core.site_setSite, if_pos rfl]
  rfl

theorem Turns.scratch (h : Turns s t e v) (f : List Host.Cell → List Host.Cell) :
    Turns s (t.modCore e.coreRef (fun c => { c with scratch := f c.scratch })) e { v with scratch := f v.scratch } := by
  obtain ⟨rfl, ho⟩ := h
  refine ⟨?_, fun out n h => (ho out n h).modCore (Core.Wiring.of_sites rfl rfl rfl) fun _ _ => Iff.rfl⟩
  rw [seen_modCore]
  rfl

theorem Turns.flags (h : Turns s t e v) (f : Flags) : Turns s (t.modBody e.rect (fun b => b.flags f)) e { v with rstat := v.rstat ||| f.setWidth 64 } := by
  obtain ⟨rfl, ho⟩ := h
  refine ⟨?_, fun out n h => (ho out n h).modRect (fun _ => rfl) fun _ => ⟨rfl, rfl⟩⟩
  have hc := State.core_modBody_of_cores t e.rect (f := fun b => b.flags f) (fun _ => rfl) e.coreRef
  have hr := State.body_modBody_same t e.rect (fun b => b.flags f)
  rw [State.seen, State.site, hc, hr]
  rfl

theorem Turns.wantCut (h : Turns s t e v) (n : Nat) : Turns s (t.modRect e.rect (fun x => x.wantCut n)) e v := by
  obtain ⟨rfl, ho⟩ := h
  refine ⟨seen_modRect fun x => Rect.body_wantCut x n, fun out k h => (ho out k h).modRect (fun x => by rw [Rect.body_wantCut]) fun x => ?_⟩
  rw [Rect.wantCut]
  split
  · exact ⟨rfl, rfl⟩
  · exact ⟨rfl, rfl⟩

/-- The words that an element came to hold join those that it held. -/
theorem Turns.holdWords (h : Turns s t e v) (hc : v.site.cfg ≠ .empty) (scope : Nat) (hs : List (FWord × Bool)) : ∃ held : List HeldWord,
    held.map (fun h => (h.word, h.onX)) = hs
      ∧ Turns s (t.holdWords e scope hs) e { v with site := { v.site with st := { v.site.st with held := v.site.st.held ++ held } } } := by
  by_cases hn : hs = []
  · subst hn
    refine ⟨[], rfl, ?_⟩
    rw [List.append_nil]
    exact h
  · obtain ⟨cut, hw⟩ := holdWords_eq (s := t) (e := e) scope hn
    refine ⟨hs.map (heldFrom t.nextId cut), ?_, ?_⟩
    · rw [List.map_map]
      exact List.map_id _
    · have hsite : t.site e = v.site := congrArg Seen.site h.seen
      rw [hw, hsite]
      exact (h.setSite (y := { v.site with st := { v.site.st with held := v.site.st.held ++ hs.map (heldFrom t.nextId cut) } }) rfl hc).wantCut cut

theorem Turns.store (h : Turns s t e v) (r : Fire) : Turns s (match r.store with
      | some (o, n, w) => t.modCore e.coreRef (fun c => { c with scratch := setCells c.scratch (meOrigin e.site + o) (splitBytes n w) })
      | none => t) e { v with scratch := firedBytes e.site r v.scratch } := by
  rw [firedBytes]
  rcases r.store with _ | ⟨o, n, w⟩
  · exact h
  · exact h.scratch fun m => setCells m (meOrigin e.site + o) (splitBytes n w)

theorem Turns.applyResets (h : Turns s t e v) (hr : v.resets = []) (cfg : ElemCfg) (eos : Bool) : Turns s (match cfg with
      | .ce c => match c.acn with
        | some a => if eos then t.modCore e.coreRef (fun k => k.applyResets a.val) else t
        | none => t
      | _ => t) e v := by
  have hone : ∀ ac, Turns s (t.modCore e.coreRef (fun k => k.applyResets ac)) e v := fun ac => by
    obtain ⟨rfl, ho⟩ := h
    have ha : (t.core e.coreRef).applyResets ac = t.core e.coreRef := applyResets_none hr ac
    refine ⟨?_, fun out n h => (ho out n h).modCore ?_ fun _ _ => ?_⟩
    · rw [seen_modCore, ha]
      rfl
    · rw [ha]
      exact Core.Wiring.of_sites rfl rfl rfl
    · rw [ha]
  cases cfg with
  | ce c =>
    dsimp only
    split
    · split
      · exact hone _
      · exact h
    · exact h
  | empty => exact h
  | me _ => exact h
  | ag _ => exact h

/-- R161: what an element shows once a firing took its words. -/
theorem turns_consume (hc : (s.site e).cfg ≠ .empty) (hr : (s.core e.coreRef).acReset = []) {r : Fire} (hm : r.mark = false) (back : List Nat) :
    ∃ held : List HeldWord, held.map (fun h => (h.word, h.onX)) = r.hold ∧ Turns s (s.consume e r back) e ((s.seen e).consumed e.site r held) := by
  have h1 := (Turns.refl s e).setSite (y := { s.site e with queues := taken (s.site e).queues r.take, st := r.st, stallX := 0, stallY := 0 }) rfl hc
  obtain ⟨held, hh, h4⟩ := ((h1.store r).flags r.flags).holdWords hc (s.site e).cfg.holdScope r.hold
  refine ⟨held, hh, ?_⟩
  rw [State.consume]
  dsimp only
  rw [hm, if_neg Bool.false_ne_true]
  exact h4.applyResets hr (s.site e).cfg _

end

/-! ## Words that leave for a sink port -/

/-- A core whose sink port took a word. -/
def Core.sinkPut (n : Nat) (w : FWord) (c : Core) : Core :=
  c.setSink n { c.sink n with queue := (c.sink n).queue ++ [w], position := (c.sink n).position + 1 }

/-- A rectangle whose record of a cut, where the sender is still in it and the port is not, takes the word too. -/
def Rect.sinkRecord (core n : Nat) (open_ : Bool) (w : FWord) (x : Rect) : Rect :=
  x.modProg (fun g => if open_ && !g.sinks.contains (core, n) then { g with body := g.body.modCore core (Core.sinkPut n w) } else g)

/-- The state after a sink port of its core took a word of an element. -/
def sunk (s : State) (e : SiteRef) (n : Nat) (open_ : Bool) (w : FWord) : State :=
  (s.modCore e.coreRef (Core.sinkPut n w)).modRect e.rect (Rect.sinkRecord e.core n open_ w)

theorem Core.sink_sinkPut (n : Nat) (w : FWord) (c : Core) (k : Nat) :
    ((c.sinkPut n w).sink k).queue = Function.update (fun k => (c.sink k).queue) n ((c.sink n).queue ++ [w]) k := by
  have h : (c.sinkPut n w).sink k = if k = n then { c.sink n with queue := (c.sink n).queue ++ [w], position := (c.sink n).position + 1 } else c.sink k :=
    Sparse.at_put _ _ _ _ _
  rw [h, Function.update_apply]
  split
  · rfl
  · rfl

section
variable {s : State} {e : SiteRef} {out n : Nat} {w : FWord}

theorem seen_sunk (open_ : Bool) : (sunk s e n open_ w).seen e
    = { s.seen e with queue := Function.update (s.seen e).queue n ((s.seen e).queue n ++ [w]) } := by
  have hb : ∀ x, (Rect.sinkRecord e.core n open_ w x).body = x.body := fun _ => rfl
  rw [sunk, seen_modRect hb, seen_modCore]
  simp only [Core.sink_sinkPut]
  rfl

/-- The ports that take another output stay. -/
theorem Outlet.sunk {k : Nat} (h : Outlet s e out k) (hne : k ≠ n) (open_ : Bool) : Outlet (sunk s e n open_ w) e out k := by
  refine Outlet.modRect (f := Rect.sinkRecord e.core n open_ w) ?_ (fun _ => rfl) fun _ => ⟨rfl, rfl⟩
  refine h.modCore (Core.Wiring.of_sites rfl rfl rfl) fun p hb => ⟨fun hm => ?_, fun hm => ?_⟩
  · obtain rfl | hm := Sparse.mem_put hm
    · exfalso
      have hbind : ((s.core e.coreRef).sink n).bind = some (e.site, out) := by simpa [sinkOf] using hb
      rw [Core.sink, Sparse.at] at hbind
      cases hl : Sparse.look (s.core e.coreRef).sinks n with
      | none =>
        rw [hl] at hbind
        cases hbind
      | some y =>
        rw [hl] at hbind
        exact hne (h.only _ (Sparse.look_some_mem hl) (by simpa [sinkOf] using hbind)).symm
    · exact hm
  · exact Sparse.mem_put_ne hm fun e => hne ((h.only p hm hb).symm.trans e)

theorem emitOut_sink (h : Outlet s e out n) (hk : w.kind ≠ .mark) (hroom : ((s.seen e).queue n).length < 16) :
    ∃ open_, s.emitOut e out w = some (sunk s e n open_ w) := by
  refine ⟨(s.rect e.rect).isOpen e.core e.site, ?_⟩
  rw [State.emitOut, (placesOf_iff s e out n).mpr h, State.outerPlaces, if_neg hk]
  have hr : s.hasRoom e.rect (.sink e.core n) w = true := by
    rw [State.hasRoom, Bool.or_eq_true]
    exact .inr (decide_eq_true hroom)
  rw [List.all_cons, hr, List.all_nil, Bool.and_true, if_pos rfl, List.foldl_cons, List.foldl_nil, State.deliverTo, if_neg hk]
  rfl

/-- An output with or without a word. -/
def State.emitOpt (s : State) (e : SiteRef) (out : Nat) : Option FWord → Option State
  | some w => s.emitOut e out w
  | none => some s

theorem emit_eq (s : State) (e : SiteRef) (m : Emission) : s.emit e m = (s.emitOpt e 0 m.x).bind (fun t => t.emitOpt e 1 m.y) := by
  obtain ⟨x, y⟩ := m
  rw [State.emit]
  rcases x with _ | w
  · rcases y with _ | w'
    · rfl
    · rfl
  · change (match s.emitOut e 0 w, y with | some s1, some w => s1.emitOut e 1 w | r, _ => r) = (s.emitOut e 0 w).bind _
    rcases s.emitOut e 0 w with _ | t
    · rfl
    · rcases y with _ | w'
      · rfl
      · rfl

/-- What an element shows once the words of an emission left for the sink ports `n0` and `n1`. -/
def Seen.sent (v : Seen) (n0 n1 : Nat) (m : Emission) : Seen :=
  { v with queue := Function.update (Function.update v.queue n0 (v.queue n0 ++ m.x.toList)) n1 (v.queue n1 ++ m.y.toList) }

/-- R162: the words of one emission leave for the two sink ports. -/
theorem emit_sinks {n0 n1 : Nat} (h0 : Outlet s e 0 n0) (h1 : Outlet s e 1 n1) (hne : n0 ≠ n1) {m : Emission}
    (hm : (∀ w, m.x = some w → w.kind ≠ .mark) ∧ (∀ w, m.y = some w → w.kind ≠ .mark))
    (hr0 : ((s.seen e).queue n0).length < 16) (hr1 : ((s.seen e).queue n1).length < 16) : ∃ t, s.emit e m = some t
      ∧ t.seen e = (s.seen e).sent n0 n1 m := by
  have hx : ∃ u, s.emitOpt e 0 m.x = some u ∧ Outlet u e 1 n1
      ∧ u.seen e = { s.seen e with queue := Function.update (s.seen e).queue n0 ((s.seen e).queue n0 ++ m.x.toList) } := by
    rcases hmx : m.x with _ | w
    · refine ⟨s, rfl, h1, ?_⟩
      rw [Option.toList_none, List.append_nil, Function.update_eq_self]
    · obtain ⟨o, e0⟩ := emitOut_sink h0 (hm.1 w hmx) hr0
      exact ⟨_, e0, h1.sunk hne.symm o, seen_sunk o⟩
  obtain ⟨u, hu, ho, hs⟩ := hx
  have hq : (u.seen e).queue n1 = (s.seen e).queue n1 := by
    rw [hs]
    exact Function.update_of_ne hne.symm _ _
  rw [emit_eq, hu, Option.bind_some]
  rcases hmy : m.y with _ | w
  · refine ⟨u, rfl, ?_⟩
    rw [hs, Seen.sent, hmy, Option.toList_none, List.append_nil, Function.update_eq_self_iff.mpr (Function.update_of_ne hne.symm _ _).symm]
  · obtain ⟨o, e1⟩ := emitOut_sink ho (hm.2 w hmy) (by rw [hq]; exact hr1)
    refine ⟨sunk u e n1 o w, e1, ?_⟩
    rw [seen_sunk o, hq, hs, Seen.sent, hmy]
    rfl

end

end Sys2Proof.Machine
end

section
namespace Sys2Proof.Cert

open Sys2Proof.Machine
open Host (Outcome)

/-! ## One firing -/

/-- What an element shows after a firing (R161). -/
def firedSeen (v : Seen) (site n0 n1 : Nat) (r : Fire) (held : List HeldWord) : Seen :=
  let c := (v.consumed site r held).sent n0 n1 (r.out.headD ⟨none, none⟩)
  { c with site := { c.site with st := { c.site.st with pend := if r.out = [] then r.st.pend else r.out.tail } } }

section
variable {s t : State} {e : SiteRef} {n0 n1 : Nat} {r : Fire}

theorem headD_word (l : List Emission) (f : Emission → Option FWord) (hf : f ⟨none, none⟩ = none) : f (l.headD ⟨none, none⟩) = l.head?.bind f := by
  cases l with
  | nil => exact hf
  | cons m l => rfl

theorem firedAs_of_seen {held : List HeldWord} (h : t.seen e = firedSeen (s.seen e) e.site n0 n1 r held)
    (hh : held.map (fun h => (h.word, h.onX)) = r.hold) (hne : n0 ≠ n1) (hwf : Memory.wf (s.core e.coreRef).scratch = true) : FiredAs s t e r n0 n1 := by
  have hsite : t.site e = (firedSeen (s.seen e) e.site n0 n1 r held).site := congrArg Seen.site h
  have hq : ∀ n, ((t.core e.coreRef).sink n).queue = (firedSeen (s.seen e) e.site n0 n1 r held).queue n := fun n => congrFun (congrArg Seen.queue h) n
  have hbytes : (t.core e.coreRef).scratch = firedBytes e.site r (s.core e.coreRef).scratch := congrArg Seen.scratch h
  refine ⟨fun q hq => ?_, ?_, fun ho => ?_, ?_, ?_, ?_, congrArg Seen.rstat h, fun i => ?_, congrArg Seen.mem h, congrArg Seen.peer h⟩
  · rw [hsite]
    exact taken_getD _ _ hq
  · rw [hsite]
    rfl
  · rw [hsite]
    exact if_neg ho
  · rw [hsite, ← hh]
    exact List.map_append
  · refine (hq n0).trans ((Function.update_of_ne hne _ _).trans ((Function.update_self _ _ _).trans ?_))
    rw [headD_word _ Emission.x rfl]
    rfl
  · refine (hq n1).trans ((Function.update_self _ _ _).trans ?_)
    rw [headD_word _ Emission.y rfl]
    rfl
  · rw [hbytes, firedBytes]
    rcases r.store with _ | ⟨o, n, v⟩
    · rfl
    · exact byteAt_stored hwf n v i

theorem flushCut_none {out : Nat} (h : s.fullCutBuf e out = none) : s.flushCut e out = none := by
  rw [State.flushCut, h]
  split
  · rfl
  · rfl

/-- No MARK stands at the inputs of an element that may fire. -/
theorem MayFire.markHeads (h : MayFire s e n0 n1) : (s.site e).markHeads (s.site e).cfg.ins = [] :=
  List.filter_eq_nil_iff.mpr fun q hq hd => h.noMark q hq (of_decide_eq_true hd)

/-- R161: an element that may fire fires as its function says. -/
theorem fireSite_fires (h : MayFire s e n0 n1) (hc : (s.site e).cfg ≠ .empty) {f : List Nat → ElemState → List (List FWord) → FireRes}
    (hf : f [] (s.site e).st (s.site e).queues = .fire r) (hm : r.mark = false)
    (hk : ∀ m, r.out.head? = some m → (∀ w, m.x = some w → w.kind ≠ .mark) ∧ (∀ w, m.y = some w → w.kind ≠ .mark)) :
    FiredAs s (s.fireSite e f) e r n0 n1 := by
  obtain ⟨held, hh, hseen, hout⟩ := turns_consume hc h.resets hm []
  have hmarks := h.markHeads
  have hfwd : Site.forward (s.site e) [] = (s.site e).cfg.ins := List.filter_eq_self.mpr fun q _ => rfl
  have hspent : ∀ b, (s.site e).spentMark b (s.site e).cfg.ins = none := fun b => by
    rw [Site.spentMark, hmarks]
    rfl
  have hfire : s.fireSite e f = match r.out with
      | [] => s.consume e r []
      | m :: rest => match (s.consume e r []).emit e m with
        | some s2 => s2.modCore e.coreRef (fun k => k.setSite e.site { k.site e.site with st := { (k.site e.site).st with pend := rest } })
        | none => s.noteStall e m := by
    rw [State.fireSite]
    dsimp only
    rw [h.fires, flushCut_none h.noBuf.1, flushCut_none h.noBuf.2, if_neg (by decide)]
    dsimp only [Option.orElse]
    rw [h.idle.1]
    dsimp only
    rw [hmarks, if_pos (show ([] : List Nat).isEmpty = true from rfl), hfwd, hspent, hmarks]
    dsimp only
    simp only [List.isEmpty_nil, Bool.not_true, Bool.false_and, Bool.false_eq_true, if_false, hf]
    rw [h.idle.2, hm] <;> rfl
  rw [hfire]
  refine firedAs_of_seen (held := held) ?_ hh h.two h.bytes
  rcases ho : r.out with _ | ⟨m, rest⟩
  · rw [firedSeen, ho, if_pos rfl]
    refine hseen.trans ?_
    rw [Seen.sent, List.headD_nil, Option.toList_none, List.append_nil, Function.update_eq_self, List.append_nil, Function.update_eq_self]
    rfl
  · have h0 := hout 0 n0 ((placesOf_iff s e 0 n0).mp h.x.1)
    have h1 := hout 1 n1 ((placesOf_iff s e 1 n1).mp h.y.1)
    obtain ⟨u, hu, hs⟩ := emit_sinks h0 h1 h.two (hk m (by rw [ho]; rfl)) (by rw [hseen]; exact h.x.2) (by rw [hseen]; exact h.y.2)
    dsimp only
    rw [hu]
    dsimp only
    rw [seen_pend, hs, hseen, firedSeen, ho, if_neg nofun]
    rfl

/-! ## Each operation by its own step -/

section
variable (h : MayFire s e n0 n1) (hf : s.fireFn e [] (s.site e).st (s.site e).queues = .fire r) (hm : r.mark = false)
  (hk : ∀ m, r.out.head? = some m → (∀ w, m.x = some w → w.kind ≠ .mark) ∧ (∀ w, m.y = some w → w.kind ≠ .mark))
include h hf hm hk

theorem ce_fires {i : Instr} {c : CeCfg} (hc : (s.site e).cfg = .ce c) (ok : CeCfg → Bool) (f : CeCfg → List Nat → ElemState → List (List FWord) → FireRes)
    (he : exec i s = .next (s.fireCe e ok f)) (hok : ok c = true) (hfn : s.fireFn e = f c) : ∃ t, exec i s = .next t ∧ FiredAs s t e r n0 n1 := by
  refine ⟨_, he, ?_⟩
  have hs : s.fireCe e ok f = s.fireSite e (f c) := by
    rw [State.fireCe, hc]
    exact if_pos hok
  rw [hs]
  exact fireSite_fires h (by rw [hc]; nofun) (by rw [← hfn]; exact hf) hm hk

theorem me_fires {i : Instr} {c : MeCfg} (hc : (s.site e).cfg = .me c) (mode : Nat)
    (f : MeCfg → (Nat → Nat → Nat) → List Nat → ElemState → List (List FWord) → FireRes) (he : exec i s = .next (s.fireMe e mode f)) (hok : c.mode = mode)
    (hfn : s.fireFn e = f c ((s.core e.coreRef).meRead e.site)) : ∃ t, exec i s = .next t ∧ FiredAs s t e r n0 n1 := by
  refine ⟨_, he, ?_⟩
  have hs : s.fireMe e mode f = s.fireSite e (f c ((s.core e.coreRef).meRead e.site)) := by
    rw [State.fireMe, hc]
    exact if_pos hok
  rw [hs]
  exact fireSite_fires h (by rw [hc]; nofun) (by rw [← hfn]; exact hf) hm hk

theorem ag_fires {g : AgCfg} (hc : (s.site e).cfg = .ag g) (hg : g.tgtsu = false) : ∃ t, exec (.agEmit e) s = .next t ∧ FiredAs s t e r n0 n1 := by
  have hfn : s.fireFn e = fun b st qs => (agFire g b st qs s.freePayload).1 := by rw [State.fireFn, hc]
  refine ⟨s.fireSite e (fun b st qs => (agFire g b st qs s.freePayload).1), ?_, ?_⟩
  · change execAgEmit e s = _
    rw [execAgEmit, hc]
    dsimp only
    split
    · rw [hg, Bool.false_and, Bool.false_and, if_neg Bool.false_ne_true]
    · rfl
  · rw [hfn] at hf
    exact fireSite_fires h (by rw [hc]; nofun) hf hm hk

end

theorem exec_bnd (hh : (s.site e).st.held = []) : exec (.ceBnd e) s = .next (s.fireCe e (fun c => c.opc == 0x4A) fireBnd) := by
  have hr : s.releaseHeld e = s := by
    rw [State.releaseHeld, hh]
  change execCeBnd e s = _
  rw [execCeBnd, hr]
  refine congrArg Outcome.next (if_pos ?_)
  split
  · split
    · rfl
    · rfl
  · rfl

/-- The function of an ME by its mode. -/
def meFn (s : State) (e : SiteRef) (c : MeCfg) (mode : Nat) : List Nat → ElemState → List (List FWord) → FireRes :=
  let rd := (s.core e.coreRef).meRead e.site
  match mode with
  | 0 => fireRd c rd
  | 1 => fireWr c
  | 2 => fireRmw c rd
  | 3 => fun _ => fireFifo c
  | 4 => fireDelay c
  | 5 => fireHist c rd
  | _ => fireFeedmx c rd

/-- The function of a CE by its opcode. -/
def ceFn (s : State) (c : CeCfg) (opc : Nat) : List Nat → ElemState → List (List FWord) → FireRes :=
  if opc ≤ 0x12 then fireInteger c
  else match opc with
  | 0x13 => fun b st qs => fireCnt c b st qs s.freePayload
  | 0x14 | 0x2B | 0x2C => fireRunning c
  | 0x15 => fireDly c
  | 0x16 => fireConst c
  | 0x2D => fireQnt c
  | 0x2E => fireDqnt c
  | 0x40 => fireSteer c
  | 0x41 => fireMerge c
  | 0x42 => fireGate c
  | 0x43 => fireDup c
  | 0x44 | 0x45 => fireTag c
  | 0x46 => firePrime c
  | 0x47 => fireLimit c
  | 0x48 => fireSeq c
  | 0x49 => fireReord c
  | 0x4A => fireBnd c
  | _ => fireFloat c

theorem fireFn_me {c : MeCfg} (hc : (s.site e).cfg = .me c) {k : Nat} (hk : c.mode = k) : s.fireFn e = meFn s e c k := by
  rw [State.fireFn, hc, ← hk]
  rfl

theorem fireFn_ce {c : CeCfg} (hc : (s.site e).cfg = .ce c) {k : Nat} (hk : c.opc = k) : s.fireFn e = ceFn s c k := by
  rw [State.fireFn, hc, ← hk]
  rfl

theorem elementFires : ElementFiring := by
  intro s e n0 n1 h r hf hm hk step
  cases hc : (s.site e).cfg with
  | empty => trivial
  | ag g => exact ag_fires h hf hm hk hc
  | me c =>
    refine ⟨fun ho => ?_, fun ho => ?_, fun ho => ?_, fun ho => ?_, fun ho => ?_, fun ho => ?_, fun ho => ?_⟩
    · exact me_fires h hf hm hk hc 0 fireRd rfl ho (fireFn_me hc ho)
    · exact me_fires h hf hm hk hc 1 (fun c _ => fireWr c) rfl ho (fireFn_me hc ho)
    · exact me_fires h hf hm hk hc 2 fireRmw rfl ho (fireFn_me hc ho)
    · exact me_fires h hf hm hk hc 3 (fun c _ _ => fireFifo c) rfl ho (fireFn_me hc ho)
    · exact me_fires h hf hm hk hc 4 (fun c _ => fireDelay c) rfl ho (fireFn_me hc ho)
    · exact me_fires h hf hm hk hc 5 fireHist rfl ho (fireFn_me hc ho)
    · exact me_fires h hf hm hk hc 6 fireFeedmx rfl ho (fireFn_me hc ho)
  | ce c =>
    have op : ∀ {i : Instr} (n : Nat) (ok : CeCfg → Bool) (f : CeCfg → List Nat → ElemState → List (List FWord) → FireRes),
        exec i s = .next (s.fireCe e ok f) → c.opc = n → (c.opc = n → ok c = true) → ceFn s c n = f c → step i := fun n ok f he ho hok hfc =>
      ce_fires h hf hm hk hc ok f he (hok ho) ((fireFn_ce hc ho).trans hfc)
    have is : ∀ {n : Nat}, c.opc = n → (c.opc == n) = true := fun ho => beq_iff_eq.mpr ho
    refine ⟨fun ho => ?_, fun h1 h2 => ?_, fun ho => ?_, fun ho => ?_, fun ho => ?_, fun ho => ?_, fun ho => ?_, fun ho => ?_, fun ho => ?_, fun ho => ?_,
      fun ho => ?_, fun ho => ?_, fun ho => ?_, fun ho => ?_, fun ho => ?_, fun ho => ?_, fun ho => ?_, fun ho => ?_⟩
    · exact op c.opc (fun c => decide (c.opc ≤ 0x12)) fireInteger rfl rfl (fun _ => decide_eq_true ho) (if_pos ho)
    · refine op c.opc (fun c => decide (0x20 ≤ c.opc) && decide (c.opc ≤ 0x2A)) fireFloat rfl rfl (fun _ => ?_) ?_
      · rw [decide_eq_true h1, decide_eq_true h2]
        rfl
      · generalize c.opc = n at h1 h2
        interval_cases n <;> rfl
    · exact op 0x13 _ _ rfl ho is rfl
    · obtain ho | ho | ho := ho
      · exact op 0x14 _ fireRunning rfl ho (fun ho => by simp [ho]) rfl
      · exact op 0x2B _ fireRunning rfl ho (fun ho => by simp [ho]) rfl
      · exact op 0x2C _ fireRunning rfl ho (fun ho => by simp [ho]) rfl
    · exact op 0x15 _ _ rfl ho is rfl
    · exact op 0x16 _ _ rfl ho is rfl
    · exact op 0x2D _ _ rfl ho is rfl
    · exact op 0x2E _ _ rfl ho is rfl
    · exact op 0x40 _ _ rfl ho is rfl
    · exact op 0x41 _ _ rfl ho is rfl
    · exact op 0x42 _ _ rfl ho is rfl
    · exact op 0x43 _ _ rfl ho is rfl
    · obtain ho | ho := ho
      · exact op 0x44 _ fireTag rfl ho (fun ho => by simp [ho]) rfl
      · exact op 0x45 _ fireTag rfl ho (fun ho => by simp [ho]) rfl
    · exact op 0x46 _ _ rfl ho is rfl
    · exact op 0x47 _ _ rfl ho is rfl
    · exact op 0x48 _ _ rfl ho is rfl
    · exact op 0x49 _ _ rfl ho is rfl
    · exact op 0x4A _ _ (exec_bnd h.idle.2) ho is rfl

/-! ## Words that wait on a release -/

theorem releaseWork_none (h : s.lines = []) (tag : Nat) (sc : Scope) : s.releaseWork tag sc = s := by
  rw [State.releaseWork]
  split
  · rw [State.cleanLines, show s.lines.filter _ = [] by rw [h]; rfl, List.foldl_nil, h, List.map_nil, ← h]
  · rfl

theorem sameMemory_sunk (n : Nat) (open_ : Bool) (w : FWord) : SameMemory s (sunk s e n open_ w) :=
  (sameMemory_modCore s e.coreRef (f := Core.sinkPut n w) rfl).trans (sameMemory_modRect _ e.rect (f := Rect.sinkRecord e.core n open_ w) fun _ => rfl)

/-- The state after the first word that an element holds left for the sink port `n`. -/
def released (s : State) (e : SiteRef) (rest : List HeldWord) (n : Nat) (open_ : Bool) (w : FWord) : State :=
  sunk (s.setSite e { s.site e with st := { (s.site e).st with held := rest } }) e n open_ w

section
variable {h : HeldWord} {rest : List HeldWord} {n : Nat}

theorem seen_released (hc : (s.site e).cfg ≠ .empty) (open_ : Bool) (w : FWord) : (released s e rest n open_ w).seen e
    = { s.seen e with site := { s.site e with st := { (s.site e).st with held := rest } },
                      queue := Function.update (s.seen e).queue n ((s.seen e).queue n ++ [w]) } := by
  rw [released, seen_sunk, ((Turns.refl s e).setSite (y := { s.site e with st := { (s.site e).st with held := rest } }) rfl hc).seen]

theorem released_leaves (hc : (s.site e).cfg ≠ .empty) (open_ : Bool) :
    let t := released s e rest n open_ h.word
    ((t.core e.coreRef).sink n).queue = ((s.core e.coreRef).sink n).queue ++ [h.word] ∧ (t.site e).st = { (s.site e).st with held := rest }
      ∧ (t.site e).queues = (s.site e).queues ∧ SameMemory s t := by
  have hs := seen_released (s := s) (e := e) (rest := rest) (n := n) hc open_ h.word
  refine ⟨?_, ?_, ?_, (sameMemory_modCore s e.coreRef (f := fun c => c.setSite e.site _) rfl).trans (sameMemory_sunk n open_ h.word)⟩
  · exact (congrFun (congrArg Seen.queue hs) n).trans (Function.update_self _ _ _)
  · exact congrArg (fun v => v.site.st) hs
  · exact congrArg (fun v => v.site.queues) hs

theorem releaseHeld_leaves (hc : (s.site e).cfg ≠ .empty) (hf : (s.rect e.rect).fires = true) (hp : (s.site e).st.pend = [])
    (hh : (s.site e).st.held = h :: rest) (hcut : h.cut ≤ (s.rect e.rect).complete) (ha : s.accesses = []) (hr : (s.rect e.rect).remote = [])
    (hl : s.lines = []) (hk : h.word.kind ≠ .mark) (ho : OnlySink s e (if h.onX then 0 else 1) n) :
    ∃ open_, s.releaseHeld e = released s e rest n open_ h.word := by
  have hturn := (Turns.refl s e).setSite (y := { s.site e with st := { (s.site e).st with held := rest } }) rfl hc
  have hout := hturn.outlets _ _ ((placesOf_iff s e _ n).mp ho.1)
  obtain ⟨open_, he⟩ := emitOut_sink hout hk (by rw [hturn.seen]; exact ho.2)
  refine ⟨open_, ?_⟩
  have hem : (s.setSite e { s.site e with st := { (s.site e).st with held := rest } }).emit e (if h.onX then onX h.word else onY h.word)
      = some (released s e rest n open_ h.word) := by
    rw [emit_eq]
    cases hx : h.onX with
    | true =>
      rw [hx] at he
      change ((State.emitOut _ e 0 h.word).bind fun t => some t) = _
      rw [show State.emitOut _ e 0 h.word = _ from he]
      rfl
    | false =>
      rw [hx] at he
      exact he
  have hw : s.writesBefore e.rect h.upto = false := by
    rw [State.writesBefore, ha]
    rfl
  rw [State.releaseHeld]
  dsimp only
  rw [hh]
  dsimp only
  rw [releaseWork_none hl, hem]
  refine (if_neg ?_).trans rfl
  rw [hf, hw, hr, hp, decide_eq_false (not_lt.mpr hcut)]
  simp

end

theorem heldWordsLeave : HeldWordsLeave := by
  intro s e n h rest x y queue hf hp hh hcut ha hr hl hk ho leaves
  refine ⟨fun c hc => ?_, fun c hc hopc => ?_⟩
  · have hne : (s.site e).cfg ≠ .empty := by rw [show (s.site e).cfg = .me c from hc]; nofun
    obtain ⟨o, he⟩ := releaseHeld_leaves hne hf hp hh hcut ha hr hl hk ho
    refine ⟨released s e rest n o h.word, ?_, released_leaves hne o⟩
    change execMeDoneEmit e s = _
    rw [execMeDoneEmit, show (s.site e).cfg = .me c from hc]
    exact congrArg Outcome.next he
  · have hne : (s.site e).cfg ≠ .empty := by rw [show (s.site e).cfg = .ce c from hc]; nofun
    obtain ⟨o, he⟩ := releaseHeld_leaves hne hf hp hh hcut ha hr hl hk ho
    have hleft := released_leaves (h := h) (n := n) (rest := rest) hne o
    have hother : released s e rest n o h.word ≠ s := fun heq => by
      have hst := hleft.2.1
      rw [heq] at hst
      have hheld : (h :: rest) = rest := hh.symm.trans (congrArg ElemState.held hst)
      exact List.cons_ne_self _ _ hheld
    refine ⟨released s e rest n o h.word, ?_, hleft⟩
    change execCeBnd e s = _
    rw [execCeBnd, show (s.site e).cfg = .ce c from hc]
    have hs1 : (if c.opc = 0x4A then s.releaseHeld e else s) = released s e rest n o h.word := by rw [if_pos hopc, he]
    exact congrArg Outcome.next ((if_neg fun heq => hother (hs1.symm.trans heq)).trans hs1)

end

/-- Settles O23. -/
theorem elementFiring : Obligations.ElementFiring := ⟨elementFires, heldWordsLeave⟩

end Sys2Proof.Cert
end

section
/-! SUPPORT. Canonical form of the memories (the invariant `State.memOk`) under the operations of the state: the cells, exceptions, timelines, time. -/

namespace Sys2Proof.Machine

open Host (Outcome)

-- A rule may fill its hypothesis by a tactic of this text; with the proofs elaborated in order, none waits for it in a thread of its own.
set_option Elab.async false

/-! ## Cells -/

/-- The scratchpad of a core is in canonical form. -/
def Core.memOk (c : Core) : Prop := Sparse.wf 0#8 c.scratch = true

theorem Core.memOk_launch : Core.launch.memOk := rfl

namespace Body.memOk

variable {b : Body}

theorem core (h : b.memOk) (k : Nat) : (b.core k).memOk := Sparse.at_of_forall (P := Core.memOk) Core.memOk_launch h k

theorem setCore (h : b.memOk) {k : Nat} {c : Core} (hc : c.memOk) : (b.setCore k c).memOk := fun p hp => by
  obtain rfl | hp := Sparse.mem_put hp
  · exact hc
  · exact h p hp

theorem modCore (h : b.memOk) {k : Nat} {f : Core → Core} (hf : ∀ c, c.memOk → (f c).memOk := by exact fun _ h => h) : (b.modCore k f).memOk :=
  h.setCore (hf _ (h.core k))

theorem mapAll (h : b.memOk) {f : Nat → Core → Core} (hf : ∀ k c, c.memOk → (f k c).memOk := by exact fun _ _ h => h) :
    ({ b with cores := Sparse.mapAll f b.cores } : Body).memOk := fun p hp => by
  obtain ⟨q, hq, rfl⟩ := List.mem_map.mp hp
  exact hf _ _ (h q hq)

end Body.memOk

namespace Rect.memOk

variable {x : Rect}

theorem body (h : x.memOk) : x.body.memOk := h.1

theorem withBody (h : x.memOk) {b : Body} (hb : b.memOk) : ({ x with body := b } : Rect).memOk := ⟨hb, h.2⟩

theorem wantCut (h : x.memOk) (n : Nat) : (x.wantCut n).memOk := by
  rw [Rect.wantCut]
  split
  · exact h
  · exact h

theorem modProg (h : x.memOk) {f : CutProgress → CutProgress} (hf : ∀ g, g.body.memOk → (f g).body.memOk) : (x.modProg f).memOk := by
  obtain ⟨hb, hr, hp⟩ := h
  refine ⟨hb, hr, fun g hg => ?_⟩
  obtain ⟨g, hx, rfl⟩ := Option.map_eq_some_iff.mp hg
  exact hf g (hp g hx)

end Rect.memOk

theorem Rect.memOk_absent : Rect.absent.memOk := ⟨fun _ h => absurd h List.not_mem_nil, nofun, nofun⟩

namespace State.memOk

variable {s : State}

theorem rect (h : s.memOk) (r : Nat) : (s.rect r).memOk := by
  obtain ⟨-, -, -, -, -, hx⟩ := h
  exact Sparse.at_of_forall (P := Rect.memOk) Rect.memOk_absent hx r

theorem core (h : s.memOk) (c : CoreRef) : (s.core c).memOk := (h.rect c.rect).body.core c.core

/-- Another table of rectangles. -/
theorem withRects (h : s.memOk) {xs : Sparse Rect} (hx : ∀ p ∈ xs, p.2.memOk) : ({ s with rects := xs } : State).memOk := by
  obtain ⟨h1, h2, h3, h4, h5, -⟩ := h
  exact ⟨h1, h2, h3, h4, h5, hx⟩

theorem rects (h : s.memOk) : ∀ p ∈ s.rects, p.2.memOk := h.2.2.2.2.2

theorem setRect (h : s.memOk) {r : Nat} {x : Rect} (hx : x.memOk) : (s.setRect r x).memOk := h.withRects fun p hp => by
  obtain rfl | hp := Sparse.mem_put hp
  · exact hx
  · exact h.rects p hp

theorem modRect (h : s.memOk) {r : Nat} {f : Rect → Rect} (hf : ∀ x, x.memOk → (f x).memOk := by exact fun _ h => h) : (s.modRect r f).memOk :=
  h.setRect (hf _ (h.rect r))

theorem mapRects (h : s.memOk) {f : Nat → Rect → Rect} (hf : ∀ k x, x.memOk → (f k x).memOk := by exact fun _ _ h => h) :
    ({ s with rects := Sparse.mapAll f s.rects } : State).memOk := h.withRects fun p hp => by
  obtain ⟨q, hq, rfl⟩ := List.mem_map.mp hp
  exact hf _ _ (h.rects q hq)

theorem modBody (h : s.memOk) {r : Nat} {f : Body → Body} (hf : ∀ b, b.memOk → (f b).memOk := by exact fun _ h => h) : (s.modBody r f).memOk :=
  h.modRect fun _ hx => hx.withBody (hf _ hx.body)

theorem setCore (h : s.memOk) {c : CoreRef} {x : Core} (hx : x.memOk) : (s.setCore c x).memOk := h.modBody fun _ hb => hb.setCore hx

theorem modCore (h : s.memOk) {c : CoreRef} {f : Core → Core} (hf : ∀ c, c.memOk → (f c).memOk := by exact fun _ h => h) : (s.modCore c f).memOk :=
  h.setCore (hf _ (h.core c))

theorem setTask (h : s.memOk) {t : TaskRef} {x : Task} : (s.setTask t x).memOk := h.modCore

theorem modTask (h : s.memOk) {t : TaskRef} {f : Task → Task} : (s.modTask t f).memOk := h.setTask

theorem setSite (h : s.memOk) {e : SiteRef} {x : Site} : (s.setSite e x).memOk := h.modCore

theorem modPart (h : s.memOk) {p : Nat} {f : Part → Part} : (s.modPart p f).memOk := h

theorem modTenant (h : s.memOk) {t : Nat} {f : Tenant → Tenant} : (s.modTenant t f).memOk := h

theorem modDie (h : s.memOk) {d : Nat} {f : Die → Die} : (s.modDie d f).memOk := h

theorem complete (h : s.memOk) {c : CoreRef} {tl n : Nat} {b : Bool} : (s.complete c tl n b).memOk := by
  unfold State.complete
  exact h.modCore.modRect fun _ hx => hx.wantCut _

/-! ## Exceptions -/

theorem raise (h : s.memOk) {t : TaskRef} {c : Nat} {v : Word} {pc : BitVec 12} : (s.raise t c v pc).memOk := by
  rw [State.raise]
  dsimp only
  split
  · exact h.setTask.modBody
  · split
    · exact h.setTask
    · split
      · exact h.setTask.modBody
      · exact h.setTask.modBody

theorem raiseFabric (h : s.memOk) {r c core : Nat} {v : Word} : (s.raiseFabric r c v core).memOk := by
  rw [State.raiseFabric]
  split
  · exact h
  · split
    · exact h.modBody
    · exact h.modBody

theorem elementFault (h : s.memOk) {r c core : Nat} {v : Word} : (s.elementFault r c v core).memOk := h.modBody.raiseFabric

theorem release (h : s.memOk) {t : TaskRef} : (s.release t).memOk := h.modTask

theorem rett (h : s.memOk) {t : TaskRef} : (s.rett t).memOk := by
  have hb : ∀ {x}, (s.setTask t x).memOk := h.setTask
  rw [State.rett]
  dsimp only
  split
  · exact hb.release.modBody
  · split
    · split
      · split
        · exact hb.modBody
        · exact hb
      · exact hb.modBody fun _ hx => hx.mapAll
    · exact hb

/-! ## Time and the choice of a task -/

end State.memOk

theorem Core.memOk_foldl {α : Type} {f : Core → α → Core} (hf : ∀ c a, c.memOk → (f c a).memOk) (l : List α) {c : Core} (h : c.memOk) :
    (l.foldl f c).memOk := by
  induction l generalizing c with
  | nil => exact h
  | cons a l ih => exact ih (hf c a h)

theorem Core.memOk.count {c : Core} (h : c.memOk) (ev n : Nat) : (c.count ev n).memOk := by
  refine Core.memOk_foldl (fun c p h => ?_) _ h
  split
  · exact h
  · exact h

/-- The choice of a task changes tasks alone. -/
theorem Core.memOk.chosen {c : Core} (h : c.memOk) (rs : List Nat) (k : Nat) (pr : Option Nat) : (c.chosen rs k pr).memOk := by
  have h1 : (rs.foldl (fun (c : Core) j => c.modTask j (fun t => if j = k then { t with age := 0 } else { t with age := t.age + 1 })) c).memOk :=
    Core.memOk_foldl (f := fun (c : Core) j => c.modTask j _) (fun _ _ h => h) _ h
  have h2 : ∀ {c : Core}, c.memOk → ((List.range 8).foldl (fun (c : Core) j =>
      if j ≠ k ∧ (c.task j).yielding then c.modTask j (fun t => { t with yielding := false, wait := none }) else c) c).memOk :=
    fun h => Core.memOk_foldl (by intro _ _ h; split <;> exact h) _ h
  have h3 : ∀ {c : Core}, c.memOk → (if (c.task k).yielding then
      c.modTask k (fun t => { t with yielding := false, wake := false, wait := none }) else c).memOk := fun h => iteInduction (fun _ => h) fun _ => h
  unfold Core.chosen
  dsimp only
  cases pr with
  | none => exact h3 (h2 h1)
  | some p => exact h3 (h2 h1)

namespace State.memOk

variable {s : State}

theorem passTime (h : s.memOk) : s.passTime.memOk := by
  unfold State.passTime
  refine (h.mapRects fun _ x hx => ?_ : ({ s with rects := _ } : State).memOk)
  split
  · refine hx.withBody (hx.body.mapAll fun _ c hc => ?_)
    dsimp only
    split
    · exact hc
    · exact Core.memOk_foldl (fun _ _ h => h.count _ _) _ hc
  · exact hx

theorem countIssue (h : s.memOk) (b : Core) (t : TaskRef) : (State.countIssue b t s).memOk := by
  unfold State.countIssue
  split
  · exact h
  · refine h.modCore fun c hc => ?_
    dsimp only [Core.memOk]
    refine Core.memOk.count ?_ 2 1
    exact hc

theorem pick (h : s.memOk) {t : TaskRef} {u : State} (hp : s.pick = some (t, u)) : u.memOk := by
  unfold State.pick at hp
  split at hp
  · cases hp
  · dsimp only at hp
    split at hp
    · cases hp
    · cases hp
      exact h.modCore fun c hc => hc.chosen _ _ _

theorem settle {b : State} (h : s.memOk) (t : TaskRef) : (Machine.settle b t s).memOk := by
  unfold Machine.settle
  dsimp only
  split
  · dsimp only [State.memOk]
    refine State.memOk.modCore (h.modCore fun c hc => ?_) fun c hc => ?_
    · exact Core.memOk_foldl (f := fun c j => c.modTask j _) (fun _ _ h => h) _ hc
    · split
      · exact hc.count _ _
      · exact hc
  · exact h.countIssue _ _

end State.memOk

end Sys2Proof.Machine
end

section
/-! SUPPORT. Canonical form of the memories under issue, and under the accesses to memory. -/

namespace Sys2Proof.Machine

open Host (Outcome)

-- A rule may fill its hypothesis by a tactic of this text; with the proofs elaborated in order, none waits for it in a thread of its own.
set_option Elab.async false

/-- A step that goes on leaves the memories in canonical form. -/
def nextOk (o : Outcome State Fault Refusal) : Prop := ∀ t, o = .next t → t.memOk

theorem nextOk_next {s : State} (h : s.memOk) : nextOk (.next s) := fun _ e => Outcome.next.inj e ▸ h

theorem memOk_foldl {α : Type} {f : State → α → State} (hf : ∀ s a, s.memOk → (f s a).memOk) (l : List α) {s : State} (h : s.memOk) : (l.foldl f s).memOk := by
  induction l generalizing s with
  | nil => exact h
  | cons a l ih => exact ih (hf s a h)

/-- The state that a flow carries. -/
def Flow.memOk : Flow → Prop
  | .go s | .jump s _ | .wait s _ | .goWait s _ | .trapIn s _ _ | .done s => s.memOk
  | .trap _ _ | .trapNext _ _ => True

/-! ## Issue -/

section
variable {s : State} {g : Guard} {needs : List Need} {body : State → Flow}

theorem State.memOk.begin (h : s.memOk) : s.begin.memOk := h.modTask

theorem State.memOk.finish (h : s.memOk) {f : Flow} (hf : f.memOk) : (s.finish f).memOk := by
  unfold State.finish
  cases f with
  | go _ => exact State.memOk.modTask hf
  | jump _ _ => exact State.memOk.modTask hf
  | wait _ _ => exact State.memOk.modTask hf
  | goWait _ _ => exact State.memOk.modTask hf
  | trap _ _ => exact h.raise
  | trapIn _ _ _ => exact State.memOk.raise hf
  | trapNext _ _ => exact h.modTask.raise
  | done _ => exact hf

theorem nextOk_issueP {priv : Task → Option Word} (h : s.memOk) (hb : ∀ s, s.memOk → (body s).memOk := by exact fun _ h => h) :
    nextOk (issueP g priv needs body s) := by
  have h0 := h.begin
  unfold issueP
  dsimp only
  split
  · split
    · exact nextOk_next (h0.finish trivial)
    · split
      · exact nextOk_next (h0.finish trivial)
      · exact nextOk_next (h0.finish h0)
      · exact nextOk_next (h0.finish (hb _ h0))
  · exact nextOk_next (h0.finish h0)

theorem nextOk_issue (h : s.memOk) (hb : ∀ s, s.memOk → (body s).memOk := by exact fun _ h => h) : nextOk (issue g needs body s) := nextOk_issueP h hb

theorem nextOk_issueT (h : s.memOk) {f : Task → Task} : nextOk (issueT g needs f s) := nextOk_issue h fun _ h => h.modTask

theorem nextOk_alu2 (h : s.memOk) {d : Reg} {a b : Src} {f : Word → Word → Word} : nextOk (alu2 g d a b f s) := nextOk_issueT h
theorem nextOk_alu1 (h : s.memOk) {d : Reg} {a : Src} {f : Word → Word} : nextOk (alu1 g d a f s) := nextOk_issueT h
theorem nextOk_fpu2 (h : s.memOk) {d : Reg} {a b : Src} {f : Word → Word → Word × Flags} : nextOk (fpu2 g d a b f s) := nextOk_issueT h
theorem nextOk_fpu1 (h : s.memOk) {d : Reg} {a : Src} {f : Word → Word × Flags} : nextOk (fpu1 g d a f s) := nextOk_issueT h

end

/-! ## Memory -/

namespace State.memOk

variable {s t : State}

theorem mem (h : s.memOk) : Memory.wf s.mem = true := h.1
theorem peer (h : s.memOk) : Memory.wf s.peer = true := h.2.1

theorem reaches (h : s.memOk) (hr : s.Reaches t) : t.memOk := by
  obtain ⟨h1, h2, h3⟩ := h
  obtain ⟨x, rfl, hm, hp⟩ := hr
  exact ⟨hm h1, hp h2, h3⟩

theorem onLines (h : s.memOk) (hl : s.OnLines t) : t.memOk := h.reaches hl.reaches

theorem setMem (h : s.memOk) {a : Nat} {bs : List Byte} : ({ s with mem := setCells s.mem a bs } : State).memOk := h.onLines (s.onLines_setCells a bs)
theorem setPeer (h : s.memOk) {a : Nat} {bs : List Byte} : ({ s with peer := setCells s.peer a bs } : State).memOk := h.reaches (s.reaches_setPeer a bs)

theorem readLoc (h : s.memOk) {r : Nat} {l : Loc} {n : Nat} {pol : Policy} : (s.readLoc r l n pol).1.memOk := by
  unfold State.readLoc
  cases l with
  | window _ _ => exact h
  | phys _ => exact h.onLines (State.onLines_readPhys _ _ _ _ _ _)
  | peer _ => exact h

theorem logUndo (h : s.memOk) {r seg tag pa n : Nat} : (s.logUndo r seg tag pa n).memOk := by
  unfold State.logUndo
  refine memOk_foldl (fun s u h => ?_) _ h
  have hx := h.rect r
  dsimp only
  split
  · exact h.setRect hx
  · refine h.setRect ?_
    split
    · refine Rect.memOk.wantCut ?_ _
      exact hx
    · exact hx

theorem scratch (h : s.memOk) {c : CoreRef} {a : Nat} {bs : List Byte} : (s.modCore c (fun k => { k with scratch := setCells k.scratch a bs })).memOk :=
  h.modCore fun _ hc => Memory.wf_setCells a bs hc

theorem writeLoc (h : s.memOk) {r seg : Nat} {l : Loc} {bs : List Byte} {pol : Policy} : (s.writeLoc r seg l bs pol).memOk := by
  unfold State.writeLoc
  cases l with
  | window _ _ => exact h.scratch
  | phys pa =>
    dsimp only
    refine State.memOk.onLines ?_ (State.onLines_writePhys _ _ _ _ _ _)
    split
    · exact h.logUndo
    · exact h
  | peer _ => exact h.setPeer

theorem bufferRemote (h : s.memOk) {r : Nat} {t : Option TaskRef} {pa : Nat} {va : Word} {bs : List Byte} {seg cut : Nat} :
    (s.bufferRemote r t pa va bs seg cut).memOk := by
  unfold State.bufferRemote
  refine State.memOk.modRect (s := s.fresh.1) h fun x hx => ?_
  dsimp only
  split
  · refine Rect.memOk.wantCut ?_ _
    exact hx
  · exact hx

theorem touchTlb (h : s.memOk) {cache die tag va : Nat} : (s.touchTlb cache die tag va).memOk := h.reaches (s.reaches_touchTlb _ _ _ _)

theorem startWalk (h : s.memOk) {who : Requester} {die part tag va : Nat} {write : Bool} : (s.startWalk who die part tag va write).1.memOk :=
  h.reaches (s.reaches_startWalk _ _ _ _ _ _)

theorem forgetRefusal (h : s.memOk) {who : Requester} : (s.forgetRefusal who).memOk := h.reaches (s.reaches_forgetRefusal _)

theorem monitored (h : s.memOk) {die : Nat} {l : Loc} : (s.monitored die l).memOk := by
  unfold State.monitored
  split
  · split
    · exact h
    · exact h
  · exact h

theorem releaseWork (h : s.memOk) {tag : Nat} {sc : Scope} : (s.releaseWork tag sc).memOk := h.onLines (s.onLines_releaseWork _ _)
theorem acquireWork (h : s.memOk) {tag : Nat} {sc : Scope} : (s.acquireWork tag sc).memOk := h.onLines (s.onLines_acquireWork _ _)

theorem post (h : s.memOk) {reg : Option Reg} {va : Word} {l : Loc} {kind : AccKind} {pol : Policy} {o : OrderBits} : (s.post reg va l kind pol o).memOk := by
  unfold State.post
  dsimp only
  refine State.memOk.modRect (State.memOk.modTask ?_) fun x hx => hx.wantCut _
  exact h

/-- R292: the flow of an access that meets its checks. -/
theorem taskAccess (h : s.memOk) {ea : Word} {n align : Nat} {write : Bool} {pol : Policy} {k : State → Loc → Policy → Flow}
    (hk : ∀ s l p, s.memOk → (k s l p).memOk) : (taskAccess s ea n align write pol k).memOk := by
  unfold Machine.taskAccess
  dsimp only
  split
  · exact h
  · split
    · trivial
    · split
      · trivial
      · split
        · exact h.forgetRefusal
        · exact h.startWalk
        · exact hk _ _ _ h.touchTlb

theorem clipped (h : s.memOk) {sc : Scope} {k : State → Scope → Flow} (hk : ∀ s c, s.memOk → (k s c).memOk) : (clipped s sc k).memOk := by
  unfold Machine.clipped
  split
  · trivial
  · refine hk _ _ ?_
    split
    · exact h.modTask
    · exact h

theorem maintApply (h : s.memOk) (m : Maint) {p : Line → Bool} : (m.apply p s).memOk := by
  cases m with
  | wb => exact h.onLines (s.onLines_cleanLines p)
  | inv => exact h.onLines (s.onLines_dropClean p)
  | wbi => exact h.onLines (s.onLines_flushLines p)

theorem fetchLine (h : s.memOk) {slice tag line : Nat} {pol : Policy} : (s.fetchLine slice tag line pol).memOk := h.onLines (s.onLines_fetchLine _ _ _ _)

theorem loadFlow (h : s.memOk) {ea : Word} {n : Nat} {sx : Bool} {d : Reg} {pol : Policy} {o : OrderBits} : (loadFlow s ea n sx d pol o).memOk :=
  h.taskAccess fun _ _ _ h => h.post

theorem storeFlow (h : s.memOk) {ea : Word} {n : Nat} {v : Word} {pol : Policy} {o : OrderBits} : (storeFlow s ea n v pol o).memOk :=
  h.taskAccess fun _ _ _ h => h.post

theorem directRead (h : s.memOk) {va : Word} {l : Loc} {n : Nat} {pol : Policy} {k : State → List Byte → Flow} (hk : ∀ s bs, s.memOk → (k s bs).memOk) :
    (directRead s va l n pol k).memOk := by
  unfold Machine.directRead
  split
  · exact h
  · dsimp only
    split
    · split
      · exact hk _ _ h.readLoc
      · exact h.raiseFabric
    · exact hk _ _ h.readLoc

theorem maintFlow (h : s.memOk) {m : Maint} {sc : Scope} {lo len : Word} : (maintFlow m sc lo len s).memOk := by
  unfold Machine.maintFlow
  split
  · trivial
  · refine h.clipped fun s sc h => ?_
    split
    · exact h
    · have hrel : ∀ {tag f}, (if m = .inv then s else (s.releaseWork tag sc).modTask s.cur f).memOk := by
        intro tag f
        split
        · exact h
        · exact h.releaseWork.modTask
      have hfence : ∀ {tag f}, (if m = .wb then (if m = .inv then s else (s.releaseWork tag sc).modTask s.cur f)
          else (if m = .inv then s else (s.releaseWork tag sc).modTask s.cur f).acquireWork tag sc).memOk := by
        intro tag f
        split
        · exact hrel
        · exact hrel.acquireWork
      dsimp only
      split
      · split
        · exact h.modTask.modRect fun x hx => hx.wantCut _
        · split
          · exact h
          · exact (hfence.maintApply m).modTask
      · exact hfence.maintApply m

end State.memOk

/-! ## The instructions on memory -/

section
variable {s : State} (h : s.memOk) (g : Guard)
include h

theorem nextOk_amo {op : AmoOp} {sz : AtSize} {o : Order} {sc : Scope} {d : Reg} {b a : Src} {off : BitVec 16} : nextOk (execAmo g op sz o sc d b a off s) :=
  nextOk_issue h fun _ h => h.clipped fun _ _ h => h.taskAccess fun _ _ _ h => h.post

theorem nextOk_cas {sz : AtSize} {o : Order} {sc : Scope} {d : Reg} {b a : Src} {off : BitVec 20} : nextOk (execCas g sz o sc d b a off s) :=
  nextOk_issue h fun _ h => h.clipped fun _ _ h => h.taskAccess fun _ _ _ h => h.post

theorem nextOk_fence {o : Order} {sc : Scope} : nextOk (execFence g o sc s) := nextOk_issue h fun s h => h.clipped fun s sc h => by
  split
  · exact h
  · have hrel : ∀ {r c f}, (if orderRel o then ((s.releaseWork s.myRect.tag sc).modTask c f).modRect r (fun x => x.wantCut (s.relCutFor sc)) else s).memOk := by
      intro r c f
      split
      · exact h.releaseWork.modTask.modRect fun x hx => hx.wantCut _
      · exact h
    dsimp only [Flow.memOk]
    split
    · exact hrel.acquireWork
    · exact hrel

theorem nextOk_pref {cp : Policy} {a : Src} {off : BitVec 20} : nextOk (execPref g cp a off s) := nextOk_issue h fun s h => by
  dsimp only
  split
  · exact h
  · split
    · exact h
    · split
      · exact h
      · split
        · exact h
        · exact h.fetchLine

theorem nextOk_push {a : Src} : nextOk (execPush g a s) := nextOk_issue h fun s h => by
  dsimp only
  split
  · trivial
  · split
    · trivial
    · split
      · exact h.scratch.modTask
      · split
        · trivial
        · split
          · trivial
          · exact h.taskAccess fun _ _ _ h => h.post.modTask

theorem nextOk_pop {d : Reg} : nextOk (execPop g d s) := nextOk_issue h fun s h => by
  dsimp only
  split
  · trivial
  · split
    · trivial
    · split
      · split
        · trivial
        · exact h.taskAccess fun _ _ _ h => h.directRead fun _ _ h => h.modTask
      · exact h.modTask

end

end Sys2Proof.Machine
end

section
/-! SUPPORT. Canonical form of the memories under what happens to accesses after issue, and under the ports. -/

namespace Sys2Proof.Machine

open Host (Outcome)

-- A rule may fill its hypothesis by a tactic of this text; with the proofs elaborated in order, none waits for it in a thread of its own.
set_option Elab.async false

variable {s : State}

theorem memOk_ite {c : Prop} [Decidable c] {a b : State} (ha : a.memOk) (hb : b.memOk) : (if c then a else b).memOk := by
  split
  · exact ha
  · exact hb

theorem nextOk_ite {p : Prop} [Decidable p] {a b : Outcome State Fault Refusal} (ha : nextOk a) (hb : nextOk b) : nextOk (if p then a else b) := by
  split
  · exact ha
  · exact hb

/-! ## Accesses at their nodes -/

theorem Body.memOk.patch {b : Body} (h : b.memOk) {t : TaskRef} {reg id : Nat} {v : Word} {fl : Option (BitVec 5)} : (b.patch t reg id v fl).memOk := h.modCore

theorem Body.memOk.delegatedEntry {b : Body} (h : b.memOk) (q : QCause) : (b.delegatedEntry q).memOk := h.modCore

theorem Rect.memOk.mapRecords {x : Rect} (h : x.memOk) {f : Body → Body} (hf : ∀ b, b.memOk → (f b).memOk) :
    ({ x with record := x.record.map f, prog := x.prog.map (fun p => { p with body := f p.body }) } : Rect).memOk := by
  obtain ⟨hb, hr, hp⟩ := h
  refine ⟨hb, fun b e => ?_, fun p e => ?_⟩
  · obtain ⟨b, hx, rfl⟩ := Option.map_eq_some_iff.mp e
    exact hf b (hr b hx)
  · obtain ⟨p, hx, rfl⟩ := Option.map_eq_some_iff.mp e
    exact hf _ (hp p hx)

namespace State.memOk

theorem returnValue (h : s.memOk) {a : Access} {v : Word} {fl : Option (BitVec 5)} : (s.returnValue a v fl).memOk := by
  unfold State.returnValue
  split
  · split
    · exact h.modTask
    · exact h
  · exact h.modTask.modRect fun x hx => hx.mapRecords (f := fun b => b.patch _ _ _ _ _) fun b hb => hb.patch

theorem dropAccess (h : s.memOk) {id : Nat} : (s.dropAccess id).memOk := h

theorem pushLine (h : s.memOk) {a : Access} : (s.pushLine a).memOk := by
  unfold State.pushLine
  split
  · split
    · exact h.onLines (s.onLines_cleanLines _)
    · exact h
  · exact h

theorem atomicPlace (h : s.memOk) {a : Access} : (s.atomicPlace a).1.memOk := by
  unfold State.atomicPlace
  split
  · split
    · exact h.onLines (s.onLines_flushLines _)
    · exact h
  · exact h

theorem perform (h : s.memOk) {a : Access} : (s.perform a).memOk := by
  have h0 : (if a.upto ≠ 0 then s.releaseWork (s.rect a.task.rect).tag a.scope else s).memOk := memOk_ite h.releaseWork h
  have hacq : ∀ {u : State}, u.memOk → (if a.acq then u.acquireWork (s.rect a.task.rect).tag a.scope else u).memOk := fun hu => memOk_ite hu.acquireWork hu
  unfold State.perform
  dsimp only
  generalize (if a.upto ≠ 0 then _ else s) = s0 at h0 ⊢
  have hr : ∀ {n pol}, ((s0.atomicPlace a).1.readLoc a.task.rect a.loc n pol).1.memOk := h0.atomicPlace.readLoc
  cases a.kind with
  | load n sx => exact hacq (State.memOk.returnValue (State.memOk.dropAccess h0.readLoc))
  | store n v =>
    dsimp only
    split
    · exact (State.memOk.dropAccess h0).bufferRemote
    · exact h0.writeLoc.pushLine.dropAccess
  | amo op _ y => exact hacq hr.writeLoc.pushLine.dropAccess.returnValue
  | cas _ e y => exact hacq (State.memOk.returnValue (State.memOk.dropAccess (memOk_ite hr.writeLoc.pushLine hr)))

end State.memOk

section
variable (h : s.memOk)
include h

theorem nextOk_accessPerformedAtNode {id : Nat} : nextOk (execAccessPerformedAtNode id s) := by
  unfold execAccessPerformedAtNode
  split
  · exact nextOk_next h
  · dsimp only
    split
    · exact nextOk_next h
    · split
      · split
        · exact nextOk_next h
        · exact nextOk_next h.dropAccess.raiseFabric
      · exact nextOk_next h.perform.monitored

theorem nextOk_registerMissMicroTrap {t : TaskRef} {reg : Nat} : nextOk (execRegisterMissMicroTrap t reg s) := by
  unfold execRegisterMissMicroTrap
  dsimp only
  split
  · refine nextOk_next (h.modCore fun c hc => Core.memOk.count ?_ _ _)
    exact hc
  · exact nextOk_next h

theorem nextOk_backgroundRegisterFetch {c : CoreRef} : nextOk (execBackgroundRegisterFetch c s) := by
  unfold execBackgroundRegisterFetch
  dsimp only
  split
  · exact nextOk_next h
  · refine nextOk_next (h.setCore ?_)
    exact h.core c

theorem nextOk_remoteWriteAcknowledgment {id : Nat} {o : AckOutcome} : nextOk (execRemoteWriteAcknowledgment id o s) := by
  unfold execRemoteWriteAcknowledgment
  split
  · exact nextOk_next h
  · split
    · exact nextOk_next h
    · split
      · exact nextOk_next h
      · dsimp only
        cases o with
        | acked => exact nextOk_next h.modRect.setPeer
        | refused =>
          refine iteInduction (fun _ => nextOk_next h) fun _ => nextOk_next ?_
          exact h.modRect.raiseFabric
        | gaveUp =>
          refine iteInduction (fun _ => nextOk_next h) fun _ => nextOk_next ?_
          exact h.modRect.raiseFabric

theorem nextOk_pageWalkComplete {id : Nat} : nextOk (execPageWalkComplete id s) := by
  unfold execPageWalkComplete
  split
  · exact nextOk_next h
  · split
    · exact nextOk_next h
    · split
      · exact nextOk_next h
      · exact nextOk_next h

theorem nextOk_gelesqueFaultResolve {id : Nat} {refuse : Bool} : nextOk (execGelesqueFaultResolve id refuse s) := by
  unfold execGelesqueFaultResolve
  split
  · exact nextOk_next h
  · dsimp only
    split
    · exact nextOk_next h
    · split
      · exact nextOk_next h
      · exact nextOk_next h

theorem nextOk_weightStoreRefresh {d : Fin 4} : nextOk (execWeightStoreRefresh d s) := by
  unfold execWeightStoreRefresh
  dsimp only
  split
  · exact nextOk_next h
  · exact nextOk_next h

theorem nextOk_sliceReplayReissue {id : Nat} : nextOk (execSliceReplayReissue id s) := by
  unfold execSliceReplayReissue
  split
  · exact nextOk_next h
  · dsimp only
    split
    · exact nextOk_next h
    · exact nextOk_next h

theorem nextOk_unassignedOpcode {word : Word} : nextOk (execUnassignedOpcode word s) := nextOk_next (h.modTask.finish trivial)

theorem nextOk_delegatedEntry {r : Nat} : nextOk (execDelegatedEntry r s) := by
  have hx := h.rect r
  unfold execDelegatedEntry
  dsimp only
  split
  · exact nextOk_next h
  · split
    · exact nextOk_next h
    · split
      · exact nextOk_next (h.setRect hx)
      · split
        · exact nextOk_next h
        · refine nextOk_next (h.setRect (hx.withBody (Body.memOk.delegatedEntry ?_ _)))
          exact hx.body

theorem nextOk_sleepTimeReached {t : TaskRef} : nextOk (execSleepTimeReached t s) := by
  unfold execSleepTimeReached
  dsimp only
  split
  · split
    · exact nextOk_next h.setTask
    · exact nextOk_next h
  · split
    · exact nextOk_next h.setTask
    · exact nextOk_next h
  · exact nextOk_next h

end

/-! ## Ports -/

theorem State.memOk.feedFlow (h : s.memOk) {f : Fin 16} {cmd : StreamCmd} : (feedFlow s f cmd).memOk := by
  unfold Machine.feedFlow
  dsimp only
  split
  · trivial
  · split
    · exact h
    · exact h.modCore

theorem State.memOk.sinkFlow (h : s.memOk) {k : Fin 16} {cmd : StreamCmd} {f : Task → Task} : (sinkFlow s k cmd f).memOk := by
  unfold Machine.sinkFlow
  dsimp only
  split
  · trivial
  · split
    · exact h
    · exact State.memOk.modTask h.modCore

theorem Core.memOk.applyResets {c : Core} (h : c.memOk) {ac : Nat} : (c.applyResets ac).memOk := by
  unfold Core.applyResets
  split
  · exact h
  · split
    · exact h
    · exact h

theorem Core.memOk.enqueueAt {c k : Core} (h : c.memOk) {site q : Nat} {w : FWord} (e : c.enqueueAt site q w = some k) : k.memOk := by
  unfold Core.enqueueAt at e
  dsimp only at e
  split at e
  · cases e
    exact h
  · cases e

theorem Rect.memOk.withProg {x : Rect} (h : x.memOk) {g : CutProgress} (hg : g.body.memOk) : ({ x with prog := some g } : Rect).memOk :=
  ⟨h.1, h.2.1, fun _ e => Option.some.inj e ▸ hg⟩

theorem Rect.memOk.prog {x : Rect} (h : x.memOk) {g : CutProgress} (e : x.prog = some g) : g.body.memOk := h.2.2 g e

theorem Rect.memOk.record {x : Rect} (h : x.memOk) {b : Body} (e : x.record = some b) : b.memOk := h.2.1 b e

theorem Rect.memOk.tookWord {x : Rect} (h : x.memOk) {core n : Nat} {p : SinkPort} {w : FWord} : (x.tookWord core n p w).memOk := by
  unfold Rect.tookWord
  split
  · exact h
  · next g e =>
    dsimp only
    split
    · exact h.withProg (h.prog e).modCore
    · exact h

theorem Rect.memOk.tookTake {x : Rect} (h : x.memOk) {t : TaskRef} {reg port : Nat} {p : SinkPort} {w : FWord} : (x.tookTake t reg port p w).memOk := by
  unfold Rect.tookTake
  split
  · exact h
  · next g e =>
    split
    · exact h.withProg (h.prog e).modCore
    · exact h.tookWord

namespace State.memOk

theorem deliverTake (h : s.memOk) {t : TaskRef} {reg port : Nat} : (s.deliverTake t reg port).memOk := by
  unfold State.deliverTake
  dsimp only
  split
  · split
    · exact (h.modRect fun _ hx => hx.tookTake).modCore
    · exact h
  · exact h

theorem deliverWaitv (h : s.memOk) {t : TaskRef} {reg vc : Nat} : (s.deliverWaitv t reg vc).memOk := by
  unfold State.deliverWaitv
  dsimp only
  split
  · split
    · exact h.modCore
    · exact h
  · exact h

end State.memOk

/-- The state that an agent of a core finds, whatever it finds. -/
def AgentReach.memOk : AgentReach → Prop
  | .ok s _ _ | .wait s | .fault s _ => s.memOk

theorem State.memOk.agentReach (h : s.memOk) {who : Requester} {c : CoreRef} {va : Word} {n align : Nat} {write : Bool} :
    (s.agentReach who c va n align write).memOk := by
  unfold State.agentReach
  dsimp only
  split
  · exact h
  · split
    · exact h
    · split
      · exact h.forgetRefusal
      · exact h.startWalk
      · split
        · exact h.touchTlb.monitored
        · exact h

section
variable (h : s.memOk) (g : Guard)
include h

theorem nextOk_qset {f : QField} {q : Fin 16} {a : Src} : nextOk (execQset g f q a s) := nextOk_issue h fun _ h => h.modCore
theorem nextOk_qadv {q : Fin 16} {a : Src} : nextOk (execQadv g q a s) := nextOk_issue h fun _ h => h.modCore
theorem nextOk_qld {q : Fin 16} {a : Src} : nextOk (execQld g q a s) :=
  nextOk_issue h fun _ h => h.taskAccess fun _ _ _ h => h.directRead fun _ _ h => h.modCore

theorem nextOk_feed {f q : Fin 16} {b : Src} {tag : Fin 16} {pkt eok eor eos sx : Bool} {esz : EltSize} :
    nextOk (execFeed g f q b tag pkt eok eor eos sx esz s) := nextOk_issue h fun _ h => h.feedFlow
theorem nextOk_sink {k q : Fin 16} {b : Src} {pkt : Bool} {esz : EltSize} : nextOk (execSink g k q b pkt esz s) := nextOk_issue h fun _ h => h.sinkFlow
theorem nextOk_inj {f : Fin 16} {b : Src} {tag : Fin 16} : nextOk (execInj g f b tag s) := nextOk_issue h fun _ h => h.feedFlow
theorem nextOk_tok {kind : TokKind} {f : Fin 16} {b : Src} {tag : Fin 16} : nextOk (execTok g kind f b tag s) := nextOk_issue h fun _ h => h.feedFlow
theorem nextOk_take {d : Reg} {k : Fin 16} : nextOk (execTake g d k s) := nextOk_issue h fun _ h => h.sinkFlow

theorem nextOk_portq {d : Reg} {port : Fin 16} {sink : Bool} : nextOk (execPortq g d port sink s) := nextOk_issue h fun s h => by
  dsimp only
  generalize (if sink then _ else _ : Bool) = u
  split
  · trivial
  · exact h.modTask

theorem nextOk_sbar {b : Src} : nextOk (execSbar g b s) := nextOk_issue h fun s h => by
  dsimp only
  split
  · trivial
  · split
    · exact h
    · exact h

theorem nextOk_accrst {ac : Fin 8} {b : Src} : nextOk (execAccrst g ac b s) := nextOk_issue h fun s h => h.modCore fun c hc => by
  dsimp only
  split
  · exact hc
  · split
    · refine Core.memOk.applyResets ?_
      exact hc
    · exact hc

theorem nextOk_portCommandStart {c : CoreRef} {sink : Bool} {n : Fin 16} : nextOk (execPortCommandStart c sink n s) := by
  unfold execPortCommandStart
  dsimp only
  split
  · exact nextOk_next h
  · split
    · split
      · exact nextOk_next h
      · split
        · exact nextOk_next h
        · exact nextOk_next h.modCore
    · split
      · exact nextOk_next h
      · split
        · exact nextOk_next h
        · exact nextOk_next h.modCore

theorem nextOk_feedWordDeliver {c : CoreRef} {n : Fin 16} : nextOk (execFeedWordDeliver c n s) := by
  have enq : ∀ {u : State} {k k' : Core} {site q : Nat} {w : FWord} {f : FeedPort}, u.memOk → k.memOk → k.enqueueAt site q w = some k' → nextOk (.next (u.setCore c (k'.setFeed n.val f))) := by
    intro u k k' site q w f hu hk e
    have hk' := hk.enqueueAt e
    refine nextOk_next (hu.setCore ?_)
    exact hk'
  unfold execFeedWordDeliver
  dsimp only
  split
  · exact nextOk_next h
  · split
    · exact nextOk_next h
    · split
      · split
        · exact nextOk_next h
        · next e => exact enq h (h.core c) e
      · split
        · exact nextOk_next h
        · split
          · split
            · exact nextOk_next h
            · next e => exact enq h (h.core c) e
          · split
            · exact nextOk_next h
            · split
              · generalize hr : s.agentReach _ c _ _ _ false = o
                have ho : o.memOk := hr ▸ h.agentReach
                cases o with
                | wait u => exact nextOk_next ho
                | fault u cause =>
                  refine iteInduction (fun _ => nextOk_next h) fun _ => nextOk_next ?_
                  exact State.memOk.elementFault (State.memOk.modCore ho)
                | ok u l pol =>
                  have hu : ∀ {n}, (u.readLoc c.rect l n pol).1.memOk := State.memOk.readLoc ho
                  dsimp only
                  split
                  · exact nextOk_next h
                  · next e => exact enq hu (hu.core c) e
              · exact nextOk_next h

theorem nextOk_sinkWordStore {c : CoreRef} {n : Fin 16} : nextOk (execSinkWordStore c n s) := by
  have note : ∀ {u : State} {p w}, u.memOk → (u.modRect c.rect (fun x => x.tookWord c.core n.val p w)).memOk := fun hu => hu.modRect fun _ hx => hx.tookWord
  unfold execSinkWordStore
  dsimp only
  split
  · exact nextOk_next h
  · split
    · split
      · split
        · exact nextOk_next (note h).modCore
        · split
          · generalize hr : s.agentReach _ c _ _ _ true = o
            have ho : o.memOk := hr ▸ h.agentReach
            cases o with
            | wait u => exact nextOk_next ho
            | fault u cause =>
              refine iteInduction (fun _ => nextOk_next h) fun _ => nextOk_next ?_
              exact State.memOk.elementFault (State.memOk.modCore ho)
            | ok u l pol =>
              dsimp only
              split
              · refine iteInduction (fun _ => nextOk_next h) fun _ => nextOk_next ?_
                exact (note ho).modCore.bufferRemote
              · refine iteInduction (fun _ => nextOk_next h) fun _ => nextOk_next ?_
                exact (note ho).writeLoc.modCore
          · exact nextOk_next (note h.modCore)
      · exact nextOk_next h
    · exact nextOk_next h

theorem nextOk_snapintCountReached {c : CoreRef} {n : Fin 16} : nextOk (execSnapintCountReached c n s) := by
  unfold execSnapintCountReached
  split
  · exact nextOk_next (h.modRect fun _ hx => hx.wantCut _)
  · exact nextOk_next h

theorem nextOk_producerDeliver {t : TaskRef} {reg : Nat} : nextOk (execProducerDeliver t reg s) := by
  unfold execProducerDeliver
  split
  · exact nextOk_next h
  · split
    · exact nextOk_next h.modTask
    · exact nextOk_next h.deliverTake
    · exact nextOk_next h.deliverWaitv
    · split
      · split
        · exact nextOk_next h.deliverTake
        · split
          · exact nextOk_next h.deliverWaitv
          · exact nextOk_next h
      · exact nextOk_next h

end

end Sys2Proof.Machine
end

section
/-! SUPPORT. Canonical form of the memories under the fabric and its network. -/

namespace Sys2Proof.Machine

open Host (Outcome)

-- A rule may fill its hypothesis by a tactic of this text; with the proofs elaborated in order, none waits for it in a thread of its own.
set_option Elab.async false

variable {s : State}

/-- The state that may come of an attempt. -/
def someOk (o : Option State) : Prop := ∀ t, o = some t → t.memOk

theorem someOk_some (h : s.memOk) : someOk (some s) := fun _ e => Option.some.inj e ▸ h

theorem someOk_none : someOk none := nofun

theorem someOk.getD {o : Option State} (ho : someOk o) (h : s.memOk) : (o.getD s).memOk := by
  cases o with
  | none => exact h
  | some t => exact ho t rfl

theorem someOk.orElse {o p : Option State} (ho : someOk o) (hp : someOk p) : someOk (o.orElse fun _ => p) := by
  cases o with
  | none => exact hp
  | some t => exact ho

/-! ## Configurations -/

/-- The scratchpads of a table of cores are in canonical form. -/
def coresOk (m : Sparse Core) : Prop := ∀ p ∈ m, p.2.memOk

theorem coresOk_foldl {α : Type} {f : Sparse Core → α → Sparse Core} (hf : ∀ m a, coresOk m → coresOk (f m a)) (l : List α) {m : Sparse Core} (h : coresOk m) :
    coresOk (l.foldl f m) := by
  induction l generalizing m with
  | nil => exact h
  | cons a l ih => exact ih (hf m a h)

theorem coresOk.put {m : Sparse Core} (h : coresOk m) {c : Core} (hc : c.memOk) (k : Nat) : coresOk (Sparse.put c m k) := fun p hp => by
  obtain rfl | hp := Sparse.mem_put hp
  · exact hc
  · exact h p hp

theorem Core.memOk.applyFrame {c : Core} (h : c.memOk) (mx : Nat) (f : Frame) : (applyFrame mx c f).memOk := by
  unfold Machine.applyFrame
  split
  any_goals exact h
  dsimp only
  split
  · exact h
  · exact h

theorem coresOk.applyFrames {m : Sparse Core} (h : coresOk m) (mx w ht : Nat) (fs : List Frame) : coresOk (applyFrames mx w ht fs m) :=
  coresOk_foldl (fun m _ hm => hm.put (Core.memOk_foldl (fun _ _ hc => hc.applyFrame _ _) _ (Sparse.at_of_forall (P := Core.memOk) Core.memOk_launch hm _)) _) _ h

theorem Body.memOk_launchBody (mx : Nat) (fs : List Frame) (args : Word) (spill : Nat) : (launchBody mx fs args spill).memOk := by
  unfold launchBody
  split
  · exact fun _ h => absurd h List.not_mem_nil
  · refine fun p hp => ?_
    obtain ⟨q, hq, rfl⟩ := List.mem_map.mp hp
    have hc : q.2.memOk := coresOk.applyFrames (fun _ h => absurd h List.not_mem_nil) _ _ _ _ q hq
    dsimp only
    split
    · exact hc
    · exact hc

/-! ## Words -/

theorem Core.memOk.setInQueue {c : Core} (h : c.memOk) {site q : Nat} {l : List FWord} : (c.setInQueue site q l).memOk := by
  unfold Core.setInQueue
  split
  · exact h
  · split
    · exact h
    · exact h

theorem Rect.memOk.lateWord {x : Rect} (h : x.memOk) {core site q : Nat} {o : Bool} {w : FWord} : (x.lateWord core site q o w).memOk := by
  refine h.modProg fun g hg => ?_
  split
  · exact hg.modCore fun c hc => hc.setInQueue
  · exact hg

namespace State.memOk

theorem markAtSink (h : s.memOk) {r core n : Nat} : (s.markAtSink r core n).memOk := h.modRect fun x hx => hx.modProg fun g hg => by
  split
  · exact hg.modCore
  · exact hg

theorem deliverTo (h : s.memOk) {e : SiteRef} {o : Bool} {w : FWord} {p : Place} : (s.deliverTo e o w p).memOk := by
  unfold State.deliverTo
  cases p with
  | queue c t q => exact State.memOk.modRect (h.modCore fun _ hc => hc.setInQueue) fun _ hx => hx.lateWord
  | sink c n =>
    dsimp only
    split
    · exact h.markAtSink
    · refine State.memOk.modRect h.modCore fun x hx => hx.modProg fun g hg => ?_
      split
      · exact hg.modCore
      · exact hg
  | cutBuf c t j => exact h.modCore
  | net d => exact State.memOk.modBody (s := s.fresh.1) h
  | unit c n =>
    dsimp only
    split
    · exact h
    · split
      · split
        · exact h.setCore (h.core _).setInQueue
        · exact h
      · exact h
  | masked => exact h
  | refused v => exact h.elementFault

theorem deliverAll (h : s.memOk) {e : SiteRef} {o : State → Bool} {w : FWord} (ps : List Place) : (ps.foldl (fun s p => s.deliverTo e (o s) w p) s).memOk :=
  memOk_foldl (fun _ _ h => h.deliverTo) ps h

theorem emitOut (h : s.memOk) {e : SiteRef} {out : Nat} {w : FWord} : someOk (s.emitOut e out w) := by
  unfold State.emitOut
  dsimp only
  split
  · exact someOk_some (h.deliverAll _)
  · exact someOk_none

theorem emit (h : s.memOk) {e : SiteRef} {m : Emission} : someOk (s.emit e m) := by
  have h1 : someOk (match m.x with | some w => s.emitOut e 0 w | none => some s) := by
    split
    · exact h.emitOut
    · exact someOk_some h
  unfold State.emit
  dsimp only
  split
  · next e1 _ => exact (h1 _ e1).emitOut
  · exact h1

theorem flushCut (h : s.memOk) {e : SiteRef} {out : Nat} : someOk (s.flushCut e out) := by
  unfold State.flushCut
  split
  · exact someOk_none
  · split
    · exact someOk_none
    · dsimp only
      split
      · exact someOk_none
      · split
        · exact someOk_some (h.setSite.deliverAll _)
        · exact someOk_none

/-! ## Firing -/

theorem recordElem (h : s.memOk) {e : SiteRef} {back ahead : List Nat} : (s.recordElem e back ahead).memOk := h.modRect fun x hx => hx.modProg fun g hg => by
  dsimp only
  split
  · refine hg.modCore fun c hc => ?_
    split
    · exact Memory.wf_setCells _ _ hc
    · exact hc
  · exact hg

theorem recordCluster (h : s.memOk) {e : SiteRef} : (s.recordCluster e).memOk := memOk_foldl (fun s m h => by
  dsimp only
  split
  · exact h.recordElem.setSite
  · exact h) _ h

theorem holdWords (h : s.memOk) {e : SiteRef} {scope : Nat} {hs : List (FWord × Bool)} : (s.holdWords e scope hs).memOk := by
  unfold State.holdWords
  split
  · exact h
  · exact h.setSite.modRect fun _ hx => hx.wantCut _

theorem consume (h : s.memOk) {e : SiteRef} {f : Fire} {back : List Nat} : (s.consume e f back).memOk := by
  have h2 : ∀ {x}, (match f.store with
      | some (o, n, v) => (s.setSite e x).modCore e.coreRef (fun c => { c with scratch := setCells c.scratch (meOrigin e.site + o) (splitBytes n v) })
      | none => s.setSite e x).memOk := by
    intro x
    split
    · exact h.setSite.scratch
    · exact h.setSite
  have h5 : ∀ {u : State} {k : ElemCfg} {eos : Bool}, u.memOk → (match k with
      | .ce c => match c.acn with
        | some a => if eos then u.modCore e.coreRef (fun k => k.applyResets a.val) else u
        | none => u
      | _ => u).memOk := by
    intro u k eos hu
    split
    · split
      · exact memOk_ite (hu.modCore fun _ hc => hc.applyResets) hu
      · exact hu
    · exact hu
  have h4 : ∀ {x sc}, (((match f.store with
      | some (o, n, v) => (s.setSite e x).modCore e.coreRef (fun c => { c with scratch := setCells c.scratch (meOrigin e.site + o) (splitBytes n v) })
      | none => s.setSite e x).modBody e.rect (fun b => b.flags f.flags)).holdWords e sc f.hold).memOk := h2.modBody.holdWords
  unfold State.consume
  dsimp only
  split
  · exact (h5 h4).recordElem.recordCluster
  · exact h5 h4

theorem noteStall (h : s.memOk) {e : SiteRef} {m : Emission} : (s.noteStall e m).memOk := by
  unfold State.noteStall
  exact memOk_ite h h.setSite

theorem splitMark (h : s.memOk) {e : SiteRef} {back fwd marks : List Nat} : someOk (s.splitMark e back fwd marks) := by
  unfold State.splitMark
  dsimp only
  split
  · exact someOk_none
  · split
    · exact someOk_none
    · exact h.recordElem.recordCluster.setSite.emit

theorem fireSite (h : s.memOk) {e : SiteRef} {f : List Nat → ElemState → List (List FWord) → FireRes} : (s.fireSite e f).memOk := by
  unfold State.fireSite
  dsimp only
  split
  · exact h
  · split
    · next e1 => exact h.flushCut.orElse h.flushCut _ e1
    · split
      · split
        · next e1 => exact h.setSite.emit _ e1
        · exact h.noteStall
      · split
        · exact h.setSite
        · split
          · exact memOk_ite (h.splitMark.getD h) h
          · exact memOk_ite h h.elementFault
          · refine memOk_ite h ?_
            split
            · exact h.consume
            · split
              · next e1 => exact (h.consume.emit _ e1).modCore
              · exact h.noteStall

theorem fireCe (h : s.memOk) {e : SiteRef} {ok : CeCfg → Bool} {f : CeCfg → List Nat → ElemState → List (List FWord) → FireRes} : (s.fireCe e ok f).memOk := by
  unfold State.fireCe
  split
  · exact memOk_ite h.fireSite h
  · exact h

theorem fireMe (h : s.memOk) {e : SiteRef} {mode : Nat} {f : MeCfg → (Nat → Nat → Nat) → List Nat → ElemState → List (List FWord) → FireRes} : (s.fireMe e mode f).memOk := by
  unfold State.fireMe
  split
  · exact memOk_ite h.fireSite h
  · exact h

theorem releaseHeld (h : s.memOk) {e : SiteRef} : (s.releaseHeld e).memOk := by
  unfold State.releaseHeld
  dsimp only
  split
  · exact h
  · exact memOk_ite h (h.releaseWork.setSite.emit.getD h)

theorem unitAccess (h : s.memOk) {e : SiteRef} {g : AgCfg} {va : Word} : someOk (s.unitAccess e g va).1 := by
  have take : ∀ {u : State} {p w f}, u.memOk → ((u.modRect e.rect (fun x => x.tookWord e.core g.tgt p w)).modCore e.coreRef (fun k => k.setSink g.tgt f)).memOk :=
    fun hu => State.memOk.modCore (hu.modRect fun _ hx => hx.tookWord)
  have fault : ∀ {u : State} {b : Bool} {c x}, u.memOk → someOk (if b then (none, false) else (some (u.elementFault e.rect c va x), false)).1 := by
    intro u b c x hu
    split
    · exact someOk_none
    · exact someOk_some hu.elementFault
  unfold State.unitAccess
  dsimp only
  split
  · split
    · exact someOk_some h
    · split
      · exact someOk_none
      · generalize hr : s.agentReach _ _ _ _ _ false = o
        have ho : o.memOk := hr ▸ h.agentReach
        cases o with
        | wait u => exact someOk_some ho
        | fault u cause => exact fault ho
        | ok u l pol => exact someOk_some (State.memOk.modCore (State.memOk.readLoc ho) fun _ hc => hc.setInQueue)
  · split
    · exact someOk_none
    · split
      · exact someOk_some (take h)
      · generalize hr : s.agentReach _ _ _ _ _ true = o
        have ho : o.memOk := hr ▸ h.agentReach
        cases o with
        | wait u => exact someOk_some ho
        | fault u cause => exact fault ho
        | ok u l pol =>
          dsimp only
          split
          · split
            · exact someOk_none
            · exact someOk_some (take ho).bufferRemote
          · split
            · exact someOk_none
            · exact someOk_some (take ho).writeLoc

end State.memOk

section
variable (h : s.memOk)
include h

theorem nextOk_fireCe {e : SiteRef} {ok : CeCfg → Bool} {f : CeCfg → List Nat → ElemState → List (List FWord) → FireRes} : nextOk (.next (s.fireCe e ok f)) := nextOk_next h.fireCe

theorem nextOk_fireMe {e : SiteRef} {mode : Nat} {f : MeCfg → (Nat → Nat → Nat) → List Nat → ElemState → List (List FWord) → FireRes} :
    nextOk (.next (s.fireMe e mode f)) := nextOk_next h.fireMe

theorem nextOk_ceBnd {e : SiteRef} : nextOk (execCeBnd e s) := by
  have h1 : (match (s.site e).cfg with | .ce c => if c.opc = 0x4A then s.releaseHeld e else s | _ => s).memOk := by
    split
    · exact memOk_ite h.releaseHeld h
    · exact h
  exact nextOk_next (memOk_ite h.fireCe h1)

theorem nextOk_meDoneEmit {e : SiteRef} : nextOk (execMeDoneEmit e s) := by
  unfold execMeDoneEmit
  split
  · exact nextOk_next h.releaseHeld
  · exact nextOk_next h

theorem nextOk_agEmit {e : SiteRef} : nextOk (execAgEmit e s) := by
  unfold execAgEmit
  dsimp only
  split
  · next g _ =>
    split
    · split
      · next a _ _ =>
        have hu := h.unitAccess (e := e) (g := g) (va := a)
        generalize s.unitAccess e g a = o at hu
        obtain ⟨o, b⟩ := o
        cases o with
        | none => exact nextOk_next h
        | some u =>
          cases b with
          | false => exact nextOk_next (hu _ rfl)
          | true => exact nextOk_next (memOk_ite h (hu _ rfl).fireSite)
      · exact nextOk_next h.fireSite
    · exact nextOk_next h.fireSite
  · exact nextOk_next h

theorem nextOk_mcstallExpiry {e : SiteRef} {out : Fin 2} : nextOk (execMcstallExpiry e out s) := by
  unfold execMcstallExpiry
  dsimp only
  split
  · exact nextOk_next h
  · generalize (if out = 0 then _ else _ : Option FWord) = w
    cases w with
    | none => exact nextOk_next h
    | some w => exact iteInduction (fun _ => nextOk_next h) fun _ => nextOk_next h.setSite.modBody.raiseFabric

end

/-! ## The network -/

theorem State.memOk.landWord (h : s.memOk) {r : Nat} {k : Packet} {d : Dest} {w : FWord} {src : Nat} : (s.landWord r k d w src).memOk :=
  State.memOk.modRect (h.modBody fun b hb => Body.memOk.modCore (b := b.dropPacket k.id) hb fun _ hc => hc.setInQueue) fun _ hx => hx.lateWord

theorem State.memOk.readFrames {pat : Pattern} {k : State → List Frame → Flow} (hk : ∀ s fs, s.memOk → (k s fs).memOk) (l : List Nat) :
    ∀ {s : State} {acc : List Frame}, s.memOk → (readFrames pat l s acc k).memOk := by
  induction l with
  | nil => exact fun h => hk _ _ h
  | cons i l ih => exact fun h => h.taskAccess fun _ _ _ h => h.directRead fun _ _ h => ih h

theorem State.memOk.finishReload (h : s.memOk) {r : Nat} {rl : Reload} : (s.finishReload r rl).memOk :=
  State.memOk.countIssue (State.memOk.modTask (h.modRect fun x hx => by
    refine Rect.memOk.wantCut ?_ _
    exact hx.withBody (coresOk.applyFrames hx.body _ _ _ _))) _ _

section
variable (h : s.memOk)
include h

theorem nextOk_dynamicPacketHop {router : Nat} {out : HopOut} : nextOk (execDynamicPacketHop router out s) := by
  unfold execDynamicPacketHop
  split
  · exact nextOk_next h
  · split
    · split
      · exact nextOk_next h.landWord
      · exact nextOk_next h
    · dsimp only
      split
      · split
        · exact nextOk_next h
        · exact nextOk_next h.modBody.elementFault.modPart
      · exact nextOk_next h.modBody

theorem nextOk_vcWordArrive {c : CoreRef} {vc : Fin 16} {pkt : Nat} : nextOk (execVcWordArrive c vc pkt s) := by
  unfold execVcWordArrive
  dsimp only
  split
  · exact nextOk_next h
  · split
    · split
      · exact nextOk_next (h.modBody fun b hb => Body.memOk.modCore (b := b.dropPacket pkt) hb)
      · exact nextOk_next h
    · exact nextOk_next h

theorem nextOk_cfgld (g : Guard) {q : Fin 16} {b : Src} : nextOk (execCfgld g q b s) := nextOk_issueP h fun s h => State.memOk.readFrames (fun s fs h => by
  dsimp only
  split
  · trivial
  · exact h.modRect) _ h

theorem nextOk_cfgldDrainTimeout {r : Nat} : nextOk (execCfgldDrainTimeout r s) := by
  unfold execCfgldDrainTimeout
  dsimp only
  split
  · exact nextOk_next h
  · split
    · exact nextOk_next h
    · exact nextOk_next h.modRect.modTask.raise

theorem nextOk_residueWordEnqueue {r : Nat} : nextOk (execResidueWordEnqueue r s) := by
  unfold execResidueWordEnqueue
  dsimp only
  split
  · exact nextOk_next h
  · split
    · exact nextOk_next h
    · exact nextOk_next (h.modBody fun b hb => by
      refine Body.memOk.modCore ?_
      exact hb)

end

end Sys2Proof.Machine
end

section
/-! SUPPORT. Canonical form of the memories under the engine commands, and under timelines and time. -/

namespace Sys2Proof.Machine

open Host (Outcome)

-- A rule may fill its hypothesis by a tactic of this text; with the proofs elaborated in order, none waits for it in a thread of its own.
set_option Elab.async false

variable {s : State}

/-! ## Engines at memory -/

theorem EngRes.memOk_ok {α : Type} (h : s.memOk) {v : α} : (EngRes.ok s v).state.memOk := h

theorem EngRes.memOk_ite {α : Type} {c : Prop} [Decidable c] {a b : EngRes α} (ha : a.state.memOk) (hb : b.state.memOk) : (if c then a else b).state.memOk := by
  split
  · exact ha
  · exact hb

namespace State.memOk

theorem engReach (h : s.memOk) {r : Nat} {e : EngCmd} {va : Word} {n : Nat} {write : Bool} : (s.engReach r e va n write).memOk := by
  unfold State.engReach
  dsimp only
  split
  · exact h
  · split
    · exact h
    · split
      · exact h.forgetRefusal
      · exact h.startWalk
      · split
        · exact h.touchTlb.monitored
        · exact h

theorem engRead (h : s.memOk) {r : Nat} {e : EngCmd} {va : Word} {n : Nat} {ok : Loc → Bool} : (s.engRead r e va n ok).state.memOk := by
  unfold State.engRead
  have ho : (s.engReach r e va n false).memOk := h.engReach
  generalize s.engReach r e va n false = o at ho ⊢
  cases o with
  | wait u => exact ho
  | fault u c => exact ho
  | ok u l pol =>
    have hr : ∀ {l}, (u.readLoc r l n pol).1.memOk := State.memOk.readLoc ho
    dsimp only
    split
    · exact h
    · split
      · exact h
      · cases l with
        | phys pa =>
          dsimp only
          split
          · exact h
          · exact hr
        | window k a => exact hr
        | peer pa => exact hr

theorem engReads {r : Nat} {e : EngCmd} {n : Nat} {ok : Loc → Bool} (l : List Word) : ∀ {s : State}, s.memOk → (State.engReads r e n ok l s).state.memOk := by
  induction l with
  | nil => exact fun h => h
  | cons a l ih =>
    intro s h
    rw [State.engReads]
    have h1 : (s.engRead r e a n ok).state.memOk := h.engRead
    generalize s.engRead r e a n ok = x at h1 ⊢
    cases x with
    | wait u => exact h1
    | fault u c v => exact h1
    | ok u bs =>
      have h2 := ih h1
      dsimp only [EngRes.state] at h2 ⊢
      generalize State.engReads r e n ok l u = y at h2 ⊢
      cases y with
      | ok v cs => exact h2
      | wait v => exact h2
      | fault v c w => exact h2

theorem engWrite (h : s.memOk) {r : Nat} {e : EngCmd} {va : Word} {bs : List Byte} {ok : Loc → Bool} : (s.engWrite r e va bs ok).state.memOk := by
  unfold State.engWrite
  have ho : (s.engReach r e va bs.length true).memOk := h.engReach
  generalize s.engReach r e va bs.length true = o at ho ⊢
  cases o with
  | wait u => exact ho
  | fault u c => exact ho
  | ok u l pol =>
    dsimp only
    split
    · exact h
    · cases l with
      | peer pa => exact EngRes.memOk_ite h (State.memOk.bufferRemote ho)
      | window k a => exact EngRes.memOk_ite h (EngRes.memOk_ok (State.memOk.writeLoc ho))
      | phys pa => exact EngRes.memOk_ite h (EngRes.memOk_ok (State.memOk.writeLoc ho))

theorem modEng (h : s.memOk) {r id : Nat} {f : EngCmd → EngCmd} : (s.modEng r id f).memOk := h.modBody

theorem engFault (h : s.memOk) {r : Nat} {e : EngCmd} {c : Nat} {va : Word} : (s.engFault r e c va).memOk := h.modEng.raiseFabric

theorem engEnd {α : Type} {r : Nat} {e : EngCmd} {k : State → α → State × Nat} {x : EngRes α} (hx : x.state.memOk)
    (hk : ∀ s v, s.memOk → (k s v).1.memOk) : (State.engEnd r e k x).1.memOk := by
  cases x with
  | ok u v => exact hk _ _ hx
  | wait u => exact hx
  | fault u c v => exact engFault hx

theorem copyChunk {r id n : Nat} (fuel : Nat) : ∀ {s : State}, s.memOk → (State.copyChunk r id n fuel s).1.memOk := by
  induction fuel with
  | zero => exact fun h => h
  | succ fuel ih =>
    intro s h
    rw [State.copyChunk]
    split
    · exact h
    · dsimp only
      split
      · exact h
      · split
        · exact engEnd h.engRead fun _ _ h => ih h.modEng
        · exact engEnd h.engWrite fun _ _ h => ih h.modEng

theorem rowWords {r id : Nat} (fuel : Nat) : ∀ {s : State}, s.memOk → (State.rowWords r id fuel s).1.memOk := by
  induction fuel with
  | zero => exact fun h => h
  | succ fuel ih =>
    intro s h
    rw [State.rowWords]
    split
    · exact h
    · split
      · exact h
      · exact engEnd h.engWrite fun _ _ h => ih h.modEng

theorem quantUnit (h : s.memOk) {r : Nat} {e : EngCmd} {bf : Bool} {rm : Rm} {blk : Nat} {fd : BitVec 16} {ph step : Nat} :
    (s.quantUnit r e bf rm blk fd ph step).1.memOk := by
  unfold State.quantUnit
  dsimp only
  split
  · exact rowWords _ h
  · exact engEnd (engReads _ h) fun _ _ h => rowWords _ h.modEng.modBody

theorem readPacket (h : s.memOk) {r : Nat} {e : EngCmd} {va : Word} {k : Nat} {ok : Loc → Bool} : (s.readPacket r e va k ok).state.memOk := by
  unfold State.readPacket
  have h1 : (s.engRead r e va 4 ok).state.memOk := h.engRead
  generalize s.engRead r e va 4 ok = x at h1 ⊢
  cases x with
  | wait u => exact h1
  | fault u c v => exact h1
  | ok u hw =>
    dsimp only
    generalize hy : State.engReads r e 4 ok _ u = y
    have h2 : y.state.memOk := hy ▸ engReads _ h1
    cases y with
    | ok v cs => exact h2
    | wait v => exact h2
    | fault v c w => exact h2

theorem gemvUnit (h : s.memOk) {r : Nat} {e : EngCmd} {acc : Bool} {fd : BitVec 16} : (s.gemvUnit r e acc fd).1.memOk := by
  unfold State.gemvUnit
  dsimp only
  split
  · exact engEnd h.readPacket fun _ _ h => h.modEng
  · refine engEnd h.readPacket fun s1 m h => engEnd ?_ fun s2 a h => ?_
    · split
      · exact h.engRead
      · exact h
    · split
      · exact h.engFault
      · exact engEnd h.engWrite fun _ _ h => h.modBody.modEng

theorem grantUnit (h : s.memOk) {r : Nat} {e : EngCmd} : (s.grantUnit r e).1.memOk := by
  unfold State.grantUnit
  dsimp only
  split
  · exact copyChunk _ h.modEng
  · exact h.modEng.quantUnit
  · exact h.modEng.gemvUnit

/-! ## Issue -/

theorem engineFlow (h : s.memOk) {d : Reg} {tl : Nat} {op : EngOp} {qa qb qm : Fin 16} {bad : EngCmd → Option Nat} {after : EngCmd → State → State}
    (ha : ∀ e s, s.memOk → (after e s).memOk) : (engineFlow s d tl op qa qb qm bad after).memOk := by
  have hc : (s.myCore.takeNumber tl).1.memOk := h.core s.cur.coreRef
  unfold Machine.engineFlow
  dsimp only
  split
  · exact h
  · split
    · trivial
    · split
      · trivial
      · refine ha _ _ (State.memOk.modBody (State.memOk.modTask (State.memOk.setCore (s := s.fresh.1) h hc)))

theorem wokeUp (h : s.memOk) : s.wokeUp.memOk := h.modTask

end State.memOk

section
variable (h : s.memOk) (g : Guard)
include h

theorem nextOk_cpy {esz : CpySize} {d : Reg} {qa qb : Fin 16} {tl : Fin 8} : nextOk (execCpy g esz d qa qb tl s) :=
  nextOk_issue h fun _ h => h.engineFlow fun _ _ h => h

theorem nextOk_cpymx {esz : CpySize} {d : Reg} {qa qb : Fin 16} {tl : Fin 8} : nextOk (execCpymx g esz d qa qb tl s) :=
  nextOk_issue h fun _ h => h.engineFlow fun _ _ h => h.modCore

theorem nextOk_cpyq {bf : Bool} {rm : Rm} {blk : Blk} {fd : BitVec 16} {d : Reg} {qa qb : Fin 16} {tl : Fin 8} :
    nextOk (execCpyq g bf rm blk fd d qa qb tl s) :=
  nextOk_issue h fun _ h => h.engineFlow fun _ _ h => h.modTask

theorem nextOk_gemv {acc : Bool} {fd : BitVec 16} {d : Reg} {qa qb : Fin 16} {tl : Fin 8} {qm : Fin 16} : nextOk (execGemv g acc fd d qa qb tl qm s) :=
  nextOk_issue h fun _ h => h.engineFlow fun _ _ h => h

theorem nextOk_tlwait {sc : Option Scope} {tl : Fin 8} {a : Src} : nextOk (execTlwait g sc tl a s) := nextOk_issue h fun s h => by
  have hb : ∀ {n : Nat} {s : State} {sc : Scope}, s.memOk → (if n = 0 then Flow.go s
      else if n ≤ (s.myCore.tline tl.val).c then .go (s.acquireWork s.myRect.tag sc)
      else .wait s (.timeline tl.val n none)).memOk := by
    intro n s sc h
    split
    · exact h
    · split
      · exact h.acquireWork
      · exact h
  dsimp only
  split
  · exact h.clipped fun _ _ h => hb h
  · exact hb h

theorem nextOk_sleept {a : Src} : nextOk (execSleept g a s) := nextOk_issue h fun s h => by
  dsimp only
  split
  · exact h.wokeUp
  · split
    · exact h
    · exact h

theorem nextOk_sleeptP {a : Src} {tl : Fin 8} {b : Src} : nextOk (execSleeptP g a tl b s) := nextOk_issue h fun s h => by
  dsimp only
  split
  · exact h.wokeUp
  · split
    · exact h.acquireWork
    · split
      · trivial
      · exact h

theorem nextOk_sharedClassGrant {cls : SharedClass} : nextOk (execSharedClassGrant cls s) := by
  have grant : ∀ {r e}, (s.grantUnit r e).1.memOk := h.grantUnit
  unfold execSharedClassGrant
  split
  · dsimp only
    split
    · exact nextOk_next h
    · split
      · exact nextOk_next h
      · refine nextOk_next ?_
        exact h.perform
  · dsimp only
    split
    · exact nextOk_next h
    · split
      · exact nextOk_next h
      · split
        · exact nextOk_next h
        · refine nextOk_next ?_
          exact grant

theorem nextOk_engineCommandComplete {id : Nat} : nextOk (execEngineCommandComplete id s) := by
  unfold execEngineCommandComplete
  split
  · exact nextOk_next h
  · split
    · exact nextOk_next h
    · refine nextOk_next (State.memOk.complete (h.modBody fun b hb => Body.memOk.modCore ?_))
      exact hb

end

end Sys2Proof.Machine
end

section
/-! SUPPORT. Canonical form of the memories under the matrix engine. -/

namespace Sys2Proof.Machine

open Host (Outcome)

-- A rule may fill its hypothesis by a tactic of this text; with the proofs elaborated in order, none waits for it in a thread of its own.
set_option Elab.async false

variable {s : State} {c : CoreRef} {m : MxCmd}

theorem Body.memOk_foldl {α : Type} {f : Body → α → Body} (hf : ∀ b a, b.memOk → (f b a).memOk) (l : List α) {b : Body} (h : b.memOk) : (l.foldl f b).memOk := by
  induction l generalizing b with
  | nil => exact h
  | cons a l ih => exact ih (hf b a h)

namespace State.memOk

/-! ## Issue -/

theorem modEngine (h : s.memOk) {f : Engine → Engine} : (modEngine s f).memOk := h.modCore

theorem enqueueFlow (h : s.memOk) {tile : Option (Fin 4)} {slot : Fin 4} {opc : Nat} {op : MxOp} {pa pb : Pattern} {tl : Fin 8} {bad : MxSlot → Bool}
    {after : Nat → MxSlot → Nat → State → State} (ha : ∀ k m n s, s.memOk → (after k m n s).memOk := by exact fun _ _ _ _ h => h) :
    (enqueueFlow s tile slot opc op pa pb tl bad after).memOk := by
  have hc : s.myCore.memOk := h.core s.cur.coreRef
  unfold Machine.enqueueFlow
  dsimp only
  split
  · trivial
  · split
    · trivial
    · split
      · exact h
      · refine ha _ _ _ _ (State.memOk.setCore (s := s.fresh.1) h ?_)
        exact hc

/-! ## Steps of a command -/

theorem modMx (h : s.memOk) {id : Nat} {f : MxCmd → MxCmd} : (s.modMx c id f).memOk := h.modCore
theorem modTile (h : s.memOk) {t : Nat} {f : Tile → Tile} : (s.modTile c t f).memOk := h.modCore
theorem mxDone (h : s.memOk) : (s.mxDone c m).memOk := h.modMx

theorem rankCount (h : s.memOk) : (s.rankCount c m).memOk := by
  unfold State.rankCount
  dsimp only
  split
  · exact h.modTask
  · exact h.modTask
  · exact h

theorem mxFault (h : s.memOk) {cause : Nat} {k : Kind} {queue : Nat} : (s.mxFault c m cause k queue).memOk := by
  unfold State.mxFault
  exact memOk_ite h (State.memOk.elementFault (h.rankCount.modCore))

theorem softError (h : s.memOk) {r : Nat} {u : FaultUnit} {core addr len : Nat} : (s.softError r u core addr len).memOk := h.modRect

theorem checked (h : s.memOk) {k : State → State} (hk : ∀ s, s.memOk → (k s).memOk) : (s.checked c m k).memOk := memOk_ite (hk _ h) h.softError

theorem mxRead (h : s.memOk) {va : Word} {n align : Nat} : (s.mxRead c m va n align).state.memOk := by
  unfold State.mxRead
  have ho : (s.agentReach (.mx c m.id) c va n align false).memOk := h.agentReach
  generalize s.agentReach (.mx c m.id) c va n align false = o at ho ⊢
  cases o with
  | wait u => exact ho
  | fault u c => exact ho
  | ok u l pol => exact EngRes.memOk_ite h (EngRes.memOk_ok (State.memOk.readLoc ho))

theorem mxReads {n align : Nat} (l : List Word) : ∀ {s : State}, s.memOk → (State.mxReads c m n align l s).state.memOk := by
  induction l with
  | nil => exact fun h => h
  | cons a l ih =>
    intro s h
    rw [State.mxReads]
    have h1 : (s.mxRead c m a n align).state.memOk := h.mxRead
    generalize s.mxRead c m a n align = x at h1 ⊢
    cases x with
    | wait u => exact h1
    | fault u c v => exact h1
    | ok u bs =>
      have h2 := ih h1
      dsimp only [EngRes.state] at h2 ⊢
      generalize State.mxReads c m n align l u = y at h2 ⊢
      cases y with
      | ok v cs => exact h2
      | wait v => exact h2
      | fault v c w => exact h2

theorem mxWrite (h : s.memOk) {va : Word} {bs : List Byte} : (s.mxWrite c m va bs).state.memOk := by
  unfold State.mxWrite
  have ho : (s.agentReach (.mx c m.id) c va bs.length bs.length true).memOk := h.agentReach
  generalize s.agentReach (.mx c m.id) c va bs.length bs.length true = o at ho ⊢
  cases o with
  | wait u => exact ho
  | fault u c => exact ho
  | ok u l pol =>
    cases l with
    | peer pa => exact EngRes.memOk_ite h (State.memOk.bufferRemote ho)
    | window k a => exact EngRes.memOk_ite h (EngRes.memOk_ok (State.memOk.writeLoc ho))
    | phys pa => exact EngRes.memOk_ite h (EngRes.memOk_ok (State.memOk.writeLoc ho))

theorem mxEnd {α : Type} {queue : Nat} {k : State → α → State} {x : EngRes α} (hx : x.state.memOk) (hk : ∀ s v, s.memOk → (k s v).memOk) :
    (State.mxEnd c m queue k x).memOk := by
  cases x with
  | ok u v => exact hk _ _ hx
  | wait u => exact hx
  | fault u c v => exact State.memOk.mxFault hx

theorem mxTile (h : s.memOk) {r : Tile × Flags} : (s.mxTile c m r).memOk := h.modTile.modBody.mxDone

theorem controlRoute (h : s.memOk) {k : State → Route → State} (hk : ∀ s r, s.memOk → (k s r).memOk) : (s.controlRoute c m k).memOk := by
  unfold State.controlRoute
  dsimp only
  split
  · exact h
  · split
    · split
      · exact hk _ _ h.modCore
      · exact hk _ _ h.modCore
      · exact hk _ _ h.modCore
      · exact h.mxFault
    · exact memOk_ite h.mxFault h.modCore

theorem startRankStores (h : s.memOk) {trc : Bool} {row0 nv : Nat} : (s.startRankStores c m trc row0 nv).memOk :=
  memOk_ite h.mxFault (memOk_ite h.mxFault h.modMx)

theorem startMx (h : s.memOk) : (s.startMx c m).memOk := by
  unfold State.startMx
  dsimp only
  split
  · exact h.modTile.mxDone
  · exact mxEnd (mxReads _ h) fun _ _ h => h.mxTile
  · exact h.modTile.modMx
  · refine h.checked fun s h => memOk_ite (h.controlRoute fun _ _ h => h.modMx.modBody) h.modMx.modBody
  · exact h.checked fun _ h => h.mxDone
  · exact h.checked fun _ h => h.modMx
  · exact h.mxTile
  · exact mxEnd (mxReads _ h) fun _ _ h => h.mxTile
  · exact h.checked fun _ h => h.mxTile
  · exact h.checked fun _ h => h.mxTile
  · exact memOk_ite h.mxFault (mxEnd (mxReads _ h) fun _ _ h => State.memOk.mxDone h.modCore)
  · refine h.checked fun s h => ?_
    split
    · exact h.startRankStores
    · exact memOk_ite (h.controlRoute fun _ _ h => h.modMx) h.modMx
  · exact h.checked fun _ h => h.startRankStores
  · exact h.checked fun _ h => memOk_ite h.mxFault h.modTile.modMx
  · exact h.checked fun _ h => memOk_ite h.mxFault h.modTile.modMx

/-! ## Operands and products -/

theorem absorb (h : s.memOk) {id : Nat} {b : Bool} : (s.absorb c id b).memOk := by
  unfold State.absorb
  split
  · exact h
  · refine memOk_foldl (fun s g h => ?_) _ h
    dsimp only
    split
    · exact h
    · split
      · exact memOk_ite h (State.memOk.modMx h.modCore)
      · exact h.mxFault

theorem fetchBeats {id : Nat} {b : Bool} (fuel : Nat) : ∀ {s : State}, s.memOk → (State.fetchBeats c id b fuel s).state.memOk := by
  induction fuel with
  | zero => exact fun h => h
  | succ fuel ih =>
    intro s h
    rw [State.fetchBeats]
    split
    · exact h
    · refine EngRes.memOk_ite h (EngRes.memOk_ite h ?_)
      generalize hx : s.mxRead _ _ _ _ _ = x
      have h1 : x.state.memOk := hx ▸ h.mxRead
      cases x with
      | ok u bs => exact ih (State.memOk.modMx h1)
      | wait u => exact h1
      | fault u c v => exact h1

theorem gather (h : s.memOk) {b : Bool} {src : MxSrc} : (s.gather c m b src).memOk := by
  unfold State.gather
  cases src with
  | bus => exact h.absorb
  | direct q => exact memOk_ite h.mxFault (mxEnd (fetchBeats _ h) fun _ _ h => h)

theorem mmStep (h : s.memOk) {scaled acc : Bool} {srcA srcB : MxSrc} {kf : Nat} : (s.mmStep c m scaled acc srcA srcB kf).memOk := by
  unfold State.mmStep
  dsimp only
  split
  · exact h.mxFault
  · refine memOk_ite h.mxFault (memOk_ite h.mxFault (memOk_ite (memOk_ite h h.modTile.modMx.modBody) (memOk_ite (State.memOk.mxDone (memOk_ite h.modTile h)) h)))

/-! ## Index streams -/

theorem arrive (h : s.memOk) {x : Nat} {fin : State → State} (hf : ∀ s, s.memOk → (fin s).memOk) : (s.arrive c m x fin).memOk := by
  unfold State.arrive
  dsimp only
  refine memOk_ite h.mxFault ?_
  split
  · refine mxEnd h.mxRead fun s hw h => ?_
    split
    · exact h.mxFault
    · exact mxEnd (mxReads _ h) fun _ _ h => (hf _ h.modTile).modBody.modMx
  · exact (hf _ h).modMx

theorem closeVector (h : s.memOk) : (s.closeVector c m).memOk := by
  unfold State.closeVector
  dsimp only
  refine State.memOk.modMx ?_
  split
  · exact memOk_ite h.modTile h
  · exact h

theorem endStream (h : s.memOk) : (s.endStream c m).memOk := by
  unfold State.endStream
  split
  · exact h.modTile.mxDone
  · exact h.mxDone

theorem streamStep (h : s.memOk) {src : IdxSrc} {nv : Nat} : (s.streamStep c m src nv).memOk := by
  unfold State.streamStep
  refine memOk_ite h.endStream ?_
  split
  · split
    · exact h
    · exact memOk_ite (memOk_ite h.mxFault (h.arrive fun _ h => h.modCore)) (memOk_ite (State.memOk.closeVector h.modCore) h.modCore)
  · exact memOk_ite h.modMx.closeVector (mxEnd h.mxRead fun _ _ h => memOk_ite h.modMx (memOk_ite h.modMx.modMx (h.arrive fun _ h => h.modMx)))

/-! ## Draining, storing, completing -/

theorem emitDrain (h : s.memOk) {r : Option Route} {row : Nat} {w : FWord} : someOk (s.emitDrain c r row w) := by
  unfold State.emitDrain
  suffices hl : ∀ (l : List Nat) {o : Option State}, someOk o → someOk (l.foldl (fun (a : Option State) out => match a with
      | some s => s.emitOut ⟨c.rect, c.core, 16 * row + 7⟩ out w
      | none => none) o) from hl _ (someOk_some h)
  intro l
  induction l with
  | nil => exact fun ho => ho
  | cons a l ih =>
    intro o ho
    cases o with
    | none => exact ih someOk_none
    | some u => exact ih (ho u rfl).emitOut

theorem drainOne (h : s.memOk) {ok : FWord → Bool} : someOk (s.drainOne c m ok) := fun t e => by
  obtain ⟨i, -, e⟩ := List.exists_of_findSome?_eq_some e
  split at e
  · cases e
  · split at e
    · obtain ⟨u, e1, rfl⟩ := Option.map_eq_some_iff.mp e
      exact (h.emitDrain u e1).modMx
    · cases e

theorem rankStore (h : s.memOk) {trc : Bool} : (s.rankStore c m trc).memOk := mxEnd h.mxWrite fun _ _ h => h.modMx

theorem tileStore (h : s.memOk) {fmt : TileFmt} : (s.tileStore c m fmt).memOk := mxEnd h.mxWrite fun _ _ h => h.modMx.modBody

theorem retireMx (h : s.memOk) : (s.retireMx c m).memOk := State.memOk.complete (State.memOk.modCore (memOk_ite h.rankCount.modTile h.rankCount))

theorem indexOut (h : s.memOk) : (s.indexOut c m).memOk := by
  unfold State.indexOut
  split
  · split
    · next e => exact (h.drainOne _ e).modMx
    · exact h
  · exact h.rankStore
  · exact h.rankStore
  · exact h

end State.memOk

/-! ## The matrix instructions and steps -/

section
variable (h : s.memOk) (g : Guard)
include h

theorem nextOk_mxcfg {keep : Bool} {t : Fin 4} {a : Src} {slot : Fin 4} : nextOk (execMxcfg g keep t a slot s) := nextOk_issue h fun s h => by
  dsimp only
  split
  · trivial
  · exact h.modEngine

theorem nextOk_mxrel {t : Fin 4} : nextOk (execMxrel g t s) := nextOk_issue h fun s h => by
  dsimp only
  split
  · trivial
  · exact h.modEngine

theorem nextOk_mxfmt {slot : Fin 4} {fd : BitVec 16} {rm : Rm} {ph step : Fin 16} : nextOk (execMxfmt g slot fd rm ph step s) :=
  nextOk_issue h fun _ h => h.modEngine

theorem nextOk_mxrt {route : Route} {t : Fin 4} : nextOk (execMxrt g route t s) := nextOk_issue h fun s h => by
  split
  · trivial
  · exact h.modEngine

theorem nextOk_twset {inv : Bool} {slot : Fin 4} : nextOk (execTwset g inv slot s) := nextOk_issue h fun _ h => h.modEngine

theorem nextOk_bfplan {slot : Fin 4} {a b : Src} : nextOk (execBfplan g slot a b s) := nextOk_issue h fun s h => by
  dsimp only
  split
  · trivial
  · split
    · trivial
    · exact h.modEngine

theorem nextOk_rkcut {slot : Fin 4} {a : Src} : nextOk (execRkcut g slot a s) := nextOk_issue h fun s h => by
  dsimp only
  split
  · trivial
  · exact h.modEngine

theorem nextOk_mxPlain {t : Fin 4} {opc : Nat} {op : MxOp} {tl : Fin 8} {bad : MxSlot → Bool} : nextOk (mxPlain g t opc op tl bad s) :=
  nextOk_issue h fun _ h => h.enqueueFlow

theorem nextOk_mxldt {fmt : TileFmt} {t : Fin 4} {q : Fin 16} {tl : Fin 8} : nextOk (execMxldt g fmt t q tl s) := nextOk_issue h fun _ h => h.enqueueFlow

theorem nextOk_mxmm {acc : Bool} {t : Fin 4} {a b : MxSrc} {k : BitVec 16} {tl : Fin 8} : nextOk (execMxmm g acc t a b k tl s) :=
  nextOk_issue h fun _ h => h.enqueueFlow

theorem nextOk_mxmms {acc : Bool} {t : Fin 4} {a b : MxSrc} {k : BitVec 16} {tl : Fin 8} : nextOk (execMxmms g acc t a b k tl s) :=
  nextOk_issue h fun _ h => h.enqueueFlow

theorem nextOk_mxdrn {ws : Bool} {t : Fin 4} {tl : Fin 8} : nextOk (execMxdrn g ws t tl s) :=
  nextOk_issue h fun _ h => h.enqueueFlow fun _ _ _ _ h => h.modEngine

theorem nextOk_mxst {fmt : TileFmt} {t : Fin 4} {q : Fin 16} {tl : Fin 8} : nextOk (execMxst g fmt t q tl s) := nextOk_issue h fun _ h => h.enqueueFlow

theorem nextOk_bfrev {bf re : Bool} {t : Fin 4} {q : Fin 16} {tl : Fin 8} : nextOk (execBfrev g bf re t q tl s) := nextOk_issue h fun _ h => h.enqueueFlow

theorem nextOk_rktab {recon : Bool} {slot : Fin 4} {q : Fin 16} {tl : Fin 8} : nextOk (execRktab g recon slot q tl s) :=
  nextOk_issue h fun _ h => h.enqueueFlow

theorem nextOk_rknet {ws : Bool} {t : Fin 4} {d : Reg} {dst : RankDst} {row0 nvm1 : Fin 128} {tl : Fin 8} : nextOk (execRknet g ws t d dst row0 nvm1 tl s) :=
  nextOk_issue h fun _ h => h.enqueueFlow fun _ _ _ _ h => h.modTask

theorem nextOk_rktrc {t : Fin 4} {d : Reg} {q : Fin 16} {row0 nvm1 : Fin 128} {tl : Fin 8} : nextOk (execRktrc g t d q row0 nvm1 tl s) :=
  nextOk_issue h fun _ h => h.enqueueFlow fun _ _ _ _ h => h.modTask

theorem nextOk_mxrank {acc : Bool} {t : Fin 4} {src : IdxSrc} {q : Fin 16} {row0 nvm1 : Fin 128} {tl : Fin 8} :
    nextOk (execMxrank g acc t src q row0 nvm1 tl s) := nextOk_issue h fun _ h => h.enqueueFlow

theorem nextOk_rkval {t : Fin 4} {src : IdxSrc} {row0 nvm1 : Fin 128} {tl : Fin 8} : nextOk (execRkval g t src row0 nvm1 tl s) :=
  nextOk_issue h fun _ h => h.enqueueFlow

omit g

theorem nextOk_matrixBusBeat {e : SiteRef} : nextOk (execMatrixBusBeat e s) := by
  unfold execMatrixBusBeat
  dsimp only
  split
  · split
    · exact nextOk_next h
    · refine nextOk_ite (nextOk_next h.setSite) (nextOk_ite ?_ (nextOk_next h))
      · refine nextOk_next (h.setSite.modRect fun x hx => Rect.memOk.modProg (hx.withBody ?_) fun g hg => ?_)
        · exact Body.memOk_foldl (fun _ _ h => h.modCore) _ hx.body
        · split
          · exact Body.memOk_foldl (fun _ _ h => h.modCore) _ hg
          · exact hg
  · exact nextOk_next h

theorem nextOk_matrixCommandStart {id : Nat} : nextOk (execMatrixCommandStart c id s) := by
  unfold execMatrixCommandStart
  split
  · exact nextOk_next h
  · split
    · exact nextOk_next h.startMx
    · exact nextOk_next h

theorem nextOk_matrixBlock {id : Nat} : nextOk (execMatrixBlock c id s) := by
  unfold execMatrixBlock
  split
  · exact nextOk_next h
  · split
    · exact nextOk_next h
    · split
      · next m _ _ _ scaled acc srcA srcB kf _ =>
        have h2 : (if ((s.gather c m false srcA).rect c.rect).body.fabricStop then s.gather c m false srcA
            else (s.gather c m false srcA).gather c m true srcB).memOk := memOk_ite h.gather h.gather.gather
        dsimp only
        generalize (if ((s.gather c m false srcA).rect c.rect).body.fabricStop then _ else _ : State) = u at h2 ⊢
        split
        · exact nextOk_next h2
        · split
          · exact nextOk_next h2
          · exact nextOk_next h2.mmStep
      · exact nextOk_next h.streamStep
      · exact nextOk_next h.streamStep
      · exact nextOk_next h

theorem nextOk_rankIndexEmit {id : Nat} : nextOk (execRankIndexEmit c id s) := by
  unfold execRankIndexEmit
  split
  · exact nextOk_next h
  · split
    · exact nextOk_next h
    · split
      · exact nextOk_next h.indexOut
      · split
        · split
          · exact nextOk_next h.indexOut
          · exact nextOk_next h
        · exact nextOk_next h
      · split
        · split
          · exact nextOk_next h.indexOut
          · exact nextOk_next h
        · exact nextOk_next h
      · exact nextOk_next h

theorem nextOk_matrixCommandComplete {id : Nat} : nextOk (execMatrixCommandComplete c id s) := by
  have stored : ∀ {p : Prop} [Decidable p] {m}, nextOk (.next (if p then s else s.retireMx c m)) := nextOk_next (memOk_ite h h.retireMx)
  unfold execMatrixCommandComplete
  split
  · exact nextOk_next h
  · dsimp only
    split
    · exact nextOk_next h
    · split
      · exact nextOk_next h.retireMx
      · split
        · split
          · exact nextOk_next h.retireMx
          · exact nextOk_next (h.drainOne.getD h)
        · split
          · exact stored
          · exact nextOk_next h.tileStore
        · split
          · exact nextOk_next h.retireMx
          · exact nextOk_next (h.drainOne.getD h)
        · split
          · exact stored
          · split
            · exact nextOk_next h
            · exact nextOk_next h.rankStore
        · split
          · exact stored
          · split
            · exact nextOk_next h
            · exact nextOk_next h.rankStore
        · exact nextOk_next h

end

end Sys2Proof.Machine
end

section
/-! SUPPORT. Canonical form of the memories under the instructions of tasks and of the system, and under cuts and rollbacks. -/

namespace Sys2Proof.Machine

open Host (Outcome)

-- A rule may fill its hypothesis by a tactic of this text; with the proofs elaborated in order, none waits for it in a thread of its own.
set_option Elab.async false

variable {s : State}

/-! ## Tasks, barriers, launches -/

theorem State.memOk.arriveFlow (h : s.memOk) {id : Nat} {blk : Nat × Nat × Nat × Nat} {tval : Word} : (arriveFlow s id blk tval).memOk := by
  unfold Machine.arriveFlow
  dsimp only
  split
  · exact h
  · split
    · trivial
    · exact h.modCore

section
variable (h : s.memOk) (g : Guard)
include h

theorem nextOk_tspawn {d : Reg} {a : Src} {entry : BitVec 12} : nextOk (execTspawn g d a entry s) := nextOk_issue h fun s h => by
  split
  · exact h
  · split
    · exact h.modTask
    · exact h.setTask.modTask

theorem nextOk_twake {mask : BitVec 8} : nextOk (execTwake g mask s) := nextOk_issue h fun s h => h.modCore fun c hc =>
  Core.memOk_foldl (by intro c k hc; split <;> exact hc) _ hc

theorem nextOk_tbind {vc : Fin 16} : nextOk (execTbind g vc s) := nextOk_issue h fun _ h => h.modCore

theorem nextOk_waitv {d : Reg} {vc : Fin 16} : nextOk (execWaitv g d vc s) := nextOk_issue h fun s h => by
  dsimp only
  split
  · trivial
  · exact State.memOk.modTask h.modCore

theorem nextOk_sendv {a b : Src} {vc : Fin 16} : nextOk (execSendv g a b vc s) := nextOk_issue h fun s h => by
  dsimp only
  split
  · trivial
  · split
    · exact h
    · exact State.memOk.modBody (s := s.fresh.1) h

theorem nextOk_rbar {id : Fin 16} : nextOk (execRbar g id s) := nextOk_issue h fun _ h => h.arriveFlow

theorem nextOk_gbar {a b : Src} : nextOk (execGbar g a b s) := nextOk_issue h fun s h => by
  dsimp only
  split
  · exact h.arriveFlow
  · trivial

theorem nextOk_barrierComplete {c : CoreRef} {id : Fin 16} : nextOk (execBarrierComplete c id s) := by
  unfold execBarrierComplete
  dsimp only
  split
  · exact nextOk_next h
  · exact nextOk_ite (nextOk_next h) (nextOk_next (h.modBody fun _ hb => Body.memOk_foldl (fun _ _ h => h.modCore) _ hb))

theorem nextOk_launch {d : Reg} {a : Src} : nextOk (execLaunch g d a s) := nextOk_issue h fun s h => h.taskAccess fun s l p h => by
  split
  · exact h
  · refine h.directRead fun s bs h => State.memOk.modRect (State.memOk.modTask ?_) fun _ hx => hx.wantCut _
    refine memOk_ite h ?_
    exact State.memOk.setCore (s := s.fresh.1) h (h.core s.cur.coreRef)

/-! ## Control registers and calls -/

theorem nextOk_ctlr {d : Reg} {idx : BitVec 12} : nextOk (execCtlr g d idx s) := nextOk_issueP h fun s h => by
  generalize (if idx = 0x003 then s.faddPending s.cur else none : Option Wait) = w
  cases w with
  | none => exact h.modTask
  | some w => exact h

end

theorem Core.memOk.setSel {c : Core} (h : c.memOk) {n : Nat} {v : Word} : (c.setSel n v).memOk := by
  unfold Core.setSel
  dsimp only
  split
  · exact h
  · exact h

theorem State.memOk.ctlWrite (h : s.memOk) {r : TaskRef} {idx : Nat} {v : Word} : (s.ctlWrite r idx v).memOk := by
  unfold State.ctlWrite
  split
  · exact h.modBody
  · exact h.modBody
  · exact h.modBody
  · exact h.modBody
  · exact memOk_ite (h.modCore fun _ hc => hc.setSel) h.modTask

theorem State.memOk.writePieces {l : List (Loc × Nat × Policy)} : ∀ {s : State} {va : Word} {bs : List Byte}, s.memOk → (s.writePieces va l bs).memOk := by
  induction l with
  | nil => exact fun h => h
  | cons p l ih =>
    intro s va bs h
    obtain ⟨l, n, p⟩ := p
    cases l with
    | peer pa => exact ih h.bufferRemote
    | window k a => exact ih h.writeLoc
    | phys pa => exact ih h.writeLoc

theorem Flow.memOk.reTval {f : Flow} (h : f.memOk) {v : Word} : (reTval v f).memOk := by cases f <;> exact h

theorem State.memOk.recordAccess (h : s.memOk) {a : Word} {write : Bool} {k : State → List (Loc × Nat × Policy) → Flow}
    (hk : ∀ s ps, s.memOk → (k s ps).memOk) : (recordAccess s a write k).memOk := by
  unfold Machine.recordAccess
  refine h.taskAccess fun s l p h => ?_
  split
  · exact hk _ _ h
  · exact Flow.memOk.reTval (h.taskAccess fun _ _ _ h => hk _ _ h)

theorem State.memOk.readPieces {a : Word} {k : State → List Byte → Flow} (hk : ∀ s bs, s.memOk → (k s bs).memOk) (l : List (Loc × Nat × Policy)) :
    ∀ {s : State} {acc : List Byte}, s.memOk → (readPieces a l s acc k).memOk := by
  induction l with
  | nil => exact fun h => hk _ _ h
  | cons p l ih => exact fun h => h.directRead fun _ _ h => ih h

theorem Core.memOk.claim {c : Core} (h : c.memOk) {slot reg kind port : Nat} : (c.claim slot reg kind port).memOk := by
  unfold Core.claim
  split
  · exact h
  · exact h

theorem Core.memOk.rearm {c : Core} (h : c.memOk) {slot : Nat} {bs : List Byte} : (c.rearm slot bs).memOk := Core.memOk_foldl (fun c k h => by
  split
  · split
    · exact h.claim
    · exact h
  · exact h) _ h

theorem Core.memOk.loadSlot {c : Core} (h : c.memOk) {slot : Nat} {bs : List Byte} : (c.loadSlot slot bs).memOk := by
  unfold Core.loadSlot
  refine Core.memOk.rearm ?_
  exact h

section
variable (h : s.memOk) (g : Guard)
include h

theorem nextOk_ctlFlow {op : CtlOp} {idx : BitVec 12} {a : Src} : nextOk (ctlFlow op g idx a s) := nextOk_issueP h fun _ h => h.ctlWrite

theorem nextOk_svc {code : Fin 2} : nextOk (execSvc g code s) := nextOk_issueP h fun s h => by
  dsimp only
  split
  · trivial
  · split
    · trivial
    · refine h.taskAccess fun s _ _ h => State.memOk.modRect (State.memOk.modTask ?_) fun _ hx => hx.wantCut _
      exact h

/-! ## Recovery -/

theorem nextOk_trap {code : BitVec 8} : nextOk (execTrap g code s) := nextOk_issue h fun _ _ => trivial

theorem nextOk_ebrk {code : BitVec 16} : nextOk (execEbrk g code s) := nextOk_issue h fun _ _ => trivial

theorem nextOk_rett : nextOk (execRett g s) := nextOk_issue h fun s h => by
  split
  · exact h.rett
  · trivial

theorem nextOk_snap {mask : BitVec 16} : nextOk (execSnap g mask s) := nextOk_issue h fun s h => by
  dsimp only
  split
  · trivial
  · split
    · exact h.modRect fun _ hx => hx.wantCut _
    · exact h.modBody

theorem nextOk_cutreq : nextOk (execCutreq g s) := nextOk_issue h fun _ h => h.modRect fun _ hx => hx.wantCut _

theorem nextOk_halt : nextOk (execHalt g s) := nextOk_issue h fun s h => by
  dsimp only
  split
  · exact h
  · exact h.modRect fun x hx => (hx.wantCut s.myRect.taskCut :)

theorem nextOk_xsave {a : Src} {slot : Fin 8} : nextOk (execXsave g a slot s) := nextOk_issueP h fun s h => by
  dsimp only
  split
  · trivial
  · refine h.recordAccess fun s ps h => ?_
    split
    · exact h
    · split
      · exact h
      · split
        · exact h.modRect fun _ hx => hx.wantCut _
        · split
          · exact h.raiseFabric
          · exact h.writePieces

theorem nextOk_xload {a : Src} {slot : Fin 8} : nextOk (execXload g a slot s) := nextOk_issueP h fun s h => by
  dsimp only
  split
  · trivial
  · refine h.recordAccess fun s ps h => ?_
    split
    · exact h
    · split
      · trivial
      · refine State.memOk.readPieces (fun s bs h => ?_) _ h
        split
        · trivial
        · split
          · refine h.modCore fun c hc => ?_
            split
            · exact hc
            · exact hc
          · exact h.modCore fun _ hc => hc.loadSlot

end

/-! ## Cuts -/

namespace Body.memOk

variable {b : Body}

theorem landStill (h : b.memOk) {still elems : List Nat} : (b.landStill still elems).memOk := by
  unfold Body.landStill
  dsimp only [Body.memOk]
  refine Body.memOk_foldl (fun b p h => ?_) _ h
  split
  · split
    · exact h.modCore fun _ hc => hc.setInQueue
    · exact h
  · exact h

theorem clearCutBufs (h : b.memOk) {w ht : Nat} {marked : List Nat} : (b.clearCutBufs w ht marked).memOk := h.mapAll fun k c hc => by
  split
  · exact hc
  · exact hc

theorem commit (h : b.memOk) {n : Nat} : (b.commit n).memOk := h.mapAll
theorem cutTaken (h : b.memOk) : b.cutTaken.memOk := h
theorem waitNext (h : b.memOk) {n : Nat} : (b.waitNext n).memOk := h.mapAll

end Body.memOk

theorem Rect.memOk.restored {b : Body} (h : b.memOk) (x : Rect) : (x.restored b).memOk := h.mapAll

theorem Rect.memOk.completeCut {x : Rect} (h : x.memOk) {n : Nat} {b : Body} (hb : b.memOk) : (x.completeCut n b).memOk := by
  refine ⟨h.body.commit, fun _ e => ?_, nofun⟩
  cases e
  exact hb.commit

theorem Rect.memOk.begun {x : Rect} (h : x.memOk) {b : Body} {g : CutProgress} {n : Nat} {q : Bool} (hb : b.memOk) (hg : g.body.memOk) :
    ({ x with started := n, requested := q, body := b, prog := some g } : Rect).memOk := by
  obtain ⟨-, hr, -⟩ := h
  exact ⟨hb, hr, fun _ e => Option.some.inj e ▸ hg⟩

theorem Rect.memOk.haltAt {x : Rect} (h : x.memOk) : x.haltAt.memOk := by
  unfold Rect.haltAt
  split
  · split
    · exact h
    · exact h
  · exact h

namespace State.memOk

theorem startCut (h : s.memOk) {r : Nat} : (s.startCut r).memOk := by
  have hb := (h.rect r).body
  unfold State.startCut
  dsimp only
  refine h.setRect ((h.rect r).begun ?_ (Body.memOk.clearCutBufs (Body.memOk.landStill ?_)))
  · exact hb.mapAll
  · exact hb.mapAll

theorem unrecoverable (h : s.memOk) {r reason : Nat} : (s.unrecoverable r reason).memOk := by
  unfold State.unrecoverable
  have hx := h.rect r
  dsimp only [State.memOk]
  refine h.setRect ?_
  exact hx

theorem rollTo (h : s.memOk) {r : Nat} {b : Body} (hb : b.memOk) : (s.rollTo r b).memOk := by
  have hu : ∀ {tag} (l : List Undo), (l.foldl (State.undoOne tag) s).memOk := fun l => memOk_foldl (fun _ _ h => h.onLines (State.onLines_undoOne _ _ _)) l h
  obtain ⟨-, hr, -⟩ := h.rect r
  unfold State.rollTo
  dsimp only
  refine State.memOk.setRect ?_ ⟨(Rect.memOk.restored hb _).commit.waitNext, hr, nofun⟩
  exact hu _

end State.memOk

section
variable (h : s.memOk)
include h

theorem nextOk_cutStart {r : Nat} : nextOk (execCutStart r s) := nextOk_ite (nextOk_next h.startCut) (nextOk_next h)

theorem nextOk_cutComplete {r : Nat} : nextOk (execCutComplete r s) := by
  unfold execCutComplete
  dsimp only
  split
  · exact nextOk_next h
  · next e => exact nextOk_ite (nextOk_next (h.setRect (Rect.memOk.haltAt ((h.rect r).completeCut ((h.rect r).prog e))))) (nextOk_next h)

theorem nextOk_softErrorDetect {r : Nat} {u : FaultUnit} {core addr len : Nat} : nextOk (execSoftErrorDetect r u core addr len s) :=
  nextOk_ite (nextOk_next h.softError) (nextOk_next h)

omit h in
theorem State.cutZero_memOk (s : State) {r : Nat} {b : Body} (e : s.cutZero r = some b) : b.memOk := by
  unfold State.cutZero at e
  dsimp only at e
  split at e
  · cases e
    exact Body.memOk_launchBody _ _ _ _
  · cases e

theorem nextOk_rollback {r : Nat} : nextOk (execRollback r s) := by
  unfold execRollback
  dsimp only
  split
  · exact nextOk_next h
  · split
    · exact nextOk_next h.unrecoverable
    · split
      · next e => exact nextOk_next (h.rollTo ((h.rect r).record e))
      · split
        · next e => exact nextOk_next (h.rollTo (s.cutZero_memOk e))
        · exact nextOk_next h.unrecoverable

end

end Sys2Proof.Machine
end

section
/-! SUPPORT. Canonical form of the memories under time slices, moves and contexts, and under admission. -/

namespace Sys2Proof.Machine

open Host (Outcome)

-- A rule may fill its hypothesis by a tactic of this text; with the proofs elaborated in order, none waits for it in a thread of its own.
set_option Elab.async false

variable {s : State}

namespace State.memOk

/-! ## Launches and time slices -/

theorem modLaunch (h : s.memOk) {id : Nat} {f : Launch → Launch} : (s.modLaunch id f).memOk := h
theorem dropLaunch (h : s.memOk) {id : Nat} : (s.dropLaunch id).memOk := h

theorem swapOut (h : s.memOk) {part tag : Nat} : (s.swapOut part tag).memOk := by
  unfold State.swapOut
  refine State.memOk.modTenant (h.mapRects fun _ x hx => ?_)
  split
  · exact hx
  · exact hx

theorem makeRoom {part need : Nat} (fuel : Nat) : ∀ {s : State}, s.memOk → someOk (State.makeRoom part need fuel s) := by
  induction fuel with
  | zero => exact fun _ => someOk_none
  | succ fuel ih =>
    intro s h
    rw [State.makeRoom]
    split
    · exact someOk_some h
    · split
      · exact someOk_none
      · split
        · exact ih h.swapOut
        · exact someOk_none

theorem timeSlice (h : s.memOk) {part : Nat} : (s.timeSlice part).memOk := by
  unfold State.timeSlice
  split
  · exact h
  · split
    · exact h
    · split
      · exact h
      · next e => exact (makeRoom _ h _ e).modTenant

theorem releaseIdle (h : s.memOk) {part tag : Nat} : (s.releaseIdle part tag).memOk := memOk_ite h.modTenant.timeSlice h

/-! ## Accesses of an admission unit -/

theorem stamp (h : s.memOk) {px py w ht tag : Nat} : (s.stamp px py w ht tag).memOk := by
  unfold State.stamp
  refine memOk_foldl (fun _ _ h => ?_) _ h
  exact h

theorem tenantRead (h : s.memOk) {id part tag va n : Nat} : (s.tenantRead id part tag va n).state.memOk := h.reaches (State.reaches_tenantRead _ _ _ _ _ _)

theorem tenantWrite (h : s.memOk) {id part tag va : Nat} {bs : List Byte} : (s.tenantWrite id part tag va bs).state.memOk :=
  h.reaches (State.reaches_tenantWrite _ _ _ _ _ _)

end State.memOk

theorem Body.memOk.answer {b : Body} (h : b.memOk) {t : TaskRef} {reg : Nat} {p : Producer} {v : Word} {ready : Bool} : (b.answer t reg p v ready).memOk := h.modCore

theorem Rect.memOk.mapBodies {x : Rect} (h : x.memOk) {f g : Body → Body} (hf : ∀ b, b.memOk → (f b).memOk) (hg : ∀ b, b.memOk → (g b).memOk) :
    ({ x with body := f x.body, record := x.record.map g, prog := x.prog.map (fun p => { p with body := g p.body }) } : Rect).memOk :=
  Rect.memOk.mapRecords (h.withBody (hf _ h.body)) hg

theorem Core.memOk.completeNumber {c : Core} (h : c.memOk) {tl num cut : Nat} : (c.completeNumber tl num cut).memOk := h

namespace State.memOk

theorem answer (h : s.memOk) {t : TaskRef} {reg : Nat} {p : Producer} {v : Word} : (s.answer t reg p v).memOk :=
  memOk_ite h (h.modRect fun x hx => hx.mapBodies (f := fun b => b.answer t reg p v true) (g := fun b => b.answer t reg p v false) (fun _ hb => hb.answer) fun _ hb => hb.answer)

theorem look (h : s.memOk) {r : Nat} {x : Rect} (e : Sparse.look s.rects r = some x) : x.memOk := by
  have hx := h.rect r
  rwa [State.rect, Sparse.at, e] at hx

theorem answerNumber (h : s.memOk) {t : TaskRef} {tl num : Nat} : (s.answerNumber t tl num).memOk := by
  unfold State.answerNumber
  split
  · exact h
  · next x e =>
    exact (h.setRect ((h.look e).mapBodies (fun _ hb => hb.modCore) fun _ hb => hb.modCore)).modRect fun _ hx => hx.wantCut _

theorem answerLaunch (h : s.memOk) {id : Nat} {src : LaunchSrc} {v : Option Word} : (s.answerLaunch id src v).memOk := by
  unfold State.answerLaunch
  split
  · exact memOk_ite h.answer.answerNumber h.answer
  · exact h.answer
  · exact h

theorem announce (h : s.memOk) {t : TaskRef} : (s.announce t).memOk := memOk_ite h (State.memOk.answerLaunch h.modRect)

theorem queueRecord (h : s.memOk) {id q e status reason detail : Nat} : (s.queueRecord id q e status reason detail).state.memOk := by
  unfold State.queueRecord
  split
  · exact h
  · next k _ =>
    dsimp only
    generalize hx : s.tenantWrite _ _ _ _ _ = x
    have h1 : x.state.memOk := hx ▸ h.tenantWrite
    cases x with
    | wait u => exact h1
    | fault u c v => exact h1
    | ok u v =>
      dsimp only [EngRes.state] at h1 ⊢
      generalize hy : u.tenantWrite _ _ _ _ _ = y
      have h2 : y.state.memOk := hy ▸ h1.tenantWrite
      cases y with
      | wait v => exact h2
      | fault v c w => exact h2
      | ok v w => exact h2

/-! ## The end of a rectangle -/

theorem settleAll (h : s.memOk) {r : Nat} : (s.settleAll r).memOk := by
  unfold State.settleAll
  dsimp only [State.memOk]
  refine memOk_foldl (fun s a h => ?_) _ h
  exact memOk_ite h h.perform

theorem removeRect (h : s.memOk) {r : Nat} : (s.removeRect r).memOk := by
  have h1 : ∀ {p : Prop} [Decidable p] {a b c d}, (if p then s.stamp a b c d 0 else s).memOk := memOk_ite h.stamp h
  unfold State.removeRect
  dsimp only
  refine State.memOk.releaseIdle ?_
  exact h1.withRects fun p hp => h1.rects p (List.mem_of_mem_filter hp)

theorem remoteDone (h : s.memOk) {r : Nat} : (s.remoteDone r).state.memOk := by
  unfold State.remoteDone
  dsimp only
  split
  · generalize hx : s.tenantWrite _ _ _ _ _ = x
    have h1 : x.state.memOk := hx ▸ h.tenantWrite
    cases x with
    | wait u => exact h1
    | fault u c v => exact h1
    | ok u v => exact h1
  · exact h

theorem finishRect (h : s.memOk) {r status reason detail : Nat} : (s.finishRect r status reason detail).memOk := by
  unfold State.finishRect
  dsimp only
  refine memOk_ite h.removeRect ?_
  have h1 : (s.remoteDone r).state.memOk := h.remoteDone
  generalize s.remoteDone r = y at h1 ⊢
  cases y with
  | wait u => exact h1
  | fault u c v => exact h1
  | ok u v =>
    have h2 : (if (s.rect r).announced then u else u.answerLaunch (s.rect r).launch (s.rect r).src none).memOk := memOk_ite h1 (State.memOk.answerLaunch h1)
    dsimp only
    generalize (if (s.rect r).announced then u else _ : State) = w at h2 ⊢
    have h3 : ∀ z, (match (s.rect r).src with
      | .local t _ tl num => EngRes.ok (w.answerNumber t tl num) ()
      | .queue q e => w.queueRecord r q e status reason detail
      | _ => .ok w ()) = z → z.state.memOk := by
      rintro _ rfl
      split
      · exact h2.answerNumber
      · exact h2.queueRecord
      · exact h2
    split
    · next e => exact h3 _ e
    · next e => exact h3 _ e
    · next u v e =>
      have h4 : (u.removeRect r).memOk := State.memOk.removeRect (h3 _ e)
      split
      · exact h4
      · exact h4

end State.memOk

section
variable (h : s.memOk)
include h

theorem nextOk_rectangleComplete {r : Nat} : nextOk (execRectangleComplete r s) := by
  unfold execRectangleComplete
  dsimp only
  split
  · exact nextOk_ite (nextOk_next h) (nextOk_next h.settleAll.finishRect)
  · split
    · exact nextOk_next h
    · split
      · exact nextOk_next (memOk_ite h h.modRect)
      · split
        · exact nextOk_next (h.modRect fun x hx => (hx.wantCut (x.started + 1) :))
        · exact nextOk_ite (nextOk_next h.finishRect) (nextOk_next h)

/-! ## Moves -/

theorem State.memOk.rectWith {r : Nat} {x : Rect} (hb : x.body = (s.rect r).body := by rfl) (hr : x.record = (s.rect r).record := by rfl)
    (hp : x.prog = (s.rect r).prog := by rfl) : x.memOk := by
  obtain ⟨h1, h2, h3⟩ := h.rect r
  exact ⟨hb ▸ h1, hr ▸ h2, hp ▸ h3⟩

theorem nextOk_cutDrainMove {r px py : Nat} : nextOk (execCutDrainMove r px py s) :=
  nextOk_ite (nextOk_next (State.memOk.modPart (h.setRect (h.rectWith (r := r))))) (nextOk_next h)

theorem nextOk_quiescenceEmpty {r : Nat} : nextOk (execQuiescenceEmpty r s) := by
  unfold execQuiescenceEmpty
  dsimp only
  split
  · exact nextOk_next h
  · split
    · exact nextOk_ite (nextOk_next h.finishReload) (nextOk_next h)
    · exact nextOk_ite (nextOk_next (h.setRect (h.rectWith (r := r)))) (nextOk_next h)

theorem nextOk_drainTimeout {r : Nat} : nextOk (execDrainTimeout r s) :=
  nextOk_ite (nextOk_next (h.setRect (h.rectWith (r := r)))) (nextOk_next h)

theorem State.memOk.withdrawWalks {r : Nat} : (s.withdrawWalks r).memOk := h

theorem nextOk_coreCopyComplete {r : Nat} : nextOk (execCoreCopyComplete r s) := by
  unfold execCoreCopyComplete
  dsimp only
  split
  · exact nextOk_next (h.setRect (h.rectWith (r := r)))
  · split
    · exact nextOk_ite (nextOk_next (h.withdrawWalks.setRect (h.rectWith (r := r)))) (nextOk_next h)
    · exact nextOk_next h

theorem nextOk_rebindRelease {r : Nat} : nextOk (execRebindRelease r s) := by
  unfold execRebindRelease
  dsimp only
  split
  · exact nextOk_next (h.stamp.stamp.setRect (Rect.memOk.wantCut (h.rectWith (r := r)) _))
  · exact nextOk_next h

theorem nextOk_preempt {r : Nat} : nextOk (execPreempt r s) := by
  unfold execPreempt
  dsimp only
  split
  · exact nextOk_ite (nextOk_next (h.setRect (h.rectWith (r := r)))) (nextOk_next h)
  · split
    · exact nextOk_next h
    · split
      · exact nextOk_next (h.setRect (h.rectWith (r := r)))
      · exact nextOk_next h
      · refine nextOk_ite (nextOk_next (h.mapRects fun _ x hx => ?_)) (nextOk_next h)
        split
        · exact hx
        · exact hx

theorem nextOk_preemptTimeout {r : Nat} : nextOk (execPreemptTimeout r s) :=
  nextOk_ite (nextOk_next (h.setRect (h.rectWith (r := r)))) (nextOk_next h)

theorem State.memOk.saveContext {r : Nat} : (s.saveContext r).memOk := by
  have hb : ∀ {n}, ({ (s.rect r).body with cores := Sparse.mapAll (fun _ c => (c.dropMarks).cutAtMost n) (s.rect r).body.cores } : Body).memOk := (h.rect r).body.mapAll
  have hx := h.rect r
  unfold State.saveContext
  dsimp only [State.memOk]
  refine State.memOk.setRect h.withdrawWalks.stamp (Rect.memOk.haltAt (Rect.memOk.completeCut ?_ hb))
  exact hx.withBody hb

theorem nextOk_contextSaveComplete {r : Nat} : nextOk (execContextSaveComplete r s) := nextOk_ite (nextOk_next h.saveContext) (nextOk_next h)

theorem nextOk_contextRestore {r px py : Nat} : nextOk (execContextRestore r px py s) := by
  have hx := h.rect r
  unfold execContextRestore
  dsimp only
  refine nextOk_ite (nextOk_next h) (nextOk_ite (nextOk_next h.unrecoverable.modRect) (nextOk_ite (nextOk_next (h.stamp.setRect ?_)) (nextOk_next h)))
  exact hx.withBody (Rect.memOk.restored hx.body _)

end

/-! ## Admission -/

namespace State.memOk

theorem refuseLaunch (h : s.memOk) {l : Launch} {reason detail : Nat} : (s.refuseLaunch l reason detail).memOk := by
  unfold State.refuseLaunch
  dsimp only
  split
  · generalize hx : State.queueRecord _ _ _ _ _ _ _ = x
    have h1 : x.state.memOk := hx ▸ State.memOk.queueRecord h.answerLaunch.dropLaunch.releaseIdle
    cases x with
    | ok u v => exact h1
    | wait u => exact h1
    | fault u c v => exact h1
  · exact h.answerLaunch.dropLaunch.releaseIdle

theorem joinTurn (h : s.memOk) {part tag proc : Nat} : (s.joinTurn part tag proc).memOk := by
  unfold State.joinTurn
  dsimp only
  exact memOk_ite (memOk_ite h.modTenant h) (State.memOk.modTenant (memOk_ite h.modTenant h))

theorem joinQueue (h : s.memOk) {l : Launch} {rec_ : List Byte} {frames : List Frame} : (s.joinQueue l rec_ frames).memOk := by
  unfold State.joinQueue
  refine State.memOk.modLaunch ?_
  exact h.joinTurn

theorem choose (h : s.memOk) {part : Nat} {l : Launch} : (s.choose part l).memOk := by
  unfold State.choose
  dsimp only
  split
  · refine State.memOk.modPart (State.memOk.modTenant ?_)
    exact h.modLaunch
  · refine State.memOk.modLaunch (State.memOk.modPart (State.memOk.modTenant ?_))
    exact h.modLaunch

theorem newRect (s : State) (l : Launch) (px py : Nat) : (s.newRect l px py).memOk := ⟨Body.memOk_launchBody _ _ _ _, nofun, nofun⟩

end State.memOk

section
variable (h : s.memOk)
include h

theorem nextOk_launchSubmit {id : Nat} : nextOk (execLaunchSubmit id s) := by
  unfold execLaunchSubmit
  split
  · exact nextOk_next h
  · dsimp only
    split
    · exact nextOk_next h
    · exact nextOk_ite (nextOk_next h.modLaunch) (nextOk_next h)

theorem nextOk_admissionReceive {id : Nat} : nextOk (execAdmissionReceive id s) := by
  unfold execAdmissionReceive
  split
  · exact nextOk_next h
  · next l _ =>
    refine nextOk_ite (nextOk_next h) ?_
    have h1 : (if l.lrec.isEmpty then s.tenantRead id l.part l.tag l.addr.toNat 64 else .ok s l.lrec).state.memOk := EngRes.memOk_ite h.tenantRead h
    generalize (if l.lrec.isEmpty then s.tenantRead id l.part l.tag l.addr.toNat 64 else .ok s l.lrec) = x at h1 ⊢
    cases x with
    | wait u => exact nextOk_next h1
    | fault u c v => exact nextOk_next (State.memOk.refuseLaunch h1)
    | ok u rec_ =>
      dsimp only [EngRes.state] at h1 ⊢
      generalize hy : u.tenantRead _ _ _ _ _ = y
      have h2 : y.state.memOk := hy ▸ h1.tenantRead
      cases y with
      | wait u => exact nextOk_next h2
      | fault u c v => exact nextOk_next (State.memOk.refuseLaunch h2)
      | ok w hb =>
        dsimp only [EngRes.state] at h2 ⊢
        split
        · exact nextOk_next h2.refuseLaunch
        · generalize hz : w.tenantRead _ _ _ _ _ = z
          have h3 : z.state.memOk := hz ▸ h2.tenantRead
          cases z with
          | wait u => exact nextOk_next h3
          | fault u c v => exact nextOk_next (State.memOk.refuseLaunch h3)
          | ok v bs =>
            dsimp only [EngRes.state] at h3 ⊢
            split
            · exact nextOk_next h3.refuseLaunch
            · exact nextOk_next h3.joinQueue

theorem nextOk_admissionChoice {part : Nat} : nextOk (execAdmissionChoice part s) := by
  unfold execAdmissionChoice
  split
  · exact nextOk_next h
  · split
    · exact nextOk_next h
    · exact nextOk_next h.choose

theorem nextOk_launchAgeing {part tag proc prio : Nat} : nextOk (execLaunchAgeing part tag proc prio s) := by
  unfold execLaunchAgeing
  split
  · exact nextOk_next h
  · split
    · exact nextOk_next h
    · exact nextOk_ite (nextOk_next h.modLaunch) (nextOk_next h)

theorem nextOk_tenantReserve {part tag proc prio : Nat} : nextOk (execTenantReserve part tag proc prio s) := by
  unfold execTenantReserve
  split
  · exact nextOk_next h
  · split
    · exact nextOk_next h
    · exact nextOk_ite (nextOk_next h.modTenant) (nextOk_next h)

theorem nextOk_launchPlace {part px py : Nat} : nextOk (execLaunchPlace part px py s) := by
  unfold execLaunchPlace
  split
  · exact nextOk_next h
  · next l _ =>
    have h2 : ∀ {x : Rect}, x.memOk → (((s.fresh.1.stamp px py l.w l.h l.tag).setRect s.fresh.2 x).modTenant l.tag (fun t => { t with resident := true })).memOk :=
      fun hx => (State.memOk.setRect (State.memOk.stamp (s := s.fresh.1) h) hx).modTenant
    have hr : ∀ {k}, ({ s.newRect l px py with stage := k } : Rect).memOk := State.memOk.newRect s l px py
    dsimp only
    refine nextOk_ite (nextOk_next h) ?_
    generalize (if l.stage.isSome then l.stage else _ : Option Nat) = k
    refine nextOk_ite (nextOk_next (State.memOk.modPart (State.memOk.dropLaunch ?_))) (nextOk_next (State.memOk.modLaunch ?_))
    · cases k with
      | none => exact h2 hr
      | some k => exact h2 hr
    · cases k with
      | none => exact h2 hr
      | some k => exact h2 hr

theorem nextOk_quantumEnd {part : Nat} : nextOk (execQuantumEnd part s) :=
  nextOk_ite (nextOk_next h) (nextOk_next (State.memOk.timeSlice (State.memOk.modPart (memOk_foldl (fun _ _ h => h.modTenant) _ h))))

theorem nextOk_replicaEvaluate {pipe stage : Nat} : nextOk (execReplicaEvaluate pipe stage s) := by
  unfold execReplicaEvaluate
  split
  · exact nextOk_next h
  · dsimp only
    split
    · exact nextOk_next h
    · split
      · exact nextOk_next h
      · split
        · split
          · exact nextOk_next h
          · refine nextOk_ite (nextOk_next h) (nextOk_next ?_)
            dsimp only [State.memOk]
            exact h.modRect
        · exact nextOk_next h

theorem nextOk_replicaRetireEnd {r : Nat} : nextOk (execReplicaRetireEnd r s) := nextOk_ite (nextOk_next h.removeRect) (nextOk_next h)

end

end Sys2Proof.Machine
end

section
/-! SUPPORT. Canonical form of the memories under imported contexts, the commands of Gelesque, and mappings. -/

namespace Sys2Proof.Machine

open Host (Outcome)

-- A rule may fill its hypothesis by a tactic of this text; with the proofs elaborated in order, none waits for it in a thread of its own.
set_option Elab.async false

variable {s : State}

/-! ## Contexts -/

theorem State.memOk.sign (h : s.memOk) {msg : List Byte} : (s.sign msg).1.memOk := h

theorem Core.memOk.rearmAll {c : Core} (h : c.memOk) {slot : Nat} {bs : List Byte} : (c.rearmAll slot bs).memOk := Core.memOk_foldl (fun c k h => by
  split
  · split
    · exact h
    · dsimp only
      generalize (match armKind _ with | 3 => _ | 4 => _ | 6 => _ | _ => _ : Producer) = p
      split
      · exact h.claim
      · exact h
  · exact h) _ h

theorem coreFrom_memOk {bs : List Byte} {c : Core} (e : coreFrom bs = some c) : c.memOk := by
  unfold coreFrom at e
  dsimp only at e
  split at e
  · cases e
  · split at e
    · cases e
    · rw [← Option.some.inj e]
      refine Core.memOk_foldl (fun _ _ h => h.rearmAll) _ ?_
      unfold Core.memOk
      dsimp only
      exact Memory.wf_setCells _ _ rfl

theorem coresFrom_cons (bs : List Byte) (k : Nat) (ks : List Nat) (i : Nat) : coresFrom bs (k :: ks) i =
    match coreFrom ((bs.drop (4096 + 1421312 * i)).take 1421312) with
    | none => none
    | some c => (coresFrom bs ks (i + 1)).map (fun m => (k, c) :: m) := by
  delta coresFrom
  rfl

theorem coresFrom_ok {bs : List Byte} (ks : List Nat) : ∀ {i : Nat} {m : Sparse Core}, coresFrom bs ks i = some m → coresOk m := by
  induction ks with
  | nil =>
    intro i m e
    cases e
    exact fun _ h => absurd h List.not_mem_nil
  | cons k ks ih =>
    intro i m e
    rw [coresFrom_cons] at e
    generalize ec : coreFrom _ = o at e
    cases o with
    | none => cases e
    | some c =>
      obtain ⟨m, em, rfl⟩ := Option.map_eq_some_iff.mp e
      intro p hp
      obtain rfl | hp := List.mem_cons.mp hp
      · exact coreFrom_memOk ec
      · exact ih em p hp

theorem bodyFrom_memOk {bs : List Byte} {w ht : Nat} {b : Body} (e : bodyFrom bs w ht = some b) : b.memOk := by
  unfold bodyFrom at e
  dsimp only at e
  split at e
  · cases e
  · next ec =>
    cases e
    exact coresFrom_ok _ ec

section
variable (h : s.memOk)
include h

theorem nextOk_contextExport {r : Nat} : nextOk (execContextExport r s) := nextOk_ite (nextOk_next h) (nextOk_next h)

theorem nextOk_contextImport {part tag : Nat} {bytes sig : List Byte} : nextOk (execContextImport part tag bytes sig s) := by
  unfold execContextImport
  dsimp only
  refine nextOk_ite (nextOk_next h) (nextOk_ite (nextOk_next h) ?_)
  split
  · exact nextOk_next h
  · next b e =>
    refine nextOk_next (State.memOk.setRect (s := (State.fresh _).1) h ⟨bodyFrom_memOk e, fun _ e' => ?_, nofun⟩)
    exact Option.some.inj e' ▸ bodyFrom_memOk e

end

/-! ## The tables of the state -/

namespace State.memOk

theorem withGranules (h : s.memOk) {g : Sparse Granule} (hg : Sparse.wf Granule.free g = true) : ({ s with granules := g } : State).memOk := by
  obtain ⟨h1, h2, h3, -, h5, h6⟩ := h
  exact ⟨h1, h2, h3, hg, h5, h6⟩

theorem withPages (h : s.memOk) {m : Sparse (Sparse Word)} (hm : ∀ p ∈ m, Sparse.wf 0#64 p.2 = true) : ({ s with pages := m } : State).memOk := by
  obtain ⟨h1, h2, h3, h4, -, h6⟩ := h
  exact ⟨h1, h2, h3, h4, hm, h6⟩

theorem withMem (h : s.memOk) {m : List Host.Cell} (hm : Memory.wf m = true) : ({ s with mem := m } : State).memOk := by
  obtain ⟨-, h2⟩ := h
  exact ⟨hm, h2⟩

theorem withExports (h : s.memOk) {e : List Exported} : ({ s with exports := e } : State).memOk := h

theorem granules (h : s.memOk) : Sparse.wf Granule.free s.granules = true := h.2.2.2.1

theorem pages (h : s.memOk) : ∀ p ∈ s.pages, Sparse.wf 0#64 p.2 = true := h.2.2.2.2.1

theorem setGranule (h : s.memOk) {g : Nat} {x : Granule} : (s.setGranule g x).memOk := h.withGranules (Sparse.wf_set _ _ h.granules)

theorem discardLines (h : s.memOk) {p : Line → Bool} : (s.discardLines p).memOk := h.onLines (s.onLines_discardLines p)
theorem flushLines (h : s.memOk) {p : Line → Bool} : (s.flushLines p).memOk := h.onLines (s.onLines_flushLines p)

theorem zeroGranule (h : s.memOk) {g : Nat} : (s.zeroGranule g).memOk := State.memOk.withMem h.discardLines (Sparse.wf_clear _ _ h.discardLines.mem)

end State.memOk

theorem Sparse.wf_foldl_set {α β : Type} [DecidableEq β] {d : β} {v : α → β} {f : α → Nat} (l : List α) : ∀ {m : Sparse β}, Sparse.wf d m = true →
    Sparse.wf d (l.foldl (fun m a => Sparse.set d (v a) m (f a)) m) = true := by
  induction l with
  | nil => exact fun h => h
  | cons a l ih => exact fun h => ih (Sparse.wf_set _ _ h)

theorem State.memOk.setPage (h : s.memOk) {tag va ps : Nat} {leaf : Word} : (s.setPage tag va ps leaf).memOk := h.withPages fun p hp => by
  obtain rfl | hp := Sparse.mem_put hp
  · exact Sparse.wf_foldl_set (f := id) _ (Sparse.at_of_forall (P := fun m => Sparse.wf 0#64 m = true) rfl h.pages tag)
  · exact h.pages p hp

/-! ## Commands -/

/-- The state that the execution of a command leaves. -/
def CmdRes.memOk : CmdRes → Prop
  | .fail _ => True
  | .wait s | .held s | .done s _ | .inval s _ _ => s.memOk

namespace State.memOk

theorem journaled (h : s.memOk) {c : Cmd} {code : Nat} : (s.journaled c code).memOk := memOk_ite h h
theorem journalDone (h : s.memOk) {id : Nat} : (s.journalDone id).memOk := h

theorem finishCommand (h : s.memOk) {id : Nat} {direct : Bool} {st : Nat} {results : List (Nat × Word)} : (s.finishCommand id direct st results).memOk :=
  memOk_ite h h

theorem afterInval (h : s.memOk) {a : InvalDone} : (s.afterInval a).memOk := by
  unfold State.afterInval
  cases a with
  | command id d rs => exact h.finishCommand
  | copy m => exact h
  | release m =>
    dsimp only
    split
    · refine State.memOk.finishCommand ?_
      exact h
    · exact h

theorem startInval (h : s.memOk) {die : Nat} {ranges : List (Nat × Nat × Nat)} {a : InvalDone} : (s.startInval die ranges a).memOk :=
  memOk_ite h.afterInval h

theorem deliverCall (h : s.memOk) {t : TaskRef} {id : Nat} {v : Word} : (s.deliverCall t id v).memOk :=
  memOk_ite h (h.modRect fun x hx => hx.mapBodies (f := fun b => b.answer t 5 (.svc id) v false) (g := fun b => b.answer t 5 (.svc id) v false)
    (fun _ hb => hb.answer) fun _ hb => hb.answer)

theorem readPhys (h : s.memOk) {tag : Nat} {pol : Policy} {n pa k : Nat} : (State.readPhys tag pol n s pa k).1.memOk := h.onLines (State.onLines_readPhys _ _ _ _ _ _)
theorem writePhys (h : s.memOk) {tag : Nat} {pol : Policy} {n pa : Nat} {bs : List Byte} : (State.writePhys tag pol n s pa bs).memOk :=
  h.onLines (State.onLines_writePhys _ _ _ _ _ _)

theorem cmdRead (h : s.memOk) {c : Cmd} {va n : Nat} : (c.read s va n).state.memOk := by
  unfold Cmd.read
  split
  · have h1 := h.readPhys (tag := 0) (pol := .bypass) (n := pieces va n) (pa := va) (k := n)
    exact h1
  · exact h.tenantRead

theorem admWrite {id part tag : Nat} (fuel : Nat) : ∀ {s : State} {va : Nat} {bs : List Byte}, s.memOk → (State.admWrite id part tag fuel va bs s).state.memOk := by
  induction fuel with
  | zero => exact fun h => h
  | succ fuel ih =>
    intro s va bs h
    rw [State.admWrite]
    refine EngRes.memOk_ite h ?_
    dsimp only
    generalize hx : s.tenantWrite _ _ _ _ _ = x
    have h1 : x.state.memOk := hx ▸ h.tenantWrite
    cases x with
    | ok u v => exact ih h1
    | wait u => exact h1
    | fault u c v => exact h1

theorem cmdWrite (h : s.memOk) {c : Cmd} {va : Nat} {bs : List Byte} : (c.write s va bs).state.memOk := EngRes.memOk_ite (EngRes.memOk_ok h.writePhys) (admWrite _ h)

theorem reading (h : s.memOk) {c : Cmd} {va n : Nat} {k : State → List Byte → CmdRes} (hk : ∀ s bs, s.memOk → (k s bs).memOk) : (c.reading s va n k).memOk := by
  unfold Cmd.reading
  have h1 : (c.read s va n).state.memOk := h.cmdRead
  generalize c.read s va n = x at h1 ⊢
  cases x with
  | ok u bs => exact hk _ _ h1
  | wait u => exact h1
  | fault u c v => trivial

theorem writing (h : s.memOk) {c : Cmd} {va : Nat} {bs : List Byte} {k : State → CmdRes} (hk : ∀ s, s.memOk → (k s).memOk) : (c.writing s va bs k).memOk := by
  unfold Cmd.writing
  have h1 : (c.write s va bs).state.memOk := h.cmdWrite
  generalize c.write s va bs = x at h1 ⊢
  cases x with
  | ok u v => exact hk _ h1
  | wait u => exact h1
  | fault u c v => trivial

end State.memOk

theorem State.memOk.setMode (h : s.memOk) {m q : Nat} {ws : List Byte} : (s.setMode m q ws).memOk := by
  obtain ⟨h1, h2, h3, h4, h5, h6⟩ := h.flushLines (p := fun _ => true)
  exact ⟨h1, h2, h3, h4, h5, h6⟩

theorem CmdRes.memOk_done (h : s.memOk) {rs : List (Nat × Word)} : (CmdRes.done s rs).memOk := h
theorem CmdRes.memOk_held (h : s.memOk) : (CmdRes.held s).memOk := h
theorem CmdRes.memOk_inval (h : s.memOk) {v : List (Nat × Nat × Nat)} {rs : List (Nat × Word)} : (CmdRes.inval s v rs).memOk := h

theorem CmdRes.memOk_ite {p : Prop} [Decidable p] {a b : CmdRes} (ha : a.memOk) (hb : b.memOk) : (if p then a else b).memOk := by
  split
  · exact ha
  · exact hb

section
variable (h : s.memOk)
include h

theorem nextOk_runCommand {code op : Nat} {may : State → Cmd → Bool} {body : State → Cmd → CmdRes} {src : CmdSrc} (hb : ∀ s c, s.memOk → (body s c).memOk) :
    nextOk (runCommand code op may body src s) := by
  unfold runCommand
  split
  · exact nextOk_next h
  · next c _ =>
    refine nextOk_ite (nextOk_next h) (nextOk_ite (nextOk_next h) ?_)
    have h0 : ((if c.direct then s.fresh.1 else s).journaled c code).memOk := State.memOk.journaled (memOk_ite (a := s.fresh.1) h h)
    dsimp only
    generalize (if c.direct then s.fresh.1 else s).journaled c code = u at h0 ⊢
    refine nextOk_ite (nextOk_next h0.finishCommand) ?_
    have h1 := hb u c h0
    generalize body u c = x at h1 ⊢
    cases x with
    | fail st => exact nextOk_next h0.finishCommand
    | wait v => exact nextOk_next h1
    | held v => exact nextOk_next h1
    | done v rs => exact nextOk_next (State.memOk.finishCommand h1)
    | inval v ranges rs => exact nextOk_next (State.memOk.startInval h1)

theorem nextOk_invalidationReceive {id : Nat} {die : Fin 4} : nextOk (execInvalidationReceive id die s) := by
  unfold execInvalidationReceive
  split
  · exact nextOk_next h
  · exact nextOk_ite (nextOk_next h) (nextOk_next h)

theorem nextOk_invalidationAck {id : Nat} {die : Fin 4} : nextOk (execInvalidationAck id die s) := by
  unfold execInvalidationAck
  split
  · exact nextOk_next h
  · refine nextOk_ite (nextOk_next h) (nextOk_ite (nextOk_next h) (nextOk_next (State.memOk.afterInval ?_)))
    exact h

theorem nextOk_svcSubmit {id : Nat} : nextOk (execSvcSubmit id s) := by
  unfold execSvcSubmit
  split
  · exact nextOk_next h
  · dsimp only
    refine nextOk_ite (nextOk_next h) (nextOk_ite (nextOk_next h) ?_)
    generalize hx : s.tenantRead _ _ _ _ _ = x
    have h1 : x.state.memOk := hx ▸ h.tenantRead
    cases x with
    | wait u => exact nextOk_next h1
    | fault u c v => exact nextOk_next h1
    | ok u b => exact nextOk_next h1

theorem nextOk_svcResult {id : Nat} : nextOk (execSvcResult id s) := by
  have fin : ∀ {u : State} {c : Call} {v : Word}, u.memOk →
      nextOk (.next ((({ u.journalDone id with calls := u.calls.filter (fun d => decide (d.id ≠ id)) } : State).deliverCall c.task id v).acquireWork c.tag .tenant)) :=
    fun hu => nextOk_next (State.memOk.acquireWork (State.memOk.deliverCall (s := { State.journalDone _ id with calls := _ }) hu))
  unfold execSvcResult
  split
  · exact nextOk_next h
  · next c _ =>
    split
    · exact nextOk_next h
    · next st _ =>
      dsimp only
      refine nextOk_ite (nextOk_next h) ?_
      cases hb : c.block with
      | none => exact fin h
      | some b =>
        dsimp only
        generalize hx : s.tenantWrite _ _ _ _ _ = x
        have h1 : x.state.memOk := hx ▸ h.tenantWrite
        cases x with
        | wait u => exact nextOk_next h1
        | fault u c v => exact fin h1
        | ok u v => exact fin h1

theorem nextOk_partSet {c : CmdSrc} : nextOk (execPartSet c s) := nextOk_runCommand h fun s c h => by
  have go : ∀ {s u : State} {a b : Prop} [Decidable a] [Decidable b] {m q ws}, s.memOk →
      (if a then CmdRes.fail 5 else if b then .fail 2 else .done (s.setMode m q ws) []).memOk := by
    intro s u a b _ _ m q ws h
    exact CmdRes.memOk_ite trivial (CmdRes.memOk_ite trivial h.setMode)
  dsimp only
  refine CmdRes.memOk_ite trivial (CmdRes.memOk_ite (go (u := s) h) (h.reading fun s bs h => go (u := s) h))

theorem nextOk_tenantCreate {c : CmdSrc} : nextOk (execTenantCreate c s) := nextOk_runCommand h fun s c h => by
  dsimp only
  refine CmdRes.memOk_ite trivial (CmdRes.memOk_ite trivial ?_)
  split
  · trivial
  · exact h

theorem nextOk_tenantDestroy {c : CmdSrc} : nextOk (execTenantDestroy c s) := nextOk_runCommand h fun s c h => by
  dsimp only
  refine CmdRes.memOk_ite trivial ?_
  obtain ⟨h1, h2, h3, h4, h5, h6⟩ := h.discardLines (p := fun l => decide (l.tag = c.arg 0))
  exact ⟨h1, h2, h3, Sparse.wf_foldl_set _ h4, fun p hp => h5 p (List.mem_of_mem_filter hp), fun p hp => h6 p (List.mem_of_mem_filter hp)⟩

theorem nextOk_leaseSet {c : CmdSrc} : nextOk (execLeaseSet c s) := nextOk_runCommand h fun s c h => by
  dsimp only
  exact CmdRes.memOk_ite trivial (CmdRes.memOk_ite trivial h.modTenant)

/-! ## Mappings -/

theorem nextOk_memGrant {c : CmdSrc} : nextOk (execMemGrant c s) := nextOk_runCommand h fun s c h => by
  split
  · trivial
  · exact CmdRes.memOk_ite trivial (CmdRes.memOk_done (memOk_foldl (fun s g h => h.zeroGranule.setGranule) _ h))

theorem nextOk_memRevoke {c : CmdSrc} : nextOk (execMemRevoke c s) := nextOk_runCommand h fun s c h => by
  split
  · trivial
  · exact CmdRes.memOk_ite trivial (CmdRes.memOk_done (memOk_foldl (fun s g h => h.setGranule) _ h))

theorem nextOk_memSetShare {c : CmdSrc} : nextOk (execMemSetShare c s) := nextOk_runCommand h fun s c h => by
  split
  · trivial
  · exact CmdRes.memOk_ite trivial (CmdRes.memOk_done (memOk_foldl (fun s g h => h.setGranule) _ h))

theorem nextOk_memDefineShareSet {c : CmdSrc} : nextOk (execMemDefineShareSet c s) := nextOk_runCommand h fun s c h => by
  dsimp only
  exact CmdRes.memOk_ite trivial h

theorem nextOk_map {c : CmdSrc} : nextOk (execMap c s) := nextOk_runCommand h fun s c h => by
  refine CmdRes.memOk_ite trivial ?_
  split
  · trivial
  · refine CmdRes.memOk_ite (CmdRes.memOk_done (memOk_foldl (fun s i h => h.setPage) _ h)) (h.reading fun s bs h => ?_)
    cases exportList bs with
    | none => trivial
    | some ds =>
      cases s.exportOffset (c.arg 3) with
      | none => trivial
      | some o => exact CmdRes.memOk_done (memOk_foldl (fun s i h => h.setPage) _ h.withExports)

theorem nextOk_unmap {c : CmdSrc} : nextOk (execUnmap c s) := nextOk_runCommand h fun s c h => by
  dsimp only
  exact CmdRes.memOk_ite trivial (CmdRes.memOk_ite h (CmdRes.memOk_inval (State.memOk.withExports (memOk_foldl (fun s i h => h.setPage) _ h))))

theorem nextOk_protect {c : CmdSrc} : nextOk (execProtect c s) := nextOk_runCommand h fun s c h => by
  dsimp only
  exact CmdRes.memOk_ite trivial (CmdRes.memOk_ite h (CmdRes.memOk_inval (memOk_foldl (fun s i h => h.setPage) _ h)))

theorem State.memOk.startMigration {tag : Nat} {p : Nat × Nat × Word} {dst die : Nat} {command : Option (Nat × Bool)} :
    (s.startMigration tag p dst die command).memOk := by
  unfold State.startMigration
  refine State.memOk.startInval (State.memOk.modPart (State.memOk.setPage ?_))
  exact h

theorem nextOk_migrate {c : CmdSrc} : nextOk (execMigrate c s) := nextOk_runCommand h fun s c h => by
  dsimp only
  split
  · trivial
  · refine CmdRes.memOk_ite trivial (CmdRes.memOk_ite h (CmdRes.memOk_ite h ?_))
    split
    · trivial
    · exact h.startMigration

theorem nextOk_migrationMonitorInterval {die : Fin 4} : nextOk (execMigrationMonitorInterval die s) := by
  have h1 : ∀ {f}, (s.modDie die.val f).memOk := h.modDie
  unfold execMigrationMonitorInterval
  dsimp only
  refine nextOk_ite (nextOk_next h) ?_
  split
  · exact nextOk_next h1
  · split
    · refine nextOk_ite (nextOk_next h1) ?_
      split
      · exact nextOk_next h1
      · exact nextOk_next h1.startMigration
    · exact nextOk_next h1

omit h in
/-- What a migration's copy changes: the frame's bytes, and the tables that name the frame. -/
theorem State.memOk.copied (h : s.memOk) {m : List Host.Cell} (hm : Memory.wf m = true) {e : List Exported} {g : List Migration} {f : Rect → List Undo} :
    ({ s with mem := m, exports := e, migrations := g, rects := Sparse.mapAll (fun _ x => { x with undo := f x }) s.rects } : State).memOk :=
  State.memOk.mapRects (s := { s with mem := m, exports := e, migrations := g }) (h.withMem hm)

theorem nextOk_migrationCopyComplete {id : Nat} : nextOk (execMigrationCopyComplete id s) := by
  unfold execMigrationCopyComplete
  split
  · exact nextOk_next h
  · next m _ =>
    split
    · exact nextOk_next h
    · dsimp only
      refine nextOk_ite (nextOk_next h) (nextOk_next (State.memOk.startInval (State.memOk.setPage ?_)))
      have hd : ∀ {p q : Line → Bool}, ((s.flushLines p).discardLines q).memOk := h.flushLines.discardLines
      have hm : ∀ {p q : Line → Bool} {l : List Host.Cell}, Memory.wf (l.foldl (fun (w : List Host.Cell) c => Sparse.set 0#8 c.2 w (m.moved c.1))
          (Sparse.clear ((s.flushLines p).discardLines q).mem m.dst (m.dst + m.bytes))) = true := Sparse.wf_foldl_set _ (Sparse.wf_clear _ _ hd.mem)
      exact hd.copied hm

end

end Sys2Proof.Machine
end

section
/-! SUPPORT. Canonical form of the memories under the services of Gelesque, under peers, and under boot, failover and resets. -/

namespace Sys2Proof.Machine

open Host (Outcome)

-- A rule may fill its hypothesis by a tactic of this text; with the proofs elaborated in order, none waits for it in a thread of its own.
set_option Elab.async false

variable {s : State}

/-! ## Services -/

theorem State.memOk.draw (h : s.memOk) : s.draw.1.memOk := h

theorem State.memOk.agree (h : s.memOk) {id : Nat} {qp key reply : List Byte} {u : State} (e : s.agree id qp = some (u, key, reply)) : u.memOk := by
  unfold State.agree at e
  dsimp only at e
  split at e
  · cases e
  · obtain ⟨rfl, -⟩ := Prod.mk.inj (Option.some.inj e)
    exact h

theorem State.memOk.agreed (h : s.memOk) {c : Cmd} {id va slot : Nat} {k : State → List Byte → List (Nat × Word) → CmdRes}
    (hk : ∀ s b r, s.memOk → (k s b r).memOk) : (c.agreed s id va k slot).memOk := by
  unfold Cmd.agreed
  refine h.reading fun s qp h => ?_
  split
  · trivial
  · next e => exact (h.agree e).writing fun _ h => hk _ _ _ h

theorem State.memOk.switchDomains (h : s.memOk) {part layout a b : Nat} {es : List Nat} : (s.switchDomains part layout a b es).memOk := by
  unfold State.switchDomains
  refine State.memOk.modPart ?_
  exact h.flushLines

section
variable (h : s.memOk)
include h

theorem nextOk_queueCreate {c : CmdSrc} : nextOk (execQueueCreate c s) := nextOk_runCommand h fun s c h => by
  refine CmdRes.memOk_ite trivial (CmdRes.memOk_ite trivial ?_)
  split
  · trivial
  · exact h.agreed fun _ _ _ h => h

theorem nextOk_queueKey {c : CmdSrc} : nextOk (execQueueKey c s) := nextOk_runCommand h fun s c h => by
  split
  · trivial
  · exact h.agreed fun _ _ _ h => h

theorem nextOk_queueDestroy {c : CmdSrc} : nextOk (execQueueDestroy c s) := nextOk_runCommand h fun s c h => by
  split
  · trivial
  · exact h

theorem nextOk_sliceDomain {c : CmdSrc} : nextOk (execSliceDomain c s) := nextOk_runCommand h fun s c h => by
  refine CmdRes.memOk_ite trivial (h.reading fun s bs h => ?_)
  exact CmdRes.memOk_ite trivial (CmdRes.memOk_ite trivial h.switchDomains)

theorem nextOk_waymaskSet {c : CmdSrc} : nextOk (execWaymaskSet c s) := nextOk_runCommand h fun s c h =>
  CmdRes.memOk_ite trivial (CmdRes.memOk_done h.flushLines.modTenant)

theorem nextOk_attest {c : CmdSrc} : nextOk (execAttest c s) := nextOk_runCommand h fun s c h =>
  h.reading fun s nonce h => State.memOk.writing (s := s.fresh.1) h fun _ h => h

theorem nextOk_capRead {c : CmdSrc} : nextOk (execCapRead c s) := nextOk_runCommand h fun _ _ h => h

theorem nextOk_wearRead {c : CmdSrc} : nextOk (execWearRead c s) := nextOk_runCommand h fun _ _ h => CmdRes.memOk_ite trivial h

theorem State.memOk.setStore {a : Nat} {bs : List Byte} : ({ s with store := setCells s.store a bs } : State).memOk := by
  obtain ⟨h1, h2, h3, h4⟩ := h
  exact ⟨h1, h2, Memory.wf_setCells _ _ h3, h4⟩

theorem nextOk_fwStage {c : CmdSrc} : nextOk (execFwStage c s) := nextOk_runCommand h fun s c h =>
  CmdRes.memOk_ite trivial (h.reading fun _ _ h => CmdRes.memOk_done h.setStore)

theorem nextOk_fwCommit {c : CmdSrc} : nextOk (execFwCommit c s) := nextOk_runCommand h fun s c h => by
  split
  · exact h
  · trivial

theorem nextOk_resetPartition {c : CmdSrc} : nextOk (execResetPartition c s) := nextOk_runCommand h fun s c h => by
  refine CmdRes.memOk_ite trivial (CmdRes.memOk_ite h (CmdRes.memOk_ite h ?_))
  refine CmdRes.memOk_held (State.memOk.modPart ?_)
  refine (h.mapRects fun _ x hx => ?_ : ({ s with rects := _ } : State).memOk)
  split
  · exact hx
  · exact hx

end

/-! ## Peers -/

theorem State.memOk.queueHeader (h : s.memOk) {id q : Nat} {k : WorkQueue} : (s.queueHeader id q k).memOk := by
  unfold State.queueHeader
  generalize hx : s.tenantWrite _ _ _ _ _ = x
  have h1 : x.state.memOk := hx ▸ h.tenantWrite
  cases x with
  | ok u v => exact h1
  | wait u => exact h1
  | fault u c v => exact h1

theorem State.memOk.admitTail (h : s.memOk) {queue tail : Nat} : (s.admitTail queue tail).memOk := by
  unfold State.admitTail
  split
  · exact h
  · exact h

section
variable (h : s.memOk)
include h

theorem nextOk_notifyWrite {sender offset : Nat} {ordered : Bool} {bytes : List Byte} : nextOk (execNotifyWrite sender offset ordered bytes s) := by
  unfold execNotifyWrite
  refine nextOk_ite (nextOk_next h) (nextOk_ite (nextOk_next h) ?_)
  dsimp only
  split
  · exact nextOk_next h
  · exact nextOk_ite (nextOk_next h) (nextOk_ite (nextOk_next h) (nextOk_next h.queueHeader))

theorem nextOk_queueOldKeyExpiry {queue : Nat} : nextOk (execQueueOldKeyExpiry queue s) := by
  unfold execQueueOldKeyExpiry
  split
  · exact nextOk_next h
  · split
    · exact nextOk_ite (nextOk_next h) (nextOk_next h)
    · exact nextOk_next h

theorem nextOk_doorbellProcess {die : Fin 4} : nextOk (execDoorbellProcess die s) := by
  unfold execDoorbellProcess
  split
  · exact nextOk_next h
  · split
    · exact nextOk_next h
    · refine nextOk_next (State.memOk.admitTail ?_)
      exact h

theorem nextOk_workQueueEntryRead {queue : Nat} : nextOk (execWorkQueueEntryRead queue s) := by
  unfold execWorkQueueEntryRead
  split
  · exact nextOk_next h
  · dsimp only
    refine nextOk_ite (nextOk_next h) ?_
    generalize hx : s.tenantRead _ _ _ _ _ = x
    have h1 : x.state.memOk := hx ▸ h.tenantRead
    cases x with
    | ok u v =>
      refine nextOk_next (State.memOk.queueHeader ?_)
      exact h1
    | wait u => exact nextOk_next h1
    | fault u c v =>
      refine nextOk_next (State.memOk.queueHeader ?_)
      exact h1

theorem nextOk_exportAccess {sender offset : Nat} {op : PeerOp} : nextOk (execExportAccess sender offset op s) := by
  unfold execExportAccess
  dsimp only
  split
  · exact nextOk_next h
  · refine nextOk_ite (nextOk_next h) ?_
    cases op with
    | read n => exact nextOk_next h.readPhys
    | write ds => exact nextOk_next h.writePhys
    | add n v => exact nextOk_next h.readPhys.writePhys
    | swap n v => exact nextOk_next h.readPhys.writePhys
    | cas n x v => exact nextOk_next (memOk_ite h.readPhys.writePhys h.readPhys)

theorem nextOk_linkConnectionRequest {device : Nat} {kind : LinkKind} {opts : List LinkOption} : nextOk (execLinkConnectionRequest device kind opts s) :=
  nextOk_ite (nextOk_next h) (nextOk_next h)

end

/-! ## Boot and failover -/

namespace State.memOk

theorem raiseMinimum (h : s.memOk) {v : Word} : (s.raiseMinimum v).memOk := memOk_ite h h

theorem replayQueues (h : s.memOk) {die : Nat} : (s.replayQueues die).memOk := memOk_foldl (fun _ _ h => memOk_ite h.admitTail h) _ h

theorem follow (h : s.memOk) {d : Nat} : (s.follow d).memOk := h

theorem failover (h : s.memOk) {d : Nat} : (s.failover d).memOk := memOk_ite h (memOk_ite h.modDie.follow h.modDie.replayQueues)

theorem strand (h : s.memOk) {d : Nat} : (s.strand d).memOk := by
  unfold State.strand
  dsimp only [State.memOk]
  exact memOk_foldl (fun _ _ h => h.unrecoverable) _ h

theorem endFor (h : s.memOk) {r cause : Nat} : (s.endFor r cause).memOk := h.modRect

end State.memOk

theorem Body.memOk.resumeFabric {b : Body} (h : b.memOk) : b.resumeFabric.memOk := h.mapAll

theorem State.memOk.resumeCause (h : s.memOk) {r : Nat} {q : QCause} {regs : List (Nat × Word)} : (s.resumeCause r q regs).memOk :=
  memOk_ite (h.modBody.modBody fun _ hb => hb.resumeFabric) h.modBody.modTask

theorem wf_canonHbm (cs : List Host.Cell) : Memory.wf (canonHbm cs) = true := Sparse.wf_foldl_set _ rfl

/-- After a loss of MAIN or a module reset, only the peers and the firmware store hold what they held. -/
theorem State.memOk.moduleReset (h : s.memOk) : s.moduleReset.memOk := by
  obtain ⟨-, h2, h3, -⟩ := h
  exact ⟨wf_canonHbm _, h2, h3, rfl, fun _ h => absurd h List.not_mem_nil, fun _ h => absurd h List.not_mem_nil⟩

theorem State.memOk.mainLost (h : s.memOk) : s.mainLost.memOk := by
  obtain ⟨-, h2, -, -⟩ := h
  exact ⟨rfl, h2, rfl, rfl, fun _ h => absurd h List.not_mem_nil, fun _ h => absurd h List.not_mem_nil⟩

section
variable (h : s.memOk)
include h

theorem nextOk_dieBoot {die : Fin 4} {v : Option Word} : nextOk (execDieBoot die v s) := by
  unfold execDieBoot
  refine nextOk_ite (nextOk_next h) (nextOk_ite (nextOk_next ?_) (nextOk_next h))
  have hg := h.withGranules (Sparse.wfFrom_filter (fun g => decide (granuleDie g.1 ≠ die.val)) h.granules)
  refine memOk_ite (State.memOk.raiseMinimum ?_) hg
  exact hg

theorem nextOk_election : nextOk (execElection s) := by
  unfold execElection
  split
  · exact nextOk_next h
  · refine nextOk_ite (nextOk_next h) (nextOk_next ?_)
    have hf : ∀ {l : List Nat} {f : Nat → Die → Die}, (l.foldl (fun (s : State) d => s.modDie d (f d)) s).memOk := memOk_foldl (fun _ _ h => h.modDie) _ h
    exact hf

theorem nextOk_timeBroadcastReceive {die : Fin 4} : nextOk (execTimeBroadcastReceive die s) := by
  unfold execTimeBroadcastReceive
  split
  · exact nextOk_next h
  · exact nextOk_ite (nextOk_next h) (nextOk_next h.modDie)

theorem nextOk_failover {d : Nat} : nextOk (.next (s.failover d)) := nextOk_next h.failover

theorem nextOk_dieAdoption {die : Fin 4} : nextOk (execDieAdoption die s) := by
  unfold execDieAdoption
  refine nextOk_ite (nextOk_next h) ?_
  split
  · exact nextOk_next h.modDie.replayQueues
  · exact nextOk_next h.strand

theorem nextOk_failedPairTestComplete {die : Fin 4} {pass : Bool} : nextOk (execFailedPairTestComplete die pass s) := nextOk_ite (nextOk_next h) (nextOk_next h)

theorem nextOk_wearRefresh : nextOk (execWearRefresh s) := nextOk_ite (nextOk_next h) (nextOk_next h)

theorem nextOk_coreUnsafe {core hours : Nat} : nextOk (execCoreUnsafe core hours s) := by
  refine nextOk_ite (nextOk_next h) (nextOk_ite (nextOk_ite (nextOk_next h) (nextOk_next ?_)) (nextOk_ite (nextOk_next h) (nextOk_next h)))
  obtain ⟨h1, h2, h3, h4, h5, h6⟩ := h.flushLines (p := fun l => decide (partOf s.mode l.slice = partOf s.mode core))
  exact ⟨h1, h2, h3, h4, h5, h6⟩

/-! ## Supplies, cooling, resets -/

theorem nextOk_pwrcapWrite {v : Word} : nextOk (execPwrcapWrite v s) := nextOk_ite (nextOk_next h) (nextOk_next h)
theorem nextOk_housekeepingRegisterWrite {a : Nat} {v : Word} : nextOk (execHousekeepingRegisterWrite a v s) := nextOk_ite (nextOk_next h) (nextOk_next h)
theorem nextOk_powerWindow {w : Nat} : nextOk (execPowerWindow w s) := nextOk_ite (nextOk_next h) (nextOk_next h)
theorem nextOk_thermalThrottle {die : Fin 4} {t : Nat} : nextOk (execThermalThrottle die t s) := nextOk_ite (nextOk_next h) (nextOk_next h)
theorem nextOk_thermalThrottleEnd {die : Fin 4} {t : Nat} : nextOk (execThermalThrottleEnd die t s) := nextOk_ite (nextOk_next h) (nextOk_next h)
theorem nextOk_mresetWrite {v : Word} : nextOk (execMresetWrite v s) := nextOk_ite (nextOk_next h.moduleReset) (nextOk_next h)
theorem nextOk_resetN : nextOk (execResetN s) := nextOk_ite (nextOk_next h.moduleReset) (nextOk_next h)
theorem nextOk_mainLoss : nextOk (execMainLoss s) := nextOk_ite (nextOk_next h.mainLost) (nextOk_next h)
theorem nextOk_thermalShutdown {die : Fin 4} {t : Nat} : nextOk (execThermalShutdown die t s) := nextOk_ite (nextOk_next h.mainLost) (nextOk_next h)
theorem nextOk_auxLoss : nextOk (execAuxLoss s) := nextOk_ite (nextOk_next h) (nextOk_next h)
theorem nextOk_auxGood : nextOk (execAuxGood s) := nextOk_ite (nextOk_next h) (nextOk_next h)
theorem nextOk_mainGood : nextOk (execMainGood s) := nextOk_ite (nextOk_next h) (nextOk_next h)

theorem nextOk_partitionSupervisorDecision {r : Nat} {d : Decision} : nextOk (execPartitionSupervisorDecision r d s) := by
  unfold execPartitionSupervisorDecision
  dsimp only
  split
  · exact nextOk_next h
  · refine nextOk_ite (nextOk_next h) ?_
    cases d with
    | resume regs => exact nextOk_ite (nextOk_next h.resumeCause) (nextOk_next h.endFor)
    | endRect => exact nextOk_next h.endFor
    | pass => exact nextOk_next h.endFor

end

end Sys2Proof.Machine
end

section
/-! SUPPORT. Canonical form of the memories under every instruction and every step of another agent. -/

namespace Sys2Proof.Machine

open Host (Outcome)

-- A rule may fill its hypothesis by a tactic of this text; with the proofs elaborated in order, none waits for it in a thread of its own.
set_option Elab.async false

variable {s : State} {g : Guard}

/-! ## Scalar instructions with an immediate, and those with no operand -/

theorem nextOk_nop (h : s.memOk) : nextOk (execNop g s) := nextOk_issueT h
theorem nextOk_addi (h : s.memOk) {d : Reg} {a : Src} {imm : W32} : nextOk (execAddi g d a imm s) := nextOk_alu1 h
theorem nextOk_andi (h : s.memOk) {d : Reg} {a : Src} {imm : W32} : nextOk (execAndi g d a imm s) := nextOk_alu1 h
theorem nextOk_ori (h : s.memOk) {d : Reg} {a : Src} {imm : W32} : nextOk (execOri g d a imm s) := nextOk_alu1 h
theorem nextOk_xori (h : s.memOk) {d : Reg} {a : Src} {imm : W32} : nextOk (execXori g d a imm s) := nextOk_alu1 h
theorem nextOk_shli (h : s.memOk) {d : Reg} {a : Src} {n : Fin 64} : nextOk (execShli g d a n s) := nextOk_alu1 h
theorem nextOk_shri (h : s.memOk) {d : Reg} {a : Src} {n : Fin 64} : nextOk (execShri g d a n s) := nextOk_alu1 h
theorem nextOk_srai (h : s.memOk) {d : Reg} {a : Src} {n : Fin 64} : nextOk (execSrai g d a n s) := nextOk_alu1 h
theorem nextOk_bfx (h : s.memOk) {d : Reg} {a : Src} {lsb : Fin 64} {w : Nat} : nextOk (execBfx g d a lsb w s) := nextOk_alu1 h
theorem nextOk_ext (h : s.memOk) {sx : Bool} {d : Reg} {a : Src} {w : Nat} : nextOk (execExt g sx d a w s) := nextOk_alu1 h
theorem nextOk_plog (h : s.memOk) {tt : Fin 16} {p pa pb : Fin 8} : nextOk (execPlog g tt p pa pb s) := nextOk_issueT h
theorem nextOk_tyield (h : s.memOk) : nextOk (execTyield g s) := nextOk_issueT h
theorem nextOk_tprio (h : s.memOk) {prio : Fin 4} : nextOk (execTprio g prio s) := nextOk_issueT h

/-! ## Control flow (R154, R155, R157) -/

theorem State.memOk.branchFlow (h : s.memOk) {target : Int} {x : W32} {f : Task → Task} : (branchFlow target x f s).memOk := by
  unfold Machine.branchFlow
  split
  · trivial
  · exact State.memOk.modTask h

theorem nextOk_br (h : s.memOk) {off : W32} : nextOk (execBr g off s) := nextOk_issue h fun _ h => h.branchFlow
theorem nextOk_call (h : s.memOk) {d : Reg} {off : W32} : nextOk (execCall g d off s) := nextOk_issue h fun _ h => h.branchFlow
theorem nextOk_jr (h : s.memOk) {d : Reg} {a : Src} {off : W32} : nextOk (execJr g d a off s) := nextOk_issue h fun _ h => h.branchFlow

theorem nextOk_loop (h : s.memOk) {level : Fin 2} {a : Src} {off : W32} : nextOk (execLoop g level a off s) := nextOk_issue h fun s h => by
  dsimp only
  split
  · trivial
  split
  · exact State.memOk.modTask h
  · exact State.memOk.modTask h

theorem nextOk_tend (h : s.memOk) : nextOk (execTend g s) := nextOk_issue h fun s h => by
  split
  · exact h.modCore fun _ hc => hc
  · exact h

/-! ## Loads, stores and maintenance (R294, R295, R300) -/

theorem nextOk_ld (h : s.memOk) {sz : LdSize} {cp : Policy} {d : Reg} {a : Src} {off : BitVec 20} : nextOk (execLd g sz cp d a off s) :=
  nextOk_issue h fun _ h => h.loadFlow
theorem nextOk_ldx (h : s.memOk) {sz : LdSize} {cp : Policy} {d : Reg} {a b : Src} {k : Fin 4} : nextOk (execLdx g sz cp d a b k s) :=
  nextOk_issue h fun _ h => h.loadFlow
theorem nextOk_ldacq (h : s.memOk) {sz : LdSize} {sc : Scope} {d : Reg} {a : Src} {off : BitVec 20} : nextOk (execLdacq g sz sc d a off s) :=
  nextOk_issue h fun _ h => h.clipped fun _ _ h => h.loadFlow
theorem nextOk_st (h : s.memOk) {sz : StSize} {cp : Policy} {b a : Src} {off : BitVec 20} : nextOk (execSt g sz cp b a off s) :=
  nextOk_issue h fun _ h => h.storeFlow
theorem nextOk_stx (h : s.memOk) {sz : StSize} {cp : Policy} {d : Reg} {a b : Src} {k : Fin 4} : nextOk (execStx g sz cp d a b k s) :=
  nextOk_issue h fun _ h => h.storeFlow
theorem nextOk_strel (h : s.memOk) {sz : StSize} {sc : Scope} {b a : Src} {off : BitVec 20} : nextOk (execStrel g sz sc b a off s) :=
  nextOk_issue h fun _ h => h.clipped fun _ _ h => h.storeFlow
theorem nextOk_cwb (h : s.memOk) {sc : Scope} {a b : Src} : nextOk (execCwb g sc a b s) := nextOk_issue h fun _ h => h.maintFlow
theorem nextOk_cinv (h : s.memOk) {sc : Scope} {a b : Src} : nextOk (execCinv g sc a b s) := nextOk_issue h fun _ h => h.maintFlow
theorem nextOk_cwbi (h : s.memOk) {sc : Scope} {a b : Src} : nextOk (execCwbi g sc a b s) := nextOk_issue h fun _ h => h.maintFlow

/-! ## Instructions that read into a register -/

theorem nextOk_tlread (h : s.memOk) {d : Reg} {tl : Fin 8} : nextOk (execTlread g d tl s) := nextOk_issue h fun _ h => h.modTask
theorem nextOk_tlnum (h : s.memOk) {d : Reg} {tl : Fin 8} : nextOk (execTlnum g d tl s) := nextOk_issue h fun _ h => h.modTask
theorem nextOk_time (h : s.memOk) {d : Reg} : nextOk (execTime g d s) := nextOk_issue h fun _ h => h.modTask
theorem nextOk_cyc (h : s.memOk) {d : Reg} : nextOk (execCyc g d s) := nextOk_issue h fun _ h => h.modTask
theorem nextOk_lqry (h : s.memOk) {d : Reg} {sel : Fin 8} : nextOk (execLqry g d sel s) := nextOk_issue h fun _ h => h.modTask
theorem nextOk_stageq (h : s.memOk) {d : Reg} {sel : Fin 7} : nextOk (execStageq g d sel s) := nextOk_issue h fun _ h => h.modTask
theorem nextOk_cntr (h : s.memOk) {d : Reg} {n : Fin 8} : nextOk (execCntr g d n s) := nextOk_issue h fun _ h => h.modTask
theorem nextOk_capr (h : s.memOk) {d : Reg} {a : Src} : nextOk (execCapr g d a s) := nextOk_issue h fun _ h => h.modTask

/-! ## The dispatch -/

/-- Every instruction and every step of another agent leaves the memories in canonical form. -/
theorem nextOk_exec (h : s.memOk) (i : Instr) : nextOk (exec i s) := by
  cases i with
  | nop => exact nextOk_nop h
  | add | sub | mul | mulh | mulhu | and | or | xor | andn | shl | shr | sra | min | max | minu | maxu | fsgn => exact nextOk_alu2 h
  | addi => exact nextOk_addi h
  | div | divu | rem | remu | fma | fcvt | fcmp | cmp | cmpi | sel | bfi | li | lih => exact nextOk_issueT h
  | andi => exact nextOk_andi h
  | ori => exact nextOk_ori h
  | xori => exact nextOk_xori h
  | shli => exact nextOk_shli h
  | shri => exact nextOk_shri h
  | srai => exact nextOk_srai h
  | clz | ctz | popc | brev | fclass => exact nextOk_alu1 h
  | fadd | fsub | fmul | fdiv | fmin | fmax => exact nextOk_fpu2 h
  | fsqrt => exact nextOk_fpu1 h
  | plog => exact nextOk_plog h
  | bfx => exact nextOk_bfx h
  | ext => exact nextOk_ext h
  | br => exact nextOk_br h
  | call => exact nextOk_call h
  | jr => exact nextOk_jr h
  | loop => exact nextOk_loop h
  | tend => exact nextOk_tend h
  | push => exact nextOk_push h _
  | pop => exact nextOk_pop h _
  | ld => exact nextOk_ld h
  | ldx => exact nextOk_ldx h
  | ldacq => exact nextOk_ldacq h
  | st => exact nextOk_st h
  | stx => exact nextOk_stx h
  | strel => exact nextOk_strel h
  | fence => exact nextOk_fence h _
  | amo => exact nextOk_amo h _
  | cas => exact nextOk_cas h _
  | pref => exact nextOk_pref h _
  | cwb => exact nextOk_cwb h
  | cinv => exact nextOk_cinv h
  | cwbi => exact nextOk_cwbi h
  | feed => exact nextOk_feed h _
  | sink => exact nextOk_sink h _
  | inj => exact nextOk_inj h _
  | tok => exact nextOk_tok h _
  | take => exact nextOk_take h _
  | portq => exact nextOk_portq h _
  | sbar => exact nextOk_sbar h _
  | accrst => exact nextOk_accrst h _
  | cfgld => exact nextOk_cfgld h _
  | qset => exact nextOk_qset h _
  | qld => exact nextOk_qld h _
  | qadv => exact nextOk_qadv h _
  | cpy => exact nextOk_cpy h _
  | cpymx => exact nextOk_cpymx h _
  | cpyq => exact nextOk_cpyq h _
  | gemv => exact nextOk_gemv h _
  | tlwait => exact nextOk_tlwait h _
  | tlread => exact nextOk_tlread h
  | tlnum => exact nextOk_tlnum h
  | sleept => exact nextOk_sleept h _
  | sleeptP => exact nextOk_sleeptP h _
  | time => exact nextOk_time h
  | cyc => exact nextOk_cyc h
  | mxcfg => exact nextOk_mxcfg h _
  | mxrel => exact nextOk_mxrel h _
  | mxz | mxchk | twsetGen | bfstg | bfrun => exact nextOk_mxPlain h _
  | mxldt => exact nextOk_mxldt h _
  | mxmm => exact nextOk_mxmm h _
  | mxmms => exact nextOk_mxmms h _
  | mxfmt => exact nextOk_mxfmt h _
  | mxrt => exact nextOk_mxrt h _
  | mxdrn => exact nextOk_mxdrn h _
  | mxst => exact nextOk_mxst h _
  | twset => exact nextOk_twset h _
  | bfplan => exact nextOk_bfplan h _
  | bfrev => exact nextOk_bfrev h _
  | rktab => exact nextOk_rktab h _
  | rkcut => exact nextOk_rkcut h _
  | rknet => exact nextOk_rknet h _
  | mxrank => exact nextOk_mxrank h _
  | rkval => exact nextOk_rkval h _
  | rktrc => exact nextOk_rktrc h _
  | tspawn => exact nextOk_tspawn h _
  | tbind => exact nextOk_tbind h _
  | waitv => exact nextOk_waitv h _
  | sendv => exact nextOk_sendv h _
  | tyield => exact nextOk_tyield h
  | twake => exact nextOk_twake h _
  | tprio => exact nextOk_tprio h
  | rbar => exact nextOk_rbar h _
  | gbar => exact nextOk_gbar h _
  | launch => exact nextOk_launch h _
  | lqry => exact nextOk_lqry h
  | stageq => exact nextOk_stageq h
  | ctlr => exact nextOk_ctlr h _
  | ctlw | ctls | ctlc => exact nextOk_ctlFlow h _
  | svc => exact nextOk_svc h _
  | cntr => exact nextOk_cntr h
  | capr => exact nextOk_capr h
  | trap => exact nextOk_trap h _
  | rett => exact nextOk_rett h _
  | snap => exact nextOk_snap h _
  | xsave => exact nextOk_xsave h _
  | xload => exact nextOk_xload h _
  | halt => exact nextOk_halt h _
  | ebrk => exact nextOk_ebrk h _
  | cutreq => exact nextOk_cutreq h _
  | unassignedOpcode => exact nextOk_unassignedOpcode h
  | delegatedEntry => exact nextOk_delegatedEntry h
  | producerDeliver => exact nextOk_producerDeliver h
  | registerMissMicroTrap => exact nextOk_registerMissMicroTrap h
  | backgroundRegisterFetch => exact nextOk_backgroundRegisterFetch h
  | ceIntegerFire | ceFloatFire | ceCnt | ceRunningValue | ceDly | ceConst | ceQnt | ceDqnt | ceSteer | ceMerge | ceGate | ceDup
    | ceTagchk | cePrime | ceLimit | ceSeq | ceReord => exact nextOk_fireCe h
  | ceBnd => exact nextOk_ceBnd h
  | meRd | meWr | meRmw | meFifo | meDelay | meHist | meFeedmx => exact nextOk_fireMe h
  | meDoneEmit => exact nextOk_meDoneEmit h
  | agEmit => exact nextOk_agEmit h
  | matrixBusBeat => exact nextOk_matrixBusBeat h
  | matrixCommandStart => exact nextOk_matrixCommandStart h
  | matrixBlock => exact nextOk_matrixBlock h
  | matrixCommandComplete => exact nextOk_matrixCommandComplete h
  | rankIndexEmit => exact nextOk_rankIndexEmit h
  | portCommandStart => exact nextOk_portCommandStart h
  | feedWordDeliver => exact nextOk_feedWordDeliver h
  | sinkWordStore => exact nextOk_sinkWordStore h
  | sharedClassGrant => exact nextOk_sharedClassGrant h
  | engineCommandComplete => exact nextOk_engineCommandComplete h
  | vcWordArrive => exact nextOk_vcWordArrive h
  | barrierComplete => exact nextOk_barrierComplete h
  | dynamicPacketHop => exact nextOk_dynamicPacketHop h
  | mcstallExpiry => exact nextOk_mcstallExpiry h
  | pageWalkComplete => exact nextOk_pageWalkComplete h
  | gelesqueFaultResolve => exact nextOk_gelesqueFaultResolve h
  | invalidationReceive => exact nextOk_invalidationReceive h
  | invalidationAck => exact nextOk_invalidationAck h
  | migrationMonitorInterval => exact nextOk_migrationMonitorInterval h
  | migrationCopyComplete => exact nextOk_migrationCopyComplete h
  | weightStoreRefresh => exact nextOk_weightStoreRefresh h
  | sliceReplayReissue => exact nextOk_sliceReplayReissue h
  | snapintCountReached => exact nextOk_snapintCountReached h
  | cutStart => exact nextOk_cutStart h
  | cutComplete => exact nextOk_cutComplete h
  | softErrorDetect => exact nextOk_softErrorDetect h
  | rollback => exact nextOk_rollback h
  | admissionReceive => exact nextOk_admissionReceive h
  | launchSubmit => exact nextOk_launchSubmit h
  | admissionChoice => exact nextOk_admissionChoice h
  | launchAgeing => exact nextOk_launchAgeing h
  | tenantReserve => exact nextOk_tenantReserve h
  | launchPlace => exact nextOk_launchPlace h
  | rectangleComplete => exact nextOk_rectangleComplete h
  | quantumEnd => exact nextOk_quantumEnd h
  | replicaEvaluate => exact nextOk_replicaEvaluate h
  | replicaRetireEnd => exact nextOk_replicaRetireEnd h
  | cutDrainMove => exact nextOk_cutDrainMove h
  | quiescenceEmpty => exact nextOk_quiescenceEmpty h
  | drainTimeout => exact nextOk_drainTimeout h
  | coreCopyComplete => exact nextOk_coreCopyComplete h
  | rebindRelease => exact nextOk_rebindRelease h
  | preempt => exact nextOk_preempt h
  | preemptTimeout => exact nextOk_preemptTimeout h
  | contextSaveComplete => exact nextOk_contextSaveComplete h
  | contextRestore => exact nextOk_contextRestore h
  | cfgldDrainTimeout => exact nextOk_cfgldDrainTimeout h
  | residueWordEnqueue => exact nextOk_residueWordEnqueue h
  | svcSubmit => exact nextOk_svcSubmit h
  | svcResult => exact nextOk_svcResult h
  | partSet => exact nextOk_partSet h
  | tenantCreate => exact nextOk_tenantCreate h
  | tenantDestroy => exact nextOk_tenantDestroy h
  | leaseSet => exact nextOk_leaseSet h
  | memGrant => exact nextOk_memGrant h
  | memRevoke => exact nextOk_memRevoke h
  | memSetShare => exact nextOk_memSetShare h
  | memDefineShareSet => exact nextOk_memDefineShareSet h
  | map => exact nextOk_map h
  | unmap => exact nextOk_unmap h
  | protect => exact nextOk_protect h
  | migrate => exact nextOk_migrate h
  | queueCreate => exact nextOk_queueCreate h
  | queueKey => exact nextOk_queueKey h
  | queueDestroy => exact nextOk_queueDestroy h
  | sliceDomain => exact nextOk_sliceDomain h
  | waymaskSet => exact nextOk_waymaskSet h
  | attest => exact nextOk_attest h
  | capRead => exact nextOk_capRead h
  | wearRead => exact nextOk_wearRead h
  | fwStage => exact nextOk_fwStage h
  | fwCommit => exact nextOk_fwCommit h
  | resetPartition => exact nextOk_resetPartition h
  | notifyWrite sender => exact nextOk_notifyWrite (sender := sender) h
  | queueOldKeyExpiry => exact nextOk_queueOldKeyExpiry h
  | doorbellProcess => exact nextOk_doorbellProcess h
  | workQueueEntryRead => exact nextOk_workQueueEntryRead h
  | exportAccess => exact nextOk_exportAccess h
  | dieBoot => exact nextOk_dieBoot h
  | election => exact nextOk_election h
  | timeBroadcastReceive => exact nextOk_timeBroadcastReceive h
  | lockstepMismatch | heartbeatTimeout | doubleFault => exact nextOk_failover h
  | dieAdoption => exact nextOk_dieAdoption h
  | wearRefresh => exact nextOk_wearRefresh h
  | coreUnsafe => exact nextOk_coreUnsafe h
  | pwrcapWrite => exact nextOk_pwrcapWrite h
  | mresetWrite => exact nextOk_mresetWrite h
  | housekeepingRegisterWrite => exact nextOk_housekeepingRegisterWrite h
  | powerWindow => exact nextOk_powerWindow h
  | thermalThrottle => exact nextOk_thermalThrottle h
  | thermalShutdown die => exact nextOk_thermalShutdown (die := die) h
  | resetN => exact nextOk_resetN h
  | mainLoss => exact nextOk_mainLoss h
  | auxGood => exact nextOk_auxGood h
  | mainGood => exact nextOk_mainGood h
  | accessPerformedAtNode => exact nextOk_accessPerformedAtNode h
  | remoteWriteAcknowledgment => exact nextOk_remoteWriteAcknowledgment h
  | linkConnectionRequest => exact nextOk_linkConnectionRequest h
  | partitionSupervisorDecision => exact nextOk_partitionSupervisorDecision h
  | contextExport => exact nextOk_contextExport h
  | contextImport => exact nextOk_contextImport h
  | sleepTimeReached => exact nextOk_sleepTimeReached h
  | thermalThrottleEnd => exact nextOk_thermalThrottleEnd h
  | auxLoss => exact nextOk_auxLoss h
  | failedPairTestComplete => exact nextOk_failedPairTestComplete h

end Sys2Proof.Machine

end

section
/-! SUPPORT. The moves of the other agents are steps of the dispatch, and the machine's step keeps the canonical form of the memories. -/

namespace Sys2Proof.Machine

open Host (Outcome)

variable {α : Type}

/-! ## Every candidate is a step of the dispatch -/

/-- Every move of the list is the meaning of some step. -/
def Dispatched (l : List Move) : Prop := ∀ m ∈ l, ∃ i, m = exec i

theorem dispatched_map (f : α → Instr) (l : List α) : Dispatched (l.map fun x => exec (f x)) := fun _ hm => by
  obtain ⟨x, -, rfl⟩ := List.mem_map.1 hm
  exact ⟨f x, rfl⟩

theorem dispatched_list (is : List Instr) : Dispatched (is.map exec) := dispatched_map id is

theorem dispatched_nil : Dispatched [] := dispatched_list []

theorem Dispatched.append {l l' : List Move} (h : Dispatched l) (h' : Dispatched l') : Dispatched (l ++ l') := fun m hm =>
  (List.mem_append.1 hm).elim (h m) (h' m)

theorem dispatched_flatMap {f : α → List Move} {l : List α} (h : ∀ x, Dispatched (f x)) : Dispatched (l.flatMap f) := fun m hm => by
  obtain ⟨x, -, hx⟩ := List.mem_flatMap.1 hm
  exact h x m hx

theorem dispatched_ite {p : Prop} [Decidable p] {l l' : List Move} (h : Dispatched l) (h' : Dispatched l') : Dispatched (if p then l else l') := by
  split
  · exact h
  · exact h'

theorem dispatched_elementMoves (e : SiteRef) (c : ElemCfg) : Dispatched (elementMoves e c) := by
  cases c with
  | empty => exact dispatched_nil
  | ce _ =>
    exact dispatched_list [.ceIntegerFire e, .ceFloatFire e, .ceCnt e, .ceRunningValue e, .ceDly e, .ceConst e, .ceQnt e, .ceDqnt e, .ceSteer e,
      .ceMerge e, .ceGate e, .ceDup e, .ceTagchk e, .cePrime e, .ceLimit e, .ceSeq e, .ceReord e, .ceBnd e]
  | me _ => exact dispatched_list [.meRd e, .meWr e, .meRmw e, .meFifo e, .meDelay e, .meHist e, .meFeedmx e, .matrixBusBeat e, .meDoneEmit e]
  | ag _ => exact dispatched_list [.agEmit e]

theorem dispatched_taskMoves (t : TaskRef) (x : Task) : Dispatched (taskMoves t x) := by
  refine Dispatched.append (Dispatched.append (fun m hm => ?_) (dispatched_ite (dispatched_list [.producerDeliver t 0]) dispatched_nil)) ?_
  · obtain ⟨p, -, hp⟩ := List.mem_filterMap.1 hm
    split at hp
    · cases hp
    · exact ⟨.producerDeliver t p.1, (Option.some.inj hp).symm⟩
    · exact ⟨.registerMissMicroTrap t p.1, (Option.some.inj hp).symm⟩
    · cases hp
  · split
    · exact dispatched_list [.sleepTimeReached t]
    · exact dispatched_list [.sleepTimeReached t]
    · exact dispatched_nil

theorem dispatched_coreMoves (c : CoreRef) (k : Core) : Dispatched (coreMoves c k) := by
  have tasks : Dispatched (k.tasks.flatMap (fun p => taskMoves ⟨c.rect, c.core, p.1⟩ p.2)) := dispatched_flatMap fun _ => dispatched_taskMoves _ _
  have sites : Dispatched (k.sites.flatMap (fun p => elementMoves ⟨c.rect, c.core, p.1⟩ p.2.cfg
      ++ (if p.2.stallX ≠ 0 then [execMcstallExpiry ⟨c.rect, c.core, p.1⟩ 0] else [])
      ++ (if p.2.stallY ≠ 0 then [execMcstallExpiry ⟨c.rect, c.core, p.1⟩ 1] else []))) := dispatched_flatMap fun p =>
    ((dispatched_elementMoves _ _).append (dispatched_ite (dispatched_list [.mcstallExpiry ⟨c.rect, c.core, p.1⟩ 0]) dispatched_nil)).append
      (dispatched_ite (dispatched_list [.mcstallExpiry ⟨c.rect, c.core, p.1⟩ 1]) dispatched_nil)
  refine ((((((tasks.append (dispatched_list [.backgroundRegisterFetch c])).append sites).append ?_).append ?_).append ?_).append ?_)
  · exact dispatched_flatMap fun p =>
      dispatched_list [.portCommandStart c false (Fin.ofNat 16 p.1), .feedWordDeliver c (Fin.ofNat 16 p.1), .snapintCountReached c (Fin.ofNat 16 p.1)]
  · exact dispatched_flatMap fun p => dispatched_list [.portCommandStart c true (Fin.ofNat 16 p.1), .sinkWordStore c (Fin.ofNat 16 p.1)]
  · exact dispatched_flatMap fun m => dispatched_list [.matrixCommandStart c m.id, .matrixBlock c m.id, .rankIndexEmit c m.id, .matrixCommandComplete c m.id]
  · exact dispatched_map (fun p => .barrierComplete c (Fin.ofNat 16 p.1)) k.barriers

theorem dispatched_packetMoves (r : Nat) (p : Packet) : Dispatched (packetMoves r p) := by
  refine Dispatched.append (dispatched_list [.dynamicPacketHop p.router .north, .dynamicPacketHop p.router .east, .dynamicPacketHop p.router .south,
    .dynamicPacketHop p.router .west, .dynamicPacketHop p.router .here]) ?_
  split
  next c v _ _ _ => exact dispatched_list [.vcWordArrive ⟨r, c⟩ (Fin.ofNat 16 v) p.id]
  · exact dispatched_nil

theorem dispatched_churnMoves (r : Nat) (x : Rect) (compact : Bool) : Dispatched (churnMoves r x compact) :=
  Dispatched.append
    (Dispatched.append
      (dispatched_list [.delegatedEntry r, .residueWordEnqueue r, .cfgldDrainTimeout r, .quiescenceEmpty r, .rollback r, .cutStart r, .cutComplete r,
        .drainTimeout r, .coreCopyComplete r, .rebindRelease r, .preempt r, .preemptTimeout r, .contextSaveComplete r, .replicaRetireEnd r,
        .rectangleComplete r])
      (dispatched_ite (dispatched_map (fun o : Nat × Nat => .contextRestore r o.1 o.2) origins) dispatched_nil))
    (dispatched_ite (dispatched_map (fun o : Nat × Nat => .cutDrainMove r o.1 o.2) origins) dispatched_nil)

theorem dispatched_rectMoves (s : State) (r : Nat) (x : Rect) : Dispatched (rectMoves s r x) := by
  refine Dispatched.append (Dispatched.append (Dispatched.append (Dispatched.append (Dispatched.append ?_ ?_) ?_) ?_) ?_) ?_
  · exact dispatched_flatMap fun _ => dispatched_coreMoves _ _
  · exact dispatched_flatMap fun _ => dispatched_packetMoves _ _
  · exact dispatched_map (fun e => .engineCommandComplete e.id) x.body.eng
  · exact dispatched_map (fun w => .remoteWriteAcknowledgment w.id .acked) x.remote
  · exact dispatched_churnMoves _ _ _
  · exact dispatched_ite dispatched_nil (dispatched_list [.partitionSupervisorDecision r .pass])

theorem dispatched_commandMove (c : Call) : Dispatched (commandMove c) := by
  unfold commandMove
  split
  · exact dispatched_nil
  dsimp only
  split
  · exact dispatched_list [.partSet (.call c.id)]
  · exact dispatched_list [.tenantCreate (.call c.id)]
  · exact dispatched_list [.tenantDestroy (.call c.id)]
  · exact dispatched_list [.leaseSet (.call c.id)]
  · exact dispatched_list [.memGrant (.call c.id)]
  · exact dispatched_list [.memRevoke (.call c.id)]
  · exact dispatched_list [.memSetShare (.call c.id)]
  · exact dispatched_list [.memDefineShareSet (.call c.id)]
  · exact dispatched_list [.map (.call c.id)]
  · exact dispatched_list [.unmap (.call c.id)]
  · exact dispatched_list [.protect (.call c.id)]
  · exact dispatched_list [.migrate (.call c.id)]
  · exact dispatched_list [.queueCreate (.call c.id)]
  · exact dispatched_list [.queueKey (.call c.id)]
  · exact dispatched_list [.queueDestroy (.call c.id)]
  · exact dispatched_list [.sliceDomain (.call c.id)]
  · exact dispatched_list [.waymaskSet (.call c.id)]
  · exact dispatched_list [.attest (.call c.id)]
  · exact dispatched_list [.capRead (.call c.id)]
  · exact dispatched_list [.wearRead (.call c.id)]
  · exact dispatched_list [.fwStage (.call c.id)]
  · exact dispatched_list [.fwCommit (.call c.id)]
  · exact dispatched_list [.resetPartition (.call c.id)]
  · exact dispatched_nil

theorem dispatched_partMoves (p : Nat) (x : Part) : Dispatched (partMoves p x) :=
  Dispatched.append (dispatched_list [.admissionChoice p, .quantumEnd p])
    (dispatched_ite (dispatched_map (fun o : Nat × Nat => .launchPlace p o.1 o.2) origins) dispatched_nil)

theorem dispatched_launchMoves (l : Launch) : Dispatched (launchMoves l) :=
  dispatched_list [.launchSubmit l.id, .admissionReceive l.id, .launchAgeing l.part l.tag l.proc l.prio, .tenantReserve l.part l.tag l.proc l.prio]

theorem dispatched_memoryMoves (s : State) : Dispatched s.memoryMoves := by
  refine Dispatched.append (Dispatched.append (Dispatched.append (Dispatched.append ?_ ?_) ?_) ?_) ?_
  · exact dispatched_flatMap fun a => dispatched_list [.sliceReplayReissue a.id, .accessPerformedAtNode a.id]
  · exact dispatched_flatMap fun w => dispatched_list [.pageWalkComplete w.id, .gelesqueFaultResolve w.id true]
  · exact dispatched_flatMap fun v => dispatched_flatMap fun d => dispatched_list [.invalidationReceive v.id d, .invalidationAck v.id d]
  · exact dispatched_map (fun m => .migrationCopyComplete m.id) s.migrations
  · exact dispatched_ite dispatched_nil ((dispatched_map (fun d => .sharedClassGrant (.copy d)) (List.range 4)).append
      (dispatched_map (fun d => .sharedClassGrant (.gemv d)) (List.range 8)))

theorem dispatched_dieMoves (s : State) : Dispatched s.dieMoves := by
  refine Dispatched.append (Dispatched.append (Dispatched.append ?_ ?_) ?_) ?_
  · exact dispatched_flatMap fun d => dispatched_list [.dieBoot d (if s.staged then Config.imageVersion s.storeImage else none), .doorbellProcess d,
      .dieAdoption d, .timeBroadcastReceive d, .weightStoreRefresh d, .migrationMonitorInterval d]
  · exact dispatched_ite (dispatched_list [.election]) dispatched_nil
  · exact dispatched_list [.wearRefresh]
  · exact dispatched_map (fun k => .coreUnsafe k 0) s.worn

/-- The agents that may move next do so by a step of the dispatch. -/
theorem dispatched_candidates (s : State) : Dispatched s.candidates := by
  refine Dispatched.append (Dispatched.append (Dispatched.append (Dispatched.append (Dispatched.append (Dispatched.append
    (Dispatched.append ?_ ?_) ?_) ?_) ?_) ?_) ?_) ?_
  · exact dispatched_flatMap fun p => dispatched_rectMoves s p.1 p.2
  · exact dispatched_memoryMoves s
  · exact dispatched_flatMap dispatched_launchMoves
  · exact dispatched_flatMap fun p => dispatched_partMoves p.1 p.2
  · exact dispatched_map (fun g => .replicaEvaluate g.2.part g.1) s.stages
  · exact dispatched_flatMap fun c => Dispatched.append (dispatched_list [.svcSubmit c.id, .svcResult c.id]) (dispatched_commandMove c)
  · exact dispatched_flatMap fun q => dispatched_list [.workQueueEntryRead q.1, .queueOldKeyExpiry q.1]
  · exact dispatched_dieMoves s

theorem dispatched_inTurn (s : State) : Dispatched s.inTurn :=
  dispatched_ite dispatched_nil (Dispatched.append (fun m hm => dispatched_candidates s m (List.mem_of_mem_drop hm))
    fun m hm => dispatched_candidates s m (List.mem_of_mem_take hm))

/-! ## One step -/

variable {s t : State}

theorem State.memOk.agentMove (h : s.memOk) (e : s.agentMove = some t) : t.memOk := by
  obtain ⟨u, hu, rfl⟩ := Option.map_eq_some_iff.1 e
  obtain ⟨m, hm, hmu⟩ := List.exists_of_findSome?_eq_some hu
  obtain ⟨i, rfl⟩ := dispatched_inTurn s m hm
  have hi : nextOk (exec i s) := nextOk_exec h i
  split at hmu
  next v hv =>
    split at hmu
    · cases hmu
    · obtain rfl := Option.some.inj hmu
      have hv : v.memOk := hi v hv
      exact hv
  · cases hmu

theorem nextOk_stepTask (h : s.memOk) {r : TaskRef} : nextOk (stepTask s r) := by
  unfold stepTask
  dsimp only
  split
  · exact nextOk_exec (s := { s with cur := r }) h _
  · exact nextOk_next (State.memOk.raise (State.memOk.modTask (s := { s with cur := r }) h))

theorem nextOk_pass {o : Outcome State Fault Refusal} {f : State → State} (ho : nextOk o) (hf : ∀ u, u.memOk → (f u).memOk) : nextOk (pass o f) := by
  cases o with
  | next u => exact nextOk_next (hf u (ho u rfl)).passTime
  | fault _ => exact fun _ e => nomatch e
  | refused _ => exact fun _ e => nomatch e

theorem State.memOk.issued (h : t.memOk) {r : TaskRef} : (Machine.issued s r t).memOk := by
  have hs : (Machine.settle s r t).memOk := h.settle r
  unfold Machine.issued
  dsimp only
  split
  · exact hs
  · exact hs.announce

theorem nextOk_issueStep (h : s.memOk) : nextOk s.issueStep := by
  unfold State.issueStep
  split
  next e => exact nextOk_pass (nextOk_stepTask (h.pick e)) fun _ hu => hu.issued
  · refine nextOk_next (State.memOk.passTime ?_)
    cases e : s.agentMove with
    | none => exact h
    | some u => exact h.agentMove e

theorem nextOk_step (h : s.memOk) : nextOk (step s) := by
  unfold step
  split
  next i rest _ => exact nextOk_pass (nextOk_exec (s := { s with agenda := rest }) h i) fun _ hu => hu
  · refine nextOk_ite (nextOk_issueStep h) ?_
    split
    next e => exact nextOk_next (h.agentMove e).passTime
    · exact nextOk_issueStep h

end Sys2Proof.Machine

end

section

namespace Sys2Proof.Cert

open Sys2Proof.Machine

/-- Settles O59: every step is one of the dispatch, and each of those keeps the canonical form. -/
theorem stepKeepsMemory : Obligations.StepKeepsMemory := fun _ t h e => nextOk_step h t e

end Sys2Proof.Cert

end
